-- ==== Sys2Proof/Word.lean ====
section
/-!
DEFINITION. The word types of the RT-6: bytes, 32-bit registers and 64-bit registers.
-/
namespace Sys2Proof

/-- One byte. -/
abbrev Byte := BitVec 8

/-- A 16-bit field. -/
abbrev Half := BitVec 16

/-- A 32-bit register, or an FP32 or INT32 pattern. -/
abbrev Word := BitVec 32

/-- A 64-bit register or counter. -/
abbrev DWord := BitVec 64

end Sys2Proof
end

