-- ==== Sys2Proof/Syntax.lean ====
section
/-!
DEFINITION. The commands of the RT-6: one constructor of Instr for each row of spec/opcode_table.json, and the types
of their operands. An operand `t` is the device time in ns at which the event falls.
-/
namespace Sys2Proof

/-- Where a register write is addressed: a register-space address (R6, R7) or a BAR0 offset with an access size in
bytes (R352). -/
inductive RegPath where
  | dev (addr : Nat)
  | bar0 (offset : Nat) (size : Nat)
  deriving DecidableEq, Repr

/-- Bits flipped in one byte of SRAM and its check bit: the check bit is bit 8 (R332). -/
abbrev NineFlip := BitVec 9

/-- Where the check-bit-protected bytes of R332 lie. The context cache lies in the arena (R342). -/
inductive SramUnit where
  | paddock (e : Fin 7)
  | arena
  | windowStore (ch : Fin 12)
  | checkCache (ch : Fin 12)
  | validMap (half : Fin 2)
  | remapEntries (half : Fin 2)
  | paddockRemaps (e : Fin 7)
  | reinMemory (rein : Fin 2)
  deriving DecidableEq, Repr

/-- Bits of a stored SRAM byte that flip, and whether the location then fails its verify read too (R333). -/
structure SramUpset where
  unit   : SramUnit
  offset : Nat
  flip   : NineFlip
  stuck  : Bool
  deriving DecidableEq, Repr

/-- A disturbance of the arithmetic of one command, which the residue checker and the duplicate adders meet (R129, R130).
`place` is the accumulator's or output element's place, row by row. -/
inductive Upset where
  /-- An integer accumulator of 48 bits read with bits flipped at drain. -/
  | accumulator (place : Nat) (flip : BitVec 48)
  /-- The integer product of two significands, at position `pos` of chunk `chunk`. -/
  | product (place chunk pos : Nat) (flip : BitVec 48)
  /-- The accumulator as the adders leave it after chunk `chunk`. -/
  | adder (place chunk : Nat) (flip : Word)
  /-- In the vector unit, the result of an integer operation or the significand product of a multiplication, by output
  element and instruction. -/
  | lane (place op : Nat) (flip : BitVec 48)
  deriving DecidableEq, Repr

/-- One engine command: the physical engine that runs it, the bytes of its descriptor (R132), the faults that units outside the
engine raise while it runs (R294 INBOUND_OVERRUN, R284 TAG_EXHAUSTED, R308 SLOT_OVERRUN, R328 BUS_ERROR), the count for CYCLES
of its completion word (R138), the cycles its requests lost to bank conflicts (R105), the disturbances of its arithmetic, the
SRAM bits that have flipped before it reads, and how many of its SRAM reads failed once and passed when read again (R333). -/
structure EngCall where
  engine    : Fin 7
  desc      : List Byte
  hw        : List Half
  cycles    : Word
  conflicts : Nat
  upsets    : List Upset
  sram      : List SramUpset
  rereads   : Nat
  deriving DecidableEq, Repr

/-- A box of a record item, in pixels (R375). -/
structure Box where
  x0 : Half
  y0 : Half
  x1 : Half
  y1 : Half
  deriving DecidableEq, Repr

/-- An item that the recipe delivers for a record (R375, R376). -/
inductive Item where
  | textLine (index : Half) (flags : Byte) (box : Box) (chars : Half) (conf : Half) (text : List Byte)
      (charConf : List Byte)
  | field (key : Half) (notFound : Bool) (conf : Half) (boxes : List Box) (value : List Byte)
  deriving DecidableEq, Repr

/-- The final answer of the identity chip to one request, after the retries of R63. -/
inductive ChipAnswer where
  | noResponse
  | badCheck
  | error
  | ok (payload : List Byte)
  deriving DecidableEq, Repr

/-- The three exchanges of an authentication (R66): GET_DESCRIPTOR, GET_COUNTERS, CHALLENGE. -/
structure CartExchange where
  descr     : ChipAnswer
  counters  : ChipAnswer
  challenge : ChipAnswer
  deriving DecidableEq, Repr

/-- How a decode ends. A still's pixels follow from its payload, and the operand is not read. Of a video access unit the operand gives
the decoded picture, cropped to its extent, as H.264 or H.265 define it: its planes of Y, Cb and Cr samples, line by line; or its
failure under R92, SHORT_STREAM when `short`, otherwise BAD_STREAM. -/
inductive Decoded where
  | planes (y cb cr : List (List Nat))
  | fail (short : Bool)
  deriving DecidableEq, Repr

/-- A read of the board RTC (R441): the 7 bytes, or none when it is not acknowledged. -/
abbrev RtcRead := Option (List Byte)

/-- What the boot finds outside the chip and in its self-tests (R345, R397, R416, R425). -/
structure BootEnv where
  reinPassA   : Bool
  reinPassB   : Bool
  sfdp        : Bool                     -- SFDP present, with 8D-8D-8D, 64 KiB erase and 256-byte page
  norMiB      : Nat                      -- capacity from SFDP
  dies        : List (Bool × Bool)       -- DENSITY and RANKS found on each channel
  trainFail   : Bool
  engineFail  : List (Fin 7)             -- engines failing step 1 of R345
  paddockFail : List (Fin 7)             -- engines whose paddock fails step 2
  sramFail    : Bool                     -- another SRAM structure fails step 2
  crcFail     : Bool                     -- step 3
  poisonFail  : Bool                     -- step 5
  remapFail   : Bool                     -- step 6
  zeroFail    : Bool                     -- step 7
  rtc         : List RtcRead             -- reads of the RTC, at most three
  carts       : List CartExchange        -- one for each port, in order
  readyAt     : Nat                      -- device time, from the end of reset, at which the boot ends
  deriving DecidableEq, Repr

/-- The class on whose behalf main memory is accessed (R339): the front end, a partition, recovery, a command of an engine of
a SCHEDULED partition through its slots (R308), or any other. -/
inductive MemClass where
  | frontEnd
  | part (p : Fin 6)
  | recovery
  | slot (e : Fin 7) (cmdIndex : Half)
  | other
  deriving DecidableEq, Repr

/-- Disturbance of the 64 bytes that the DRAM returns for one read: byte 0 to 31 of subchannel A (0) or B (1), with the bits
that flip (R319). -/
abbrev Disturb := List (Fin 2 × Fin 32 × Byte)

/-- What disturbs the scrubber's reads of one SRAM location, by byte of the location: bits that have flipped in the array since
it was last visited, bits flipped in the first read, in the second, and in the verify read after a repair (R333). -/
structure SramReads where
  stored : List (Nat × NineFlip)
  first  : List (Nat × NineFlip)
  second : List (Nat × NineFlip)
  verify : List (Nat × NineFlip)
  deriving DecidableEq, Repr

/-- What a step's results say of one of its contexts when it retires: how many text lines layout detection emitted
(R273), and whether a line's text is final (R267, R431). -/
structure CtxReport where
  ctx   : Nat
  lines : Nat
  final : Bool
  deriving DecidableEq, Repr

/-- The two kinds of decoder unit, four of each (R75). -/
inductive DecoderKind where
  | image
  | video
  deriving DecidableEq, Repr

/-- A step to be formed: the partition, and the scratch that steps of its template need for one context, two, and so on, in units of
64 KiB: in each paddock, and in the arena (R261, R344). -/
structure StepOrder where
  part    : Fin 6
  scratch : List (Nat × Nat)
  deriving DecidableEq, Repr

/-- A command of an engine of a partition, the requester of R284. -/
structure Requester where
  part     : Fin 6
  engine   : Fin 7
  cmdIndex : Half
  deriving DecidableEq, Repr

/-- Bytes to be written, and what disturbs the read of a merge (R324). -/
structure WriteData where
  bytes   : List Byte
  disturb : Disturb
  deriving DecidableEq, Repr

/-- A slot of a channel's frame (R307). -/
structure SlotTime where
  frame : Fin 64
  slot  : Fin 14
  deriving DecidableEq, Repr

/-- A take-over: the partitions whose step lists the shadow finds not posted in whole (R398), and the moment. -/
structure TakeoverEvent where
  unposted : List (Fin 6)
  t        : Nat
  deriving DecidableEq, Repr

/-- The commands, one constructor for each row of the table, in its order. -/
inductive Instr where
  | broadcastWrite (kind : Fin 4) (offset : Nat) (value : Word) (t : Nat)
  | groupWrite (kind : Fin 4) (g : Fin 8) (offset : Nat) (value : Word) (t : Nat)
  | broadcastRead (kind : Fin 4) (offset : Nat)
  | groupRead (kind : Fin 4) (g : Fin 8) (offset : Nat)
  | registerWrite (path : RegPath) (value : DWord) (t : Nat)
  | gallopTokenRefill (p : Fin 6) (t : Nat)
  | sideArrival (side : Nat) (t : Nat)
  | admitFromQueue (t : Nat)
  | recordReady (side : Nat) (items : List Item) (t : Nat)
  | recordPublish (p : Fin 6) (t : Nat)
  | laneTrainTimeout (port : Fin 4) (lane : Fin 8) (t : Nat)
  | lineBoundary (tr : Fin 4) (paperIn : Bool) (samples : List (List Nat)) (t : Nat)
  | deskewFlushLine (side : Nat) (t : Nat)
  | coverLevelAccept (cover : Fin 4) (closed : Bool) (t : Nat)
  | cartRemoval (port : Fin 4) (t : Nat)
  | cartInsert (port : Fin 4) (t : Nat)
  | cartI2cRetry (port : Fin 4) (response : Option (List Byte)) (t : Nat)
  | cartAuthDone (port : Fin 4) (exchange : CartExchange) (t : Nat)
  | cartReauthTimer (port : Fin 4) (t : Nat)
  | calRetryTimer (tr : Fin 4) (t : Nat)
  | cartCounterCommit (port : Fin 4) (answer : ChipAnswer) (t : Nat)
  | decodeStart (kind : DecoderKind) (unit : Fin 4) (t : Nat)
  | decodeDone (unit : Fin 8) (result : Decoded) (t : Nat)
  | decodeBudgetExpire (unit : Fin 8) (t : Nat)
  | fuseWindowExpire (side : Nat) (t : Nat)
  | matmul (c : EngCall)
  | vector (c : EngCall)
  | move (c : EngCall)
  | conv (c : EngCall)
  | pool (c : EngCall)
  | argmax (c : EngCall)
  | boxnms (c : EngCall)
  | quantize (c : EngCall)
  | attend (c : EngCall)
  | attendMerge (c : EngCall)
  | kvAppend (c : EngCall)
  | kvEditPin (c : EngCall)
  | kvEditUnpin (c : EngCall)
  | kvEditDrop (c : EngCall)
  | kvEditConvert (c : EngCall)
  | kvEditReset (c : EngCall)
  | kvEditSetGlobals (c : EngCall)
  | route (c : EngCall)
  | exchangeDispatch (c : EngCall)
  | exchangeCombine (c : EngCall)
  | exchangeRendezvous (p : Fin 6) (exchId : Half) (phase : Fin 2)
  | adaptAugment (c : EngCall)
  | adaptGrad (c : EngCall)
  | adaptStep (c : EngCall)
  | stepIssue (order : StepOrder) (t : Nat)
  | stepRetire (p : Fin 6) (reports : List CtxReport) (t : Nat)
  | stepWatchdog (p : Fin 6) (t : Nat)
  | stepFault (p : Fin 6) (t : Nat)
  | remount (p : Fin 6) (copyOk : Bool) (t : Nat)
  | cmdOverrun (engine : Fin 7) (cmdIndex : Half) (t : Nat)
  | tagGrant (pool : Fin 12) (who : Requester) (cycles : Nat) (t : Nat)
  | memRead (cls : MemClass) (addr : Nat) (disturb : Disturb) (t : Nat)
  | memWrite (cls : MemClass) (addr : Nat) (data : WriteData) (t : Nat)
  | lineRecovery (addr : Nat) (refetches : List Bool) (source : Option (List Byte)) (verifyOk : Bool) (t : Nat)
  | memSlot (ch : Fin 12) (place : SlotTime) (disturb : Disturb) (t : Nat)
  | refreshWindow (ch : Fin 12) (window : Fin 4)
  | mr4Poll (ch : Fin 12) (codes : List (BitVec 3)) (t : Nat)
  | dqsRetrain (ch : Fin 12) (t : Nat)
  | currycombLine (disturb : Disturb) (t : Nat)
  | sramScrub (unit : SramUnit) (reads : SramReads) (t : Nat)
  | shadowReloadDone (p : Fin 6) (t : Nat)
  | rebindDrained (t : Nat)
  | rebindComplete (t : Nat)
  | inRingEnable (t : Nat)
  | inRingDisable
  | outRingEnable (p : Fin 6) (coalRecords : Byte) (coalUs : Half) (t : Nat)
  | outRingDisable (p : Fin 6) (t : Nat)
  | inPoll (producer : Word) (t : Nat)
  | entryFetchDone (entries : Option (List (List Byte × List Byte))) (t : Nat)
  | entryObserve (t : Nat)
  | payloadStaged (payload : Option (List Byte)) (truth : Option (List Byte)) (t : Nat)
  | outConsPoll (p : Fin 6) (count : DWord) (t : Nat)
  | coalesceTimeout (p : Fin 6) (t : Nat)
  | hostStallTimeout (p : Fin 6) (t : Nat)
  | functionLevelReset (t : Nat)
  | linkDown (t : Nat)
  | perstAssert (t : Nat)
  | pauseGait (seq : Half) (t : Nat)
  | resumeGait (seq : Half) (t : Nat)
  | selectPlan (seq : Half) (t : Nat)
  | stageRecipe (seq : Half) (image : Option (List Byte)) (t : Nat)
  | activateOverlay (seq : Half) (t : Nat)
  | deactivateOverlay (seq : Half) (t : Nat)
  | requestAttestation (seq : Half) (t : Nat)
  | verbUnknown (code : Byte) (seq : Half) (t : Nat)
  | verbOverrun (code : Byte) (seq : Half) (t : Nat)
  | verbComplete (t : Nat)
  | evtSelect (number : DWord)
  | hostTime (value : DWord) (t : Nat)
  | recipeBindSwitch (p : Fin 6) (t : Nat)
  | journalEntry (seq : DWord) (epoch : DWord) (t : Nat)
  | journalAckTimeout (t : Nat)
  | heartbeat (rein : Fin 2) (t : Nat)
  | heartbeatLost (rein : Fin 2) (t : Nat)
  | bridleClaim (claimA claimB : Option DWord) (t : Nat)
  | epochSettled (t : Nat)
  | setOther (writer : Fin 2) (epoch : DWord) (t : Nat)
  | clearOther (writer : Fin 2) (epoch : DWord) (t : Nat)
  | staleEpoch (rein : Fin 2) (nodeX nodeY : Byte) (t : Nat)
  | takeover (event : TakeoverEvent)
  | reinRestart (rein : Fin 2) (selfTest : Bool) (t : Nat)
  | reinRestored (rein : Fin 2) (t : Nat)
  | reinDoubleLoss (passA passB : Bool) (t : Nat)
  | spareCheck (pass : Bool) (t : Nat)
  | resetNAssert (t : Nat)
  | boot (env : BootEnv)
  | scriptWrite (addr : Nat) (value : Word) (t : Nat)
  | scriptWriteMasked (addr : Nat) (value mask : Word) (t : Nat)
  | scriptDelay (micros : Nat) (t : Nat)
  | svnAdvance (t : Nat)
  | keyFuse (t : Nat)
  | storeCommitTimer (fast : Bool) (t : Nat)
  | studbookRecordClose (t : Nat)
  | norOpDone (t : Nat)
  | supplyHoldStart (rails : BitVec 3) (t : Nat)
  | supplyHoldEnd (t : Nat)
  | supplyReset (t : Nat)
  | vidAdjust (t : Nat)
  | vidStep (t : Nat)
  | vidWarnTrack (t : Nat)
  | thermalSample (temps : List Int) (t : Nat)
  | thermtrip (sensor : Fin 16) (t : Nat)
  | thermtripRelease (temps : List Int) (t : Nat)
  | pllUnlock (t : Nat)
  | domainSwitch (t : Nat)
  | domainSwitchDone (t : Nat)
  | laneAlignmentDone (port : Fin 4) (t : Nat)
  | linkUp (t : Nat)
  | reinInternalFault (rein : Fin 2) (t : Nat)
  | bandwidthTokenRefill (cls : MemClass) (t : Nat)
  deriving DecidableEq, Repr

end Sys2Proof
end

