-- ==== Sys2Proof/Machine/Bits.lean ====
section
/-!
DEFINITION. Bit fields, byte order, check words and sparse byte stores: the helpers every other operation uses.
-/
namespace Sys2Proof.Machine

/-! ## Numbers, fields and bytes -/

/-- Bits [lo + len - 1 : lo] of a number. -/
def bits (n lo len : Nat) : Nat := (n >>> lo) % 2 ^ len

/-- Bit `i` of a number. -/
def bit (n i : Nat) : Bool := n.testBit i

/-- Ceiling of a division. -/
def ceilDiv (a b : Nat) : Nat := (a + b - 1) / b

/-- `n` rounded up to a multiple of `m`. -/
def roundUp (n m : Nat) : Nat := ceilDiv n m * m

/-- A number as 1 or 0. -/
def b2n (b : Bool) : Nat := if b then 1 else 0

/-- The value of bytes in little-endian order (R108). -/
def leNat : List Byte → Nat
  | [] => 0
  | b :: bs => b.toNat + 256 * leNat bs

/-- `len` bytes of a number in little-endian order. -/
def leBytes : Nat → Nat → List Byte
  | 0, _ => []
  | len + 1, n => BitVec.ofNat 8 n :: leBytes len (n / 256)

/-- Byte `i` of a list, 0 past its end. -/
def byteAt (bs : List Byte) (i : Nat) : Byte := bs.getD i 0

/-- `len` bytes from offset `at_`, zeros past the end. -/
def sliceAt (bs : List Byte) (at_ len : Nat) : List Byte :=
  let cut := (bs.drop at_).take len
  cut ++ List.replicate (len - cut.length) 0

/-- The little-endian number in `len` bytes from offset `at_`. -/
def leAt (bs : List Byte) (at_ len : Nat) : Nat := leNat ((bs.drop at_).take len)

/-- Whether the bytes from `at_`, `len` of them, are all zero. -/
def zeroAt (bs : List Byte) (at_ len : Nat) : Bool := ((bs.drop at_).take len).all (· == 0)

/-- `bs` with `new` in place of the bytes from offset `at_`. -/
def patchAt (bs : List Byte) (at_ : Nat) (new : List Byte) : List Byte :=
  bs.take at_ ++ new ++ bs.drop (at_ + new.length)

/-- A two's complement reading of the low `w` bits. -/
def sext (w n : Nat) : Int :=
  let m := n % 2 ^ w
  if 2 * m ≥ 2 ^ w then (m : Int) - (2 ^ w : Nat) else m

/-- The two's complement code of an integer in `w` bits. -/
def toCode (w : Nat) (i : Int) : Nat := (i % (2 ^ w : Nat)).toNat

/-- An integer held to a range. -/
def clampI (lo hi x : Int) : Int := if x < lo then lo else if x > hi then hi else x

/-- Division rounded to nearest, ties away from zero (R48, R83). The divisor is positive. -/
def divAway (a b : Int) : Int :=
  if a ≥ 0 then (2 * a + b) / (2 * b) else -((2 * (-a) + b) / (2 * b))

/-- Integer square root by bits from the top, `k` bits wide. -/
def isqrtBits (n : Nat) : Nat → Nat → Nat
  | 0, acc => acc
  | k + 1, acc =>
    let c := acc + 2 ^ k
    isqrtBits n k (if c * c ≤ n then c else acc)

/-- Floor of the square root. -/
def isqrt (n : Nat) : Nat := isqrtBits n (n.log2 / 2 + 1) 0

/-- The list with element `i` replaced by its image, when there is one. -/
def modAt {α : Type} (l : List α) (i : Nat) (f : α → α) : List α :=
  match l, i with
  | [], _ => []
  | x :: xs, 0 => f x :: xs
  | x :: xs, k + 1 => x :: modAt xs k f

/-- A vector with one element replaced by its image. -/
def vmod {α : Type} {n : Nat} (v : Vector α n) (i : Fin n) (f : α → α) : Vector α n := v.set i (f v[i])

/-- A 64-bit counter advanced: it wraps to zero and never saturates (R74). -/
def bump (c : DWord) (k : Nat) : DWord := c + BitVec.ofNat 64 k

/-- A 64-bit counter of a block, advanced; an index outside the block changes nothing. -/
def bumpAt {n : Nat} (v : Vector DWord n) (i k : Nat) : Vector DWord n :=
  if h : i < n then v.set i (bump v[i] k) else v

/-! ## Check words -/

/-- One bit step of a reflected CRC. -/
def crcStep (poly : Nat) (c : Nat) : Nat := if c % 2 = 1 then (c / 2) ^^^ poly else c / 2

/-- CRC-32C of bytes (R320): reflected polynomial 0x82F6_3B78, initial and final 0xFFFF_FFFF. -/
def crc32c (bs : List Byte) : Word :=
  let one (c : Nat) (b : Byte) : Nat :=
    let c := c ^^^ b.toNat
    crcStep 0x82F63B78 (crcStep 0x82F63B78 (crcStep 0x82F63B78 (crcStep 0x82F63B78
      (crcStep 0x82F63B78 (crcStep 0x82F63B78 (crcStep 0x82F63B78 (crcStep 0x82F63B78 c)))))))
  BitVec.ofNat 32 (bs.foldl one 0xFFFFFFFF) ^^^ 0xFFFFFFFF

/-- One bit step of a CRC with the most significant bit first. -/
def crcStepMsb (w poly : Nat) (c : Nat) : Nat :=
  if c.testBit (w - 1) then ((c * 2) % 2 ^ w) ^^^ poly else (c * 2) % 2 ^ w

/-- A CRC of width `w` of at least 8, most significant bit first, with no final inversion. -/
def crcMsb (w poly init : Nat) (bs : List Byte) : Nat :=
  let one (c : Nat) (b : Byte) : Nat :=
    (List.range 8).foldl (fun c _ => crcStepMsb w poly c) (c ^^^ (b.toNat <<< (w - 8)))
  bs.foldl one init

/-- The check word of the cartridge bus (R63): CRC-16, polynomial 0x1021, initial 0xFFFF. -/
def crc16 (bs : List Byte) : Nat := crcMsb 16 0x1021 0xFFFF bs

/-- CHECK of a Studbook record (R445): CRC-8, polynomial 0x07, initial 0x00. -/
def crc8 (bs : List Byte) : Nat := crcMsb 8 0x07 0x00 bs

/-! ## Sparse byte stores

A store lists (address, byte) pairs with addresses strictly rising and no entry equal to what an unlisted address
reads as. -/

/-- The form of a store from address `lo` on: addresses strictly rising, no entry equal to the default. -/
def cellsFrom (d : Byte) : Nat → List Host.Cell → Bool
  | _, [] => true
  | lo, c :: rest => decide (lo ≤ c.1) && c.2 != d && cellsFrom d (c.1 + 1) rest

/-- The form of a store. -/
def cellsOk (d : Byte) (m : List Host.Cell) : Bool := cellsFrom d 0 m

/-- The byte at an address. -/
def cellsRead (d : Byte) (m : List Host.Cell) (a : Nat) : Byte :=
  match m.find? (fun c => c.1 == a) with
  | some c => c.2
  | none => d

/-- The entries for bytes written from address `a` on. -/
def cellsOf (d : Byte) : Nat → List Byte → List Host.Cell
  | _, [] => []
  | a, b :: bs => if b = d then cellsOf d (a + 1) bs else (a, b) :: cellsOf d (a + 1) bs

/-- Bytes written from address `a` on. -/
def cellsWrite (d : Byte) (m : List Host.Cell) (a : Nat) (bs : List Byte) : List Host.Cell :=
  m.filter (fun c => decide (c.1 < a)) ++ cellsOf d a bs ++ m.filter (fun c => decide (a + bs.length ≤ c.1))

/-- `len` bytes from address `a`. -/
def cellsSlice (d : Byte) (m : List Host.Cell) (a len : Nat) : List Byte :=
  let near := m.filter (fun c => decide (a ≤ c.1) && decide (c.1 < a + len))
  (List.range len).map (fun i => cellsRead d near (a + i))

end Sys2Proof.Machine
end

