-- ==== Sys2Proof/Machine/Crypto.lean ====
section
/-!
DEFINITION. The named algorithms of the security engine: SHAKE256 with a 64-byte digest (FIPS 202) and Ed448 with a
context string (RFC 8032), as R419 to R421, R428, R439 and R440 use them. PRESUMED: taken from those standards (log
entry 20).
-/
namespace Sys2Proof.Machine

/-! ## SHAKE256

The state is five planes of five lanes. No table of FIPS 202 is written out: the rotation amounts come from its walk over
the lanes and the round words from its shift register. -/

/-- A lane of the permutation. -/
abbrev Lane := BitVec 64

/-- Five lanes of one plane, or five planes. -/
def atFive {α : Type} (l : List α) (k : Nat) (none : α) : α := l.getD (k % 5) none

/-- A list of five turned left by `k` places. -/
def turned {α : Type} (k : Nat) (l : List α) : List α := l.drop k ++ l.take k

/-- The lanes that the walk of rho visits from (1, 0), as (plane, place in it): `n` of them. -/
def rhoWalk : Nat → Nat → Nat → List (Nat × Nat)
  | 0, _, _ => []
  | n + 1, x, y => (y, x) :: rhoWalk n y ((2 * x + 3 * y) % 5)

/-- By how much rho turns the lane at place `x` of plane `y`: the triangular number of its turn in the walk; lane (0, 0)
stays. -/
def rhoTurn (y x : Nat) : Nat :=
  let k := (rhoWalk 24 1 0).idxOf (y, x)
  if k = 24 then 0 else (k + 1) * (k + 2) / 2 % 64

/-- Rho's amounts, plane by plane. -/
def rhoTurns : List (List Nat) := (List.range 5).map fun y => (List.range 5).map (rhoTurn y)

/-- The shift register of iota, `n` clocks on from `r`: x^8 + x^6 + x^5 + x^4 + 1. -/
def iotaClock : Nat → Nat → Nat
  | 0, r => r
  | n + 1, r => iotaClock n (if r ≥ 128 then (2 * r) ^^^ 0x171 else 2 * r)

/-- The word iota adds in a round whose register stands at `r`: bit j of the seven read goes to place 2^j - 1. -/
def iotaWord (r : Nat) : Nat :=
  ((List.range 7).map fun j => iotaClock j r % 2 * 2 ^ (2 ^ j - 1)).sum

/-- The words of the next `n` rounds. -/
def iotaWords : Nat → Nat → List Nat
  | 0, _ => []
  | n + 1, r => iotaWord r :: iotaWords n (iotaClock 7 r)

/-- Theta: every lane takes the parities of the columns before it and, turned by one, after it. -/
def theta (planes : List (List Lane)) : List (List Lane) :=
  let parity := planes.foldl (List.zipWith (· ^^^ ·)) (List.replicate 5 0)
  let effect := List.zipWith (fun before after => before ^^^ after.rotateLeft 1) (turned 4 parity) (turned 1 parity)
  planes.map (List.zipWith (· ^^^ ·) effect)

/-- Rho: every lane turned by its own amount. -/
def rho (planes : List (List Lane)) : List (List Lane) :=
  List.zipWith (List.zipWith fun k (lane : Lane) => lane.rotateLeft k) rhoTurns planes

/-- Pi: place `x` of plane `y` takes place x + 3y of plane `x`. -/
def piStep (planes : List (List Lane)) : List (List Lane) :=
  (List.range 5).map fun y => (List.range 5).map fun x => atFive (atFive planes x []) (x + 3 * y) 0

/-- Chi: within a plane, every lane takes the next but one where the next is clear. -/
def chi (plane : List Lane) : List Lane :=
  List.zipWith (· ^^^ ·) plane (List.zipWith (fun next second => second &&& ~~~next) (turned 1 plane) (turned 2 plane))

/-- Iota: the round's word added to the first lane. -/
def iota (word : Nat) (planes : List (List Lane)) : List (List Lane) :=
  match planes with
  | (first :: plane) :: others => ((first ^^^ BitVec.ofNat 64 word) :: plane) :: others
  | _ => planes

/-- The 24 rounds of the permutation. -/
def permuted (planes : List (List Lane)) : List (List Lane) :=
  (iotaWords 24 1).foldl (fun state word => iota word ((piStep (rho (theta state))).map chi)) planes

/-- Bytes in a block of SHAKE256. -/
def shakeRate : Nat := 136

/-- A message padded for SHAKE256. -/
def shakePad (m : List Byte) : List Byte :=
  let k := shakeRate - m.length % shakeRate
  if k = 1 then m ++ [0x9F] else m ++ [0x1F] ++ List.replicate (k - 2) 0 ++ [0x80]

/-- A block of a message over the planes: lane k of the state takes bytes 8k to 8k+7, lanes past the block nothing. -/
def soaked (block : List Byte) (planes : List (List Lane)) : List (List Lane) :=
  planes.mapIdx fun y plane => plane.mapIdx fun x lane =>
    if 8 * (5 * y + x) < shakeRate then lane ^^^ BitVec.ofNat 64 (leAt block (8 * (5 * y + x)) 8) else lane

/-- The state after so many blocks of a padded message. -/
def sponge (message : List Byte) : Nat → List (List Lane)
  | 0 => List.replicate 5 (List.replicate 5 0)
  | blocks + 1 => permuted (soaked ((message.drop (shakeRate * blocks)).take shakeRate) (sponge message blocks))

/-- The first `n` bytes of SHAKE256 of a message, for `n` up to 136. -/
def shake256 (n : Nat) (m : List Byte) : List Byte :=
  let p := shakePad m
  ((sponge p (p.length / shakeRate)).flatten.flatMap fun lane => leBytes 8 lane.toNat).take n

/-- The 64-byte digest (R419). -/
def digest (m : List Byte) : List Byte := shake256 64 m

/-! ## Ed448 -/

namespace Ed448

/-- The field prime. -/
def p : Nat := 2 ^ 448 - 2 ^ 224 - 1

/-- The group order. -/
def order : Nat := 2 ^ 446 - 13818066809895115352007386748515426880336692474882178609894547503885

/-- The curve constant d = -39081. -/
def d : Nat := p - 39081

/-- A product in the field. -/
def mul (a b : Nat) : Nat := a * b % p

/-- A sum in the field. -/
def add (a b : Nat) : Nat := (a + b) % p

/-- A difference in the field. -/
def sub (a b : Nat) : Nat := (a + p - b % p) % p

/-- A power in the field, over the `k` low bits of the exponent. -/
def powBits (e : Nat) : Nat → Nat → Nat → Nat
  | 0, _, acc => acc
  | k + 1, b, acc => powBits (e / 2) k (mul b b) (if e % 2 = 1 then mul acc b else acc)

/-- A power in the field. -/
def pow (b e : Nat) : Nat := powBits e 448 b 1

/-- A point in projective coordinates. -/
structure Point where
  x : Nat
  y : Nat
  z : Nat
  deriving DecidableEq, Repr

/-- The neutral point. -/
def zero : Point := ⟨0, 1, 1⟩

/-- The base point. -/
def base : Point :=
  ⟨ 224580040295924300187604334099896036246789641632564134246125461686950415467406032909029192869357953282578032075146446173674602635247710
  , 298819210078481492676017930443930673437544040154080242095928241372331506189835876003536878655418784733982303233503462500531545062832660
  , 1⟩

/-- The sum of two points. -/
def padd (a b : Point) : Point :=
  let za := mul a.z b.z
  let zb := mul za za
  let c := mul a.x b.x
  let e := mul a.y b.y
  let f := mul d (mul c e)
  let g := sub zb f
  let h := add zb f
  let k := mul (add a.x a.y) (add b.x b.y)
  ⟨mul za (mul g (sub (sub k c) e)), mul za (mul h (sub e c)), mul g h⟩

/-- A multiple of a point, over the `k` low bits of the factor. -/
def smulBits (n : Nat) : Nat → Point → Point → Point
  | 0, _, acc => acc
  | k + 1, q, acc => smulBits (n / 2) k (padd q q) (if n % 2 = 1 then padd acc q else acc)

/-- A multiple of a point. -/
def smul (n : Nat) (q : Point) : Point := smulBits n 456 q zero

/-- Whether two points are equal. -/
def same (a b : Point) : Bool := mul a.x b.z == mul b.x a.z && mul a.y b.z == mul b.y a.z

/-- The 57 bytes of a point. -/
def encode (a : Point) : List Byte :=
  let zi := pow a.z (p - 2)
  let x := mul a.x zi
  leBytes 57 (mul a.y zi + (x % 2) * 2 ^ 455)

/-- The point that 57 bytes encode. -/
def decode (b : List Byte) : Option Point :=
  let n := leAt b 0 57
  let y := n % 2 ^ 455
  let sign := n / 2 ^ 455
  if b.length ≠ 57 ∨ y ≥ p then none
  else
    let y2 := mul y y
    let u := sub y2 1
    let v := sub (mul d y2) 1
    let u2 := mul u u
    let u3 := mul u2 u
    let x := mul (mul u3 v) (pow (mul (mul u3 u2) (mul v (mul v v))) ((p - 3) / 4))
    if mul v (mul x x) ≠ u then none
    else if x = 0 then (if sign = 1 then none else some ⟨0, y, 1⟩)
    else some ⟨if x % 2 = sign then x else p - x, y, 1⟩

/-- dom4 for a context string, with no prehash. -/
def dom (ctx : List Byte) : List Byte := [0x53, 0x69, 0x67, 0x45, 0x64, 0x34, 0x34, 0x38, 0] ++ leBytes 1 ctx.length ++ ctx

/-- The scalar of a 114-byte hash. -/
def hashScalar (ctx m : List Byte) : Nat := leNat (shake256 114 (dom ctx ++ m)) % order

/-- The secret scalar of a private key. -/
def secret (key : List Byte) : Nat :=
  let n := leAt (shake256 114 key) 0 56
  n / 4 * 4 % 2 ^ 447 + 2 ^ 447

/-- The public key of a private key. -/
def publicKey (key : List Byte) : List Byte := encode (smul (secret key) base)

/-- A signature of 114 bytes. -/
def sign (key ctx m : List Byte) : List Byte :=
  let a := secret key
  let pre := sliceAt (shake256 114 key) 57 57
  let r := hashScalar ctx (pre ++ m)
  let rb := encode (smul r base)
  let k := hashScalar ctx (rb ++ publicKey key ++ m)
  rb ++ leBytes 57 ((r + k * a) % order)

/-- Whether a signature verifies. -/
def verify (key ctx m sig : List Byte) : Bool :=
  let rb := sliceAt sig 0 57
  let s := leAt sig 57 57
  match decode key, decode rb with
  | some a, some r =>
    sig.length == 114 && decide (s < order)
      && same (smul (4 * s) base) (padd (smul 4 r) (smul (4 * (hashScalar ctx (rb ++ key ++ m) % order)) a))
  | _, _ => false

end Ed448

end Sys2Proof.Machine
end

