-- ==== Sys2Proof/Config.lean ====
section
/-!
DEFINITION. What a part or its makers fix and the spec does not state: free values, with no body, so that no proof
can see what they are.
-/
namespace Sys2Proof.Config

/-- A byte whose value the spec leaves undefined (bytes 8 onwards of a skip marker, R364). `n` is the count of free
values consumed before it (log entry 2). -/
opaque freeByte : Nat → Byte

/-- The Ed448 public key of the Pelvaras cartridge authority, held in ROM for a stepping (R66, R419). -/
opaque cartAuthorityKey : Nat → List Byte

/-- The length of the DER certificate of the manufacturing authority for a stepping: under 16 MiB (log entry 35). -/
opaque makerCertLength : Nat → BitVec 24

/-- The bytes of that certificate. -/
opaque makerCertByte : Nat → Nat → Byte

/-- The DER certificate of the manufacturing authority, held in ROM for a stepping (R419, R440). -/
def makerCert (stepping : Nat) : List Byte :=
  (List.range (makerCertLength stepping).toNat).map (makerCertByte stepping)

/-- The bytes of ROM and Rein firmware that the ROM measurement of R440 digests, for a stepping. -/
opaque romImage : Nat → List Byte

/-- The 32-byte nonce the security engine draws for a cartridge challenge (R66): the `n`-th free value's bytes. -/
opaque cartNonce : Nat → List Byte

/-- The home of an expert named by a dispatch table that no ROUTE of the step wrote (log entry 13). -/
opaque freeHome : Nat → Nat

/-- The resident weight image that a recipe's WEIGHTS section holds for a logical engine of a partition of a size: the
section's own layout is not stated (log entry 18). Arguments: recipe bytes, engines, logical index. -/
opaque residentImage : List Byte → Nat → Nat → List Byte

/-- Where in a paddock that image lies (log entry 18). -/
opaque residentOffset : List Byte → Nat → Nat → Nat

/-- What an overlay's header and weights become in the paddock of a logical engine: the spec does not state it (log entry 18).
Arguments: recipe bytes, overlay body, engines, logical index. -/
opaque overlayImage : List Byte → List Byte → Nat → Nat → List Byte

/-- Where in a paddock that image lies (log entry 18). -/
opaque overlayOffset : List Byte → Nat → Nat → Nat

/-- Bytes of the memory of one Rein, which the scrubber walks (R332, R338; log entry 124). -/
opaque reinBytes : Nat

end Sys2Proof.Config
end

