-- ==== Sys2Proof/Machine/State.lean ====
section
/-!
DEFINITION. The state of the RT-6 as plain data: every register, table, queue, counter, mode and pin the spec names,
in one structure per chapter, and the state after reset. Counters are 64 bits and wrap (R74).
-/
namespace Sys2Proof.Machine

/-- Why a step stops with a fault. No meaning of this model raises one: every failure the spec describes is an effect
on the state. -/
inductive Fault where
  /-- Reserved for a command that names a unit that is not built; the operand types exclude it. Safe. -/
  | noSuchUnit
  deriving DecidableEq, Repr

/-- Why a command is refused. -/
inductive Refusal where
  /-- The command has no meaning yet. Raised by the dispatch only. Safe. -/
  | notModelled (mnemonic : String)
  deriving DecidableEq, Repr

/-! ## Register windows (00_scope.md) -/

/-- The answer to the last access: the value of a register read, the bytes of a memory read, the fault of a request that the
slot plan refuses (R308), a bus error (R5), or an Unsupported Request (R352).
The model's own field: it is what the requester sees. -/
inductive BusReply where
  | none
  | value (v : DWord)
  | line (data : List Byte)
  | refused (code : Half)
  | busError
  | unsupported
  deriving DecidableEq, Repr

/-- KIND_STATUS of R12. -/
structure KindStatus where
  mismatch    : Bool
  groupEmpty  : Bool
  fencedSkip  : Bool
  firstDiffer : BitVec 5
  deriving DecidableEq, Repr

/-! ## Front end (02_scan_front_end.md) -/

/-- Dark offset D and gain G of one pixel (R48). -/
structure CalPix where
  d : Nat
  g : Nat
  deriving DecidableEq, Repr

/-- Result of an authentication (R66, R451 CART_AUTH payload P0). -/
inductive CartResult where
  | passed
  | noResponse
  | badCheck
  | version
  | badCert
  | badSignature
  | absent
  | chipError
  deriving DecidableEq, Repr

/-- The cartridge of a port and its authentication (R62 to R71). -/
structure Cart where
  present     : Bool                 -- CARTn_PRES_N is low
  pending     : Bool                 -- an authentication that holds the transport is in progress (R67)
  result      : Option CartResult    -- result in effect
  waiting     : Option CartResult    -- result of a periodic authentication, until a gap boundary (R67)
  periodicDue : Bool                 -- a periodic authentication waits for a sheet gap
  periodicRun : Bool                 -- a periodic authentication is in progress
  known       : Bool                 -- the descriptor has been read (R70)
  nearLogged  : Bool                 -- WEAR_NEAR has been written for this serial (R71)
  serial      : DWord
  model       : Half
  ratedLines  : DWord
  ratedIllum  : Word
  descriptor  : List Byte
  busyMs      : Nat                  -- ms of BUSY answers to the request in progress (R63)
  failures    : Nat                  -- failed attempts of the request in progress (R63)
  exhausted   : Option CartResult    -- NO_RESPONSE or BAD_CHECK after the third failure (R63)
  nonceCount  : Nat                  -- the free value drawn for the last challenge
  requests    : List (List Byte)     -- the requests that the last exchange has put on SDA_CART, oldest first (R63, R64)
  setRun      : Bool                 -- a SET_COUNTERS is in progress (R69, R70)
  ownLines    : DWord                -- LINES as the cartridge holds it, so far as read or written (R69, R70)
  ownIllum    : Word                 -- ILLUM_S as the cartridge holds it
  deriving DecidableEq, Repr

/-- A sensor port: its registers (R35, R36, R47, R51, R72), calibration and cartridge. -/
structure Port where
  portCfg       : Word
  ttPeriod      : Word
  sampleStart   : Word
  calCfg        : Word
  calLimits     : Word
  ttEdge        : Vector Word 32
  plane         : Vector Word 4
  enabled       : Bool
  refused       : Bool                        -- disabled by R33 or R38
  trained       : Bool
  calValid      : Bool
  calLastFail   : Bool
  underrun      : Bool
  calFailRun    : Byte
  badPixLast    : Half
  tables        : List (List CalPix)          -- good tables, one list per plane
  sumDark       : List (List Nat)             -- SD of the calibration in progress
  sumWhite      : List (List Nat)             -- SW of the calibration in progress
  calShort      : Bool                        -- a line of the calibration fell short (R39)
  usedDefault   : Bool                        -- the sheet's lines use the default tables (R50)
  usedOld       : Bool                        -- the sheet's lines use the last good tables (R50)
  cart          : Cart
  calFails      : DWord
  underrunLines : DWord
  lines         : DWord
  illumS        : DWord
  illumNs       : Nat                         -- remainder of ILLUM_S below 1 s (R69)
  boundPart     : Option (Fin 6)              -- partition the port is bound to now (R45)
  outT          : BitVec 6                    -- levels of SnT0 to SnT5
  outLed        : BitVec 4                    -- levels of SnLED0 to SnLED3
  deriving DecidableEq, Repr

/-- The four phases of a calibration (R44 step 3). -/
inductive CalPhase where
  | darkSettle
  | dark
  | whiteSettle
  | white
  deriving DecidableEq, Repr

/-- Where a transport stands in the sheet cycle (R44, R476). -/
inductive TrPhase where
  | gap
  | calib (sheet : Bool) (phase : CalPhase) (line : Nat)
  | paused                                    -- the calibration of a committed sheet is stopped (R60)
  | capture (line : Nat)
  deriving DecidableEq, Repr

/-- The corrected rows of one capture line: for each port of the transport, one row per plane (R48). -/
structure CapLine where
  rows : List (Fin 4 × List (List Nat))
  deriving DecidableEq, Repr

/-- A transport (R40 to R46, R74). -/
structure Transport where
  phase       : TrPhase
  hold        : Byte                 -- HOLD_STATUSt [7:0]
  feedHold    : Bool
  enable      : Bool
  dir         : Bool
  step        : Bool
  paperIn     : Bool
  sheets      : DWord
  sides       : DWord
  coverAborts : DWord
  sheetSides  : List Nat             -- keys of the sides of the committed sheet
  capLines    : List CapLine         -- corrected lines of the sheet, oldest first
  pendCover   : Bool                 -- an accepted opening acts at the next boundary (R60)
  pendCart    : List (Fin 4)         -- cartridge removals that act at the next boundary (R62)
  abortWait   : Bool                 -- the partly captured sheet has not been removed (R61)
  paperLowAt  : Option Nat           -- since when PAPER_INt has been low
  calDue      : Option Nat           -- when the next calibration without a sheet falls due (R476)
  calNow      : Bool                 -- a calibration without a sheet is due
  pendBind    : Bool                 -- a new port binding waits for a gap boundary (R45)
  deriving DecidableEq, Repr

/-- An image of a side or sample as written to main memory (R55, R87). role: 0 visible, 1 IR, 2 UV, 3 fused (R377). -/
structure ImageRef where
  role   : Nat
  rgb    : Bool
  width  : Nat
  height : Nat
  stride : Nat
  addr   : Nat
  deriving DecidableEq, Repr

/-- Frames of a capture region held by a side (R263). -/
structure FrameAlloc where
  part  : Fin 6
  base  : Nat        -- device address of the first frame
  count : Nat
  owner : Nat        -- key of the side, or of the picture
  pic   : Bool       -- it holds a decoded picture of a video stream
  deriving DecidableEq, Repr

/-- The rotation chosen for a side: s and c in Q2.16, the pivot in Q.16 (R57, R58). -/
structure Skew where
  rotate : Bool
  s      : Int
  c      : Int
  y0     : Int
  deriving DecidableEq, Repr

/-- How far a side has come (R17, R21). -/
inductive SideStage where
  | capturing      -- stages 1 to 4
  | fusing         -- image complete, waits for the camera picture (R96)
  | arriving       -- image complete, stage 5 not begun
  | queued         -- in the admission queue, or its context is being served
  | active         -- holds a context
  | ready          -- its record is in the spool
  deriving DecidableEq, Repr

/-- A side or sample in flight, from the commit of its sheet or its observation to its record. -/
structure Side where
  key         : Nat
  host        : Bool
  stream      : Nat
  sideDef     : Fin 8
  transport   : Fin 4
  sideId      : DWord
  sheetId     : Word
  part        : Fin 6
  gait        : Fin 4
  stage       : SideStage
  tStart      : Option Nat
  tArrive     : Nat
  arrived     : Bool               -- it has reached stage 5 once
  status      : List (Half × Half)
  images      : List ImageRef
  reserve     : Nat                -- spool reservation in bytes (R370)
  conforming  : Bool               -- found a token (R30, R272)
  recoveries  : Nat                -- recovery events since T_START (R25 (f))
  holdSeen    : Bool               -- a supply hold fell in it (R25 (e))
  duringBind  : Bool               -- its service overlapped a recipe switch (R438)
  switched    : Bool               -- FALLBACK (R277)
  switchSp    : Nat                -- SP of its switch point
  switchFp    : Nat
  recipe      : Byte               -- bundle recipe slot, 0xFF none
  newRecipe   : Bool               -- it belongs to a recipe waiting for its switch (R438)
  overlay     : Bool
  statusOnly  : Bool               -- published with its statuses and no other item
  substitute  : Bool
  aug         : List Byte
  truth       : List Byte
  stageAt     : Nat                -- its place in the input staging area
  stageBytes  : Nat                -- input staging held (R358)
  fuseStreams : List Nat           -- streams whose picture has not been selected yet (R96)
  visRows     : List (List Nat)    -- assembled rows of the visible image
  irRows      : List (List Nat)
  uvRows      : List (List Nat)
  assembled   : Nat                -- output lines assembled
  emitted     : Nat                -- output lines written
  skew        : Option Skew
  deriving DecidableEq, Repr

/-! ## Input decode (03_input_decode.md) -/

/-- An input entry as read from the ring (R359). -/
structure Entry where
  index     : Option Word          -- none once a reset of the interface has cleared the indices
  stream    : Nat
  format    : Nat
  eos       : Bool
  augPresent : Bool
  part      : Nat
  gait      : Nat
  tag       : DWord
  timestamp : DWord
  width     : Nat
  height    : Nat
  truthLen  : Nat
  payload   : DWord
  length    : Nat
  aug       : List Byte
  deriving DecidableEq, Repr

/-- An observed entry with its staged data, waiting for its unit (R76, R358). -/
structure Staged where
  entry    : Entry
  payload  : List Byte
  truth    : List Byte
  tObserve : Nat
  side     : Nat          -- key of the side that will carry its record
  lost     : Bool         -- its data could not be fetched (R361): a video access unit that holds its place in its stream
  deriving DecidableEq, Repr

/-- What a sequence parameter set says of the pictures it is active for (R88, R90, R91). -/
structure VideoHead where
  width      : Nat
  height     : Nat
  lumaBits   : Nat
  chromaBits : Nat
  matrix     : Nat        -- matrix_coefficients, 2 where it names none
  accepted   : Bool       -- no feature that the decoder refuses
  idBits     : Nat        -- H.264: bits of frame_num
  framesOnly : Bool       -- H.264: frame_mbs_only_flag
  deriving DecidableEq, Repr

/-- The parameter sets that a stream holds (R89): sequence parameter sets by number, and of each picture parameter set the
sequence parameter set it names. -/
structure ParamSets where
  sps : List (Nat × VideoHead)
  pps : List (Nat × Nat)
  deriving DecidableEq, Repr

/-- What a stream takes of its partition's binding (R79, R92, R101): the capture region, and the budgets of every format. -/
structure StreamBinding where
  base    : Nat
  frames  : Nat
  budgets : List (Nat × Nat × Nat)
  deriving DecidableEq, Repr

/-- A decoded picture of a video stream (R95, R96). -/
structure Picture where
  key       : Nat
  timestamp : DWord
  eligible  : Bool
  image     : ImageRef
  past      : Bool        -- its stream has ended; only a selection may still choose it
  deriving DecidableEq, Repr

/-- The run-time state of a stream (R76, R89, R93, R95, R96, R100, R101). -/
structure Stream where
  enabled    : Bool
  boundPart  : Fin 6
  binding    : Option StreamBinding  -- the binding in force for it
  queue      : List Staged
  started    : Bool                  -- a random access point has been decoded since the start
  dropping   : Bool                  -- dropped up to the next random access point
  unitCount  : Nat                   -- access units since the stream's start
  format     : Nat
  lastTs     : DWord                 -- TIMESTAMP of the previous access unit
  sets       : ParamSets
  head       : Option VideoHead      -- of the active sequence parameter set
  entered    : List (DWord × Option Bool)  -- TIMESTAMPs entered that a selection may ask for: decoded, dropped, or neither yet
  pictures   : List Picture          -- decoded pictures, oldest first
  mean       : Word                  -- M, FP32 ns per pixel
  meanSum    : Word                  -- FP32 sum of the first samples' times per pixel
  completed  : Nat
  counters   : Vector DWord 16
  deriving DecidableEq, Repr

/-- The sample a decoder unit is decoding (R76, R93). -/
structure DecodeRun where
  stream  : Nat
  staged  : Staged
  width   : Nat
  height  : Nat
  started : Nat
  budget  : Nat
  paused  : Nat         -- ns of supply holds during it
  image   : ImageRef    -- where it is decoded to
  head    : Option VideoHead  -- of a video access unit
  key     : Nat         -- owner of its frames: its side, or its picture
  read    : Bool        -- it is published as a record (R95); always for a still
  deriving DecidableEq, Repr

/-- A decoder unit (R75, R100). -/
structure Decoder where
  run    : Option DecodeRun
  pixels : DWord
  busyNs : DWord
  deriving DecidableEq, Repr

/-! ## Engines (04 to 08) -/

/-- ROLE of ENG_STATUS (R106). -/
inductive Role where
  | inService
  | spare
  | fenced
  deriving DecidableEq, Repr

/-- Held accumulators (R143): exact integers, or FP32 patterns. -/
inductive HeldVals where
  | ints (v : List Int)
  | floats (v : List Word)
  deriving DecidableEq, Repr

/-- A held tile: M rows by N columns, with the 3-bit residue that every integer accumulator carries (R129) and the places at which
a check of floating-point arithmetic has left its sticky mark (R130). -/
structure Held where
  m      : Nat
  n      : Nat
  vals   : HeldVals
  rho    : List Nat
  sticky : List Nat
  deriving DecidableEq, Repr

/-- A clip counter pair (R185). -/
structure Clip where
  seen      : Word
  saturated : Word
  deriving DecidableEq, Repr

/-- An entry of the score log (R216, R224). -/
structure ScoreEntry where
  root  : Nat
  layer : Nat
  page  : Nat
  inc   : Nat
  deriving DecidableEq, Repr

/-- An entry of the look-aside buffer (R226). -/
structure LabEntry where
  root  : Nat
  layer : Nat
  page  : Nat
  genLo : DWord
  genHi : Option DWord
  pte   : DWord
  deriving DecidableEq, Repr

/-- A byte range in the arena or in the paddock of a physical engine (R134, R135). -/
inductive Store where
  | main
  | arena
  | paddock (e : Fin 7)
  deriving DecidableEq, Repr

/-- A footprint: bytes lo to hi - 1 of a store. -/
structure Foot where
  store : Store
  lo    : Nat
  hi    : Nat
  deriving DecidableEq, Repr

/-- A paddock remap entry (R334): the bank and the bank row of a 128-byte access. Its bytes are those of the paddock: every access
to the location is served from the entry. -/
structure PadRemap where
  bank : Nat
  row  : Nat
  deriving DecidableEq, Repr

/-- An EXCHANGE that a member has issued and that waits for its rendezvous (R240). -/
structure ExchIssue where
  engine : Fin 7
  desc   : List Byte
  cycles : Word
  deriving DecidableEq, Repr

/-- The master tensor that an ADAPT_UPDATE STEP wrote: the adapter and its tensor (0 for A, 1 for B), the engine and the STEP's
descriptor (R246, R247, R253). -/
structure Master where
  adapter : Nat
  tensor  : Nat
  engine  : Fin 7
  desc    : List Byte
  deriving DecidableEq, Repr

/-- An engine (R102, R106). -/
structure Engine where
  role       : Role
  part       : Option (Fin 6)
  logical    : Nat
  busy       : Bool
  lastFault  : Half
  paddock    : List Host.Cell
  held       : Option Held
  clips      : Vector Clip 64
  counters   : Vector DWord 32
  scoreLog   : List ScoreEntry
  logUsed    : List (Nat × Nat)          -- entries placed per root in this step (R224)
  lab        : List LabEntry
  published  : List Foot                 -- write footprints of the step (R135)
  remaps     : List PadRemap
  faultTimes : List Nat                  -- device times of attributed faults (R403)
  needFence  : Bool                      -- a fault that calls for an immediate fence (R336)
  routeMaps  : List (Nat × List Byte)    -- TABLE address and MAP of each ROUTE of the step (R231)
  deriving DecidableEq, Repr

/-! ## Recipes, plans, partitions and contexts (09, 10, 14) -/

/-- A partition descriptor (R257). -/
structure PartDesc where
  verMajor      : Nat
  verMinor      : Nat
  part          : Nat
  engines       : Nat
  mode          : Nat
  gaits         : Nat
  shadow        : Nat
  ports         : Nat
  wCanter       : Nat
  wTrot         : Nat
  wWalk         : Nat
  tagQuota      : Nat
  maxBatch      : Nat
  maxContexts   : Nat
  bwMin         : Nat
  recipes       : List Nat
  captureBase   : Nat
  captureFrames : Nat
  kvBase        : Nat
  kvFrames      : Nat
  workBase      : Nat
  workFrames    : Nat
  paddockDyn    : Nat
  arenaDyn      : Nat
  slotPlan      : Nat
  reservedZero  : Bool
  deriving DecidableEq, Repr

/-- A slot plan (R306). -/
structure SlotPlan where
  offset     : Nat            -- offset in the bundle by which SLOT_PLAN names it
  verMajor   : Nat
  verMinor   : Nat
  contractRev : Nat
  part       : Nat
  chanBase   : Nat
  chanCount  : Nat
  reservedZero : Bool
  grants     : List Word      -- GRANT[i][f] at 64 i + f
  deriving DecidableEq, Repr

/-- The limits block (R422, R269, R342, R369). -/
structure Limits where
  ctxTableBase   : Nat
  gallopReserve  : Nat
  hostAdmitMin   : Nat
  spoolBase      : Nat
  spoolBytes     : Nat
  sideReserve    : Nat
  inputStageBase : Nat
  inputStageBytes : Nat
  stageBase      : Nat
  stageBytes     : Nat
  shadowBase     : Nat
  shadowBytes    : Nat
  arenaBase      : List Nat
  arenaBytes     : List Nat
  rtcKind        : Nat
  rtcAddr        : Nat
  rtcReg         : Nat
  deriving DecidableEq, Repr

/-- An entry of the bundle's RECIPE_TABLE (R422). -/
structure RecipeExtent where
  used    : Bool
  bytes   : Nat
  copy0   : Nat
  copy1   : Nat
  deriving DecidableEq, Repr

/-- A step template (R431). -/
structure Template where
  bound    : Nat
  batch    : Nat
  engines  : Nat
  tflags   : Nat
  schedOff : Nat
  patchOff : Nat
  lists    : List (Nat × Nat)
  deriving DecidableEq, Repr

/-- The chains of one partition size (R431). -/
structure Layout where
  sidePrimary  : List Nat
  linePrimary  : List Nat
  sideFallback : List Nat
  lineFallback : List Nat
  deriving DecidableEq, Repr

/-- An adapter declaration (R434). -/
structure Adapter where
  number       : Nat
  layer        : Nat
  rank         : Nat
  n            : Nat
  k            : Nat
  alpha        : Word
  gInit        : Int
  overlayBytes : Nat
  target       : List Byte
  deriving DecidableEq, Repr

/-- A recipe copy as read (R428 to R434). -/
structure Recipe where
  bytes         : List Byte
  digest        : List Byte
  copy          : Nat            -- 0, 1, or 2 for main memory
  abiMajor      : Nat
  abiMinor      : Nat
  contractRev   : Nat
  rflags        : Nat
  svn           : Nat
  seq           : Nat
  keyIndex      : Nat
  gaits         : Nat
  flags         : Nat
  sizes         : Nat
  rate          : Nat
  burst         : Nat
  ctxPerSide    : Nat
  deadline      : Nat
  assembly      : Nat
  bwMinDecl     : Nat
  recordMax     : Nat
  tokenCap      : Nat
  tokenCapFb    : Nat
  timeMax       : Nat
  timeMaxFb     : Nat
  residentBytes : Nat
  carryMax      : Nat
  layouts       : List Layout
  templates     : List Template
  rbP           : List (List Nat)
  rbF           : List (List Nat)
  switchPoints  : List (Nat × Nat)
  budgets       : List (Nat × Nat × Nat)
  kvClasses     : List (List Byte)
  clipAlarms    : List Nat
  adapters      : List Adapter
  deriving DecidableEq, Repr

/-- An overlay: its slot, the digest of its entry, its adapter header and weights (R253, R255, R439). -/
structure Overlay where
  slot   : Nat
  digest : List Byte
  body   : List Byte
  deriving DecidableEq, Repr

/-- A recipe slot 0 to 15: the bound copy, a staged copy that has not replaced it yet, and the active overlay. -/
structure RecipeSlot where
  bound    : Option Recipe
  staged   : Option Recipe
  overlay  : Option Overlay
  pending  : Option (Option Overlay)      -- an activation or deactivation waiting for sheet gaps
  pendPart : List Nat                     -- partitions at which it has not bound yet
  deriving DecidableEq, Repr

/-- The state of a context descriptor (R270). -/
inductive CtxState where
  | free
  | ready
  | inStep
  | waiting
  | done
  deriving DecidableEq, Repr

/-- A context (R270). -/
structure Context where
  id          : Nat
  state       : CtxState
  gait        : Fin 4
  part        : Fin 6
  line        : Bool          -- KIND
  fromReserve : Bool
  fallback    : Bool
  parent      : Nat
  reread      : Bool
  trunc       : Bool
  chainPos    : Nat
  side        : Nat           -- key of its side
  sideId      : DWord
  tStart      : Nat
  kvRoots     : Nat
  image       : Nat
  aux         : Nat
  lastUse     : Nat
  readySince  : Nat
  deriving DecidableEq, Repr

/-- A request in the admission queue (R273). -/
structure Waiting where
  side    : Nat
  line    : Bool
  parent  : Nat
  gait    : Fin 4
  part    : Fin 6
  arrival : Nat
  conforming : Bool
  counted : Bool              -- already counted in CONTEXT_FULL (R272)
  deriving DecidableEq, Repr

/-- A fault reported in a step (R402). -/
structure FaultRec where
  engine   : Fin 7
  logical  : Nat
  cmdIndex : Nat
  code     : Half
  context  : Nat
  multi    : Bool
  deriving DecidableEq, Repr

/-- How the step in progress is being run (R313, R403). -/
inductive StepMode where
  | first
  | replay
  | managed
  deriving DecidableEq, Repr

/-- The batch step in progress in a partition (R264). -/
structure StepRun where
  gait       : Fin 4
  template   : Nat
  line       : Bool
  stepId     : Word
  contexts   : List Nat
  started    : Nat
  bound      : Nat
  mode       : StepMode
  retired    : List (Fin 7 × Nat)      -- commands retired (engine, CMD_INDEX)
  done       : List (Fin 7)            -- engines whose LAST_IN_STEP command has retired
  faults     : List FaultRec           -- reported since the step (or its replay) started
  previous   : List FaultRec           -- reported before the last replay
  faultCount : Nat                     -- times the step has faulted without retiring
  fencing    : List (Fin 7 × Nat)      -- engines fenced, with the logical index each held; first takes the spare
  faultAt    : Nat                     -- when the fault that fenced them was handled
  waitRemount : Bool
  lists      : List Nat                -- addresses of the posted lists, by logical engine
  members    : List (Fin 7)            -- the engines that the step was posted to
  recovered  : Bool                    -- a recovery event has occurred in the step (R288)
  exchanges  : List ExchIssue
  exchAreas  : List (Option (Fin 7) × Foot)  -- arena blocks of exchanges and their owners; none: the EXCHANGE (R242)
  exchCounts : List (Nat × Nat)        -- EXCH_ID and COUNT_OFF of the exchanges dispatched (R245)
  masters    : List Master             -- masters written by the step (R247)
  roots      : List Nat                -- KV roots written in the step (R225)
  takenSlots : List (Nat × Nat)        -- (root, slot) taken by the step
  freedSlots : List (Nat × Nat)        -- (root, slot) released by the step
  takenBlocks : List (Nat × Nat)       -- (root, directory block) taken by the step
  freedBlocks : List (Nat × Nat)       -- (root, directory block) released by the step
  spareDraws : List Nat                -- roots, one for each slot drawn on SPARE_SLOTS (R222)
  heldFill   : List (Nat × Nat × Nat × Nat)  -- (root, layer, page, FILL in the held generations) where it differs
  excluded   : List (Nat × Half × Nat) -- contexts left out of the replay: id, fault code, logical engine (R228, R404)
  oldestReady : Nat                    -- when its oldest context became ready (R276)
  scratch    : Nat × Nat               -- 64 KiB units of scratch held in PADDOCK_DYN and in ARENA_DYN (R261)
  spill      : Nat                     -- 64 KiB units of scratch placed in the work region (R261, R344)
  deriving DecidableEq, Repr

/-- Retired-step window of the Spur for one gait (R276) and the line-decoder means (R278). -/
structure SpurGait where
  window : List (Nat × Nat)           -- (elapsed, STEP_BOUND), newest first, at most 64
  deriving DecidableEq, Repr

/-- Running mean of the decode time per line of one decoder (R278). -/
structure LineMean where
  completed : Nat
  sum       : Word
  mean      : Word
  deriving DecidableEq, Repr

/-- What the KV pool has reserved for one root of a context: the extent of the context's reservation in the pool, and the stacks of
the root's free slots and free directory blocks, top first (R203; log entry 14). -/
structure KvPool where
  root   : Nat
  lo     : Nat
  hi     : Nat
  slots  : List Nat
  blocks : List Nat
  deriving DecidableEq, Repr

/-- A recipe image placed in a work region, with its mirror (R330, R437). -/
structure WorkImage where
  slot   : Nat
  digest : List Byte
  base   : Nat
  bytes  : Nat
  mirror : Nat
  deriving DecidableEq, Repr

/-- A partition (R257 to R287). -/
structure Partition where
  desc       : Option PartDesc
  bound      : Bool
  engines    : Nat
  shadow     : Bool
  rebinding  : Bool
  reason     : Byte
  plan       : Nat
  lWorst     : Word
  tokens     : Nat                      -- token bucket level in 10^-12 sides (R30)
  tokenTime  : Nat
  vTime      : Vector DWord 4           -- V_g (R268); index 0 unused
  readyMask  : BitVec 4                 -- gaits that had a ready context at the last boundary
  spur       : Vector SpurGait 4
  means      : Vector LineMean 32       -- of each line decoder: twice the recipe slot, plus 1 for its fallback's (R278)
  seqNo      : BitVec 20
  step       : Option StepRun
  paused     : BitVec 4                 -- verb pauses (PAUSE_STATUS)
  pools      : List KvPool              -- what the KV pool has reserved for each root (R203; log entry 14)
  images     : List WorkImage           -- recipe images in the work region
  binding    : Bool                     -- between a binding point and the switch (R438)
  waitBind   : Bool                     -- a recipe or an overlay waits for the binding point
  nextRecipes : Option (List Nat)       -- recipe slots that a selected plan names, until they bind (R280)
  counters   : Vector DWord 16          -- R287, KV_RESTARTS, OVERLAY_ACTIVATIONS, CONTRACT_FAULTS
  clipSeen   : Vector DWord 64
  clipSat    : Vector DWord 64
  expertLoad : Vector DWord 48
  masters    : List Master              -- masters of retired STEPs, newest first (R253)
  deriving DecidableEq, Repr

/-- Where a rebinding stands (R280). -/
inductive RebindStage where
  | idle
  | draining
  | loading
  deriving DecidableEq, Repr

/-- The rebinding in progress (R280 to R282). -/
structure Rebind where
  stage    : RebindStage
  target   : Nat               -- plan selected
  affected : List Nat
  fromVerb : Bool
  verdicts : List (Nat × Nat × Bool)  -- partitions that bind: number, L_WORST in us, shadow valid
  deriving DecidableEq, Repr

/-! ## Main memory (10, 11) -/

/-- A main-memory remap entry (R334). -/
structure MemRemap where
  half    : Nat
  channel : Nat
  rank    : Nat
  bank    : Nat
  dramRow : Nat
  rowLine : Nat
  deriving DecidableEq, Repr

/-- A request of a SCHEDULED partition in a slot FIFO (R308). -/
structure SlotReq where
  engine : Fin 7
  addr   : Nat
  data   : List Byte           -- empty for a read
  deriving DecidableEq, Repr

/-- A channel and its controller (R316, R317, R323, R347, R348). -/
structure Channel where
  trained   : Bool
  refresh   : BitVec 2
  hot       : Bool
  counters  : Vector DWord 9
  cache     : List Nat          -- check lines in the check cache, most recent first
  fifoRead  : List SlotReq
  fifoWrite : List SlotReq
  refreshes : Nat               -- all-bank refreshes issued (R305)
  retrains  : Nat
  deriving DecidableEq, Repr

/-- Main memory, the arena and what guards them. -/
structure Memory where
  cells      : List Host.Cell       -- data bytes; an address not listed reads 0
  valid      : List Nat             -- frames whose valid bit is set beyond the window frames
  windowOn   : Bool                 -- the window frames are valid (R327)
  checks     : List (Nat × Word)    -- stored check words that are not the correct ones, by line address
  arena      : List Host.Cell
  memCfg     : Word
  scrubCfg   : Word
  channels   : Vector Channel 12
  remaps     : List MemRemap
  recovering : List Nat             -- lines whose recovery is in progress (R328)
  waiting    : List (Nat × List Byte)  -- writes that wait for such a line, in the order in which they came (R324, R328, R337)
  slotPlans  : List SlotPlan        -- plans in force
  bwFront    : Nat                  -- tokens of the front end, in 10^-9 lines
  bwPart     : Vector Nat 6
  bwRecover  : Nat
  bwTime     : Vector Nat 8         -- last refill time of each bucket
  tagWait    : Vector DWord 12      -- TAG_WAIT_CYCLES
  scrubNext  : Nat                  -- where the Currycomb's pass stands: data lines, then check lines
  flipped    : List (SramUnit × Nat)   -- SRAM bytes whose nine bits hold an even number of ones (R332)
  sramNext   : List (SramUnit × Nat)   -- where the walk of each SRAM structure stands (R338); 0 where not listed
  ctxCache   : List (Nat × Nat)     -- descriptors held in the arena, most recent first: place in the cache and context id (R271)
  reloading  : List (Fin 6)         -- partitions whose shadow is being reloaded (R333)
  deriving DecidableEq, Repr

/-! ## Host interface (12) -/

/-- The input ring (R356, R358). -/
structure InRing where
  base       : DWord
  prodAddr   : DWord
  consAddr   : DWord
  en         : Bool
  entries    : BitVec 17
  error      : Byte
  cons       : Word
  prodSeen   : Word                 -- the last producer value that was used
  fetchTo    : Word                 -- index up to which entries have been asked for
  fetching   : Nat                  -- entries of the fetch in progress
  failures   : Nat
  fetched    : List (Entry × List Byte)   -- checked entries not yet observed, in index order
  staging    : List Staged          -- observed entries whose payload fetch is in progress
  consWrite  : Bool                 -- a new index waits to be written to IN_CONS_ADDR
  stageUsed  : Nat
  deriving DecidableEq, Repr

/-- A record waiting in the output spool (R371, R373). -/
structure Rec where
  part      : Fin 6
  gait      : Fin 4
  sideDef   : Fin 8
  host      : Bool
  overlay   : Bool
  recipe    : Byte
  sideId    : DWord
  sheetId   : Word
  delta     : Word
  tCapture  : DWord
  status    : List (Half × Half)
  items     : List (List Byte)      -- text lines and fields, each with its head and padding
  exports   : List ImageRef         -- images to export (R366)
  used      : Nat                   -- bytes counted in USED
  side      : Nat
  at_       : Nat                   -- its place in the spool area
  deriving DecidableEq, Repr

/-- Image-buffer space in use (R366): freed when the consumer passes `upTo`. -/
structure ImgSpan where
  bytes : Nat
  upTo  : Nat
  deriving DecidableEq, Repr

/-- The output ring of a partition (R362 to R368, R372). -/
structure OutRing where
  base       : DWord
  prodAddr   : DWord
  consAddr   : DWord
  imgBase    : DWord
  en         : Bool
  coalRecords : Byte
  coalUs     : Half
  size       : BitVec 21
  imgSize    : Half
  error      : Byte
  prod       : DWord
  consSeen   : DWord
  imgCount   : Nat
  imgSpans   : List ImgSpan
  records    : List Rec             -- ready records, oldest first
  unsignalled : Nat
  firstUnsig : Option Nat
  stallStart : Option Nat
  stalledOut : Bool                 -- HOST_STALL bit
  deriving DecidableEq, Repr

/-- The verbs of R383. -/
inductive Verb where
  | pauseGait (parts : BitVec 6) (gaits : BitVec 4)
  | resumeGait (parts : BitVec 6) (gaits : BitVec 4)
  | selectPlan (plan : Nat)
  | stageRecipe (slot : Nat)
  | activateOverlay (slot part : Nat)
  | deactivateOverlay (slot : Nat)
  | attestation
  deriving DecidableEq, Repr

/-- The verb mailbox (R382). -/
structure Mailbox where
  arg     : Vector DWord 8
  busy    : Bool
  done    : Bool
  result  : Byte
  seq     : Half
  value   : DWord
  verb    : Option Verb
  waitFor : List Nat                  -- partitions whose step boundary the verb waits for
  overlayWait : Option (Fin 6 × Nat × Nat)  -- an activation that waits for a step boundary: partition, adapter, overlay slot (R253)
  outcome : Option (Byte × DWord)     -- decided, waiting to be reported
  silent  : Bool                      -- its result is not reported (R350)
  deriving DecidableEq, Repr

/-- An MSI-X table entry (R351). -/
structure MsixEntry where
  addr : DWord
  data : Word
  ctrl : Word
  deriving DecidableEq, Repr

/-- The host interface (R349 to R388). -/
structure HostIf where
  linkUp      : Bool
  mem         : List Host.Cell          -- bytes the RT-6 has written to host memory
  recVer      : Half                    -- HOST_CAPS.REC_VER
  imageExport : Bool
  recVersion  : Half                    -- REC_VERSION.VER
  pollUs      : BitVec 10
  stallMs     : Half
  inStopped   : Bool
  verbOverrun : Bool
  partChanged : Bool
  spoolHigh   : Bool
  evtNew      : Bool
  inRing      : InRing
  out         : Vector OutRing 6
  spoolUsed   : Nat
  spoolResv   : Nat
  box         : Mailbox
  evtSelect   : DWord
  evtValid    : Bool
  evtGone     : Bool
  evtData     : List Byte
  msix        : Vector MsixEntry 32
  pba         : Word
  evtSignalAt : Option Nat              -- device time of the last vector 2
  chip        : Vector DWord 32         -- chip block of R387
  deriving DecidableEq, Repr

/-! ## Reins (13) -/

/-- The role of a Rein (R389). -/
inductive ReinRole where
  | holder
  | shadow
  | off
  deriving DecidableEq, Repr

/-- A Rein (R389 to R401). -/
structure Rein where
  role       : ReinRole
  lastBeat   : Nat
  losses     : List Nat       -- device times at which its latch was lost (R400)
  stopped    : Bool           -- issues nothing after a refusal (R396)
  restarting : Bool
  lostForGood : Bool
  deriving DecidableEq, Repr

/-- The Bridle arbiter and the journal (R390, R392 to R396). -/
structure Bridle where
  holder     : Fin 2
  held       : Bool
  healthA    : Bool
  healthB    : Bool
  hbLostA    : Bool
  hbLostB    : Bool
  settled    : Bool
  epoch      : DWord
  nodeEpoch  : DWord          -- the epoch the fabric nodes hold
  nodesReject : Bool          -- the nodes reject every Rein command (R394)
  resultA    : BitVec 3
  resultB    : BitVec 3
  journal    : DWord          -- sequence number of the last journal entry applied by the shadow
  bothLostAt : Option Nat     -- since when both latches are clear and the Bridle is not held
  lossTime   : Option Nat     -- last heartbeat of a lost holder whose take-over has not ended
  reins      : Vector Rein 2
  deriving DecidableEq, Repr

/-! ## Boot, identity, Studbook (14) -/

/-- The OTP fuses (R419) and VID_FUSE (R456). -/
structure Otp where
  identityKey : List Byte
  deviceCert  : List Byte
  serial      : DWord
  stepping    : Byte
  order       : Bool
  ownerKeys   : List (List Byte)      -- OWNER_KEY_HASH0 to 3; empty means blank
  revoked     : BitVec 4
  bundleSvn   : Nat
  recipeSvn   : Nat
  vidFuse     : BitVec 5
  deriving DecidableEq, Repr

/-- A Studbook record (R445), without CHECK and VALID, which are computed. -/
structure StudRec where
  time    : Nat
  last    : Nat                -- device time of the last occurrence
  code    : Half
  repeats : Nat
  source  : Byte
  payload : List Byte
  deriving DecidableEq, Repr

/-- The Studbook (R445 to R450). -/
structure Studbook where
  ring      : List StudRec            -- the latest 4,096 records, newest first
  produced  : Nat                     -- EVT_PRODUCED
  openRec   : Bool                    -- the newest record is open
  held      : List StudRec            -- records of the boot before BOOT, newest first
  booted    : Bool                    -- record 0 has been written
  queue     : List StudRec            -- closed records waiting for NOR
  missed    : Nat                     -- records that found the queue full
  point     : Nat                     -- write point, slot 0 to 524,287
  parity    : BitVec 2
  wipeLeft  : Nat                     -- sectors still to be erased in the background (R449)
  deriving DecidableEq, Repr

/-- A cartridge entry of the persistent store (R443). -/
structure StoreCart where
  used     : Bool
  serial   : DWord
  lines    : DWord
  illumS   : Word
  lastBoot : Word
  model    : Half
  nearLogged : Bool
  worn     : Bool
  deriving DecidableEq, Repr

/-- A remap entry of the persistent store (R443). -/
structure StoreRemap where
  used    : Bool
  channel : Nat
  rank    : Nat
  bank    : Nat
  dramRow : Nat
  line    : Nat
  deriving DecidableEq, Repr

/-- The persistent store (R443, R444). -/
structure Store443 where
  seq      : DWord
  page     : Nat                       -- next page to be written, 0 to 255
  life     : Vector DWord 8
  carts    : List StoreCart
  remaps   : List StoreRemap
  dirty    : Bool                      -- changes wait for the 60 s timer
  urgent   : Bool                      -- changes wait for the 1 s timer
  deriving DecidableEq, Repr

/-- A queued operation on the NOR device (R418): the next Studbook record, a page of the persistent store, a program or an
erase of the overlay area, a program or an erase of the recipe store. -/
inductive NorOp where
  | studbook
  | store (addr : Nat) (page : List Byte)
  | overlay (addr : Nat) (data : List Byte)
  | recipe (addr : Nat) (data : List Byte)
  | erase (forOverlay : Bool) (addr sectors : Nat)
  deriving DecidableEq, Repr

/-- Boot state (R353, R416 to R427, R441). -/
structure Boot where
  inReset    : Bool
  running    : Bool
  stopped    : Bool
  frozen     : Bool
  bundleSlot : Bool
  stopReason : Byte
  slotA      : BitVec 4
  slotB      : BitVec 4
  timeSource : BitVec 2
  hostTimed  : Bool                 -- a HOST_TIME write has taken effect
  anySheet   : Bool                 -- a sheet has been committed since boot
  anyEntry   : Bool                 -- an input entry has been fetched since boot
  scriptWait : Nat                  -- ns of DELAY of the script so far
  svn        : Nat                  -- SVN of the running bundle
  advance    : Bool                 -- ADVANCE_SVN
  provision  : Bool
  bundleKey  : List Byte            -- OWNER_KEY of the running bundle, 57 bytes
  keyIndex   : Nat
  rotateKey  : Option (List Byte)   -- the key of its KEY_ROTATE section, 57 bytes
  revokeMask : BitVec 4
  keysFused  : Bool                 -- this boot's key fuses have been blown
  bundleDigest : List Byte
  bundleSeq  : DWord
  planCount  : Nat
  plans      : List (List (Option PartDesc))
  slotPlans  : List SlotPlan
  limits     : Limits
  extents    : List RecipeExtent
  recipes    : Vector RecipeSlot 16
  poweredAt  : Nat
  deriving DecidableEq, Repr

/-! ## Power (15) -/

/-- A supply hold in progress (R458). -/
structure Hold where
  start : Nat
  rails : BitVec 3
  deriving DecidableEq, Repr

/-- Power, clocks and temperature (R455 to R469). -/
structure Power where
  vid        : BitVec 5
  warnCode   : BitVec 5              -- the code that the VDD_CORE WARN threshold tracks
  target     : BitVec 5
  stepping   : Bool                  -- CORE_VID has been raised; the threshold follows 50 us later
  lastStep   : Option Nat
  bump       : Nat                   -- 0, 1 or 2 above VID_FUSE, with hysteresis
  hold       : Option Hold
  belowWarn  : BitVec 3
  tjMax      : Int
  hottest    : Nat
  throttle   : BitVec 2
  tripSeen   : Bool
  tripped    : Bool                  -- THERMTRIP_N is low
  domains    : BitVec 24
  requests   : List (Nat × Bool)     -- (domain bit, on) in order of request
  switching  : List (Nat × Bool)     -- switches in progress
  deriving DecidableEq, Repr

/-! ## The whole machine -/

/-- The state of the RT-6. -/
structure State where
  pending    : List Instr
  now        : Nat
  reply      : BusReply
  freeCtr    : Nat
  nextKey    : Nat
  groupMask  : Vector (Vector Word 8) 4
  kindStatus : Vector KindStatus 4
  feCtrl     : Word
  sideDefA   : Vector Word 8
  sideDefB   : Vector Word 8
  ports      : Vector Port 4
  transports : Vector Transport 4
  covers     : Vector Bool 4            -- accepted closed (R59)
  frames     : List FrameAlloc
  sides      : List Side
  streamA    : Vector Word 64
  streamB    : Vector Word 64
  streams    : Vector Stream 64
  decoders   : Vector Decoder 8
  engines    : Vector Engine 7
  parts      : Vector Partition 6
  contexts   : List Context
  queue      : List Waiting
  rebind     : Rebind
  mem        : Memory
  host       : HostIf
  bridle     : Bridle
  boot       : Boot
  otp        : Otp
  nor        : List Host.Cell           -- an address not listed reads 0xFF
  norMiB     : Nat
  norOps     : List NorOp               -- queued operations, by arrival
  norBusy    : Option NorOp
  stud       : Studbook
  store      : Store443
  power      : Power
  deriving DecidableEq, Repr

/-! ## Reset -/

/-- KIND_STATUS after reset (R12). -/
def KindStatus.reset : KindStatus := ⟨false, false, false, 0⟩

/-- A cartridge position before anything is known of it. CARTn_PRES_N with a broken wire reads high: absent (R32). -/
def Cart.reset : Cart :=
  ⟨false, false, none, none, false, false, false, false, 0, 0, 0, 0, [], 0, 0, none, 0, [], false, 0, 0⟩

/-- A port after reset (R35, R36, R47, R51, R72). CAL_CFG: 64 dark, 64 white, settle 0, target 243. CAL_LIMITS: 256,
512, 16. TT_EDGEe: OUTPUT 31. -/
def Port.reset : Port where
  portCfg := 0
  ttPeriod := 0
  sampleStart := 0
  calCfg := 64 ||| (64 <<< 9) ||| (243 <<< 23)
  calLimits := 256 ||| (512 <<< 12) ||| (16 <<< 24)
  ttEdge := Vector.replicate 32 (31 <<< 18)
  plane := Vector.replicate 4 0
  enabled := false
  refused := false
  trained := false
  calValid := false
  calLastFail := false
  underrun := false
  calFailRun := 0
  badPixLast := 0
  tables := []
  sumDark := []
  sumWhite := []
  calShort := false
  usedDefault := false
  usedOld := false
  cart := Cart.reset
  calFails := 0
  underrunLines := 0
  lines := 0
  illumS := 0
  illumNs := 0
  boundPart := none
  outT := 0
  outLed := 0

/-- A transport after reset: in a sheet gap (R44), FEED_HOLD high, the other outputs low (R471). -/
def Transport.reset : Transport where
  phase := .gap
  hold := 0
  feedHold := true
  enable := false
  dir := false
  step := false
  paperIn := false
  sheets := 0
  sides := 0
  coverAborts := 0
  sheetSides := []
  capLines := []
  pendCover := false
  pendCart := []
  abortWait := false
  paperLowAt := none
  calDue := none
  calNow := false
  pendBind := false

/-- A stream after reset. -/
def Stream.reset : Stream :=
  ⟨false, 0, none, [], false, false, 0, 0, 0, ⟨[], []⟩, none, [], [], 0, 0, 0, Vector.replicate 16 0⟩

/-- A decoder unit after reset. -/
def Decoder.reset : Decoder := ⟨none, 0, 0⟩

/-- An engine after reset: ROLE SPARE, PARTITION 7 (R106). -/
def Engine.reset : Engine where
  role := .spare
  part := none
  logical := 0
  busy := false
  lastFault := 0
  paddock := []
  held := none
  clips := Vector.replicate 64 ⟨0, 0⟩
  counters := Vector.replicate 32 0
  scoreLog := []
  logUsed := []
  lab := []
  published := []
  remaps := []
  faultTimes := []
  needFence := false
  routeMaps := []

/-- An empty limits block. -/
def Limits.empty : Limits :=
  ⟨0, 0, 0, 0, 0, 0, 0, 0, 0, 0, 0, 0, [], [], 0, 0, 0⟩

/-- A recipe slot that holds nothing. -/
def RecipeSlot.empty : RecipeSlot := ⟨none, none, none, none, []⟩

/-- A line mean with nothing completed. -/
def LineMean.reset : LineMean := ⟨0, 0, 0⟩

/-- A partition after reset: unbound (R259). -/
def Partition.reset : Partition where
  desc := none
  bound := false
  engines := 0
  shadow := false
  rebinding := false
  reason := 0
  plan := 0
  lWorst := 0
  tokens := 0
  tokenTime := 0
  vTime := Vector.replicate 4 0
  readyMask := 0
  spur := Vector.replicate 4 ⟨[]⟩
  means := Vector.replicate 32 LineMean.reset
  seqNo := 0
  step := none
  paused := 0
  pools := []
  images := []
  binding := false
  waitBind := false
  nextRecipes := none
  counters := Vector.replicate 16 0
  clipSeen := Vector.replicate 64 0
  clipSat := Vector.replicate 64 0
  expertLoad := Vector.replicate 48 0
  masters := []

/-- A channel after reset (R347). -/
def Channel.reset : Channel :=
  ⟨false, 0, false, Vector.replicate 9 0, [], [], [], 0, 0⟩

/-- Main memory after reset: no frame valid; SCRUB_PERIOD 86,400 and SCRUB_EN set (R346); bandwidth buckets full
(DESIGN CHOICE, log entry 9). -/
def Memory.reset : Memory where
  cells := []
  valid := []
  windowOn := false
  checks := []
  arena := []
  memCfg := 0
  scrubCfg := 86400 ||| (1 <<< 20)
  channels := Vector.replicate 12 Channel.reset
  remaps := []
  recovering := []
  waiting := []
  slotPlans := []
  bwFront := 256000000000
  bwPart := Vector.replicate 6 256000000000
  bwRecover := 256000000000
  bwTime := Vector.replicate 8 0
  tagWait := Vector.replicate 12 0
  scrubNext := 0
  flipped := []
  sramNext := []
  ctxCache := []
  reloading := []

/-- The input ring after reset (R356). -/
def InRing.reset : InRing :=
  ⟨0, 0, 0, false, 0, 0, 0, 0, 0, 0, 0, [], [], false, 0⟩

/-- An output ring after reset (R362): COAL_RECORDS 1, COAL_US 20. -/
def OutRing.reset : OutRing :=
  ⟨0, 0, 0, 0, false, 1, 20, 0, 0, 0, 0, 0, 0, [], [], 0, none, none, false⟩

/-- The mailbox after reset (R382). -/
def Mailbox.reset : Mailbox :=
  ⟨Vector.replicate 8 0, false, false, 0, 0, 0, none, [], none, none, false⟩

/-- The host interface after reset (R354): POLL_US 10, HOST_STALL_TIMEOUT 100; the link is down until it trains. The
mask bit of an MSI-X vector resets to 1 as PCI Express has it (PRESUMED, log entry 10). -/
def HostIf.reset : HostIf where
  linkUp := false
  mem := []
  recVer := 0
  imageExport := false
  recVersion := 0
  pollUs := 10
  stallMs := 100
  inStopped := false
  verbOverrun := false
  partChanged := false
  spoolHigh := false
  evtNew := false
  inRing := InRing.reset
  out := Vector.replicate 6 OutRing.reset
  spoolUsed := 0
  spoolResv := 0
  box := Mailbox.reset
  evtSelect := 0
  evtValid := false
  evtGone := false
  evtData := []
  msix := Vector.replicate 32 ⟨0, 0, 1⟩
  pba := 0
  evtSignalAt := none
  chip := Vector.replicate 32 0

/-- A Rein after reset: its latch is clear until its self-test passes (R393). -/
def Rein.reset : Rein := ⟨.off, 0, [], false, false, false⟩

/-- The arbiter after a full reset: epoch 0 (R397). -/
def Bridle.reset : Bridle where
  holder := 0
  held := false
  healthA := false
  healthB := false
  hbLostA := false
  hbLostB := false
  settled := false
  epoch := 0
  nodeEpoch := 0
  nodesReject := false
  resultA := 0
  resultB := 0
  journal := 0
  bothLostAt := none
  lossTime := none
  reins := Vector.replicate 2 Rein.reset

/-- Boot state after reset (R353, R426). -/
def Boot.reset : Boot where
  inReset := false
  running := false
  stopped := false
  frozen := false
  bundleSlot := false
  stopReason := 0
  slotA := 0
  slotB := 0
  timeSource := 0
  hostTimed := false
  anySheet := false
  anyEntry := false
  scriptWait := 0
  svn := 0
  advance := false
  provision := false
  bundleKey := []
  keyIndex := 0
  rotateKey := none
  revokeMask := 0
  keysFused := false
  bundleDigest := []
  bundleSeq := 0
  planCount := 0
  plans := []
  slotPlans := []
  limits := Limits.empty
  extents := []
  recipes := Vector.replicate 16 RecipeSlot.empty
  poweredAt := 0

/-- OTP of a part as first powered in this model: every fuse blank (DESIGN CHOICE, log entry 3). -/
def Otp.blank : Otp :=
  ⟨List.replicate 57 0, [], 0, 0, false, [[], [], [], []], 0, 0, 0, 0⟩

/-- The Studbook after reset. -/
def Studbook.reset : Studbook := ⟨[], 0, false, [], false, [], 0, 0, 0, 0⟩

/-- An unused cartridge entry. -/
def StoreCart.unused : StoreCart := ⟨false, 0, 0, 0, 0, 0, false, false⟩

/-- An unused remap entry. -/
def StoreRemap.unused : StoreRemap := ⟨false, 0, 0, 0, 0, 0⟩

/-- The persistent store before it is read (R444: every value zero when no page is valid). -/
def Store443.reset : Store443 :=
  ⟨0, 0, Vector.replicate 8 0, List.replicate 16 StoreCart.unused, List.replicate 64 StoreRemap.unused, false, false⟩

/-- Power after reset: code 20 (R456), DOMAIN_STATUS 0x80_0000 (R469). -/
def Power.reset : Power where
  vid := 20
  warnCode := 20
  target := 20
  stepping := false
  lastStep := none
  bump := 0
  hold := none
  belowWarn := 0
  tjMax := 0
  hottest := 0
  throttle := 0
  tripSeen := false
  tripped := false
  domains := 0x800000
  requests := []
  switching := []

/-- The machine right after reset, before its boot (R425): no command waits, every register at its reset value, the
NOR device erased and the fuses blank (log entries 3 and 4). -/
def State.reset : State where
  pending := []
  now := 0
  reply := .none
  freeCtr := 0
  nextKey := 0
  groupMask := Vector.replicate 4 (Vector.replicate 8 0)
  kindStatus := Vector.replicate 4 KindStatus.reset
  feCtrl := 8 <<< 13
  sideDefA := Vector.replicate 8 0
  sideDefB := Vector.replicate 8 ((50 <<< 14) ||| (24 <<< 20))
  ports := Vector.replicate 4 Port.reset
  transports := Vector.replicate 4 Transport.reset
  covers := Vector.replicate 4 false
  frames := []
  sides := []
  streamA := Vector.replicate 64 (1 <<< 24)
  streamB := Vector.replicate 64 0
  streams := Vector.replicate 64 Stream.reset
  decoders := Vector.replicate 8 Decoder.reset
  engines := Vector.replicate 7 Engine.reset
  parts := Vector.replicate 6 Partition.reset
  contexts := []
  queue := []
  rebind := ⟨.idle, 0, [], false, []⟩
  mem := Memory.reset
  host := HostIf.reset
  bridle := Bridle.reset
  boot := Boot.reset
  otp := Otp.blank
  nor := []
  norMiB := 256
  norOps := []
  norBusy := none
  stud := Studbook.reset
  store := Store443.reset
  power := Power.reset

end Sys2Proof.Machine
end

