-- ==== Sys2Proof/Machine/Ops.lean ====
section
/-!
DEFINITION. Shared operations: device time, updates of one unit, counters, host memory and MSI-X, Studbook records,
and what every command does at its end.
-/
namespace Sys2Proof.Machine

/-! ## Time -/

/-- Device time moved forward to `t`; it never runs backward (R441). -/
def State.at (s : State) (t : Nat) : State := { s with now := max s.now t }

/-- The answer to a register access. -/
def State.answer (s : State) (r : BusReply) : State := { s with reply := r }

/-! ## Updates of one unit -/

/-- Port `n` updated. -/
def State.onPort (s : State) (n : Fin 4) (f : Port → Port) : State := { s with ports := vmod s.ports n f }

/-- Transport `t` updated. -/
def State.onTransport (s : State) (t : Fin 4) (f : Transport → Transport) : State :=
  { s with transports := vmod s.transports t f }

/-- Engine `e` updated. -/
def State.onEngine (s : State) (e : Fin 7) (f : Engine → Engine) : State := { s with engines := vmod s.engines e f }

/-- Partition `p` updated. -/
def State.onPart (s : State) (p : Fin 6) (f : Partition → Partition) : State := { s with parts := vmod s.parts p f }

/-- Stream `n` updated. -/
def State.onStream (s : State) (n : Fin 64) (f : Stream → Stream) : State := { s with streams := vmod s.streams n f }

/-- Decoder unit `d` updated. -/
def State.onDecoder (s : State) (d : Fin 8) (f : Decoder → Decoder) : State :=
  { s with decoders := vmod s.decoders d f }

/-- Channel `c` updated. -/
def State.onChannel (s : State) (c : Fin 12) (f : Channel → Channel) : State :=
  { s with mem := { s.mem with channels := vmod s.mem.channels c f } }

/-- The output ring of partition `p` updated. -/
def State.onOut (s : State) (p : Fin 6) (f : OutRing → OutRing) : State :=
  { s with host := { s.host with out := vmod s.host.out p f } }

/-- The side with key `k` updated. -/
def State.onSide (s : State) (k : Nat) (f : Side → Side) : State :=
  { s with sides := s.sides.map (fun x => if x.key = k then f x else x) }

/-- The context with id `i` updated. -/
def State.onContext (s : State) (i : Nat) (f : Context → Context) : State :=
  { s with contexts := s.contexts.map (fun c => if c.id = i then f c else c) }

/-- The recipe slot `n` updated. -/
def State.onSlot (s : State) (n : Fin 16) (f : RecipeSlot → RecipeSlot) : State :=
  { s with boot := { s.boot with recipes := vmod s.boot.recipes n f } }

/-- The side with a key. -/
def State.side? (s : State) (k : Nat) : Option Side := s.sides.find? (fun x => x.key == k)

/-- The context with an id. -/
def State.context? (s : State) (i : Nat) : Option Context := s.contexts.find? (fun c => c.id == i)

/-- The step in progress in partition `p` updated. -/
def State.onStep (s : State) (p : Fin 6) (f : StepRun → StepRun) : State :=
  s.onPart p (fun x => { x with step := x.step.map f })

/-- The physical engines of partition `p`, in ascending logical index (R475). -/
def State.members (s : State) (p : Fin 6) : List (Fin 7) :=
  (List.range 7).flatMap fun l =>
    (List.finRange 7).filter fun e => s.engines[e].part == some p && s.engines[e].logical == l

/-- The physical engine at a logical index of partition `p`. -/
def State.member? (s : State) (p : Fin 6) (l : Nat) : Option (Fin 7) :=
  (List.finRange 7).find? fun e => s.engines[e].part == some p && s.engines[e].logical == l

/-! ## Counters (R387) -/

/-- Chip-block counter `c` advanced. -/
def State.countChip (s : State) (c k : Nat) : State :=
  { s with host := { s.host with chip := bumpAt s.host.chip c k } }

/-- Counter `c` of engine `e` advanced. -/
def State.countEngine (s : State) (e : Fin 7) (c k : Nat) : State :=
  s.onEngine e fun x => { x with counters := bumpAt x.counters c k }

/-- Counter `c` of partition `p` advanced. -/
def State.countPart (s : State) (p : Fin 6) (c k : Nat) : State :=
  s.onPart p fun x => { x with counters := bumpAt x.counters c k }

/-- Counter `c` of channel `ch` advanced. -/
def State.countChannel (s : State) (ch : Fin 12) (c k : Nat) : State :=
  s.onChannel ch fun x => { x with counters := bumpAt x.counters c k }

/-- Counter `c` of stream `n` advanced. -/
def State.countStream (s : State) (n : Fin 64) (c k : Nat) : State :=
  s.onStream n fun x => { x with counters := bumpAt x.counters c k }

/-- Life counter `c` of the persistent store advanced (R443); the change waits for the 60 s timer (R444). -/
def State.countLife (s : State) (c k : Nat) : State :=
  { s with store := { s.store with life := bumpAt s.store.life c k, dirty := true } }

namespace Chip
/-! Indices of the chip block, in the order of R387: R100, R287, R348, R388. -/
/-- REJECTED_ENTRIES. -/ abbrev rejectedEntries := 0
/-- CONTEXT_FULL. -/ abbrev contextFull := 1
/-- WALK_EVICTIONS. -/ abbrev walkEvictions := 2
/-- ADMIT_FULL. -/ abbrev admitFull := 3
/-- SRAM_TRANSIENTS. -/ abbrev sramTransients := 4
/-- SRAM_FAILURES. -/ abbrev sramFailures := 5
/-- CHECK_REBUILDS. -/ abbrev checkRebuilds := 6
/-- REMAP_INSTALLS. -/ abbrev remapInstalls := 7
/-- SCRUB_PASSES. -/ abbrev scrubPasses := 8
/-- RECOVERY_BYTES. -/ abbrev recoveryBytes := 9
/-- INPUT_ENTRIES. -/ abbrev inputEntries := 10
/-- RECORDS_PUBLISHED. -/ abbrev recordsPublished := 11
/-- RECORD_BYTES. -/ abbrev recordBytes := 12
/-- HOST_STALLS. -/ abbrev hostStalls := 13
/-- HOST_STALL_NS. -/ abbrev hostStallNs := 14
/-- SPOOL_HIGH_WATERS. -/ abbrev spoolHighWaters := 15
/-- RING_ERRORS. -/ abbrev ringErrors := 16
/-- HOST_FETCH_ERRORS. -/ abbrev hostFetchErrors := 17
/-- OVERLONG_RECORDS. -/ abbrev overlongRecords := 18
/-- IMAGES_SKIPPED. -/ abbrev imagesSkipped := 19
/-- LINK_DOWNS. -/ abbrev linkDowns := 20
end Chip

namespace Eng
/-! Indices of an engine's block: R107, R171, R193, R230, R245, R256. -/
/-- COMMANDS. -/ abbrev commands := 0
/-- RESIDUE_MISMATCHES. -/ abbrev residueMismatches := 1
/-- ACC_SATURATIONS. -/ abbrev accSaturations := 2
/-- OUT_SATURATIONS. -/ abbrev outSaturations := 3
/-- NANS_PRODUCED. -/ abbrev nansProduced := 4
/-- BANK_CONFLICT_CYCLES. -/ abbrev bankConflicts := 5
/-- BUSY_CYCLES. -/ abbrev busyCycles := 6
/-- ZERO_EXTENTS. -/ abbrev zeroExtents := 7
/-- NMS_TRUNCATIONS. -/ abbrev nmsTruncations := 8
/-- ZERO_ROWS. -/ abbrev zeroRows := 9
/-- CONST_ROWS. -/ abbrev constRows := 10
/-- SCALE_INVALIDS. -/ abbrev scaleInvalids := 11
/-- KV_PAGES_TAKEN. -/ abbrev kvPagesTaken := 12
/-- KV_EVICTIONS. -/ abbrev kvEvictions := 13
/-- KV_PAGE_COPIES. -/ abbrev kvPageCopies := 14
/-- KV_FAULTS. -/ abbrev kvFaults := 15
/-- EMPTY_KEY_ROWS. -/ abbrev emptyKeyRows := 16
/-- SCORE_HALVINGS. -/ abbrev scoreHalvings := 17
/-- SCORE_LOG_FULL. -/ abbrev scoreLogFull := 18
/-- LAB_HITS. -/ abbrev labHits := 19
/-- LAB_MISSES. -/ abbrev labMisses := 20
/-- ROUTED_PICKS. -/ abbrev routedPicks := 21
/-- OVERFLOW_SECOND. -/ abbrev overflowSecond := 22
/-- OVERFLOW_SHARED. -/ abbrev overflowShared := 23
/-- ROUTE_NANS. -/ abbrev routeNans := 24
/-- EXCH_ROWS. -/ abbrev exchRows := 25
/-- ADAPT_SKIPS. -/ abbrev adaptSkips := 26
/-- AUGMENTED_IMAGES. -/ abbrev augmentedImages := 27
end Eng

namespace Part
/-! Indices of a partition's block: R287, R230, R256, R313. -/
/-- STEPS. -/ abbrev steps := 0
/-- STEP_WATCHDOGS. -/ abbrev stepWatchdogs := 1
/-- SIDES_ADMITTED. -/ abbrev sidesAdmitted := 2
/-- FALLBACK_SWITCHES. -/ abbrev fallbackSwitches := 3
/-- SPUR_NO_POINT. -/ abbrev spurNoPoint := 4
/-- LINES_REREAD. -/ abbrev linesReread := 5
/-- LINES_TRUNCATED. -/ abbrev linesTruncated := 6
/-- SIDES_RESTARTED. -/ abbrev sidesRestarted := 7
/-- KV_RESTARTS. -/ abbrev kvRestarts := 8
/-- OVERLAY_ACTIVATIONS. -/ abbrev overlayActivations := 9
/-- CONTRACT_FAULTS. -/ abbrev contractFaults := 10
end Part

namespace Chan
/-! Indices of a channel's block: R348. -/
/-- LINE_MISMATCHES. -/ abbrev lineMismatches := 0
/-- REFETCHES. -/ abbrev refetches := 1
/-- RESTORES. -/ abbrev restores := 2
/-- POISON_HITS. -/ abbrev poisonHits := 3
/-- LINES_POISONED. -/ abbrev linesPoisoned := 4
/-- MERGES. -/ abbrev merges := 5
/-- FRAME_FILLS. -/ abbrev frameFills := 6
/-- CHECK_CACHE_MISSES. -/ abbrev cacheMisses := 7
/-- SCRUB_LINES. -/ abbrev scrubLines := 8
end Chan

namespace Strm
/-! Indices of a stream's block: R100. -/
/-- SAMPLES. -/ abbrev samples := 0
/-- EMPTY, the first of the seven statuses of R100. -/ abbrev firstStatus := 1
/-- FRAMES_DECODED. -/ abbrev framesDecoded := 8
/-- FRAMES_DROPPED. -/ abbrev framesDropped := 9
/-- FRAMES_HELD. -/ abbrev framesHeld := 10
/-- TS_BACKWARD. -/ abbrev tsBackward := 11
end Strm

/-! ## Host memory and MSI-X -/

/-- Bytes written to host memory, when the link is up. -/
def State.hostWrite (s : State) (addr : Nat) (bs : List Byte) : State :=
  if s.host.linkUp then { s with host := { s.host with mem := cellsWrite 0 s.host.mem addr bs } } else s

/-- An MSI-X vector signalled: its message is written when its mask bit is clear, otherwise its pending bit sets. -/
def State.signal (s : State) (v : Fin 32) : State :=
  let e := s.host.msix[v]
  if e.ctrl.getLsbD 0 then
    { s with host := { s.host with pba := s.host.pba ||| (1 <<< v.val) } }
  else s.hostWrite e.addr.toNat (leBytes 4 e.data.toNat)

/-! ## The Studbook (R445 to R450) -/

/-- The most records that wait for NOR (R447). -/
def norQueueMax : Nat := 256

/-- The most records the on-chip ring holds (R386). -/
def ringMax : Nat := 4096

/-- One second in ns. -/
def second : Nat := 1000000000

/-- Payload bytes padded to 13 (R445). -/
def payload13 (p : List Byte) : List Byte := (p ++ List.replicate 13 0).take 13

/-- LAST_MS of a record. -/
def StudRec.lastMs (r : StudRec) : Nat := (r.last - r.time) / 1000000

/-- The 32 bytes of a record with a pass parity (R445, R448). -/
def StudRec.encode (r : StudRec) (parity : BitVec 2) : List Byte :=
  let body := leBytes 8 r.time ++ leBytes 4 r.lastMs ++ leBytes 2 r.code.toNat ++ leBytes 2 r.repeats
    ++ [r.source] ++ payload13 r.payload
  body ++ [BitVec.ofNat 8 (crc8 body), BitVec.ofNat 8 (0b10110100 + parity.toNat)]

/-- Whether an event repeats the open record `r` at time `now` (R446). -/
def StudRec.repeatable (r : StudRec) (code : Half) (source : Byte) (p : List Byte) (now : Nat) : Bool :=
  r.code == code && r.source == source && r.payload == payload13 p && decide (now < r.time + second)
    && decide (r.repeats < 65535) && decide ((now - r.time) / 1000000 ≤ 0xFFFFFFFF)

/-- The STUDBOOK_GAP record that carries the records missed (R447). -/
def gapRecord (now missed : Nat) : StudRec := ⟨now, now, 0x0108, 1, 0x00, payload13 (leBytes 4 missed)⟩

/-- A closed record offered to the NOR queue: it enters when there is room, after a STUDBOOK_GAP when records were
missed before; otherwise it stays in the on-chip ring only (R447). -/
def Studbook.enqueue (b : Studbook) (now : Nat) (r : StudRec) : Studbook :=
  if b.missed = 0 then
    if b.queue.length < norQueueMax then { b with queue := b.queue ++ [r] } else { b with missed := 1 }
  else if b.queue.length + 1 < norQueueMax then
    { b with queue := b.queue ++ [gapRecord now b.missed, r], missed := 0 }
  else { b with missed := b.missed + 1 }

/-- The open record closed (R446). -/
def Studbook.close (b : Studbook) (now : Nat) : Studbook :=
  if b.openRec then
    match b.ring with
    | r :: _ => ({ b with openRec := false }).enqueue now r
    | [] => { b with openRec := false }
  else b

/-- A new record committed to the on-chip ring (R386). -/
def Studbook.commit (b : Studbook) (r : StudRec) (isOpen : Bool) : Studbook :=
  { b with ring := (r :: b.ring).take ringMax, produced := b.produced + 1, openRec := isOpen }

/-- An event entered in the Studbook: held before BOOT or BOOT_STOP, otherwise repeated into the open record or
committed as a new one (R446). -/
def Studbook.event (b : Studbook) (now : Nat) (code : Half) (source : Byte) (p : List Byte) : Studbook :=
  let fresh : StudRec := ⟨now, now, code, 1, source, payload13 p⟩
  if b.booted then
    match b.ring with
    | r :: rest =>
      if b.openRec && r.repeatable code source p now then
        { b with ring := { r with repeats := r.repeats + 1, last := now } :: rest }
      else (b.close now).commit fresh true
    | [] => b.commit fresh true
  else
    match b.held with
    | r :: rest =>
      if r.repeatable code source p now then
        { b with held := { r with repeats := r.repeats + 1, last := now } :: rest }
      else { b with held := fresh :: b.held }
    | [] => { b with held := [fresh] }

/-- An event of the machine at its present device time. -/
def State.log (s : State) (code : Half) (source : Byte) (p : List Byte) : State :=
  { s with stud := s.stud.event s.now code source p }

/-- SOURCE codes of R452. -/
def srcChip : Byte := 0x00
/-- Rein A or B (R452). -/
def srcRein (r : Fin 2) : Byte := BitVec.ofNat 8 (0x01 + r.val)
/-- The host interface (R452). -/
def srcHost : Byte := 0x03
/-- Engine e (R452). -/
def srcEngine (e : Fin 7) : Byte := BitVec.ofNat 8 (0x10 + e.val)
/-- Port n (R452). -/
def srcPort (n : Fin 4) : Byte := BitVec.ofNat 8 (0x20 + n.val)
/-- Transport t (R452). -/
def srcTransport (t : Fin 4) : Byte := BitVec.ofNat 8 (0x28 + t.val)
/-- Channel c (R452). -/
def srcChannel (c : Fin 12) : Byte := BitVec.ofNat 8 (0x30 + c.val)
/-- Partition p (R452). -/
def srcPart (p : Fin 6) : Byte := BitVec.ofNat 8 (0x50 + p.val)
/-- Stream n (R452). -/
def srcStream (n : Nat) : Byte := BitVec.ofNat 8 (0x80 + n)

/-! ## The Bridle -/

/-- Whether the holder may act: the Bridle is held, its epoch settled, and the nodes accept its commands
(R394 to R396). -/
def State.holderActs (s : State) : Bool :=
  s.bridle.held && s.bridle.settled && !s.bridle.nodesReject && !s.bridle.reins[s.bridle.holder].stopped
    && s.bridle.reins[s.bridle.holder].role == .holder

/-! ## What every command does at its end -/

/-- The fields of DEV_STATUS other than EVT_NEW and PART_CHANGED (R354, R367). -/
def State.devFields (s : State) : List Bool :=
  (List.finRange 6).map (fun p => s.host.out[p].stalledOut)
    ++ [s.host.inStopped, s.host.verbOverrun, s.host.spoolHigh, s.power.hold.isSome]

/-- PART_STATUSp (R259). -/
def State.partStatus (s : State) (p : Fin 6) : Word :=
  let x := s.parts[p]
  let mode := match x.desc with | some d => d.mode | none => 0
  let gaits := match x.desc with | some d => d.gaits | none => 0
  BitVec.ofNat 32 (b2n x.bound + mode % 2 * 2 + gaits % 16 * 4 + x.engines % 8 * 64 + b2n x.shadow * 512
    + b2n x.rebinding * 1024 + x.reason.toNat * 65536 + x.plan % 8 * 16777216)

/-- Whether a PART_STATUS differs between two states. -/
def partsChanged (old new : State) : Bool := (List.finRange 6).any fun p => old.partStatus p != new.partStatus p

/-- PART_CHANGED set when a PART_STATUS has changed. -/
def State.flagParts (s : State) (changed : Bool) : State :=
  if changed then { s with host := { s.host with partChanged := true } } else s

/-- The partitions at a step boundary struck from those that a verb waits for (R383). -/
def State.strikeWaiters (s : State) : State :=
  { s with host := { s.host with box := { s.host.box with
    waitFor := s.host.box.waitFor.filter fun p => s.parts[Fin.ofNat 6 p].step.isSome } } }

/-- Vector 1 signalled when a bit of DEV_STATUS has changed (R367). -/
def State.signalDev (s old : State) (changed : Bool) : State :=
  if old.devFields != s.devFields || (changed && !old.host.partChanged) then s.signal 1 else s

/-- Vector 2 signalled, at most once per ms (R367). -/
def State.signalEvent (s : State) : State :=
  let due : Bool := match s.host.evtSignalAt with
    | some t0 => decide (t0 + 1000000 ≤ s.now)
    | none => true
  if due then ({ s with host := { s.host with evtSignalAt := some s.now } }).signal 2 else s

/-- EVT_NEW set when EVT_PRODUCED has advanced (R354). -/
def State.flagEvents (s : State) (advanced : Bool) : State :=
  if advanced then ({ s with host := { s.host with evtNew := true } }).signalEvent else s

/-- PART_CHANGED and EVT_NEW set, and vectors 1 and 2 signalled, for what changed between two states (R354, R367), and the
partitions at a step boundary struck from those a verb waits for (R383). -/
def commit (old new : State) : State :=
  let changed := partsChanged old new
  (((new.flagParts changed).strikeWaiters).signalDev old changed).flagEvents (decide (old.stud.produced < new.stud.produced))

/-- The outcome of a command: the next state, with what every command does at its end. -/
def done (old new : State) : Host.Outcome State Fault Refusal := .next (commit old new)

/-- Whether the chip runs: out of reset, not stopped and RUNNING (R426, R455). -/
def State.up (s : State) : Bool := s.boot.running && !s.boot.inReset

end Sys2Proof.Machine
end

