-- ==== Sys2Proof/Machine/Nor.lean ====
section
/-!
DEFINITION. The NOR device: its operations and their order (R416 to R418), the Studbook region and its write point (R446 to
R449), and the persistent store (R443, R444).
-/
namespace Sys2Proof.Machine

/-! ## The device (R416, R417) -/

/-- Start of the Studbook region. -/
def studBase : Nat := 0x0800000
/-- Start of the persistent store. -/
def storeBase : Nat := 0x1800000
/-- Start of the overlay area. -/
def overlayBase : Nat := 0x1900000
/-- Start of the recipe store. -/
def recipeStore : Nat := 0x3000000
/-- Bytes of a sector. -/
def sectorBytes : Nat := 65536

/-- Bytes of the NOR device. -/
def State.norBytes (s : State) (a len : Nat) : List Byte := cellsSlice 0xFF s.nor a len

/-- Whether a range of the device is erased. -/
def State.norBlank (s : State) (a len : Nat) : Bool := !(s.nor.any fun c => decide (a ≤ c.1) && decide (c.1 < a + len))

/-- Bytes programmed: a program only clears bits. -/
def State.norProgram (s : State) (a : Nat) (bs : List Byte) : State :=
  let old := s.norBytes a bs.length
  { s with nor := cellsWrite 0xFF s.nor a ((old.zip bs).map fun p => p.1 &&& p.2) }

/-- Sectors erased, counted in NOR_SECTOR_ERASES. -/
def State.norErase (s : State) (a sectors : Nat) : State :=
  ({ s with nor := s.nor.filter fun c => !(decide (a ≤ c.1) && decide (c.1 < a + sectorBytes * sectors)) }).countLife 7 sectors

/-! ## The Studbook region (R448, R449) -/

/-- Slots of the region. -/
def studSlots : Nat := 524288

/-- Whether the 32 bytes of a slot are a VALID record. -/
def slotValid (b : List Byte) : Bool := leAt b 31 1 / 4 == 0b101101 && leAt b 30 1 == crc8 (b.take 30)

/-- The 32 bytes of a slot. -/
def State.slotBytes (s : State) (k : Nat) : List Byte := s.norBytes (studBase + 32 * k) 32

/-- Whether a slot is ERASED. -/
def State.slotErased (s : State) (k : Nat) : Bool := s.norBlank (studBase + 32 * k) 32

/-- Whether sector `j` of the region is wholly ERASED. -/
def State.sectorErased (s : State) (j : Nat) : Bool := s.norBlank (studBase + sectorBytes * j) sectorBytes

/-- The pass parity of a record. -/
def slotParity (b : List Byte) : Nat := leAt b 31 1 % 4

/-- The next record of the NOR queue written at the write point; a slot that is not erased is passed over, and before the
first record of a sector the sector ahead is erased. `fuel` bounds the slots passed over. -/
def State.writeRecord (s : State) : Nat → State
  | 0 => s
  | fuel + 1 =>
    match s.stud.queue with
    | [] => s
    | r :: rest =>
      let k := s.stud.point
      let s := if k % 2048 = 0 then s.norErase (studBase + sectorBytes * ((k / 2048 + 1) % 256)) 1 else s
      let next := (k + 1) % studSlots
      let moved (b : Studbook) : Studbook := { b with point := next, parity := if next = 0 then b.parity + 1 else b.parity }
      if s.slotErased k then
        let s := s.norProgram (studBase + 32 * k) (r.encode s.stud.parity)
        { s with stud := { moved s.stud with queue := rest } }
      else ({ s with stud := moved s.stud }).writeRecord fuel

/-- One step of the Studbook's work on NOR: a sector of the background erase, or a record. -/
def State.studWork (s : State) : State :=
  if s.stud.wipeLeft > 0 then
    let s := s.norErase (studBase + sectorBytes * (256 - s.stud.wipeLeft)) 1
    { s with stud := { s.stud with wipeLeft := s.stud.wipeLeft - 1 } }
  else s.writeRecord 4096

/-- The slots of the region that hold a byte. -/
def State.usedSlots (s : State) : List Nat :=
  ((s.nor.filter fun c => decide (studBase ≤ c.1) && decide (c.1 < studBase + 32 * studSlots)).map fun c =>
    (c.1 - studBase) / 32).eraseDups

/-- The last number of a list that satisfies a test. -/
def lastThat (l : List Nat) (f : Nat → Bool) : Option Nat := (l.filter f).foldl (fun b x => match b with
  | some y => some (max x y)
  | none => some x) none

/-- The newest parity among the first slots of the sectors: the one whose successor does not occur. -/
def newestParity (l : List Nat) : Nat := ((List.range 4).find? fun q => l.contains q && !l.contains ((q + 1) % 4)).getD 0

/-- The write point located at boot. -/
def State.locateWritePoint (s : State) : State :=
  let used := s.usedSlots
  let set (s : State) (point parity wipe : Nat) : State :=
    { s with stud := { s.stud with point := point, parity := BitVec.ofNat 2 parity, wipeLeft := wipe } }
  if used.isEmpty then set s 0 0 0
  else
    let valid := used.filter fun k => slotValid (s.slotBytes k)
    if valid.isEmpty then set s 0 0 256
    else
      let prev (j : Nat) : Nat := (j + 255) % 256
      let found := (List.range 256).find? fun j => s.sectorErased j && !s.slotErased (2048 * prev j)
      let heads := valid.filter fun k => k % 2048 == 0
      let newest := newestParity (heads.map fun k => slotParity (s.slotBytes k))
      let (s, e) := match found with
        | some e => (s, e)
        | none =>
          let last := (lastThat heads fun k => slotParity (s.slotBytes k) == newest).getD 0 / 2048
          let e := (((List.range 256).map fun i => (last + 1 + i) % 256).find? fun j => !s.sectorErased j).getD 0
          (s.norErase (studBase + sectorBytes * e) 1, e)
      let w := prev e
      let inW := (lastThat used fun k => k / 2048 == w).getD (2048 * w)
      let full := inW == 2048 * w + 2047
      let s := if full then s.norErase (studBase + sectorBytes * ((e + 1) % 256)) 1 else s
      let point := if full then 2048 * e else inW + 1
      let far (k : Nat) : Nat := (point + studSlots - 1 - k) % studSlots
      let back := valid.foldl (fun (m : Option Nat) k => match m with
        | some x => some (if far k < far x then k else x)
        | none => some k) none
      let par := match back with
        | some k => slotParity (s.slotBytes k) + (if point ≤ k then 1 else 0)
        | none => 0
      set s point (par % 4) 0

/-! ## Which operation runs (R418) -/

/-- Whether an operation is a page of the store, of the overlay area, or of the recipe store: 1, 2, 3. -/
def NorOp.rank : NorOp → Nat
  | .studbook => 0
  | .store _ _ => 1
  | .overlay _ _ => 2
  | .erase true _ _ => 2
  | .recipe _ _ => 3
  | .erase false _ _ => 3

/-- The first queued operation of the highest priority. -/
def firstOp (l : List NorOp) : Option NorOp :=
  (l.find? fun o => o.rank == 1).or ((l.find? fun o => o.rank == 2).or l.head?)

/-- Whether the NOR device answers: not after a stop for its parameters (R426). -/
def State.norAnswers (s : State) : Bool := s.boot.stopReason != 2

/-- The next operation started when none is in progress: Studbook records, then store pages, then overlay entries, then
recipe staging. -/
def State.startNor (s : State) : State :=
  if s.norBusy.isSome || !s.norAnswers then s
  else if !s.stud.queue.isEmpty || decide (s.stud.wipeLeft > 0) then { s with norBusy := some .studbook }
  else match firstOp s.norOps with
    | some o => { s with norBusy := some o, norOps := s.norOps.erase o }
    | none => s

/-- An operation queued. -/
def State.queueNor (s : State) (o : NorOp) : State := ({ s with norOps := s.norOps ++ [o] }).startNor

/-- The effect of an operation that has ended. -/
def NorOp.apply (o : NorOp) (s : State) : State :=
  match o with
  | .studbook => s.studWork
  | .store a page =>
    let s := if (a - storeBase) % sectorBytes = 0 then
        s.norErase (storeBase + ((a - storeBase) / sectorBytes + 1) % 16 * sectorBytes) 1 else s
    s.norProgram a page
  | .overlay a d => s.norProgram a d
  | .recipe a d => s.norProgram a d
  | .erase _ a n => s.norErase a n

/-- A program or erase ended, and the next started. -/
def norDoneEffect (s : State) : State :=
  let s := s.startNor
  match s.norBusy with
  | some o => (o.apply { s with norBusy := none }).startNor
  | none => s

/-- NOR_OP_DONE: a NOR program or erase completes and the next queued operation starts by priority (R418). -/
def execNorOpDone (t : Nat) (s : State) : Host.Outcome State Fault Refusal := done s (norDoneEffect (s.at t))

/-! ## STUDBOOK_RECORD_CLOSE (R446) -/

/-- The open record closed at TIME + 1 s. -/
def recordCloseEffect (s : State) : State :=
  match s.stud.ring with
  | r :: _ =>
    if s.stud.openRec && decide (s.now ≥ r.time + second) then ({ s with stud := s.stud.close s.now }).startNor else s
  | [] => s

/-- STUDBOOK_RECORD_CLOSE: an open record closes and is queued for NOR (R446, R447). -/
def execStudbookRecordClose (t : Nat) (s : State) : Host.Outcome State Fault Refusal := done s (recordCloseEffect (s.at t))

/-! ## The persistent store (R443, R444) -/

/-- POWER_ON_S brought up to date. -/
def State.notePower (s : State) : State :=
  let secs := (s.now - s.boot.poweredAt) / second
  { s with
    store := { s.store with life := bumpAt s.store.life 1 secs }
    boot := { s.boot with poweredAt := s.boot.poweredAt + secs * second } }

/-- A cartridge entry. -/
def StoreCart.encode (c : StoreCart) : List Byte :=
  leBytes 8 c.serial.toNat ++ leBytes 8 c.lines.toNat ++ leBytes 4 c.illumS.toNat ++ leBytes 4 c.lastBoot.toNat
    ++ leBytes 2 c.model.toNat ++ leBytes 1 (b2n c.used + 2 * b2n c.nearLogged + 4 * b2n c.worn) ++ [0, 0, 0, 0, 0]

/-- A remap entry. -/
def StoreRemap.encode (r : StoreRemap) : List Byte :=
  leBytes 1 (b2n r.used) ++ leBytes 1 r.channel ++ leBytes 1 r.rank ++ leBytes 1 r.bank ++ leBytes 4 r.dramRow
    ++ leBytes 1 r.line ++ [0, 0, 0, 0, 0, 0, 0]

/-- The eight life counters (R443). -/
def Store443.lifeBytes (x : Store443) : List Byte := x.life.toList.flatMap fun c => leBytes 8 c.toNat

/-- A page of the store. -/
def Store443.page4k (x : Store443) : List Byte :=
  let head := [0x52, 0x54, 0x50, 0x53, 1, 0, 0, 0] ++ leBytes 8 x.seq.toNat ++ x.lifeBytes
    ++ x.carts.flatMap StoreCart.encode ++ x.remaps.flatMap StoreRemap.encode
  let body := head ++ List.replicate (4088 - head.length) 0
  body ++ leBytes 4 (crc32c body).toNat ++ [0x5A, 0x5A, 0x5A, 0x5A]

/-- A commit: a full page with the next SEQ at the next page. -/
def State.commitStore (s : State) : State :=
  let s := s.notePower
  let s := { s with store := { s.store with seq := s.store.seq + 1, dirty := false, urgent := false } }
  let page := s.store.page
  let s := { s with store := { s.store with page := (page + 1) % 256 } }
  s.queueNor (.store (storeBase + 4096 * page) s.store.page4k)

/-- Whether the store has been read (R425). -/
def State.storeReady (s : State) : Bool := s.stud.booted && !s.boot.stopped && !s.boot.inReset

/-- A commit that falls due. -/
def commitTimerEffect (fast : Bool) (s : State) : State :=
  if !s.storeReady then s
  else if fast then (if s.store.urgent then s.commitStore else s)
  else s.commitStore

/-- STORE_COMMIT_TIMER: a commit falls due on the 1 s or the 60 s timer (R444). POWER_ON_S always waits for the second. -/
def execStoreCommitTimer (fast : Bool) (t : Nat) (s : State) : Host.Outcome State Fault Refusal :=
  done s (commitTimerEffect fast (s.at t))

/-- A cartridge entry as read. -/
def storeCartOf (b : List Byte) : StoreCart :=
  let f := leAt b 26 1
  ⟨bit f 0, BitVec.ofNat 64 (leAt b 0 8), BitVec.ofNat 64 (leAt b 8 8), BitVec.ofNat 32 (leAt b 16 4), BitVec.ofNat 32 (leAt b 20 4)
  , BitVec.ofNat 16 (leAt b 24 2), bit f 1, bit f 2⟩

/-- A remap entry as read. -/
def storeRemapOf (b : List Byte) : StoreRemap := ⟨leAt b 0 1 == 1, leAt b 1 1, leAt b 2 1, leAt b 3 1, leAt b 4 4, leAt b 8 1⟩

/-- Whether page `k` of the store is valid: its COMMIT and its CRC. -/
def State.storePageValid (s : State) (k : Nat) : Bool :=
  s.norBytes (storeBase + 4096 * k + 4092) 4 == [0x5A, 0x5A, 0x5A, 0x5A]
    && (let b := s.norBytes (storeBase + 4096 * k) 4096
        leAt b 4088 4 == (crc32c (b.take 4088)).toNat && b.take 4 == [0x52, 0x54, 0x50, 0x53])

/-- The store read at boot: the valid page with the highest SEQ, or zeros and STORE_EMPTY. -/
def State.readStore (s : State) : State :=
  let pages := (List.range 256).filter s.storePageValid
  let seq (k : Nat) : Nat := leNat (s.norBytes (storeBase + 4096 * k + 8) 8)
  match pages with
  | [] => ({ s with store := Store443.reset }).log 0x0107 srcChip []
  | k :: rest =>
    let k := rest.foldl (fun b x => if seq x > seq b then x else b) k
    let b := s.norBytes (storeBase + 4096 * k) 4096
    { s with store :=
      { seq := BitVec.ofNat 64 (seq k), page := (k + 1) % 256
        life := Vector.ofFn fun i : Fin 8 => BitVec.ofNat 64 (leAt b (16 + 8 * i.val) 8)
        carts := (List.range 16).map fun i => storeCartOf (sliceAt b (80 + 32 * i) 32)
        remaps := (List.range 64).map fun i => storeRemapOf (sliceAt b (592 + 16 * i) 16)
        dirty := false, urgent := false } }

end Sys2Proof.Machine
end

