-- ==== Sys2Proof/Machine/Image.lean ====
section
/-!
DEFINITION. Bilinear sampling of an image (R58), shared by the deskew of the front end and by AUGMENT (R250).
-/
namespace Sys2Proof.Machine

/-- The sample at a source point given in units of 2^-8 pixel: the four neighbours, their weights in 1/256, rounded to
nearest with ties away from zero. `pix x y` is the value of a pixel, 255 outside the image (R58). -/
def bilinear (pix : Int → Int → Nat) (x8 y8 : Int) : Nat :=
  let x := x8 / 256
  let y := y8 / 256
  let wx := (x8 % 256).toNat
  let wy := (y8 % 256).toNat
  (pix x y * (256 - wx) * (256 - wy) + pix (x + 1) y * wx * (256 - wy) + pix x (y + 1) * (256 - wx) * wy
    + pix (x + 1) (y + 1) * wx * wy + 32768) / 65536

/-- A pixel of rows, 255 outside them. -/
def pixelOf (rows : List (List Nat)) (x y : Int) : Nat :=
  if x < 0 ∨ y < 0 then 255
  else
    match rows[y.toNat]? with
    | none => 255
    | some r => r.getD x.toNat 255

end Sys2Proof.Machine
end

