-- ==== Sys2Proof/Machine/Float.lean ====
section
/-!
DEFINITION. Number formats, conversions and FP32 arithmetic (04_engines_and_arithmetic.md, R108 to R118, R125 to R127).
Every rounding is to nearest, ties away from zero (R111).
-/
namespace Sys2Proof.Machine

/-! ## Formats (R108) -/

/-- FORMAT of R108. -/
inductive Fmt where
  | int4
  | int8
  | uint8
  | e4m3
  | e5m2
  | bf16
  | fp16
  | fp32
  | int32
  deriving DecidableEq, Repr

/-- The format of a code; codes 0x9 to 0xF are reserved (R108). -/
def fmtOf : Nat → Option Fmt
  | 0 => some .int4
  | 1 => some .int8
  | 2 => some .uint8
  | 3 => some .e4m3
  | 4 => some .e5m2
  | 5 => some .bf16
  | 6 => some .fp16
  | 7 => some .fp32
  | 8 => some .int32
  | _ => none

/-- Size of an element in 4-bit units: INT4 takes half a byte (R137). -/
def Fmt.nibbles : Fmt → Nat
  | .int4 => 1
  | .int8 | .uint8 | .e4m3 | .e5m2 => 2
  | .bf16 | .fp16 => 4
  | .fp32 | .int32 => 8

/-- Whether a format is an integer format. -/
def Fmt.isInt : Fmt → Bool
  | .int4 | .int8 | .uint8 | .int32 => true
  | _ => false

/-- Whether a format is an FP8 format. -/
def Fmt.isFp8 : Fmt → Bool
  | .e4m3 | .e5m2 => true
  | _ => false

/-- Least and greatest value of an integer format. -/
def Fmt.range : Fmt → Int × Int
  | .int4 => (-8, 7)
  | .int8 => (-128, 127)
  | .uint8 => (0, 255)
  | _ => (-2147483648, 2147483647)

/-- The layout of a floating-point format: width, fraction bits, exponent of the subnormal quantum, pattern of the
largest finite magnitude, pattern of the infinity, and the canonical NaN (R108, R109). -/
structure FloatSpec where
  width  : Nat
  frac   : Nat
  quant  : Int
  maxPat : Nat
  infPat : Option Nat
  nanPat : Nat
  deriving DecidableEq, Repr

/-- FP8_E4M3. -/
def specE4M3 : FloatSpec := ⟨8, 3, -9, 0x7E, none, 0x7F⟩
/-- FP8_E5M2. -/
def specE5M2 : FloatSpec := ⟨8, 2, -16, 0x7B, some 0x7C, 0x7F⟩
/-- BF16. -/
def specBF16 : FloatSpec := ⟨16, 7, -133, 0x7F7F, some 0x7F80, 0x7FC0⟩
/-- FP16. -/
def specFP16 : FloatSpec := ⟨16, 10, -24, 0x7BFF, some 0x7C00, 0x7E00⟩
/-- FP32. -/
def specFP32 : FloatSpec := ⟨32, 23, -149, 0x7F7FFFFF, some 0x7F800000, 0x7FC00000⟩

/-- The layout of a format; the integer formats have none of their own. -/
def Fmt.spec : Fmt → FloatSpec
  | .e4m3 => specE4M3
  | .e5m2 => specE5M2
  | .bf16 => specBF16
  | .fp16 => specFP16
  | _ => specFP32

/-! ## Exact values -/

/-- What a floating-point pattern stands for: a NaN, an infinity, or ± m × 2^e. -/
inductive FVal where
  | nan
  | inf (neg : Bool)
  | fin (neg : Bool) (m : Nat) (e : Int)
  deriving DecidableEq, Repr

/-- The value of a pattern in a format. -/
def FloatSpec.value (f : FloatSpec) (p : Nat) : FVal :=
  let mag := p % 2 ^ (f.width - 1)
  let neg := p.testBit (f.width - 1)
  if mag ≤ f.maxPat then
    let e := mag / 2 ^ f.frac
    let x := mag % 2 ^ f.frac
    if e = 0 then .fin neg x f.quant else .fin neg (2 ^ f.frac + x) (f.quant + ((e - 1 : Nat) : Int))
  else if f.infPat = some mag then .inf neg
  else .nan

/-- The magnitude pattern of m × 2^e rounded under R111 as though the exponent were unbounded (R112). -/
def FloatSpec.roundMag (f : FloatSpec) (m : Nat) (e : Int) : Nat :=
  if m = 0 then 0
  else
    let top : Int := (m.log2 : Int) + e - f.frac
    let g := if top < f.quant then f.quant else top
    let k := if e ≥ g then m * 2 ^ (e - g).toNat else (m + 2 ^ ((g - e).toNat - 1)) / 2 ^ (g - e).toNat
    (g - f.quant).toNat * 2 ^ f.frac + k

/-- A magnitude with a sign. -/
def FloatSpec.signed (f : FloatSpec) (neg : Bool) (mag : Nat) : Nat := if neg then mag + 2 ^ (f.width - 1) else mag

/-- The FP32 pattern of a value (R111, R112): a magnitude past the largest finite becomes an infinity. -/
def fp32Of (v : FVal) : Word :=
  match v with
  | .nan => 0x7FC00000
  | .inf neg => if neg then 0xFF800000 else 0x7F800000
  | .fin neg m e =>
    let r := specFP32.roundMag m e
    BitVec.ofNat 32 (specFP32.signed neg (if r > specFP32.maxPat then 0x7F800000 else r))

/-- The value of an FP32 pattern. -/
def fp32Val (w : Word) : FVal := specFP32.value w.toNat

/-- Whether an FP32 pattern is a NaN. -/
def isNaN (w : Word) : Bool := decide (w.toNat % 2 ^ 31 > 0x7F800000)

/-- Whether an FP32 pattern is an infinity. -/
def isInf (w : Word) : Bool := decide (w.toNat % 2 ^ 31 = 0x7F800000)

/-- Whether an FP32 pattern is +0 or −0. -/
def isZero (w : Word) : Bool := decide (w.toNat % 2 ^ 31 = 0)

/-! ## FP32 arithmetic (R118) -/

/-- Integer significand of a value at exponent `g`, which is at most its own. -/
def FVal.scaled (neg : Bool) (m : Nat) (e g : Int) : Int :=
  let x : Int := (m : Int) * (2 ^ (e - g).toNat : Nat)
  if neg then -x else x

/-- The exact sum of two values: (+Inf) + (−Inf) is a NaN, x + (−x) is +0, (−0) + (−0) is −0 (R118). -/
def FVal.add : FVal → FVal → FVal
  | .nan, _ => .nan
  | _, .nan => .nan
  | .inf a, .inf b => if a = b then .inf a else .nan
  | .inf a, .fin _ _ _ => .inf a
  | .fin _ _ _, .inf b => .inf b
  | .fin na ma ea, .fin nb mb eb =>
    let g := min ea eb
    let x := FVal.scaled na ma ea g + FVal.scaled nb mb eb g
    if x = 0 then .fin (na && nb) 0 g else .fin (decide (x < 0)) x.natAbs g

/-- The exact product of two values: 0 × ±Inf is a NaN. -/
def FVal.mul : FVal → FVal → FVal
  | .nan, _ => .nan
  | _, .nan => .nan
  | .inf a, .inf b => .inf (a != b)
  | .inf a, .fin nb mb _ => if mb = 0 then .nan else .inf (a != nb)
  | .fin na ma _, .inf b => if ma = 0 then .nan else .inf (na != b)
  | .fin na ma ea, .fin nb mb eb => .fin (na != nb) (ma * mb) (ea + eb)

/-- A + B. -/
def fadd (a b : Word) : Word := fp32Of ((fp32Val a).add (fp32Val b))

/-- FNEG: the sign inverted; a NaN gives the canonical NaN (R124). -/
def fneg (a : Word) : Word := if isNaN a then 0x7FC00000 else a ^^^ 0x80000000

/-- FABS: the sign cleared; a NaN gives the canonical NaN (R124). -/
def fabs (a : Word) : Word := if isNaN a then 0x7FC00000 else a &&& 0x7FFFFFFF

/-- A − B. -/
def fsub (a b : Word) : Word := fadd a (fneg b)

/-- A × B. -/
def fmul (a b : Word) : Word := fp32Of ((fp32Val a).mul (fp32Val b))

/-- A × B + C, rounded once. -/
def ffma (a b c : Word) : Word := fp32Of (((fp32Val a).mul (fp32Val b)).add (fp32Val c))

/-- The order of numbers: −0 counts below +0. A NaN has no place in it. -/
def fkey (a : Word) : Int := if a.msb then -((a.toNat % 2 ^ 31 : Nat) : Int) - 1 else (a.toNat % 2 ^ 31 : Nat)

/-- FMIN. -/
def fmin (a b : Word) : Word := if isNaN a || isNaN b then 0x7FC00000 else if fkey b < fkey a then b else a

/-- FMAX. -/
def fmax (a b : Word) : Word := if isNaN a || isNaN b then 0x7FC00000 else if fkey a < fkey b then b else a

/-- Whether A > B as numbers: +0 is not above −0; a NaN is above nothing. -/
def fgt (a b : Word) : Bool :=
  !(isNaN a) && !(isNaN b) && !(isZero a && isZero b) && decide (fkey b < fkey a)

/-- 1.0 in FP32. -/
def fp32One : Word := 0x3F800000

/-- FCMPGT. -/
def fcmpgt (a b : Word) : Word := if fgt a b then fp32One else 0

/-- FSEL: a pattern moves unchanged. -/
def fsel (a b c : Word) : Word := if isZero a || isNaN a then c else b

/-- An integer as FP32 (R111). -/
def intToF32 (i : Int) : Word := fp32Of (.fin (decide (i < 0)) i.natAbs 0)

/-- A rational num ÷ den of magnitude and sign as FP32, one rounding. The quotient is taken with enough bits that
truncation does not change a rounding to nearest with ties away. -/
def ratToF32 (neg : Bool) (num den : Nat) : Word :=
  if den = 0 then 0x7FC00000 else fp32Of (.fin neg (num * 2 ^ 256 / den) (-256))

/-- A ÷ B in FP32, one rounding, for the rules that divide outside the vector unit. -/
def fdiv (a b : Word) : Word :=
  match fp32Val a, fp32Val b with
  | .nan, _ => 0x7FC00000
  | _, .nan => 0x7FC00000
  | .inf _, .inf _ => 0x7FC00000
  | .inf x, .fin y _ _ => fp32Of (.inf (x != y))
  | .fin x _ _, .inf y => fp32Of (.fin (x != y) 0 0)
  | .fin x m e, .fin y n g =>
    if n = 0 then (if m = 0 then 0x7FC00000 else fp32Of (.inf (x != y)))
    else fp32Of (.fin (x != y) (m * 2 ^ 64 / n) (e - g - 64))

/-- Nearest integer to m × 2^e, ties away from zero. -/
def roundInt (neg : Bool) (m : Nat) (e : Int) : Int :=
  let k : Nat := if e ≥ 0 then m * 2 ^ e.toNat else (m + 2 ^ ((-e).toNat - 1)) / 2 ^ (-e).toNat
  if neg then -(k : Int) else k

/-- Floor of m × 2^e with a sign. -/
def floorInt (neg : Bool) (m : Nat) (e : Int) : Int :=
  let x : Int := if neg then -(m : Int) else m
  if e ≥ 0 then x * (2 ^ e.toNat : Nat) else x / (2 ^ (-e).toNat : Nat)

/-! ## Notes: what a conversion or operation reports -/

/-- What an operation reports to the completion word (R109, R112, R113, R118). -/
structure Note where
  nan  : Bool
  inf  : Bool
  sat  : Nat       -- output elements saturated; each counts in OUT_SATURATIONS
  mark : Bool      -- a saturation inside a program: it sets OUT_SATURATED and counts no output element
  deriving DecidableEq, Repr

/-- Nothing to report. -/
def Note.none : Note := ⟨false, false, 0, false⟩

/-- Two reports together. -/
def Note.join (a b : Note) : Note := ⟨a.nan || b.nan, a.inf || b.inf, a.sat + b.sat, a.mark || b.mark⟩

/-- An integer held to the range of a format; a saturation is reported (R113). -/
def satInt (f : Fmt) (i : Int) : Int × Note :=
  let (lo, hi) := f.range
  if i < lo then (lo, ⟨false, false, 1, false⟩) else if i > hi then (hi, ⟨false, false, 1, false⟩) else (i, .none)

/-- An FP32 value converted to an integer format (R113). -/
def f32ToInt (f : Fmt) (w : Word) : Int × Note :=
  let (lo, hi) := f.range
  match fp32Val w with
  | .nan => (0, ⟨true, false, 0, false⟩)
  | .inf neg => (if neg then lo else hi, ⟨false, false, 1, false⟩)
  | .fin neg m e => satInt f (roundInt neg m e)

/-- CVT_F2I (R124). -/
def cvtF2I (w : Word) : Int := (f32ToInt .int32 w).1

/-! ## FRCP, FRSQ, FEXP (R125 to R127) -/

/-- A refinement of FRCP: two FFMA; an infinity ends the sequence. -/
def frcpStep (a y : Word) : Word :=
  let t := ffma (fneg a) y fp32One
  ffma y t y

/-- 1 ÷ A (R125). -/
def frcp (a : Word) : Word :=
  match fp32Val a with
  | .nan => 0x7FC00000
  | .inf neg => fp32Of (.fin neg 0 0)
  | .fin neg m e =>
    if m = 0 then fp32Of (.inf neg)
    else
      let ex : Int := (m.log2 : Int) + e
      if ex ≤ -129 then fp32Of (.inf neg)
      else
        let i := (m * 2 ^ 7 / 2 ^ m.log2) - 128
        let seed := (2 * 262144 + (257 + 2 * i)) / (2 * (257 + 2 * i))
        let y := fp32Of (.fin neg seed (-10 - ex))
        let y := frcpStep a y
        if isInf y then fp32Of (.inf neg)
        else
          let y := frcpStep a y
          if isInf y then fp32Of (.inf neg) else y

/-- A refinement of FRSQ. -/
def frsqStep (h y : Word) : Word :=
  let t := fmul y y
  let r := ffma (fneg h) t 0x3FC00000
  fmul y r

/-- 1 ÷ √A (R126). -/
def frsq (a : Word) : Word :=
  match fp32Val a with
  | .nan => 0x7FC00000
  | .inf neg => if neg then 0x7FC00000 else 0
  | .fin neg m e =>
    if m = 0 then fp32Of (.inf neg)
    else if neg then 0x7FC00000
    else
      let ex : Int := (m.log2 : Int) + e
      let p := (ex % 2).toNat
      let q := (ex - p) / 2
      let j := (m * 2 ^ 6 / 2 ^ m.log2) - 64
      let seed := (isqrt (2 ^ 29 / ((129 + 2 * j) * 2 ^ p)) + 1) / 2
      let y := fp32Of (.fin false seed (-10 - q))
      let h := fmul 0x3F000000 a
      frsqStep h (frsqStep h y)

/-- 1/7! down to 1/0!, rounded to FP32 under R111 (R127). -/
def expCoeffs : List Word :=
  [0x39500D01, 0x3AB60B61, 0x3C088889, 0x3D2AAAAB, 0x3E2AAAAB, 0x3F000000, 0x3F800000, 0x3F800000]

/-- e^A (R127). -/
def fexp (a : Word) : Word :=
  if isNaN a then 0x7FC00000
  else if fgt a 0x42B20000 then 0x7F800000
  else if fgt 0xC2D00000 a then 0
  else
    let n := cvtF2I (fmul a 0x3FB8AA3B)
    let f := intToF32 n
    let r := ffma (fneg f) 0x3F317200 a
    let r := ffma (fneg f) 0x35BFBE8E r
    match expCoeffs with
    | [] => 0
    | c :: cs =>
      let s := cs.foldl (fun s c => ffma s r c) c
      match fp32Val s with
      | .fin neg m e => fp32Of (.fin neg m (e + n))
      | v => fp32Of v

/-! ## Elements -/

/-- An element widened as R123 has it: an integer, or an FP32 pattern. -/
inductive Val where
  | int (i : Int)
  | flt (w : Word)
  deriving DecidableEq, Repr

/-- A code of a format widened exactly (R110); a NaN keeps its being a NaN and is read as the canonical one. -/
def decodeElem (f : Fmt) (code : Nat) : Val :=
  match f with
  | .int4 => .int (sext 4 code)
  | .int8 => .int (sext 8 code)
  | .uint8 => .int (code % 256 : Nat)
  | .int32 => .int (sext 32 code)
  | .fp32 => .flt (BitVec.ofNat 32 code)
  | f => .flt (fp32Of (f.spec.value code))

/-- The value as FP32: integers are converted under R111. -/
def Val.f32 : Val → Word
  | .int i => intToF32 i
  | .flt w => w

/-- The value as a 32-bit pattern for a register (R123). -/
def Val.pattern : Val → Word
  | .int i => BitVec.ofInt 32 i
  | .flt w => w

/-- Whether the value is a NaN. -/
def Val.isNaN : Val → Bool
  | .int _ => false
  | .flt w => Machine.isNaN w

/-- The exact value of an element. -/
def Val.exact : Val → FVal
  | .int i => .fin (decide (i < 0)) i.natAbs 0
  | .flt w => fp32Val w

/-- A value converted to a floating-point output format with one rounding (R111), and its overflow under R112 with
OUT_SAT. An FP32 output receives the FP32 value. -/
def toFloatFmt (f : Fmt) (outSat : Bool) (v : FVal) : Nat × Note :=
  let sp := f.spec
  match v with
  | .nan => (sp.nanPat, ⟨true, false, 0, false⟩)
  | .inf neg =>
    if f = .fp32 then (sp.signed neg 0x7F800000, ⟨false, true, 0, false⟩)
    else if outSat then (sp.signed neg sp.maxPat, ⟨false, false, 1, false⟩)
    else match sp.infPat with
      | some i => (sp.signed neg i, ⟨false, true, 0, false⟩)
      | none => (sp.nanPat, ⟨true, false, 1, false⟩)
  | .fin neg m e =>
    let r := sp.roundMag m e
    if r > sp.maxPat then
      if outSat then (sp.signed neg sp.maxPat, ⟨false, false, 1, false⟩)
      else match sp.infPat with
        | some i => (sp.signed neg i, ⟨false, true, 1, false⟩)
        | none => (sp.signed neg sp.maxPat, ⟨false, false, 1, false⟩)
    else (sp.signed neg r, .none)

/-- A value converted to the code of an output format (R110 to R113). -/
def encodeElem (f : Fmt) (outSat : Bool) (v : Val) : Nat × Note :=
  if f.isInt then
    let (i, n) := match v with
      | .int i => satInt f i
      | .flt w => f32ToInt f w
    (toCode (4 * f.nibbles) i, n)
  else toFloatFmt f outSat v.exact

/-- A register pattern read for an output format: as INT32 for an integer format, otherwise as FP32 (R146). -/
def patternVal (f : Fmt) (w : Word) : Val := if f.isInt then .int (sext 32 w.toNat) else .flt w

/-! ## Summation order (R117, R128) -/

/-- One level of a pairwise tree. -/
def pairUp (op : Word → Word → Word) : List Word → List Word
  | a :: b :: rest => op a b :: pairUp op rest
  | rest => rest

/-- A pairwise tree of `levels` levels over 2^levels leaves. -/
def treeOf (op : Word → Word → Word) : Nat → List Word → Word
  | 0, l => l.headD 0
  | n + 1, l => treeOf op n (pairUp op l)

/-- The floating-point accumulation of R117 from `init` over products in ascending position: chunks of 16, the last
padded with +0.0. `fuel` bounds the number of chunks. -/
def accumulate (init : Word) : Nat → List Word → Word
  | 0, _ => init
  | _, [] => init
  | fuel + 1, l =>
    let chunk := l.take 16
    let chunk := chunk ++ List.replicate (16 - chunk.length) 0
    accumulate (fadd init (treeOf fadd 4 chunk)) fuel (l.drop 16)

/-- The sum of R117 over a list of FP32 products. -/
def fsum (init : Word) (l : List Word) : Word := accumulate init l.length l

/-- The pairwise sum of blocks of 512, the blocks combined in ascending order (R128). -/
def reduceBlocks (op : Word → Word → Word) (pad : Word) : Nat → Option Word → List Word → Word
  | 0, acc, _ => acc.getD pad
  | _, acc, [] => acc.getD pad
  | fuel + 1, acc, l =>
    let block := l.take 512
    let r := treeOf op 9 (block ++ List.replicate (512 - block.length) pad)
    reduceBlocks op pad fuel (some (match acc with | some a => op a r | none => r)) (l.drop 512)

/-- REDUCE over one line of D0 (R128). -/
def reduceLine (op : Word → Word → Word) (pad : Word) (l : List Word) : Word :=
  reduceBlocks op pad l.length none l

end Sys2Proof.Machine
end

