-- ==== Sys2Proof/Machine/Checker.lean ====
section
/-!
DEFINITION. The residue checker of the cells and the vector unit, and the duplicate adder path (R129 to R131). Without a
disturbance every checked operation is the plain one.
-/
namespace Sys2Proof.Machine

/-- The mathematical residue of an integer mod 7. -/
def mod7 (i : Int) : Nat := (i % 7).toNat

/-- ρ advanced over products, from the residues of their operands (R129). -/
def rhoDot (rho : Nat) (a b : List Int) : Nat := (a.zip b).foldl (fun r p => (r + mod7 p.1 * mod7 p.2) % 7) rho

/-- A 48-bit number with bits flipped. -/
def flip48 (x : Int) (f : BitVec 48) : Int := sext 48 (toCode 48 x ^^^ f.toNat)

/-- The bits flipped in an accumulator at its drain. -/
def drainFlip (ups : List Upset) (place : Nat) : BitVec 48 :=
  ups.foldl (fun f u => match u with
    | .accumulator p x => if p = place then f ^^^ x else f
    | _ => f) 0

/-- The bits flipped in the product at a position of a chunk. -/
def productFlip (ups : List Upset) (place chunk pos : Nat) : BitVec 48 :=
  ups.foldl (fun f u => match u with
    | .product p c j x => if p = place ∧ c = chunk ∧ j = pos then f ^^^ x else f
    | _ => f) 0

/-- The bits flipped in an accumulator as the adders leave it after a chunk. -/
def adderFlip (ups : List Upset) (place chunk : Nat) : Word :=
  ups.foldl (fun f u => match u with
    | .adder p c x => if p = place ∧ c = chunk then f ^^^ x else f
    | _ => f) 0

/-- The bits flipped in the result of an instruction of an output element. -/
def laneFlip (ups : List Upset) (place op : Nat) : BitVec 48 :=
  ups.foldl (fun f u => match u with
    | .lane p o x => if p = place ∧ o = op then f ^^^ x else f
    | _ => f) 0

/-- Whether a disturbance concerns a place. -/
def Upset.hits (place : Nat) : Upset → Bool
  | .accumulator p _ => p == place
  | .product p _ _ _ => p == place
  | .adder p _ _ => p == place
  | .lane p _ _ => p == place

/-! ## Integer accumulators -/

/-- An integer accumulator whose products have been disturbed: the exact sum, and what the wrong products add to it. -/
def dotIntSeen (ups : List Upset) (place : Nat) (sum : Int) (a b : List Int) : Int :=
  ups.foldl (fun s u => match u with
    | .product p c j x =>
      if p = place ∧ 16 * c + j < min a.length b.length then
        let q := a.getD (16 * c + j) 0 * b.getD (16 * c + j) 0
        s + (flip48 q x - q)
      else s
    | _ => s) sum

/-! ## Floating-point accumulators (R130) -/

/-- The FP32 product of two numbers whose integer significand product comes out with bits flipped, and whether the mod-7 check
of the significands fails. -/
def mulSeen (a b : Word) (flip : BitVec 48) : Word × Bool :=
  match fp32Val a, fp32Val b with
  | .fin n m x, .fin n' m' x' =>
    let p := (m * m') ^^^ flip.toNat
    (fp32Of (.fin (n != n') p (x + x')), decide (p % 7 ≠ m % 7 * (m' % 7) % 7))
  | _, _ => (fmul a b, false)

/-- A × B + C with the same check of its multiplication. -/
def fmaSeen (a b c : Word) (flip : BitVec 48) : Word × Bool :=
  match fp32Val a, fp32Val b with
  | .fin n m x, .fin n' m' x' =>
    let p := (m * m') ^^^ flip.toNat
    (fp32Of (FVal.add (.fin (n != n') p (x + x')) (fp32Val c)), decide (p % 7 ≠ m % 7 * (m' % 7) % 7))
  | _, _ => (ffma a b c, false)

/-- The procedure of R117 over disturbed products and sums, chunk by chunk from chunk `c` on. The second component is the sticky
mark: a product check failed, or the duplicate adder path of column `col` mod 16 disagreed in its chunk. `fuel` bounds the
chunks. -/
def accumulateSeen (ups : List Upset) (place col : Nat) : Nat → Nat → Word → List (Word × Word) → Word × Bool
  | 0, _, acc, _ => (acc, false)
  | _, _, acc, [] => (acc, false)
  | fuel + 1, c, acc, l =>
    let ps := ((l.take 16).zipIdx).map fun p => mulSeen p.1.1 p.1.2 (productFlip ups place c p.2)
    let chunk := ps.map (·.1)
    let good := fadd acc (treeOf fadd 4 (chunk ++ List.replicate (16 - chunk.length) 0))
    let seen := good ^^^ adderFlip ups place c
    let rest := accumulateSeen ups place col fuel (c + 1) seen (l.drop 16)
    (rest.1, ps.any (·.2) || (seen != good && c % 16 == col % 16) || rest.2)

/-! ## Tiles and passes (R131) -/

/-- The order in which the tile of an accumulator is drained, with `cols` columns: blocks of 64 rows, and in each of them blocks
of 16 columns (R103; log entry 117). -/
def tileOf (cols place : Nat) : Nat := place / cols / 64 * ceilDiv cols 16 + place % cols / 16

/-- The pass of an output element of the vector unit: 512 elements to a pass (R123). -/
def passOf (place : Nat) : Nat := place / 512

/-- The least of some numbers. -/
def leastOf : List Nat → Option Nat
  | [] => none
  | a :: rest => some (rest.foldl min a)

/-- Whether a unit of work comes before the first one that failed. -/
def beforeBad (bad : Option Nat) (k : Nat) : Bool :=
  match bad with
  | some b => decide (k < b)
  | none => true

end Sys2Proof.Machine
end

