-- ==== Sys2Proof/Machine/InForce.lean ====
section
/-!
DEFINITION. The recipes and overlays in force in a partition, and where their resident weights lie (R253, R280, R343, R438).
-/
namespace Sys2Proof.Machine

/-- The recipe slot bound for a gait of a partition. -/
def State.slotFor (s : State) (p : Fin 6) (g : Nat) : Option (Fin 16) :=
  match s.parts[p].desc with
  | some d =>
    let n := d.recipes.getD g 0xFF
    if n < 16 then some (Fin.ofNat 16 n) else none
  | none => none

/-- The recipe bound for a gait of a partition: a staged copy where the partition has switched to it (R438). -/
def State.recipeFor (s : State) (p : Fin 6) (g : Nat) : Option Recipe :=
  match s.slotFor p g with
  | some n =>
    let sl := s.boot.recipes[n]
    if sl.staged.isSome && !sl.pendPart.contains p.val then sl.staged else sl.bound
  | none => none

/-- The overlay that a partition runs a recipe slot under: a pending change where the partition has switched to it. -/
def State.overlayFor (s : State) (p : Fin 6) (n : Fin 16) : Option Overlay :=
  let x := s.boot.recipes[n]
  match x.pending with
  | some v => if x.pendPart.contains p.val then x.overlay else v
  | none => x.overlay

/-- The resident weight images of an engine in service: for each gait of its partition, where the image of the recipe and that of
its active overlay lie in the paddock, and their bytes (R253, R438). -/
def State.weightImages (s : State) (e : Fin 7) : List (Nat × List Byte) :=
  match s.engines[e].part with
  | none => []
  | some p =>
    let size := s.parts[p].engines
    let l := s.engines[e].logical
    (List.range 4).flatMap fun g => match s.slotFor p g, s.recipeFor p g with
      | some n, some r =>
        (match s.overlayFor p n with
          | some o => [(Config.overlayOffset r.bytes size l, Config.overlayImage r.bytes o.body size l)]
          | none => [])
        ++ [(Config.residentOffset r.bytes size l, Config.residentImage r.bytes size l)]
      | _, _ => []

/-- The weight byte that a paddock offset holds; none where it holds no resident weight. -/
def State.weightByte (s : State) (e : Fin 7) (o : Nat) : Option Byte :=
  ((s.weightImages e).find? fun w => decide (w.1 ≤ o) && decide (o < w.1 + w.2.length)).map fun w => byteAt w.2 (o - w.1)

end Sys2Proof.Machine
end

