-- ==== Sys2Proof/Machine/MainMem.lean ====
section
/-!
DEFINITION. Main memory: where a data address lives, line checks, the valid-bit map, reads, writes and merges
(11_memory_and_integrity.md, R315 to R329).
-/
namespace Sys2Proof.Machine

/-! ## Sizes and addresses -/

/-- Bytes of window range per channel (R318). -/
def winBytes : Nat := 31457280

/-- Bytes installed on a channel (R315). -/
def Memory.channelBytes (m : Memory) : Nat := 2 ^ (31 + m.memCfg.toNat % 2 + m.memCfg.toNat / 2 % 2)

/-- First address past the data range: 15/16 of the installed capacity (R4, R315). -/
def Memory.dataEnd (m : Memory) : Nat := 12 * m.channelBytes / 16 * 15

/-- Ranks per channel (R346). -/
def Memory.ranks (m : Memory) : Nat := 1 + m.memCfg.toNat / 2 % 2

/-- The canonical form of main memory and of the arena: addresses strictly rising, no entry equal to what an unlisted address
reads as. -/
def Memory.wf (m : Memory) : Bool := cellsOk 0 m.cells && cellsOk 0 m.arena

/-- The channel group that covers channel `c`: of a slot plan in force, or the channel alone (R318). -/
def Memory.group (m : Memory) (c : Nat) : Nat × Nat :=
  match m.slotPlans.find? (fun p => decide (p.chanBase ≤ c) && decide (c < p.chanBase + p.chanCount)) with
  | some p => (p.chanBase, p.chanCount)
  | none => (c, 1)

/-- Where a data address lives. -/
structure Place where
  channel : Fin 12
  row     : Nat
  line    : Nat
  deriving DecidableEq, Repr

/-- Channel, row and data line of a data address (R318). -/
def Memory.place (m : Memory) (d : Nat) : Place :=
  if d < 12 * winBytes then
    let (base, count) := m.group (d / winBytes)
    let n := (d - base * winBytes) / 64
    let ml := n / count
    ⟨Fin.ofNat 12 (base + n % count), ml / 60, ml % 60⟩
  else
    let n := (d - 12 * winBytes) / 64
    let ml := 8192 * 60 + n / 12
    ⟨Fin.ofNat 12 n, ml / 60, ml % 60⟩

/-- The data address of a data line of a row: the inverse of `Memory.place`. -/
def Memory.addrOf (m : Memory) (c : Fin 12) (row line : Nat) : Nat :=
  let ml := row * 60 + line
  if row < 8192 then
    let (base, count) := m.group c.val
    base * winBytes + (ml * count + (c.val - base)) * 64
  else 12 * winBytes + ((ml - 8192 * 60) * 12 + c.val) * 64

/-- Rank, bank and DRAM row of a row (R319). -/
def Memory.dramPlace (m : Memory) (row : Nat) : Nat × Nat × Nat :=
  if m.ranks = 2 then (row / 8 % 2, row % 8, row / 16) else (0, row % 8, row / 8)

/-- The row of a rank, bank and DRAM row: the inverse of `Memory.dramPlace`. -/
def Memory.rowOf (m : Memory) (rank bank dramRow : Nat) : Nat :=
  if m.ranks = 2 then dramRow * 16 + rank * 8 + bank else dramRow * 8 + bank

/-- Where a byte of a line lies in its DRAM row: subchannel (0 for A, 1 for B) and column (R319). -/
def Place.byteColumn (p : Place) (i : Nat) : Nat × Nat := (i / 32 % 2, p.line * 32 + i % 32)

/-- The line that the two subchannels deliver: the 32 bytes of A, then the 32 bytes of B (R319). -/
def joinHalves (a b : List Byte) : List Byte := sliceAt a 0 32 ++ sliceAt b 0 32

/-- Address of the line that holds an address. -/
def lineOf (a : Nat) : Nat := a / 64 * 64

/-- Addresses of the lines that `len` bytes from `a` touch, ascending. -/
def linesOf (a len : Nat) : List Nat :=
  if len = 0 then [] else (List.range ((a + len - 1) / 64 - a / 64 + 1)).map fun i => (a / 64 + i) * 64

/-- Whether the frame of an address is valid: its bit is set, or it is a window frame after boot (R325, R327). -/
def Memory.frameValid (m : Memory) (a : Nat) : Bool :=
  (m.windowOn && decide (a < 12 * winBytes)) || m.valid.contains (a / 4096)

/-- The frame of an address entered in the valid-bit map. -/
def Memory.setValid (m : Memory) (a : Nat) : Memory :=
  if m.frameValid a then m
  else
    let f := a / 4096
    { m with valid := m.valid.filter (fun x => decide (x < f)) ++ f :: m.valid.filter (fun x => decide (f < x)) }

/-! ## Line checks -/

/-- The check word of a line (R321): CRC-32C of its bytes, XORed with bits [37:6] of its address. -/
def lineCheck (a : Nat) (data : List Byte) : Word := crc32c data ^^^ BitVec.ofNat 32 (a / 64)

/-- The bytes of a line. -/
def Memory.lineBytes (m : Memory) (a : Nat) : List Byte := cellsSlice 0 m.cells a 64

/-- The stored check word of a line: the one listed, else the correct one. -/
def Memory.storedCheck (m : Memory) (a : Nat) : Word :=
  match m.checks.find? (fun c => c.1 == a) with
  | some c => c.2
  | none => lineCheck a (m.lineBytes a)

/-- Whether a line of a valid frame is poisoned (R329). -/
def Memory.poisoned (m : Memory) (a : Nat) : Bool := m.storedCheck a == ~~~(lineCheck a (m.lineBytes a))

/-- Whether a line cannot be read: its frame is valid and its stored check word is not the correct one. -/
def Memory.lineBad (m : Memory) (a : Nat) : Bool := m.frameValid a && m.checks.any (fun c => c.1 == a)

/-- The listed check word of a line forgotten: the line holds its correct one. -/
def Memory.clearCheck (m : Memory) (a : Nat) : Memory := { m with checks := m.checks.filter (fun c => c.1 != a) }

/-- A line poisoned: the inverse of its correct check word is stored (R329). -/
def Memory.poison (m : Memory) (a : Nat) : Memory :=
  let m := m.clearCheck a
  { m with checks := (a, ~~~(lineCheck a (m.lineBytes a))) :: m.checks }

/-! ## Check lines (R322) -/

/-- The check word that a check line holds for a data line of its row. In a frame that nothing has filled it is the 0 that ROM
wrote (R327). -/
def Memory.checkWord (m : Memory) (c : Fin 12) (row line : Nat) : Word :=
  let a := m.addrOf c row line
  if m.frameValid a then m.storedCheck a else 0

/-- The 64 bytes of check line 60 + `q` of a row: the check words of data lines 15 q to 15 q + 14, each little-endian, then the
CRC-32C of those 60 bytes with no TAG (R321, R322). -/
def Memory.checkLineBytes (m : Memory) (c : Fin 12) (row q : Nat) : List Byte :=
  let body := (List.range 15).flatMap fun j => leBytes 4 (m.checkWord c row (15 * q + j)).toNat
  body ++ leBytes 4 (crc32c body).toNat

/-- Whether a check line is valid: word 15 matches bytes 0 to 59 (R322). -/
def checkLineValid (b : List Byte) : Bool := leAt b 60 4 == (crc32c (b.take 60)).toNat

/-- The check word of data line `line` of a row in the bytes of its check line. -/
def checkWordIn (b : List Byte) (line : Nat) : Word := BitVec.ofNat 32 (leAt b (4 * (line % 15)) 4)

/-! ## Check bits of SRAM (R332) -/

/-- The number of ones among nine bits. -/
def onesOf (w : NineFlip) : Nat := (List.range 9).countP fun i => w.getLsbD i

/-- Whether nine bits pass: the number of ones is odd. -/
def nineOk (w : NineFlip) : Bool := onesOf w % 2 == 1

/-- The check bit that a write stores with a byte: it makes the number of ones odd. -/
def checkBit (b : Byte) : Bool := (List.range 8).countP (fun i => b.getLsbD i) % 2 == 0

/-- A byte with its check bit; `bad` where the stored check bit is not the one a write stores. -/
def nineBits (b : Byte) (bad : Bool) : NineFlip := BitVec.ofNat 9 (b.toNat + 256 * b2n (checkBit b != bad))

/-- The data bits of nine bits. -/
def nineByte (w : NineFlip) : Byte := w.setWidth 8

/-- Whether a byte of an SRAM structure is stored with an even number of ones. -/
def Memory.sramBad (m : Memory) (u : SramUnit) (o : Nat) : Bool := m.flipped.contains (u, o)

/-- The check bits of `len` bytes written anew: all of them are right. -/
def Memory.rewritten (m : Memory) (u : SramUnit) (o len : Nat) : Memory :=
  { m with flipped := m.flipped.filter fun x => !(x.1 == u && decide (o ≤ x.2) && decide (x.2 < o + len)) }

/-- SRAM units that have lost what they held: no byte of them is in error. -/
def Memory.forgetFlips (m : Memory) (us : List SramUnit) : Memory :=
  { m with flipped := m.flipped.filter fun x => !us.contains x.1 }

/-- The stored check state of a byte after bits of it have flipped. -/
def Memory.flipCheck (m : Memory) (u : SramUnit) (o : Nat) (flip : NineFlip) : Memory :=
  if onesOf flip % 2 = 0 then m
  else if m.sramBad u o then { m with flipped := m.flipped.filter fun x => x != (u, o) }
  else { m with flipped := (u, o) :: m.flipped }

/-- Whether a line is served from a remap entry (R334). -/
def Memory.remapped (m : Memory) (a : Nat) : Bool :=
  let p := m.place a
  m.remaps.any fun r => r.channel == p.channel.val && (r.rank, r.bank, r.dramRow) == m.dramPlace p.row && r.rowLine == p.line

/-! ## The check cache (R323) -/

/-- The check line of a data line: four to a row (R322). -/
def Place.checkLine (p : Place) : Nat := p.row * 4 + p.line / 15

/-- The check cache after an access to a check line: 1,024 sets of four ways, least recently used (log entry 11). -/
def cacheTouch (cache : List Nat) (k : Nat) : List Nat :=
  let rest := cache.filter (fun x => x != k)
  let mates := rest.filter (fun x => x % 1024 == k % 1024)
  match mates[3]? with
  | some old => k :: rest.filter (fun x => x != old)
  | none => k :: rest

/-- A data line's check line is wanted: a general-range check line that is not in the cache counts a miss. -/
def State.touchCheck (s : State) (a : Nat) : State :=
  if a < 12 * winBytes then s
  else
    let p := s.mem.place a
    let k := p.checkLine
    let s := if s.mem.channels[p.channel].cache.contains k then s else s.countChannel p.channel Chan.cacheMisses 1
    s.onChannel p.channel fun c => { c with cache := cacheTouch c.cache k }

/-- The place of a check line in a check cache: four ways to a set, those of a set in ascending order (log entry 124). -/
def cachePlace (cache : List Nat) (k : Nat) : Nat :=
  4 * (k % 1024) + cache.countP fun j => j % 1024 == k % 1024 && decide (j < k)

/-- Where the check line of a data line is held: in the window check store, or in the check cache (R323). -/
def Memory.checkStore (m : Memory) (a : Nat) : SramUnit × Nat :=
  let p := m.place a
  if a < 12 * winBytes then (.windowStore p.channel, 64 * p.checkLine)
  else (.checkCache p.channel, 64 * cachePlace m.channels[p.channel].cache p.checkLine)

/-- The check line of a data line read from its store: one that fails its check is reread from DRAM (R333; log entry 124). -/
def State.readCheck (s : State) (a : Nat) : State :=
  let (u, o) := s.mem.checkStore a
  if s.mem.flipped.any fun x => x.1 == u && decide (o ≤ x.2) && decide (x.2 < o + 64) then
    { s.countChip Chip.sramFailures 1 with mem := s.mem.rewritten u o 64 }
  else s

/-! ## Reads and writes -/

/-- The bytes that a read of a readable range delivers: an address of an invalid frame is not listed and reads 0. -/
def Memory.bytes (m : Memory) (a len : Nat) : List Byte := cellsSlice 0 m.cells a len

/-- Whether every line of a range can be read. -/
def Memory.readable (m : Memory) (a len : Nat) : Bool := (linesOf a len).all (fun l => !m.lineBad l)

/-- What a read of a line does to the counters: its check line is wanted, and a poisoned line counts a hit. A read in an
invalid frame does nothing (R325, R329). -/
def State.noteRead (s : State) (a : Nat) : State :=
  if s.mem.frameValid a then
    let s := (s.touchCheck a).readCheck a
    if s.mem.poisoned a then s.countChannel (s.mem.place a).channel Chan.poisonHits 1 else s
  else s

/-- Bytes placed in one line, its check word made correct, its frame valid. -/
def Memory.put (m : Memory) (a : Nat) (bs : List Byte) : Memory :=
  let m := m.setValid a
  let m := m.clearCheck (lineOf a)
  { m with cells := cellsWrite 0 m.cells a bs }

/-- A write of bytes that lie in one line (R324, R326): the first write to an invalid frame fills it; a partial write of
a valid frame is a merge, which a line that cannot be read refuses; a whole line always replaces. The second component
says whether it was written. -/
def State.writeLine (s : State) (a : Nat) (bs : List Byte) : State × Bool :=
  let l := lineOf a
  let ch := (s.mem.place l).channel
  if bs.isEmpty then (s, true)
  else if !s.mem.frameValid a then
    let s := s.countChannel ch Chan.frameFills 1
    (({ s with mem := s.mem.put a bs }).touchCheck l, true)
  else if bs.length = 64 then
    (({ s with mem := s.mem.put a bs }).touchCheck l, true)
  else if s.mem.lineBad l then
    (if s.mem.poisoned l then s.countChannel ch Chan.poisonHits 1 else s, false)
  else
    let s := s.countChannel ch Chan.merges 1
    (({ s with mem := s.mem.put a bs }).touchCheck l, true)

/-- A write of bytes, line by line in ascending order; it stops at the first line that refuses. `fuel` bounds the lines. -/
def State.writeLines (s : State) (a : Nat) (bs : List Byte) : Nat → State × Bool
  | 0 => (s, true)
  | fuel + 1 =>
    if bs.isEmpty then (s, true)
    else
      let k := 64 - a % 64
      match s.writeLine a (bs.take k) with
      | (s, true) => s.writeLines (a + k) (bs.drop k) fuel
      | (s, false) => (s, false)

/-- A write of bytes to main memory. -/
def State.mainWrite (s : State) (a : Nat) (bs : List Byte) : State × Bool :=
  s.writeLines a bs (bs.length / 64 + 2)

/-- A write of the Rein, a decoder or the front end, whose outcome it does not examine. -/
def State.mainPut (s : State) (a : Nat) (bs : List Byte) : State := (s.mainWrite a bs).1

end Sys2Proof.Machine
end

