-- ==== Sys2Proof/Machine/Operands.lean ====
section
/-!
DEFINITION. The operands of an engine command: the common header, tensor references, layouts, footprints, the zero-run
codec, scale entries, and the reading and writing of tensors (R108, R132 to R137, R164, R165, R173 to R177).
-/
namespace Sys2Proof.Machine

/-! ## Status codes (R139, R193, R228, R246, R312) -/

/-- OK. -/ abbrev stOk : Half := 0x0000
/-- BAD_OPCODE. -/ abbrev stBadOpcode : Half := 0x0001
/-- DESC_VERSION. -/ abbrev stDescVersion : Half := 0x0002
/-- RESERVED_NONZERO. -/ abbrev stReserved : Half := 0x0003
/-- DESC_LENGTH. -/ abbrev stDescLength : Half := 0x0004
/-- FORMAT_PAIR. -/ abbrev stFormatPair : Half := 0x0005
/-- RANGE. -/ abbrev stRange : Half := 0x0006
/-- BAD_SPACE. -/ abbrev stBadSpace : Half := 0x0007
/-- BOUNDS. -/ abbrev stBounds : Half := 0x0008
/-- BUS_ERROR. -/ abbrev stBusError : Half := 0x0009
/-- RESIDUE_MISMATCH. -/ abbrev stResidue : Half := 0x000A
/-- WATCHDOG. -/ abbrev stWatchdog : Half := 0x000B
/-- ACC_STATE. -/ abbrev stAccState : Half := 0x000C
/-- CROSS_WRITE. -/ abbrev stCrossWrite : Half := 0x000D
/-- SCALE_INVALID. -/ abbrev stScaleInvalid : Half := 0x0120
/-- PHASE_CLASH. -/ abbrev stPhaseClash : Half := 0x0200
/-- HAZARD_UNMET. -/ abbrev stHazardUnmet : Half := 0x0201
/-- WINDOW_SLOT_BUSY. -/ abbrev stWindowSlotBusy : Half := 0x0202
/-- TAG_EXHAUSTED. -/ abbrev stTagExhausted : Half := 0x0203
/-- SLOT_OVERRUN. -/ abbrev stSlotOverrun : Half := 0x0205
/-- SLOT_NONE. -/ abbrev stSlotNone : Half := 0x0206
/-- SLOT_CHANNEL. -/ abbrev stSlotChannel : Half := 0x0207
/-- LINE_PARTIAL. -/ abbrev stLinePartial : Half := 0x0208

/-! ## The common header (R132) -/

/-- OPCODE. -/ def dOpcode (d : List Byte) : Nat := leAt d 0 1
/-- LAST_IN_STEP. -/ def dLast (d : List Byte) : Bool := bit (leAt d 3 1) 1
/-- OUT_SAT. -/ def dOutSat (d : List Byte) : Bool := bit (leAt d 3 1) 2
/-- DESC_LEN. -/ def dLen (d : List Byte) : Nat := leAt d 4 2
/-- CMD_INDEX. -/ def dIndex (d : List Byte) : Nat := leAt d 6 2
/-- CONTEXT_ID with its bits [23:20]. -/ def dContext (d : List Byte) : Nat := leAt d 8 3
/-- MULTI. -/ def dMulti (d : List Byte) : Bool := bit (leAt d 8 4) 24
/-- STEP_ID. -/ def dStepId (d : List Byte) : Nat := leAt d 12 4
/-- COMPL_ADDR. -/ def dComplAddr (d : List Byte) : Nat := bits (leAt d 16 8) 0 44
/-- COMPL_SPACE. -/ def dComplSpace (d : List Byte) : Nat := bits (leAt d 16 8) 44 3

/-- Whether the reserved fields of the header are zero. -/
def dReservedOk (d : List Byte) : Bool :=
  leAt d 3 1 / 8 == 0 && bits (leAt d 8 4) 27 5 == 0 && bits (leAt d 16 8) 47 17 == 0 && zeroAt d 28 4

/-- Whether the header's fields lie within their ranges: CONTEXT_ID, and the alignment of COMPL_ADDR. -/
def dRangeOk (d : List Byte) : Bool := decide (dContext d < 2 ^ 20) && dComplAddr d % 16 == 0

/-! ## Tensor references (R136) -/

/-- The four indices of an element. -/
structure Ix where
  i0 : Nat
  i1 : Nat
  i2 : Nat
  i3 : Nat
  deriving DecidableEq, Repr

/-- A tensor reference. -/
structure Tref where
  raw    : List Byte
  addr   : Nat
  space  : Nat
  code   : Nat
  layout : Nat
  d0     : Nat
  d1     : Nat
  d2     : Nat
  d3     : Nat
  s1     : Nat
  s2     : Nat
  s3     : Nat
  sAddr  : Nat
  sSpace : Nat
  sMode  : Nat
  deriving DecidableEq, Repr

/-- The tensor reference at an offset of a descriptor. -/
def trefAt (d : List Byte) (o : Nat) : Tref :=
  let q := leAt d o 8
  let sc := leAt d (o + 40) 8
  { raw := sliceAt d o 48
    addr := bits q 0 44
    space := bits q 44 3
    code := bits q 48 4
    layout := bits q 52 4
    d0 := leAt d (o + 8) 3
    d1 := leAt d (o + 12) 3
    d2 := leAt d (o + 16) 3
    d3 := leAt d (o + 20) 3
    s1 := leAt d (o + 24) 4
    s2 := leAt d (o + 28) 4
    s3 := leAt d (o + 32) 4
    sAddr := bits sc 0 44
    sSpace := bits sc 44 3
    sMode := bits sc 47 3 }

/-- Whether a reference is all-zero. -/
def Tref.absent (t : Tref) : Bool := t.raw.all (· == 0)

/-- Whether the reserved fields of a reference are zero, and its scale address under SCALE_MODE NONE (R136, R173). -/
def Tref.reservedOk (t : Tref) : Bool :=
  let q := leAt t.raw 0 8
  let sc := leAt t.raw 40 8
  !bit q 47 && bits q 56 8 == 0 && byteAt t.raw 11 == 0 && byteAt t.raw 15 == 0 && byteAt t.raw 19 == 0
    && byteAt t.raw 23 == 0 && zeroAt t.raw 36 4 && bits sc 50 14 == 0
    && (t.sMode != 0 || (t.sAddr == 0 && t.sSpace == 0))

/-- The format of a reference, when its code is assigned. -/
def Tref.fmt? (t : Tref) : Option Fmt := fmtOf t.code

/-- The format of a reference whose code has been judged. -/
def Tref.fmt (t : Tref) : Fmt := (fmtOf t.code).getD .fp32

/-- Whether an extent is 0. -/
def Tref.empty (t : Tref) : Bool := t.d0 == 0 || t.d1 == 0 || t.d2 == 0 || t.d3 == 0

/-- ROW_MAJOR. -/ abbrev rowMajor : Nat := 0
/-- NHWC16. -/ abbrev nhwc16 : Nat := 1
/-- NC16HW16. -/ abbrev nc16hw16 : Nat := 2
/-- NCHW. -/ abbrev nchw : Nat := 3
/-- PLANAR8. -/ abbrev planar8 : Nat := 4
/-- ZRC. -/ abbrev zrcLayout : Nat := 5
/-- KV_PAGED. -/ abbrev kvPaged : Nat := 6

/-- Alignment in bytes of an element. -/
def Fmt.align (f : Fmt) : Nat := if f = .int4 then 1 else f.nibbles / 2

/-- Size of a scale entry (R173). -/
def Tref.entrySize (t : Tref) : Nat := if t.sMode = 1 then 4 else 2

/-- Whether layout, strides and alignment of a reference lie within their ranges (R136, R137, R165, R173). The bounds on
strides hold for an output. -/
def Tref.rangeOk (t : Tref) (out : Bool) : Bool :=
  let a := t.fmt.align
  decide (t.layout ≤ 6)
    && decide (t.sMode ≤ 3)
    && (t.layout == rowMajor || (t.s1 == 0 && t.s2 == 0 && t.s3 == 0))
    && (t.layout != planar8 || (t.fmt == .uint8 && t.d0 == 1))
    && t.addr % (if t.layout = zrcLayout then 8 else a) == 0
    && t.s1 % a == 0 && t.s2 % a == 0 && t.s3 % a == 0
    && (t.sMode == 0 || t.sAddr % t.entrySize == 0)
    && (!out || t.layout != rowMajor
      || (decide (2 * t.s1 ≥ t.d0 * t.fmt.nibbles) && decide (t.s2 ≥ t.d1 * t.s1) && decide (t.s3 ≥ t.d2 * t.s2)))

/-- Channels padded to 16. -/
def Tref.cp (t : Tref) : Nat := roundUp t.d0 16

/-- Bytes of one image line of the NHWC16 stream (R164). -/
def Tref.zrcLine (t : Tref) : Nat := t.d1 * t.cp * t.fmt.nibbles / 2

/-- Line pitch of a ZRC tensor (R165). -/
def Tref.pitch (t : Tref) : Nat := ceilDiv t.zrcLine 64 * 72

/-- Offset of an element in half bytes (R137). For ZRC it is the offset in the logical NHWC16 stream. -/
def Tref.offset (t : Tref) (i : Ix) : Nat :=
  let k := t.fmt.nibbles
  if t.layout = rowMajor then i.i0 * k + 2 * (i.i1 * t.s1 + i.i2 * t.s2 + i.i3 * t.s3)
  else if t.layout = nc16hw16 then
    ((((i.i3 * ceilDiv t.d0 16 + i.i0 / 16) * t.d2 + i.i2) * t.d1 + i.i1) * 16 + i.i0 % 16) * k
  else if t.layout = nchw ∨ t.layout = planar8 then
    (((i.i3 * t.d0 + i.i0) * t.d2 + i.i2) * t.d1 + i.i1) * k
  else (((i.i3 * t.d2 + i.i2) * t.d1 + i.i1) * t.cp + i.i0) * k

/-- Bytes of a reference's footprint, from its address (R134). -/
def Tref.footBytes (t : Tref) : Nat :=
  if t.empty then 0
  else
    let k := t.fmt.nibbles
    if t.layout = rowMajor then ceilDiv (t.offset ⟨t.d0 - 1, t.d1 - 1, t.d2 - 1, t.d3 - 1⟩ + k) 2
    else if t.layout = nhwc16 then t.d3 * t.d2 * t.d1 * t.cp * k / 2
    else if t.layout = nc16hw16 then t.d3 * t.cp * t.d2 * t.d1 * k / 2
    else if t.layout = zrcLayout then t.d3 * t.d2 * t.pitch
    else ceilDiv (t.d3 * t.d0 * t.d2 * t.d1 * k) 2

/-- The indices of a tensor in layout order; none where the layout holds a padding channel. -/
def Tref.slots (t : Tref) : List (Ix × Bool) :=
  let r := List.range
  if t.layout = nc16hw16 then
    (r t.d3).flatMap fun n => (r (ceilDiv t.d0 16)).flatMap fun b => (r t.d2).flatMap fun h =>
      (r t.d1).flatMap fun w => (r 16).map fun c => (⟨b * 16 + c, w, h, n⟩, decide (b * 16 + c < t.d0))
  else if t.layout = nchw ∨ t.layout = planar8 then
    (r t.d3).flatMap fun n => (r t.d0).flatMap fun c => (r t.d2).flatMap fun h =>
      (r t.d1).map fun w => (⟨c, w, h, n⟩, true)
  else
    let cs := if t.layout = rowMajor then t.d0 else t.cp
    (r t.d3).flatMap fun n => (r t.d2).flatMap fun h => (r t.d1).flatMap fun w =>
      (r cs).map fun c => (⟨c, w, h, n⟩, decide (c < t.d0))

/-- The indices of the elements, without padding. -/
def Tref.indices (t : Tref) : List Ix := (t.slots.filter (·.2)).map (·.1)

/-! ## Spaces and footprints (R133 to R136, R342) -/

/-- Bytes of a paddock. -/
def paddockBytes : Nat := 50331648

/-- Bytes of the arena. -/
def arenaBytes : Nat := 67108864

/-- The bank of a paddock offset (R104). -/
def bankOf (o : Nat) : Nat := o / 128 % 64

/-- The bank row of a paddock offset (R104). -/
def bankRow (o : Nat) : Nat := o / 8192

/-- The first offset of a bank row of a bank: the inverse of `bankOf` and `bankRow`. -/
def accessAt (bank row : Nat) : Nat := row * 8192 + bank * 128

/-- The arena area of a partition: base and byte count (R342). -/
def State.arenaArea (s : State) (p : Fin 6) : Nat × Nat :=
  (s.boot.limits.arenaBase.getD p.val 0, s.boot.limits.arenaBytes.getD p.val 0)

/-- The engine at a logical index of a partition: its member, or the member that is fenced while the step awaits its Remount
(R136). -/
def State.memberAt (s : State) (p : Fin 6) (l : Nat) : Option (Fin 7) :=
  (s.member? p l).or (match s.parts[p].step with
    | some r => (r.fencing.find? fun f => f.2 == l).map (·.1)
    | none => none)

/-- Where bytes of a space lie, or the status of check 7. -/
def State.locate (s : State) (e : Fin 7) (space addr len : Nat) : Except Half Foot :=
  match space with
  | 0 =>
    if addr ≥ s.mem.dataEnd then .error stBadSpace
    else if addr + len > s.mem.dataEnd then .error stBounds
    else .ok ⟨.main, addr, addr + len⟩
  | 1 =>
    match s.engines[e].part with
    | none => .error stBounds
    | some p =>
      let (base, size) := s.arenaArea p
      if addr < base ∨ addr + len > base + size ∨ size = 0 then .error stBounds
      else .ok ⟨.arena, addr, addr + len⟩
  | 2 => if addr + len > paddockBytes then .error stBounds else .ok ⟨.paddock e, addr, addr + len⟩
  | 3 =>
    let off := addr % 2 ^ 26
    if bits addr 26 14 ≠ 0 then .error stBadSpace
    else
      match s.engines[e].part with
      | none => .error stBounds
      | some p =>
        match s.memberAt p (addr / 2 ^ 40) with
        | none => .error stBounds
        | some m => if off + len > paddockBytes then .error stBounds else .ok ⟨.paddock m, off, off + len⟩
  | _ => .error stBadSpace

/-- The status of check 7 for bytes of a space, none when they are in place. -/
def State.placeStatus (s : State) (e : Fin 7) (space addr len : Nat) : Option Half :=
  match s.locate e space addr len with
  | .error st => some st
  | .ok _ => none

/-- The bytes of a space as a footprint, whether or not check 7 would pass them; none where they name no store. -/
def State.footOf (s : State) (e : Fin 7) (space addr len : Nat) : List Foot :=
  if len = 0 then []
  else match space with
    | 0 => [⟨.main, addr, addr + len⟩]
    | 1 => [⟨.arena, addr, addr + len⟩]
    | 2 => [⟨.paddock e, addr, addr + len⟩]
    | 3 => match s.engines[e].part.bind fun p => s.memberAt p (addr / 2 ^ 40) with
      | none => []
      | some m => [⟨.paddock m, addr % 2 ^ 26, addr % 2 ^ 26 + len⟩]
    | _ => []

/-- How a PER_CHANNEL scale tensor is indexed: by i1 for a MATMUL B, by i3 for a CONV WGT (R174). -/
def Tref.scaleBytes (t : Tref) (conv : Bool) : Nat :=
  if t.empty then 0
  else
    let rows := if t.layout = rowMajor then t.d1 * t.d2 * t.d3 else t.d3
    match t.sMode with
    | 1 => 4 * rows
    | 2 => 2 * rows * ceilDiv t.d0 32
    | 3 => 2 * (if conv then t.d3 else t.d1)
    | _ => 0

/-- The checks of space for a tensor and its scale tensor (check 7 of R133). -/
def State.trefPlaces (s : State) (e : Fin 7) (t : Tref) (conv : Bool := false) : List (Option Half) :=
  s.placeStatus e t.space t.addr t.footBytes
    :: (if t.sMode = 0 then [] else [s.placeStatus e t.sSpace t.sAddr (t.scaleBytes conv)])

/-- The footprint of a tensor's data. -/
def State.dataFoot (s : State) (e : Fin 7) (t : Tref) : List Foot := s.footOf e t.space t.addr t.footBytes

/-- The footprint of a tensor's scale entries. -/
def State.scaleFoot (s : State) (e : Fin 7) (t : Tref) (conv : Bool := false) : List Foot :=
  if t.sMode = 0 then [] else s.footOf e t.sSpace t.sAddr (t.scaleBytes conv)

/-- The footprints of a tensor and its scale entries. -/
def State.trefFeet (s : State) (e : Fin 7) (t : Tref) (conv : Bool := false) : List Foot :=
  s.dataFoot e t ++ s.scaleFoot e t conv

/-- Whether two footprints share a byte. -/
def Foot.meets (a b : Foot) : Bool := a.store == b.store && decide (a.lo < b.hi) && decide (b.lo < a.hi)

/-- Whether two sets of footprints share a byte. -/
def feetMeet (a b : List Foot) : Bool := a.any fun x => b.any fun y => x.meets y

/-- Whether an access meets a footprint that another engine of the partition has published (R135). -/
def State.crossWrite (s : State) (e : Fin 7) (feet : List Foot) : Bool :=
  match s.engines[e].part with
  | none => false
  | some p => (s.members p).any fun m => m != e && feetMeet feet s.engines[m].published

/-! ## Bytes of a store -/

/-- `len` bytes of a store. -/
def State.peek (s : State) (st : Store) (a len : Nat) : List Byte :=
  match st with
  | .main => s.mem.bytes a len
  | .arena => cellsSlice 0 s.mem.arena a len
  | .paddock e => cellsSlice 0 s.engines[e].paddock a len

/-- The SRAM structure of a store; main memory has none. -/
def Store.unit : Store → Option SramUnit
  | .main => none
  | .arena => some .arena
  | .paddock e => some (.paddock e)

/-- Bytes written to a paddock, each with its check bit (R332). -/
def State.paddockWrite (s : State) (e : Fin 7) (a : Nat) (bs : List Byte) : State :=
  { s.onEngine e fun x => { x with paddock := cellsWrite 0 x.paddock a bs } with
    mem := s.mem.rewritten (.paddock e) a bs.length }

/-- Bytes written to the arena, each with its check bit (R332). -/
def State.arenaWrite (s : State) (a : Nat) (bs : List Byte) : State :=
  { s with mem := { s.mem.rewritten .arena a bs.length with arena := cellsWrite 0 s.mem.arena a bs } }

/-- Bytes written to a store, and whether they were (R324). -/
def State.poke (s : State) (st : Store) (a : Nat) (bs : List Byte) : State × Bool :=
  match st with
  | .main => s.mainWrite a bs
  | .arena => (s.arenaWrite a bs, true)
  | .paddock e => (s.paddockWrite e a bs, true)

/-- Byte writes in order, one after another; the flag falls at the first that is refused. -/
def State.pokes (s : State) (st : Store) : List (Nat × List Byte) → State × Bool
  | [] => (s, true)
  | (a, bs) :: rest =>
    match s.poke st a bs with
    | (s, true) => s.pokes st rest
    | (s, false) => (s, false)

/-- Bytes of a space; zeros where the space is not legal. -/
def State.peekSpace (s : State) (e : Fin 7) (space addr len : Nat) : List Byte :=
  match s.locate e space addr len with
  | .ok f => s.peek f.store f.lo len
  | .error _ => List.replicate len 0

/-- Bytes written to a space. -/
def State.pokeSpace (s : State) (e : Fin 7) (space addr : Nat) (bs : List Byte) : State × Bool :=
  match s.locate e space addr bs.length with
  | .ok f => s.poke f.store f.lo bs
  | .error _ => (s, false)

/-! ## Device addresses (R3 to R5) -/

/-- What a device address names. -/
inductive DevicePlace where
  | bytes (store : Store) (offset : Nat)
  | registers
  | unmapped
  deriving DecidableEq, Repr

/-- The decoding of a 44-bit device address. The aperture of a fenced engine and of an engine that is not built answers as an
unmapped address does. -/
def State.devicePlace (s : State) (a : Nat) : DevicePlace :=
  if a < 0x18000000000 then (if a < s.mem.dataEnd then .bytes .main a else .unmapped)
  else if 0x80000000000 ≤ a ∧ a < 0x80000000000 + arenaBytes then .bytes .arena (a - 0x80000000000)
  else if 0x90000000000 ≤ a ∧ a < 0x90000000000 + 16 * 0x4000000 then
    let n := (a - 0x90000000000) / 0x4000000
    let o := (a - 0x90000000000) % 0x4000000
    if n < 7 ∧ o < paddockBytes ∧ s.engines[Fin.ofNat 7 n].role ≠ .fenced then .bytes (.paddock (Fin.ofNat 7 n)) o
    else .unmapped
  else if 0xF0000000000 ≤ a ∧ a < 0x100000000000 then .registers
  else .unmapped

/-- Where `len` bytes from a device address lie, when they lie in one store. -/
def State.deviceBytes (s : State) (a len : Nat) : Option (Store × Nat) :=
  match s.devicePlace a, s.devicePlace (a + len - 1) with
  | .bytes st o, .bytes st' _ => if st = st' then some (st, o) else none
  | _, _ => none

/-! ## The zero-run codec (R164, R165) -/

/-- One block as it is stored: MASK, then the bytes that are not zero. -/
def zrcBlock (b : List Byte) : List Byte :=
  let mask := (List.range 64).foldl (fun m i => if byteAt b i = 0 then m else m + 2 ^ i) 0
  leBytes 8 mask ++ b.filter (· != 0)

/-- The stored bytes of a line. `fuel` bounds the blocks. -/
def zrcPack : Nat → List Byte → List Byte
  | 0, _ => []
  | fuel + 1, l => if l.isEmpty then [] else zrcBlock (sliceAt l 0 64) ++ zrcPack fuel (l.drop 64)

/-- The bytes of a block from its mask and the bytes that follow it. -/
def zrcExpand (mask : Nat) : Nat → Nat → List Byte → List Byte
  | 0, _, _ => []
  | n + 1, i, l =>
    if mask.testBit i then byteAt l 0 :: zrcExpand mask n (i + 1) (l.drop 1) else 0 :: zrcExpand mask n (i + 1) l

/-- The number of bits set in a mask. -/
def popcount (mask : Nat) : Nat := (List.range 64).countP (fun i => mask.testBit i)

/-- The first `blocks` blocks of a stored line; none when a block runs past the line's pitch. -/
def zrcUnpack : Nat → List Byte → Option (List Byte)
  | 0, _ => some []
  | blocks + 1, l =>
    let mask := leAt l 0 8
    let size := 8 + popcount mask
    if l.length < size then none
    else
      match zrcUnpack blocks (l.drop size) with
      | some rest => some (zrcExpand mask 64 0 (l.drop 8) ++ rest)
      | none => none

/-- The byte ranges read of the first blocks of a stored line, from offset `o` on: the mask of each, and the bytes of those that
are `needed`; what follows the last of them is not read (R165). -/
def zrcSpans (needed : Nat → Bool) : Nat → Nat → Nat → List Byte → List (Nat × Nat)
  | 0, _, _, _ => []
  | blocks + 1, i, o, l =>
    let size := 8 + popcount (leAt l 0 8)
    (o, o + (if needed i then size else 8)) :: zrcSpans needed blocks (i + 1) (o + size) (l.drop size)

/-! ## Reading a tensor -/

/-- The code in the half byte `n` (and those that follow it) of bytes that start at half byte 0. -/
def codeAt (bs : List Byte) (f : Fmt) (n : Nat) : Nat :=
  if f = .int4 then leAt bs (n / 2) 1 / (if n % 2 = 1 then 16 else 1) % 16 else leAt bs (n / 2) (f.nibbles / 2)

/-- Which positions (i2, i1) of an image a command reads. -/
abbrev Cover := Nat → Nat → Bool

/-- Every position. -/
def coverAll : Cover := fun _ _ => true

/-- The bytes of a pixel of the NHWC16 stream. -/
def Tref.pixelBytes (t : Tref) : Nat := t.cp * t.fmt.nibbles / 2

/-- Whether a block of an image line of a ZRC tensor holds bytes of a position that is read. -/
def Tref.blockNeeded (t : Tref) (cover : Cover) (y i : Nat) : Bool :=
  (List.range t.d1).any fun x => cover y x && decide (x * t.pixelBytes < 64 * (i + 1)) && decide (64 * i < (x + 1) * t.pixelBytes)

/-- The number of blocks of an image line that must be walked to reach every position that is read. -/
def Tref.blocksNeeded (t : Tref) (cover : Cover) (y : Nat) : Nat :=
  ((List.range t.d1).filter (cover y)).foldl (fun n x => max n (ceilDiv ((x + 1) * t.pixelBytes) 64)) 0

/-- The bytes of a tensor's footprint, unpacked to the NHWC16 stream for ZRC, where only the blocks up to the last position that
is read are unpacked. None: a ZRC block leaves its pitch. -/
def State.tensorBytes (s : State) (e : Fin 7) (t : Tref) (cover : Cover := coverAll) : Option (List Byte) :=
  if t.empty then some []
  else if t.layout = zrcLayout then
    let lines := (List.range (t.d3 * t.d2)).map fun k =>
      (zrcUnpack (t.blocksNeeded cover (k % t.d2)) (s.peekSpace e t.space (t.addr + k * t.pitch) t.pitch)).map
        (fun l => sliceAt l 0 t.zrcLine)
    if lines.all Option.isSome then some (lines.flatMap fun l => l.getD []) else none
  else some (s.peekSpace e t.space t.addr t.footBytes)

/-- The value of an element in the bytes of its tensor. -/
def Tref.elem (t : Tref) (bs : List Byte) (i : Ix) : Val := decodeElem t.fmt (codeAt bs t.fmt (t.offset i))

/-- The code of an element in the bytes of its tensor. -/
def Tref.elemCode (t : Tref) (bs : List Byte) (i : Ix) : Nat := codeAt bs t.fmt (t.offset i)

/-- A list without adjacent repeats. -/
def destutter : List Nat → List Nat
  | a :: b :: rest => if a = b then destutter (b :: rest) else a :: destutter (b :: rest)
  | l => l

/-- Byte ranges without repeats: a range that meets or adjoins the one before it joins it. -/
def joinSpans : List (Nat × Nat) → List (Nat × Nat)
  | a :: b :: rest =>
    match joinSpans (b :: rest) with
    | (lo, hi) :: more =>
      if a.1 ≤ lo ∧ lo ≤ a.2 then (a.1, max a.2 hi) :: more else a :: (lo, hi) :: more
    | [] => [a]
  | l => l

/-- The byte ranges, from a tensor's address, of its elements at the positions that are read, in layout order. ZRC stands apart. -/
def Tref.spans (t : Tref) (cover : Cover) : List (Nat × Nat) :=
  let r := List.range
  let k := t.fmt.nibbles
  let run (i : Ix) (n : Nat) : Nat × Nat := (t.offset i / 2, ceilDiv (t.offset i + n * k) 2)
  let pixels (f : Nat → Nat → Nat → List (Nat × Nat)) : List (Nat × Nat) :=
    (r t.d3).flatMap fun n => (r t.d2).flatMap fun h => (r t.d1).flatMap fun w => if cover h w then f n h w else []
  joinSpans (
    if t.empty then []
    else if t.layout = rowMajor then pixels fun n h w => [run ⟨0, w, h, n⟩ t.d0]
    else if t.layout = nc16hw16 then (r (ceilDiv t.d0 16)).flatMap fun b => pixels fun n h w => [run ⟨16 * b, w, h, n⟩ 16]
    else if t.layout = nchw ∨ t.layout = planar8 then (r t.d0).flatMap fun c => pixels fun n h w => [run ⟨c, w, h, n⟩ 1]
    else pixels fun n h w => [run ⟨0, w, h, n⟩ t.cp])

/-- The byte ranges of a store that a read of a tensor's elements touches. -/
def State.tensorTouch (s : State) (e : Fin 7) (t : Tref) (cover : Cover := coverAll) : List Foot :=
  match s.locate e t.space t.addr t.footBytes with
  | .error _ => []
  | .ok f =>
    let spans := if t.empty then []
      else if t.layout = zrcLayout then
        (List.range (t.d3 * t.d2)).flatMap fun k =>
          (zrcSpans (t.blockNeeded cover (k % t.d2)) (t.blocksNeeded cover (k % t.d2)) 0 0
            (s.peek f.store (f.lo + k * t.pitch) t.pitch)).map fun x => (k * t.pitch + x.1, k * t.pitch + min t.pitch x.2)
      else t.spans cover
    spans.map fun x => ⟨f.store, f.lo + x.1, f.lo + x.2⟩

/-- The main-memory lines of byte ranges, in order. -/
def touchLines (l : List Foot) : List Nat :=
  destutter (l.flatMap fun f => if f.store = .main then linesOf f.lo (f.hi - f.lo) else [])

/-- Main-memory lines as byte ranges. -/
def lineTouch (l : List Nat) : List Foot := l.map fun a => ⟨.main, a, a + 64⟩

/-- Reads of main-memory lines: the counters they advance, and whether every line could be read (R325, R329). -/
def State.readLines (s : State) (lines : List Nat) : State × Bool :=
  (lines.foldl State.noteRead s, lines.all fun l => !s.mem.lineBad l)

/-- Whether a member that the footprints name is fenced while the command runs (R136). -/
def State.feetFenced (s : State) (feet : List Foot) : Bool :=
  feet.any fun f => match f.store with
    | .paddock m => s.engines[m].role == .fenced
    | _ => false

/-! ## Writing a tensor -/

/-- Half-byte codes of INT4 packed into bytes; a half byte on its own keeps the other half of `old` (log entry 12). -/
def packNibbles (old : Nat → Byte) : List (Nat × Nat) → List (Nat × List Byte)
  | (a, x) :: (b, y) :: rest =>
    if a % 2 = 0 ∧ b = a + 1 then (a / 2, [BitVec.ofNat 8 (x + 16 * y)]) :: packNibbles old rest
    else
      let o := (old (a / 2)).toNat
      (a / 2, [BitVec.ofNat 8 (if a % 2 = 0 then o / 16 * 16 + x else o % 16 + 16 * x)])
        :: packNibbles old ((b, y) :: rest)
  | [(a, x)] =>
    let o := (old (a / 2)).toNat
    [(a / 2, [BitVec.ofNat 8 (if a % 2 = 0 then o / 16 * 16 + x else o % 16 + 16 * x)])]
  | [] => []

/-- Adjacent byte writes joined into runs. -/
def joinRuns : List (Nat × List Byte) → List (Nat × List Byte)
  | [] => []
  | (a, x) :: rest =>
    match joinRuns rest with
    | (b, y) :: more => if b = a + x.length then (a, x ++ y) :: more else (a, x) :: (b, y) :: more
    | [] => [(a, x)]

/-- The byte writes of an output tensor, offsets from its address, for the code of each element; padding channels are
written as zero (R137). Only the elements that `keep` accepts are written: a padding channel goes with the last element of its pixel,
a ZRC line with all of its elements. -/
def Tref.writes (t : Tref) (old : Nat → Byte) (keep : Ix → Bool) (f : Ix → Nat) : List (Nat × List Byte) :=
  let kept (i : Ix) : Bool := keep { i with i0 := min i.i0 (t.d0 - 1) }
  if t.layout = zrcLayout then
    let codes := t.slots.map fun i => (t.offset i.1, if i.2 then f i.1 else 0)
    let raw := if t.fmt = .int4 then (packNibbles (fun _ => 0) codes).flatMap (·.2)
      else codes.flatMap fun c => leBytes (t.fmt.nibbles / 2) c.2
    ((List.range (t.d3 * t.d2)).filter fun k =>
        (t.slots.filter fun i => i.1.i3 * t.d2 + i.1.i2 == k).all fun i => kept i.1).map fun k =>
      (k * t.pitch, zrcPack (ceilDiv t.zrcLine 64) (sliceAt raw (k * t.zrcLine) t.zrcLine))
  else
    let codes := (t.slots.filter fun i => kept i.1).map fun i => (t.offset i.1, if i.2 then f i.1 else 0)
    if t.fmt = .int4 then joinRuns (packNibbles old codes)
    else joinRuns (codes.map fun c => (c.1 / 2, leBytes (t.fmt.nibbles / 2) c.2))

/-- The elements of an output tensor that `keep` accepts written; the flag says whether main memory took every byte. -/
def State.writeTensor (s : State) (e : Fin 7) (t : Tref) (f : Ix → Nat) (keep : Ix → Bool := fun _ => true) : State × Bool :=
  match s.locate e t.space t.addr t.footBytes with
  | .error _ => (s, true)
  | .ok foot =>
    let old := fun o => (s.peek foot.store (foot.lo + o) 1).headD 0
    s.pokes foot.store ((t.writes old keep f).map fun w => (foot.lo + w.1, w.2))

/-! ## Scale entries (R173 to R177) -/

/-- A PER_ROW entry: its SCALE as FP16 code, and its zero point. -/
structure ScaleRow where
  scale : Nat
  zp    : Int
  deriving DecidableEq, Repr

/-- The row index of an element (R174). -/
def Tref.row (t : Tref) (i : Ix) : Nat :=
  if t.layout = rowMajor then i.i1 + t.d1 * (i.i2 + t.d2 * i.i3) else i.i3

/-- Number of scale rows. -/
def Tref.rows (t : Tref) : Nat := if t.layout = rowMajor then t.d1 * t.d2 * t.d3 else t.d3

/-- A PER_ROW entry from its four bytes, none when R177 calls it invalid. -/
def scaleRow (f : Fmt) (b : List Byte) : Option ScaleRow :=
  let sc := leAt b 0 2
  let z := leAt b 2 1
  let zp : Int := if f = .int8 then sext 8 z else z
  if sc ≥ 0x7C00 ∨ leAt b 3 1 ≠ 0 then none
  else if z ≠ 0 ∧ (f ≠ .int8 ∧ f ≠ .uint8) then none
  else if z ≠ 0 ∧ sc = 0 then none
  else some ⟨sc, zp⟩

/-- The PER_ROW entries of a tensor; an entry of zero scale and zero point for a tensor without them. None when one
is invalid. -/
def State.scaleRows (s : State) (e : Fin 7) (t : Tref) : Option (List ScaleRow) :=
  if t.sMode ≠ 1 then some (List.replicate t.rows ⟨0, 0⟩)
  else
    let bs := s.peekSpace e t.sSpace t.sAddr (4 * t.rows)
    let l := (List.range t.rows).map fun r => scaleRow t.fmt (sliceAt bs (4 * r) 4)
    if l.all Option.isSome then some (l.filterMap id) else none

end Sys2Proof.Machine
end

