-- ==== Sys2Proof/Machine/Flags.lean ====
section
/-!
DEFINITION. How an engine command ends: its flags, its counters, its completion word, and the report of a fault to its
step (R107, R131 to R135, R138, R139, R143, R308, R332, R333).
-/
namespace Sys2Proof.Machine

/-! ## Flags of the completion word (R138, R171, R193) -/

/-- ZERO_EXTENT. -/ abbrev flZeroExtent : Nat := 1
/-- ZERO_K. -/ abbrev flZeroK : Nat := 2
/-- EMPTY_KEYS. -/ abbrev flEmptyKeys : Nat := 4
/-- ACC_SATURATED. -/ abbrev flAccSat : Nat := 8
/-- OUT_SATURATED. -/ abbrev flOutSat : Nat := 16
/-- NAN_PRODUCED. -/ abbrev flNan : Nat := 32
/-- INF_PRODUCED. -/ abbrev flInf : Nat := 64

/-- A flag that is set when a condition holds. -/
def flagIf (c : Bool) (f : Nat) : Nat := if c then f else 0

/-- The flags that a report sets. -/
def Note.flags (n : Note) : Nat := flagIf (decide (n.sat > 0) || n.mark) flOutSat + flagIf n.nan flNan + flagIf n.inf flInf

/-- The reports of a list joined. -/
def joinNotes (l : List Note) : Note := l.foldl Note.join .none

/-- The effect of a command: the state, the status and the flags of its completion word. -/
structure Effect where
  s      : State
  status : Half
  flags  : Nat

/-- An effect that reports nothing but a flag. -/
def plain (s : State) (flags : Nat) : Effect := ⟨s, stOk, flags⟩

/-- The effect of a command that ends with a report: its flags and OUT_SATURATIONS (R112). A write that main memory refused
ends it with BUS_ERROR (R324). -/
def noted (s : State) (e : Fin 7) (ok : Bool) (n : Note) (flags : Nat) : Effect :=
  let s := if n.sat > 0 then s.countEngine e Eng.outSaturations n.sat else s
  ⟨s, if ok then stOk else stBusError, flags + n.flags⟩

/-! ## Checks -/

/-- The first status that stands. -/
def firstStatus : List (Option Half) → Option Half
  | [] => none
  | some st :: _ => some st
  | none :: rest => firstStatus rest

/-- The lowest of the faults detected at once (R139). -/
def lowest : List Half → Option Half
  | [] => none
  | st :: rest => some (rest.foldl (fun a b => if b < a then b else a) st)

/-- A status when a condition fails. -/
def require (ok : Bool) (st : Half) : Option Half := if ok then none else some st

/-- Check 7: BAD_SPACE before BOUNDS. -/
def placesStatus (l : List (Option Half)) : Option Half :=
  if l.contains (some stBadSpace) then some stBadSpace else firstStatus l

/-- Checks 1 to 7 of R133 in their order, for a command of opcode `op` and `len` 8-byte units. -/
def State.judge (s : State) (e : Fin 7) (d : List Byte) (op len : Nat) (reservedOk formatOk rangeOk : Bool)
    (places : List (Option Half)) : Option Half :=
  firstStatus
    [ require (dOpcode d == op) stBadOpcode
    , require (leAt d 1 1 == 1 && leAt d 2 1 == 0) stDescVersion
    , require (dReservedOk d && reservedOk) stReserved
    , require (dLen d == len) stDescLength
    , require formatOk stFormatPair
    , require (dRangeOk d && rangeOk) stRange
    , placesStatus (s.placeStatus e (dComplSpace d) (dComplAddr d) 16 :: places) ]

/-- The slot plan under which an engine's commands run: that of a SCHEDULED partition, unless the step runs under the MANAGED
issue rules (R308, R313). -/
def State.slotRules (s : State) (e : Fin 7) : Option SlotPlan :=
  match s.engines[e].part with
  | none => none
  | some p =>
    let managed : Bool := match s.parts[p].step with
      | some r => r.mode == .managed
      | none => false
    match s.parts[p].desc with
    | some pd => if pd.mode != 1 || managed then none else s.mem.slotPlans.find? fun x => x.part == p.val
    | none => none

/-- Whether a plan grants a slot of a direction on a channel: 1 READ, 2 WRITE (R306). -/
def SlotPlan.grantsAny (p : SlotPlan) (c code : Nat) : Bool :=
  (List.range 64).any fun f => (List.range 14).any fun k =>
    bits (p.grants.getD (64 * (c - p.chanBase) + f) 0).toNat (2 * k) 2 == code

/-- Whether a channel lies in the group of a plan. -/
def SlotPlan.covers (p : SlotPlan) (c : Nat) : Bool := decide (p.chanBase ≤ c) && decide (c < p.chanBase + p.chanCount)

/-- The faults of requests for lines in a direction under a slot plan (R308): a FIFO that is full, no granted slot, a channel
outside the group. -/
def State.requestFaults (s : State) (plan : SlotPlan) (code : Nat) (lines : List Nat) : List Half :=
  let ch (l : Nat) : Fin 12 := (s.mem.place l).channel
  let full (l : Nat) : Bool :=
    let c := s.mem.channels[ch l]
    decide ((if code = 1 then c.fifoRead else c.fifoWrite).length ≥ 64)
  (if lines.any full then [stSlotOverrun] else [])
    ++ (if lines.any fun l => plan.covers (ch l).val && !plan.grantsAny (ch l).val code then [stSlotNone] else [])
    ++ (if lines.any fun l => !plan.covers (ch l).val then [stSlotChannel] else [])

/-- The contract faults that an engine of a SCHEDULED partition finds in a command's accesses to main memory (R308, R311). -/
def State.contractFaults (s : State) (e : Fin 7) (touch writes : List Foot) : List Half :=
  match s.slotRules e with
  | none => []
  | some plan =>
    s.requestFaults plan 1 (touchLines touch) ++ s.requestFaults plan 2 (touchLines writes)
      ++ (if writes.any fun f => f.store == .main && (f.lo % 64 != 0 || f.hi % 64 != 0) then [stLinePartial] else [])

/-- Whether an access meets an arena block of an exchange that another member, or the EXCHANGE itself, owns (R242). -/
def State.crossExchange (s : State) (e : Fin 7) (feet : List Foot) : Bool :=
  match s.engines[e].part with
  | none => false
  | some p => match s.parts[p].step with
    | none => false
    | some r => r.exchAreas.any fun a => a.1 != some e && feetMeet feet [a.2]

/-- The 16 bytes of the completion word as a footprint. -/
def State.complFoot (s : State) (e : Fin 7) (d : List Byte) : List Foot := s.footOf e (dComplSpace d) (dComplAddr d) 16

/-- The faults that an engine finds in a command's accesses, those to its completion word among them (R135, R136, R242, R308). -/
def State.accessFaults (s : State) (e : Fin 7) (d : List Byte) (reads writes touch : List Foot) : List Half :=
  let feet := reads ++ writes ++ s.complFoot e d
  (if s.feetFenced feet then [stBusError] else [])
    ++ (if s.crossWrite e feet || s.crossExchange e feet then [stCrossWrite] else [])
    ++ s.contractFaults e touch writes

/-! ## Completion -/

/-- The 16 bytes of a completion word (R138). -/
def complWord (d : List Byte) (st : Half) (flags : Nat) (cycles : Word) : List Byte :=
  leBytes 2 st.toNat ++ leBytes 2 (dIndex d) ++ leBytes 4 flags ++ leBytes 4 (dStepId d) ++ leBytes 4 cycles.toNat

/-- Whether the completion address passes its judgement (R133). -/
def State.complOk (s : State) (e : Fin 7) (d : List Byte) : Bool :=
  dComplAddr d % 16 == 0 && (s.placeStatus e (dComplSpace d) (dComplAddr d) 16).isNone

/-- The report of a fault to the step in progress (R402). -/
def faultOf (s : State) (e : Fin 7) (d : List Byte) (st : Half) : FaultRec :=
  ⟨e, s.engines[e].logical, dIndex d, st, dContext d, dMulti d⟩

/-- A command retired in its step: its index, its fault, and whether it was the engine's last (R132, R264). -/
def StepRun.retire (r : StepRun) (e : Fin 7) (d : List Byte) (f : Option FaultRec) : StepRun :=
  { r with
    retired := r.retired ++ [(e, dIndex d)]
    faults := r.faults ++ f.toList
    done := if dLast d && f.isNone && !r.done.contains e then r.done ++ [e] else r.done }

/-- Whether a command uses the cells (R114, R143): MATMUL, CONV, ATTEND, and the expert and adaptation commands. -/
def cellCommand (d : List Byte) : Bool := [0x01, 0x10, 0x30, 0x40, 0x41, 0x42].contains (dOpcode d)

/-- The held values discarded by a cell command that does not continue them (R143). -/
def State.dropHeld (s : State) (e : Fin 7) (d : List Byte) : State :=
  if cellCommand d then s.onEngine e fun g => { g with held := none } else s

/-- A command ended with a status: counters, ENG_LAST_FAULT, the step's report and the completion word. `seen` are the faults
detected with it: each of them counts (R139). NANS_PRODUCED counts a command that completes with its flag (R109). -/
def State.finish (s : State) (e : Fin 7) (d : List Byte) (st : Half) (flags : Nat) (cycles : Word) (seen : List Half := []) :
    State :=
  let s := (s.countEngine e Eng.commands 1).countEngine e Eng.busyCycles cycles.toNat
  let s := if (st :: seen).contains stResidue then s.countEngine e Eng.residueMismatches 1 else s
  let s := if (st :: seen).contains stScaleInvalid then s.countEngine e Eng.scaleInvalids 1 else s
  let s := if flags.testBit 5 then s.countEngine e Eng.nansProduced 1 else s
  let s := if st = stOk then s else (s.dropHeld e d).onEngine e fun x => { x with lastFault := st }
  let f := if st = stOk then none else some (faultOf s e d st)
  let s := match s.engines[e].part with
    | some p => s.onStep p fun r => r.retire e d f
    | none => s
  if s.complOk e d then (s.pokeSpace e (dComplSpace d) (dComplAddr d) (complWord d st flags cycles)).1 else s

/-! ## The posted lists (R264) -/

/-- The descriptors of a posted list from an address on, up to its last. `fuel` bounds them. -/
def State.postedFrom (s : State) (a : Nat) : Nat → List (List Byte)
  | 0 => []
  | fuel + 1 =>
    let len := 8 * dLen (s.mem.bytes a 32)
    if len = 0 then []
    else
      let d := s.mem.bytes a len
      if dLast d then [d] else d :: s.postedFrom (a + len) fuel

/-- The posted list of an engine of a step. -/
def State.posted (s : State) (r : StepRun) (e : Fin 7) : List (List Byte) :=
  match r.lists[s.engines[e].logical]? with
  | some a => if r.done.contains e then [] else s.postedFrom a 65536
  | none => []

/-- The commands of a step that an engine has not retired. -/
def State.unretired (s : State) (r : StepRun) (e : Fin 7) : List (List Byte) :=
  (s.posted r e).filter fun d => !r.retired.contains (e, dIndex d)

/-! ## SRAM that a command reads (R332, R333) -/

/-- Bits of one SRAM byte flipped: the data bits in the array, and whether its check still passes. -/
def State.flipSram (s : State) (u : SramUnit) (o : Nat) (flip : NineFlip) : State :=
  let s := match u with
    | .paddock e => s.onEngine e fun x => { x with
        paddock := cellsWrite 0 x.paddock o [cellsRead 0 x.paddock o ^^^ nineByte flip] }
    | .arena => { s with mem := { s.mem with arena := cellsWrite 0 s.mem.arena o [cellsRead 0 s.mem.arena o ^^^ nineByte flip] } }
    | _ => s
  { s with mem := s.mem.flipCheck u o flip }

/-- The SRAM accesses, 128 bytes each, in which a read of byte ranges finds a byte that fails its check. -/
def State.badAccesses (s : State) (touch : List Foot) : List (Store × Nat) :=
  ((touch.flatMap fun f => match f.store.unit with
    | none => []
    | some u => (s.mem.flipped.filter fun x => x.1 == u && decide (f.lo ≤ x.2) && decide (x.2 < f.hi)).map fun x =>
        (f.store, x.2 / 128 * 128))).foldl (fun l x => if l.contains x then l else l ++ [x]) []

/-- An access of a paddock remapped (R336): an entry takes the location, with REMAP_INSTALLED; with no free entry the failure is a
fault of the engine that fences it. -/
def State.remapAccess (s : State) (e : Fin 7) (o : Nat) : State :=
  let g := s.engines[e]
  if g.remaps.any fun r => r.bank == bankOf o && r.row == bankRow o then s
  else if g.remaps.length < 8 then
    ((s.onEngine e fun x => { x with remaps := x.remaps ++ [⟨bankOf o, bankRow o⟩] }).countChip Chip.remapInstalls 1).log 0x0503
      (srcEngine e) ([1, 0, BitVec.ofNat 8 (bankOf o)] ++ leBytes 4 (bankRow o) ++ [0])
  else s.onEngine e fun x => { x with needFence := true }

/-- The weights of a 128-byte access of a paddock written again from the weight image (R333). -/
def State.reloadAccess (s : State) (e : Fin 7) (o : Nat) : State :=
  (List.range 128).foldl (fun (s : State) i => match s.weightByte e (o + i) with
    | some b => s.paddockWrite e (o + i) [b]
    | none => s) s

/-- Whether an access holds resident weights where it fails: it is reloaded; otherwise it is scratch. -/
def State.weightAccess (s : State) (e : Fin 7) (o : Nat) : Bool :=
  s.mem.flipped.any fun x => x.1 == .paddock e && decide (o ≤ x.2) && decide (x.2 < o + 128) && (s.weightByte e x.2).isSome

/-- A failing access of a command's read handled by content: the state, and whether it lay in scratch, so that the step faults. -/
def State.repairAccess (s : State) (c : EngCall) (acc : Store × Nat) : State × Bool :=
  let s := s.countChip Chip.sramFailures 1
  let stuck := c.sram.any fun x => some x.unit == acc.1.unit && x.stuck && x.offset / 128 * 128 == acc.2
  match acc.1 with
  | .paddock e =>
    let weights := s.weightAccess e acc.2
    let s := if weights then s.reloadAccess e acc.2 else s
    (if stuck then s.remapAccess e acc.2 else s, !weights)
  | _ => (s, true)

/-- Every failing access handled; whether one of them lay in scratch. -/
def State.repairAll (s : State) (c : EngCall) (l : List (Store × Nat)) : State × Bool :=
  l.foldl (fun (a : State × Bool) x =>
    let (s, b) := a.1.repairAccess c x
    (s, a.2 || b)) (s, false)

/-- A command whose scratch cannot be read: the step faults (R333), and the command does not retire. -/
def State.scratchFault (s : State) (e : Fin 7) (d : List Byte) : State :=
  match s.engines[e].part with
  | some p => s.onStep p fun r => { r with faults := r.faults ++ [faultOf s e d stOk] }
  | none => s

/-- What surrounds a command on its engine before it reads: its bank conflicts (R107), flipped SRAM bits, and the reads that
passed when they were repeated (R333). -/
def State.disturb (s : State) (c : EngCall) : State :=
  let s := s.countEngine c.engine Eng.bankConflicts c.conflicts
  let s := c.sram.foldl (fun s x => s.flipSram x.unit x.offset x.flip) s
  if c.rereads = 0 then s else s.countChip Chip.sramTransients c.rereads

/-- The faults that units outside the engine raised; OK is none. -/
def raised (c : EngCall) : List Half := c.hw.filter (· != stOk)

/-- A command on an engine in service: the first failing check, or the lowest of the faults of its accesses and of those raised
outside the engine, ends it with nothing written but its completion word; otherwise its operands are read and it goes on.
`touch` are the bytes it reads. An engine that is not in service runs nothing. -/
def State.enterEngine (s : State) (c : EngCall) (judged : Option Half) (reads writes touch : List Foot) (go : State → State) :
    State :=
  if s.engines[c.engine].role ≠ .inService then s
  else
    let faults := s.accessFaults c.engine c.desc reads writes touch ++ raised c
    let s := s.disturb c
    match judged.or (lowest faults) with
    | some st => s.finish c.engine c.desc st 0 c.cycles (if judged.isSome then [] else faults)
    | none =>
      let (s, ok) := s.readLines (touchLines touch)
      if ok then
        let (s, scratch) := s.repairAll c (s.badAccesses touch)
        if scratch then s.scratchFault c.engine c.desc else go s
      else s.finish c.engine c.desc stBusError 0 c.cycles

/-- A command that completes when it has had its effect. -/
def State.runEngine (s : State) (c : EngCall) (judged : Option Half) (reads writes touch : List Foot) (eff : State → Effect) :
    State :=
  s.enterEngine c judged reads writes touch fun s => (eff s).s.finish c.engine c.desc (eff s).status (eff s).flags c.cycles

/-- Whether a descriptor spells a command of another opcode (R140): the row's command is then absent. -/
def otherOpcode (d : List Byte) (op : Nat) : Bool :=
  let o := dOpcode d
  o != op && [0x01, 0x02, 0x03, 0x10, 0x11, 0x12, 0x13, 0x20, 0x30, 0x31, 0x32, 0x40, 0x41, 0x42].contains o

end Sys2Proof.Machine
end

