-- ==== Sys2Proof/Machine/Vector.lean ====
section
/-!
DEFINITION. The vector unit and the VECTOR command (R123, R124, R128, R145, R146), and the epilogue of MATMUL and CONV
(R142, R474).
-/
namespace Sys2Proof.Machine

/-! ## Programs -/

/-- One instruction of a program (R145). -/
structure VecOp where
  op  : Nat
  dst : Nat
  a   : Nat
  b   : Nat
  c   : Nat
  top : Nat
  deriving DecidableEq, Repr

/-- The instruction in a word. -/
def vecOpOf (w : Nat) : VecOp := ⟨bits w 0 8, bits w 8 5, bits w 13 5, bits w 18 5, bits w 23 5, bits w 28 4⟩

/-- The number of sources of an operation; none for an unassigned code (R124). -/
def vecSources (op : Nat) : Option Nat :=
  if [0x07, 0x08, 0x09, 0x0A, 0x0B, 0x18, 0x19].contains op then some 1
  else if [0x01, 0x02, 0x03, 0x05, 0x06, 0x0C, 0x10, 0x11, 0x12, 0x13].contains op then some 2
  else if [0x04, 0x0D].contains op then some 3
  else none

/-- Whether an instruction lies within its ranges: an assigned code, DST in v4 to v23, unused sources zero. -/
def VecOp.rangeOk (i : VecOp) : Bool :=
  match vecSources i.op with
  | none => false
  | some n => decide (4 ≤ i.dst) && decide (i.dst ≤ 23) && (decide (n ≥ 2) || i.b == 0) && (decide (n ≥ 3) || i.c == 0)

/-- The signed reading of a register. -/
def regInt (w : Word) : Int := w.toInt

/-- A result of a floating-point operation with its report: a NaN result is reported (R109). -/
def fres (w : Word) : Word × Note := (w, ⟨isNaN w, false, 0, false⟩)

/-- A result of an integer operation saturated to INT32 (R124). -/
def ires (i : Int) : Word × Note :=
  let (v, n) := satInt .int32 i
  (BitVec.ofInt 32 v, ⟨false, false, 0, decide (n.sat > 0)⟩)

/-- The result of an operation on its sources (R124). -/
def vecApply (op : Nat) (a b c : Word) : Word × Note :=
  match op with
  | 0x01 => fres (fadd a b)
  | 0x02 => fres (fsub a b)
  | 0x03 => fres (fmul a b)
  | 0x04 => fres (ffma a b c)
  | 0x05 => fres (fmin a b)
  | 0x06 => fres (fmax a b)
  | 0x07 => fres (fabs a)
  | 0x08 => fres (fneg a)
  | 0x09 => fres (fexp a)
  | 0x0A => fres (frcp a)
  | 0x0B => fres (frsq a)
  | 0x0C => (fcmpgt a b, .none)
  | 0x0D => (fsel a b c, .none)
  | 0x10 => ires (regInt a + regInt b)
  | 0x11 => ires (regInt a - regInt b)
  | 0x12 => (if regInt b < regInt a then b else a, .none)
  | 0x13 => (if regInt a < regInt b then b else a, .none)
  | 0x18 => (intToF32 (regInt a), .none)
  | 0x19 =>
    let (v, n) := f32ToInt .int32 a
    (BitVec.ofInt 32 v, ⟨n.nan, false, 0, decide (n.sat > 0)⟩)
  | _ => (0, .none)

/-- One instruction on the registers of an element. -/
def vecStep (r : List Word × Note) (i : VecOp) : List Word × Note :=
  let (v, n) := vecApply i.op (r.1.getD i.a 0) (r.1.getD i.b 0) (r.1.getD i.c 0)
  (r.1.set i.dst v, r.2.join n)

/-- The result of an operation whose exact integer result, or whose significand product, comes out with bits flipped, and whether
the mod-7 check fails (R130). The other operations carry no check. -/
def vecApplySeen (op : Nat) (a b c : Word) (flip : BitVec 48) : (Word × Note) × Bool :=
  let int (exact : Int) (rho : Nat) : (Word × Note) × Bool :=
    (ires (flip48 exact flip), decide (mod7 (flip48 exact flip) ≠ rho))
  let x := regInt a
  let y := regInt b
  match op with
  | 0x03 => (fres (mulSeen a b flip).1, (mulSeen a b flip).2)
  | 0x04 => (fres (fmaSeen a b c flip).1, (fmaSeen a b c flip).2)
  | 0x10 => int (x + y) ((mod7 x + mod7 y) % 7)
  | 0x11 => int (x - y) ((mod7 x + 7 - mod7 y) % 7)
  | 0x12 => int (min x y) (mod7 (min x y))
  | 0x13 => int (max x y) (mod7 (max x y))
  | _ => (vecApply op a b c, false)

/-- One instruction, the `k`-th of its program, on the registers of an element whose results may be disturbed; the third component
is the sticky mark. -/
def vecStepSeen (ups : List Upset) (place : Nat) (r : (List Word × Note) × Bool) (i : VecOp × Nat) : (List Word × Note) × Bool :=
  let g := r.1.1
  let flip := laneFlip ups place i.2
  if flip = 0 then (vecStep r.1 i.1, r.2)
  else
    let (v, bad) := vecApplySeen i.1.op (g.getD i.1.a 0) (g.getD i.1.b 0) (g.getD i.1.c 0) flip
    ((g.set i.1.dst v.1, r.1.2.join v.2), r.2 || bad)

/-- The registers at the start of an element (R123). -/
def vecStart (ins consts : List Word) : List Word := sliceW ins 4 ++ List.replicate 20 0 ++ sliceW consts 8
where
  /-- The first `n` words, zeros past the end. -/
  sliceW (l : List Word) (n : Nat) : List Word := (l ++ List.replicate n 0).take n

/-- The registers after a program, and what it reports (R146). -/
def vecRun (prog : List VecOp) (ins consts : List Word) : List Word × Note :=
  prog.foldl vecStep (vecStart ins consts, .none)

/-- The registers of element `place` after a program, what it reports, and whether a check of it failed (R130). -/
def vecRunSeen (ups : List Upset) (place : Nat) (prog : List VecOp) (ins consts : List Word) : (List Word × Note) × Bool :=
  if ups.any (Upset.hits place) then
    (prog.zipIdx).foldl (vecStepSeen ups place) ((vecStart ins consts, .none), false)
  else (vecRun prog ins consts, false)

/-! ## The descriptor (R145) -/

/-- A VECTOR descriptor. -/
structure VecDesc where
  ins     : List Tref
  out0    : Tref
  out1    : Tref
  opCount : Nat
  reg0    : Nat
  reg1    : Nat
  reduce  : Nat
  inCount : Nat
  out1En  : Nat
  consts  : List Word
  prog    : List Nat
  padOk   : Bool
  deriving DecidableEq, Repr

/-- The fields of a VECTOR descriptor. -/
def vecDesc (d : List Byte) : VecDesc where
  ins := (List.range 4).map fun k => trefAt d (32 + 48 * k)
  out0 := trefAt d 224
  out1 := trefAt d 272
  opCount := leAt d 320 1
  reg0 := leAt d 321 1
  reg1 := leAt d 322 1
  reduce := leAt d 323 1
  inCount := leAt d 324 1
  out1En := leAt d 325 1
  consts := (List.range 8).map fun k => BitVec.ofNat 32 (leAt d (328 + 4 * k) 4)
  prog := (List.range 32).map fun k => leAt d (360 + 4 * k) 4
  padOk := zeroAt d 326 2

/-- The instructions that run. -/
def VecDesc.ops (v : VecDesc) : List VecOp := (v.prog.take v.opCount).map vecOpOf

/-- The inputs in use. -/
def VecDesc.inputs (v : VecDesc) : List Tref := v.ins.take v.inCount

/-- The outputs in use. -/
def VecDesc.outputs (v : VecDesc) : List Tref := if v.out1En = 1 then [v.out0, v.out1] else [v.out0]

/-- Whether an extent broadcasts over another: equal to it or 1. -/
def extentsFit (i o : Tref) : Bool :=
  (i.d0 == o.d0 || i.d0 == 1) && (i.d1 == o.d1 || i.d1 == 1) && (i.d2 == o.d2 || i.d2 == 1)
    && (i.d3 == o.d3 || i.d3 == 1)

/-- Whether two references have the same extents. -/
def sameExtents (a b : Tref) : Bool := a.d0 == b.d0 && a.d1 == b.d1 && a.d2 == b.d2 && a.d3 == b.d3

/-- Reserved fields of a VECTOR descriptor: instruction bits [31:28], references past IN_COUNT, an unused OUT1. In an epilogue
IN0, OUT0 and OUT1 are judged by check 6 (R474). -/
def VecDesc.reservedOk (v : VecDesc) (epi : Bool) : Bool :=
  v.padOk && (v.prog.all fun w => bits w 28 4 == 0)
    && ((if epi then v.inputs.drop 1 else v.inputs).all Tref.reservedOk)
    && ((v.ins.drop (if epi then max 1 v.inCount else v.inCount)).all Tref.absent)
    && (epi || (v.outputs.all Tref.reservedOk && (v.out1En != 0 || v.out1.absent)))

/-- Formats of a VECTOR descriptor. -/
def VecDesc.formatOk (v : VecDesc) (epi : Bool) : Bool :=
  ((if epi then v.inputs.drop 1 else v.inputs).all fun t => t.fmt?.isSome)
    && (epi || v.outputs.all fun t => t.fmt?.isSome)

/-- Ranges of the program and its counts. -/
def VecDesc.programOk (v : VecDesc) : Bool :=
  decide (v.opCount ≤ 32) && decide (v.reg0 ≤ 31) && decide (v.reg1 ≤ 31) && decide (v.reduce ≤ 2)
    && decide (v.inCount ≤ 4) && decide (v.out1En ≤ 1) && (v.ops.all VecOp.rangeOk)
    && ((v.prog.drop v.opCount).all (· == 0))

/-- A reference that any VECTOR operand may be: no KV pages, no scale mode (R175). -/
def Tref.vecOk (t : Tref) (out : Bool) : Bool := t.rangeOk out && t.sMode == 0 && decide (t.layout ≤ zrcLayout)

/-- Ranges of a VECTOR command of its own. -/
def VecDesc.rangeOk (v : VecDesc) : Bool :=
  v.programOk && (v.inputs.all fun t => t.vecOk false && extentsFit t v.out0)
    && (v.outputs.all fun t => t.vecOk true) && (v.reduce == 0 || v.out1En == 1)
    && (v.out1En != 1 || (if v.reduce = 0 then sameExtents v.out1 v.out0
      else v.out1.d0 == 1 && v.out1.d1 == v.out0.d1 && v.out1.d2 == v.out0.d2 && v.out1.d3 == v.out0.d3))

/-! ## Execution (R146) -/

/-- An input tensor with its bytes. -/
structure Source where
  t  : Tref
  bs : List Byte
  deriving DecidableEq, Repr

/-- The input tensors with their bytes; none when a ZRC block leaves its pitch. -/
def State.sources (s : State) (e : Fin 7) (ts : List Tref) : Option (List Source) :=
  let l := ts.map fun t => (s.tensorBytes e t).map fun b => (⟨t, b⟩ : Source)
  if l.all Option.isSome then some (l.filterMap id) else none

/-- An index held inside an input's extents: an extent of 1 broadcasts. -/
def Tref.wrap (t : Tref) (i : Ix) : Ix :=
  ⟨if t.d0 = 1 then 0 else i.i0, if t.d1 = 1 then 0 else i.i1, if t.d2 = 1 then 0 else i.i2,
    if t.d3 = 1 then 0 else i.i3⟩

/-- The element of an input that an output index reads. -/
def Source.at (x : Source) (i : Ix) : Val := x.t.elem x.bs (x.t.wrap i)

/-- The place of an output element, row by row. -/
def Tref.place (t : Tref) (i : Ix) : Nat := i.i0 + t.d0 * (i.i1 + t.d1 * (i.i2 + t.d2 * i.i3))

/-- The registers of one output element after the program, its reports, and whether a check failed. -/
def VecDesc.element (v : VecDesc) (ups : List Upset) (src : List Source) (i : Ix) : (List Word × Note) × Bool :=
  vecRunSeen ups (v.out0.place i) v.ops (src.map fun x => (x.at i).pattern) v.consts

/-- The value of OUT1 under REDUCE for one combination of the higher indices (R128). -/
def VecDesc.reduced (v : VecDesc) (ups : List Upset) (src : List Source) (i : Ix) : Word × Note :=
  let l := (List.range v.out0.d0).map fun k => (v.element ups src { i with i0 := k }).1.1.getD v.reg1 0
  let r := if v.reduce = 1 then reduceLine fadd 0 l else reduceLine fmax 0xFF800000 l
  (r, ⟨isNaN r, false, 0, false⟩)

/-- A value converted for an output element, with what the conversion reports. -/
def Tref.encode (t : Tref) (outSat : Bool) (w : Word) : Nat × Note := encodeElem t.fmt outSat (patternVal t.fmt w)

/-- A status that a failed check of the arithmetic gives a command whose other accesses went well (R131). -/
def residueStatus (bad : Option Nat) (x : Effect) : Effect :=
  if bad.isSome && x.status == stOk then { x with status := stResidue } else x

/-- The effect of a VECTOR command whose checks passed. A pass in which a check of the arithmetic fails is not written, nor is
anything after it; REDUCE writes OUT1 after every pass (R131). -/
def vectorEffect (e : Fin 7) (d : List Byte) (v : VecDesc) (ups : List Upset) (s : State) : Effect :=
  if v.out0.empty then plain s flZeroExtent
  else
    match s.sources e v.inputs with
    | none => ⟨s, stBounds, 0⟩
    | some src =>
      let sat := dOutSat d
      let one (i : Ix) := v.element ups src i
      let out0 (i : Ix) := v.out0.encode sat ((one i).1.1.getD v.reg0 0)
      let out1 (i : Ix) :=
        if v.reduce = 0 then v.out1.encode sat ((one i).1.1.getD v.reg1 0)
        else
          let (w, n) := v.reduced ups src i
          let (c, n') := v.out1.encode sat w
          (c, n.join n')
      let bad := leastOf ((v.out0.indices.filter fun i => (one i).2).map fun i => passOf (v.out0.place i))
      let keep (i : Ix) : Bool := beforeBad bad (passOf (v.out0.place i))
      let keep1 (i : Ix) : Bool := if v.reduce = 0 then keep i else bad.isNone
      let n := joinNotes ((v.out0.indices.filter keep).map fun i => (one i).1.2.join (out0 i).2)
      let n := if v.out1En = 1 then n.join (joinNotes ((v.out1.indices.filter keep1).map fun i => (out1 i).2)) else n
      let (s, ok) := s.writeTensor e v.out0 (fun i => (out0 i).1) keep
      let (s, ok) := if ok && v.out1En == 1 then s.writeTensor e v.out1 (fun i => (out1 i).1) keep1 else (s, ok)
      residueStatus bad (noted s e ok n 0)

/-- Checks 1 to 7 of a VECTOR command. -/
def State.judgeVector (s : State) (e : Fin 7) (d : List Byte) : Option Half :=
  let v := vecDesc d
  s.judge e d 0x02 61 (v.reservedOk false) (v.formatOk false) v.rangeOk
    ((v.inputs ++ v.outputs).flatMap fun t => s.trefPlaces e t)

/-- The footprints a VECTOR command reads. -/
def State.vectorReads (s : State) (e : Fin 7) (d : List Byte) : List Foot :=
  (vecDesc d).inputs.flatMap fun t => s.dataFoot e t

/-- The footprints a VECTOR command writes. -/
def State.vectorWrites (s : State) (e : Fin 7) (d : List Byte) : List Foot :=
  (vecDesc d).outputs.flatMap fun t => s.dataFoot e t

/-- VECTOR (R145, R146). -/
def runVector (c : EngCall) (s : State) : State :=
  let e := c.engine
  let v := vecDesc c.desc
  s.runEngine c (s.judgeVector e c.desc) (s.vectorReads e c.desc) (s.vectorWrites e c.desc)
    (if v.out0.empty then [] else v.inputs.flatMap fun t => s.tensorTouch e t) (vectorEffect e c.desc v c.upsets)

/-! ## Epilogues (R142, R474) -/

/-- The EPILOGUE field of a MATMUL or CONV. -/
structure Epilogue where
  en    : Bool
  space : Nat
  addr  : Nat
  resOk : Bool
  deriving DecidableEq, Repr

/-- The EPILOGUE field at an offset. -/
def epilogueAt (d : List Byte) (o : Nat) : Epilogue :=
  let q := leAt d o 8
  ⟨bit q 47, bits q 44 3, bits q 0 44, bits q 48 16 == 0⟩

/-- Check 7 of an epilogue's own address. -/
def State.epiPlaces (s : State) (e : Fin 7) (ep : Epilogue) : List (Option Half) :=
  if ep.en then [s.placeStatus e ep.space ep.addr 488] else []

/-- Check 6 of an epilogue's own address. -/
def Epilogue.rangeOk (ep : Epilogue) : Bool := !ep.en || ep.addr % 8 == 0

/-- The descriptor of an epilogue. -/
def State.epiDesc (s : State) (e : Fin 7) (ep : Epilogue) : List Byte := s.peekSpace e ep.space ep.addr 488

/-- The bytes of an epilogue's descriptor. -/
def State.epiOwn (s : State) (e : Fin 7) (ep : Epilogue) : List Foot := if ep.en then s.footOf e ep.space ep.addr 488 else []

/-- Checks 1 to 7 of an epilogue descriptor over the shape of `out`, once it could be read (R474). -/
def State.judgeEpilogue (s : State) (e : Fin 7) (ep : Epilogue) (out : Tref) : Option Half :=
  if !ep.en then none
  else if (touchLines (s.epiOwn e ep)).any s.mem.lineBad then some stBusError
  else
    let d := s.epiDesc e ep
    let v := vecDesc d
    let others := v.inputs.drop 1
    firstStatus
      [ require (dOpcode d == 0x02) stBadOpcode
      , require (leAt d 1 1 == 1 && leAt d 2 1 == 0) stDescVersion
      , require (leAt d 3 1 == 0 && zeroAt d 6 26 && v.reservedOk true) stReserved
      , require (dLen d == 61) stDescLength
      , require (v.formatOk true) stFormatPair
      , require (v.programOk && (v.ins.headD out).absent && v.out0.absent && v.out1.absent && v.out1En == 0
          && v.reduce == 0 && (others.all fun t => t.vecOk false && extentsFit t out)) stRange
      , placesStatus (others.flatMap fun t => s.trefPlaces e t) ]

/-- The references an epilogue reads past IN0. -/
def State.epiInputs (s : State) (e : Fin 7) (ep : Epilogue) : List Tref :=
  if ep.en then (vecDesc (s.epiDesc e ep)).inputs.drop 1 else []

/-- The footprints of an epilogue's inputs. -/
def State.epiFeet (s : State) (e : Fin 7) (ep : Epilogue) : List Foot := (s.epiInputs e ep).flatMap fun t => s.dataFoot e t

/-- The footprints an epilogue reads: its descriptor and its inputs. -/
def State.epiReads (s : State) (e : Fin 7) (ep : Epilogue) : List Foot := s.epiOwn e ep ++ s.epiFeet e ep

/-- The bytes an epilogue reads: its descriptor and the elements of its inputs. -/
def State.epiTouch (s : State) (e : Fin 7) (ep : Epilogue) : List Foot :=
  s.epiOwn e ep ++ (s.epiInputs e ep).flatMap fun t => s.tensorTouch e t

/-- The inputs of an epilogue past IN0, with their bytes. -/
def State.epiSources (s : State) (e : Fin 7) (ep : Epilogue) : Option (List Source) :=
  s.sources e (s.epiInputs e ep)

/-- A drained value carried through the epilogue, if there is one, to the code of an output element, and whether a check of the
vector unit failed on the way. Without an epilogue it is converted directly. -/
def drainElem (epi : Option (VecDesc × List Source)) (out : Tref) (outSat : Bool) (ups : List Upset) (place : Nat) (v : Val)
    (i : Ix) : (Nat × Note) × Bool :=
  match epi with
  | none => (encodeElem out.fmt outSat v, false)
  | some (ed, src) =>
    let ((r, n), bad) := vecRunSeen ups place ed.ops (v.pattern :: src.map fun x => (x.at i).pattern) ed.consts
    let (c, n') := out.encode outSat (r.getD ed.reg0 0)
    ((c, n.join n'), bad)

end Sys2Proof.Machine
end

