-- ==== Sys2Proof/Machine/Engine.lean ====
section
/-!
DEFINITION. MATMUL and MOVE (R114 to R117, R141 to R144, R147, R148).
-/
namespace Sys2Proof.Machine

/-! ## Operand pairs of the cells (R114) -/

/-- The accumulation of an operand pair: some true for an integer pair, some false for a floating-point pair, none
for a pair the cells do not accept. -/
def pairKind (a b : Fmt) : Option Bool :=
  match a, b with
  | .int8, .int8 | .int8, .int4 | .uint8, .int8 | .uint8, .int4 => some true
  | .e4m3, .e4m3 | .e4m3, .e5m2 | .e5m2, .e4m3 | .e5m2, .e5m2 => some false
  | .bf16, .bf16 => some false
  | .fp16, .fp16 => some false
  | _, _ => none

/-- The accumulation of two references' formats. -/
def trefPair (a b : Tref) : Option Bool :=
  match a.fmt?, b.fmt? with
  | some x, some y => pairKind x y
  | _, _ => none

/-- Whether an output of the cells may take a format: with no epilogue, INT32 for an integer pair and a floating-point
format for a floating-point pair; with one, any (R142). -/
def drainFmtOk (kind : Option Bool) (epi : Bool) (f : Option Fmt) : Bool :=
  match kind, f with
  | some true, some g => epi || g == .int32
  | some false, some g => epi || !g.isInt
  | _, _ => false

/-- Whether a bias has the format of its pair: INT32 or FP32 (R141). -/
def biasFmtOk (kind : Option Bool) (f : Option Fmt) : Bool :=
  match kind with
  | some true => f == some .int32
  | some false => f == some .fp32
  | none => false

/-- The exact value of an integer element less a zero point. -/
def Val.less (v : Val) (z : Int) : Int :=
  match v with
  | .int i => i - z
  | .flt _ => 0

/-- One accumulator: the exact integer sum (R116), or the FP32 procedure of R117, over products in ascending position. -/
def dotInt (init : Int) (a : List Int) (b : List Int) : Int := init + ((a.zip b).map fun p => p.1 * p.2).sum

/-- The floating-point accumulation of products in ascending position. -/
def dotFloat (init : Word) (a b : List Word) : Word := fsum init ((a.zip b).map fun p => fmul p.1 p.2)

/-- A drained integer accumulator, saturated to INT32 (R116). -/
def drainInt (x : Int) : Int := (satInt .int32 x).1

/-- Whether a drained integer accumulator saturates. -/
def drainSat (x : Int) : Bool := decide ((satInt .int32 x).2.sat > 0)

/-- The values of held accumulators as they are drained. -/
def HeldVals.drained : HeldVals → List Val
  | .ints l => l.map fun x => .int (drainInt x)
  | .floats l => l.map .flt

/-- Whether an accumulator is a NaN. -/
def HeldVals.anyNaN : HeldVals → Bool
  | .ints _ => false
  | .floats l => l.any isNaN

/-- Accumulators with what the checker holds beside them: the residue of each (R129), and the places that carry a sticky mark
(R130). -/
structure Acc where
  vals   : HeldVals
  rho    : List Nat
  sticky : List Nat
  deriving DecidableEq, Repr

/-- Integer accumulators as they are read at drain. -/
def HeldVals.atDrain (ups : List Upset) : HeldVals → HeldVals
  | .ints l => .ints ((l.zipIdx).map fun x => if ups.any (Upset.hits x.2) then flip48 x.1 (drainFlip ups x.2) else x.1)
  | .floats l => .floats l

/-- The places where a check fails at drain: an accumulator whose residue is not ρ, or a sticky mark. -/
def Acc.failed (a : Acc) : List Nat :=
  match a.vals with
  | .ints l => ((l.zip a.rho).zipIdx).filterMap fun x => if mod7 x.1.1 = x.1.2 then none else some x.2
  | .floats _ => a.sticky

/-- The number of integer accumulators that saturate at drain, among the places that `keep` accepts. -/
def HeldVals.saturated (keep : Nat → Bool) : HeldVals → Nat
  | .ints l => (l.zipIdx).countP fun x => keep x.2 && drainSat x.1
  | .floats _ => 0

/-- One integer accumulator from its initial value and residue over products, with their disturbances. -/
def accInt (ups : List Upset) (place : Nat) (init : Int) (rho : Nat) (a b : List Int) : Int × Nat :=
  (dotIntSeen ups place (dotInt init a b) a b, rhoDot rho a b)

/-- One floating-point accumulator in a column, and whether its sticky mark is set. -/
def accFloat (ups : List Upset) (place col : Nat) (init : Word) (a b : List Word) : Word × Bool :=
  if ups.any (Upset.hits place) then accumulateSeen ups place col (a.zip b).length 0 init (a.zip b)
  else (dotFloat init a b, false)

/-! ## MATMUL (R141 to R144) -/

/-- A MATMUL descriptor. -/
structure MatDesc where
  a       : Tref
  b       : Tref
  c       : Tref
  bias    : Tref
  m       : Nat
  n       : Nat
  k       : Nat
  accMode : Nat
  drain   : Nat
  epi     : Epilogue
  deriving DecidableEq, Repr

/-- The fields of a MATMUL descriptor. -/
def matDesc (d : List Byte) : MatDesc where
  a := trefAt d 32
  b := trefAt d 80
  c := trefAt d 128
  bias := trefAt d 176
  m := leAt d 224 4
  n := leAt d 228 4
  k := leAt d 232 4
  accMode := leAt d 236 1
  drain := leAt d 237 1
  epi := epilogueAt d 240

/-- Whether the command drains its accumulators. -/
def MatDesc.drains (x : MatDesc) : Bool := x.drain != 0

/-- The references of the command that are in use, the output among them when it drains. -/
def MatDesc.used (x : MatDesc) : List Tref :=
  [x.a, x.b] ++ (if x.accMode = 1 then [x.bias] else []) ++ (if x.drains then [x.c] else [])

/-- Whether an operand of the cells has a legal layout. -/
def Tref.cellOk (t : Tref) (out : Bool) : Bool := t.rangeOk out && decide (t.layout ≤ zrcLayout)

/-- Whether a reference has the given extents and D2 = D3 = 1. -/
def Tref.is2d (t : Tref) (d0 d1 : Nat) : Bool := t.d0 == d0 && t.d1 == d1 && t.d2 == 1 && t.d3 == 1

/-- Ranges of a MATMUL (R141, R143, R175). -/
def MatDesc.rangeOk (x : MatDesc) : Bool :=
  decide (x.m ≤ 1048576) && decide (x.n ≤ 65536) && decide (x.k ≤ 1048576) && decide (x.accMode ≤ 2)
    && decide (x.drain ≤ 1)
    && x.a.is2d x.k x.m && x.b.is2d x.k x.n && (!x.drains || x.c.is2d x.n x.m)
    && (x.accMode != 1 || x.bias.d0 == x.n)
    && x.a.cellOk false && x.b.cellOk false && (!x.drains || (x.c.cellOk true && x.c.sMode == 0))
    && (x.accMode != 1 || (x.bias.cellOk false && x.bias.sMode == 0))
    && decide (x.a.sMode ≤ 1) && (x.b.sMode == 0 || x.b.sMode == 3)
    && !(x.a.sMode == 1 && x.accMode == 1)
    && (x.drains || decide (x.m * x.n ≤ 131072)) && x.epi.rangeOk

/-- Checks 1 to 7 of a MATMUL, its epilogue's after them, and the state of the accumulators (R133, R143, R474). -/
def State.judgeMatmul (s : State) (e : Fin 7) (d : List Byte) : Option Half :=
  let x := matDesc d
  let kind := trefPair x.a x.b
  let held : Bool := match s.engines[e].held with
    | some h => h.m == x.m && h.n == x.n && (match h.vals with
      | .ints _ => kind == some true
      | .floats _ => kind == some false)
    | none => false
  firstStatus
    [ s.judge e d 0x01 32
        (zeroAt d 238 2 && zeroAt d 248 8 && x.epi.resOk && (x.used.all Tref.reservedOk)
          && (x.accMode == 1 || x.bias.absent) && (x.drains || x.c.absent))
        (kind.isSome && (!x.drains || drainFmtOk kind x.epi.en x.c.fmt?)
          && (x.accMode != 1 || biasFmtOk kind x.bias.fmt?))
        x.rangeOk
        ((x.used.flatMap fun t => s.trefPlaces e t) ++ s.epiPlaces e x.epi)
    , s.judgeEpilogue e x.epi x.c
    , require (x.accMode != 2 || held) stAccState
    , require (x.drains || !dLast d) stAccState ]

/-- The footprints a MATMUL reads. -/
def State.matmulReads (s : State) (e : Fin 7) (d : List Byte) : List Foot :=
  let x := matDesc d
  s.trefFeet e x.a ++ s.trefFeet e x.b ++ (if x.accMode = 1 then s.dataFoot e x.bias else []) ++ s.epiReads e x.epi

/-- The footprints a MATMUL writes. -/
def State.matmulWrites (s : State) (e : Fin 7) (d : List Byte) : List Foot :=
  let x := matDesc d
  if x.drains then s.dataFoot e x.c else []

/-- The accumulators of a MATMUL, row by row: the initial values with every product added (R142), and their residues. -/
def matAcc (x : MatDesc) (ups : List Upset) (zps : List ScaleRow) (aB bB biasB : List Byte) (old : Option Held) : Acc :=
  let ks := List.range x.k
  let rowsA := (List.range x.m).map fun m => ks.map fun k => x.a.elem aB ⟨k, m, 0, 0⟩
  let rowsB := (List.range x.n).map fun n => ks.map fun k => x.b.elem bB ⟨k, n, 0, 0⟩
  let bias := (List.range x.n).map fun n => x.bias.elem biasB ⟨n, 0, 0, 0⟩
  if trefPair x.a x.b = some true then
    let init (i n : Nat) : Int × Nat :=
      let fresh (v : Int) : Int × Nat := (v, mod7 v)
      match x.accMode, old with
      | 1, _ => fresh ((bias.getD n (.int 0)).less 0)
      | 2, some ⟨_, _, .ints l, rho, _⟩ => (l.getD (i * x.n + n) 0, rho.getD (i * x.n + n) 0)
      | _, _ => fresh 0
    let cols := rowsB.map fun r => r.map fun v => v.less 0
    let accs := (rowsA.zipIdx).flatMap fun (row, m) =>
      let z := (zps.getD (x.a.row ⟨0, m, 0, 0⟩) ⟨0, 0⟩).zp
      let a := row.map fun v => v.less z
      (cols.zipIdx).map fun (col, n) => accInt ups (m * x.n + n) (init m n).1 (init m n).2 a col
    ⟨.ints (accs.map (·.1)), accs.map (·.2), []⟩
  else
    let init (i n : Nat) : Word := match x.accMode, old with
      | 1, _ => (bias.getD n (.flt 0)).f32
      | 2, some ⟨_, _, .floats l, _, _⟩ => l.getD (i * x.n + n) 0
      | _, _ => 0
    let marks := match x.accMode, old with
      | 2, some h => h.sticky
      | _, _ => []
    let cols := rowsB.map fun r => r.map Val.f32
    let accs := (rowsA.zipIdx).flatMap fun (row, m) =>
      let a := row.map Val.f32
      (cols.zipIdx).map fun (col, n) => accFloat ups (m * x.n + n) n (init m n) a col
    ⟨.floats (accs.map (·.1)), [],
      marks ++ (accs.zipIdx).filterMap fun y => if y.1.2 then some y.2 else none⟩

/-- Accumulators drained into an output tensor (R116, R142): the flags, the counters and the bytes written. `at_` is
the place of an output element among the accumulators, which stand in `cols` columns. The tile in which a check fails is not
written, nor any after it (R131). -/
def drainTo (s : State) (e : Fin 7) (out : Tref) (epi : Option (VecDesc × List Source)) (outSat : Bool) (ups : List Upset)
    (acc : Acc) (cols : Nat) (at_ : Ix → Nat) (n0 : Note) (flags : Nat) : Effect :=
  let read : Acc := { acc with vals := acc.vals.atDrain ups }
  let vals := read.vals.drained
  let one (i : Ix) := drainElem epi out outSat ups (at_ i) (vals.getD (at_ i) (.int 0)) i
  let bad := leastOf ((read.failed ++ (out.indices.filter fun i => (one i).2).map at_).map (tileOf cols))
  let kept (p : Nat) : Bool := beforeBad bad (tileOf cols p)
  let keep (i : Ix) : Bool := kept (at_ i)
  let n := n0.join (joinNotes ((out.indices.filter keep).map fun i => (one i).1.2))
  let sats := read.vals.saturated kept
  let s := if sats > 0 then s.countEngine e Eng.accSaturations sats else s
  let (s, ok) := s.writeTensor e out (fun i => (one i).1.1) keep
  residueStatus bad (noted s e ok n (flags + flagIf (decide (sats > 0)) flAccSat))

/-- The epilogue of a command with its descriptor and inputs; none when there is none. -/
def State.epiloguePair (s : State) (e : Fin 7) (ep : Epilogue) (src : List Source) : Option (VecDesc × List Source) :=
  if ep.en then some (vecDesc (s.epiDesc e ep), src) else none

/-- The accumulators of a MATMUL held for the next one, or discarded (R143). -/
def State.holdTile (s : State) (e : Fin 7) (x : MatDesc) (acc : Acc) : State :=
  s.onEngine e fun g => { g with held := if x.drains then none else some ⟨x.m, x.n, acc.vals, acc.rho, acc.sticky⟩ }

/-- The effect of a MATMUL whose checks passed. With M or N zero it reads nothing (R144); with K zero it reads no activation, no
weight and no scale entry. -/
def matmulEffect (e : Fin 7) (d : List Byte) (x : MatDesc) (ups : List Upset) (s : State) : Effect :=
  if x.m = 0 ∨ x.n = 0 then plain (s.holdTile e x ⟨if trefPair x.a x.b = some true then .ints [] else .floats [], [], []⟩) flZeroExtent
  else
    match if x.k = 0 then some [] else s.scaleRows e x.a, s.tensorBytes e x.a, s.tensorBytes e x.b, s.tensorBytes e x.bias,
        s.epiSources e x.epi with
    | none, _, _, _, _ => ⟨s, stScaleInvalid, 0⟩
    | some zps, some aB, some bB, some biasB, some src =>
      let acc := matAcc x ups zps aB bB biasB s.engines[e].held
      let n0 : Note := ⟨decide (x.k > 0) && acc.vals.anyNaN, false, 0, false⟩
      let flags := flagIf (decide (x.k = 0)) flZeroK
      if x.drains then
        drainTo (s.holdTile e x acc) e x.c (s.epiloguePair e x.epi src) (dOutSat d) ups acc x.n
          (fun i => i.i1 * x.n + i.i0) n0 flags
      else noted (s.holdTile e x acc) e true n0 flags
    | some _, _, _, _, _ => ⟨s, stBounds, 0⟩

/-- The bytes a MATMUL reads. -/
def State.matmulTouch (s : State) (e : Fin 7) (x : MatDesc) : List Foot :=
  if x.m = 0 ∨ x.n = 0 then s.epiOwn e x.epi
  else
    (if x.k = 0 then [] else s.tensorTouch e x.a ++ s.scaleFoot e x.a ++ s.tensorTouch e x.b)
      ++ (if x.accMode = 1 then s.tensorTouch e x.bias else []) ++ s.epiTouch e x.epi

/-- MATMUL: a matrix multiply with accumulation, drain and optional epilogue (R141 to R144). -/
def runMatmul (c : EngCall) (s : State) : State :=
  let e := c.engine
  let x := matDesc c.desc
  s.runEngine c (s.judgeMatmul e c.desc) (s.matmulReads e c.desc) (s.matmulWrites e c.desc) (s.matmulTouch e x)
    (matmulEffect e c.desc x c.upsets)

/-! ## MOVE (R147, R148) -/

/-- Whether a MOVE swaps i0 and i1. -/
def moveSwaps (d : List Byte) : Bool := bit (leAt d 128 1) 0

/-- An index with i0 and i1 swapped. -/
def Ix.swap (i : Ix) : Ix := ⟨i.i1, i.i0, i.i2, i.i3⟩

/-- Checks 1 to 7 of a MOVE. -/
def State.judgeMove (s : State) (e : Fin 7) (d : List Byte) : Option Half :=
  let a := trefAt d 32
  let b := trefAt d 80
  let same := if moveSwaps d then b.d0 == a.d1 && b.d1 == a.d0 && b.d2 == a.d2 && b.d3 == a.d3 else sameExtents a b
  s.judge e d 0x03 17
    (leAt d 128 1 / 2 == 0 && zeroAt d 129 7 && a.reservedOk && b.reservedOk)
    (a.fmt?.isSome && b.fmt?.isSome)
    (a.vecOk false && b.vecOk true && same && !feetMeet (s.dataFoot e a) (s.dataFoot e b))
    (s.trefPlaces e a ++ s.trefPlaces e b)

/-- The effect of a MOVE whose checks passed. -/
def moveEffect (e : Fin 7) (d : List Byte) (s : State) : Effect :=
  let a := trefAt d 32
  let b := trefAt d 80
  if a.empty then plain s flZeroExtent
  else
    match s.tensorBytes e a with
    | none => ⟨s, stBounds, 0⟩
    | some bs =>
      let one (i : Ix) := encodeElem b.fmt (dOutSat d) (a.elem bs (if moveSwaps d then i.swap else i))
      let n := joinNotes (b.indices.map fun i => (one i).2)
      let (s, ok) := s.writeTensor e b (fun i => (one i).1)
      noted s e ok n 0

/-- MOVE: a tensor copied with format conversion, re-layout and optional transpose (R148). -/
def runMove (c : EngCall) (s : State) : State :=
  let e := c.engine
  let a := trefAt c.desc 32
  s.runEngine c (s.judgeMove e c.desc) (s.dataFoot e a) (s.dataFoot e (trefAt c.desc 80)) (s.tensorTouch e a)
    (moveEffect e c.desc)

end Sys2Proof.Machine
end

