-- ==== Sys2Proof/Machine/Conv.lean ====
section
/-!
DEFINITION. CONV, POOL and ARGMAX (05_convolution_and_image_operators.md, R149 to R166).
-/
namespace Sys2Proof.Machine

/-! ## Windows (R149, R153 to R158) -/

/-- The window fields that CONV and POOL share. -/
structure Window where
  kh      : Nat
  kw      : Nat
  strideY : Nat
  strideX : Nat
  dilY    : Nat
  dilX    : Nat
  mode    : Nat
  slot    : Nat
  top     : Nat
  bottom  : Nat
  left    : Nat
  right   : Nat
  deriving DecidableEq, Repr

/-- The window fields that begin at an offset: KH, KW, strides, dilations, PAD_MODE, SLOT and the four pads. -/
def windowAt (d : List Byte) (o : Nat) : Window :=
  ⟨leAt d o 2, leAt d (o + 2) 2, leAt d (o + 4) 1, leAt d (o + 5) 1, leAt d (o + 6) 1, leAt d (o + 7) 1,
    leAt d (o + 8) 1, leAt d (o + 9) 1, leAt d (o + 10) 1, leAt d (o + 11) 1, leAt d (o + 12) 1, leAt d (o + 13) 1⟩

/-- Whether a number lies between two bounds. -/
def within (lo hi n : Nat) : Bool := decide (lo ≤ n) && decide (n ≤ hi)

/-- The window slot rule (R158). -/
def Window.slotOk (w : Window) : Bool :=
  decide (w.slot ≤ 15)
    && (decide (w.slot ≤ 1) || (w.top == w.bottom && w.left == w.right && decide (w.top ≤ 127) && decide (w.left ≤ 127)))

/-- Ranges of the window fields (R152). -/
def Window.rangeOk (w : Window) : Bool :=
  within 1 255 w.kh && within 1 255 w.kw && within 1 16 w.strideY && within 1 16 w.strideX && within 1 16 w.dilY
    && within 1 16 w.dilX && decide (w.mode ≤ 3) && w.slotOk

/-- The output extent along one axis (R154). -/
def outExtent (i lo hi k dil stride : Nat) : Int :=
  ((i : Int) + lo + hi - dil * ((k : Int) - 1) - 1) / stride + 1

/-- Output height (R154). -/
def Window.outH (w : Window) (h : Nat) : Int := outExtent h w.top w.bottom w.kh w.dilY w.strideY

/-- Output width (R154). -/
def Window.outW (w : Window) (x : Nat) : Int := outExtent x w.left w.right w.kw w.dilX w.strideX

/-- Reflection without repeating the edge, folded periodically (R155). -/
def fold (y : Int) (i : Nat) : Nat :=
  if i = 1 then 0
  else
    let p : Int := 2 * ((i : Int) - 1)
    let r := y % p
    (if r < i then r else p - r).toNat

/-- Where a tap finds its element: inside the image, at another element, or in padding that holds no element. -/
inductive Tap where
  | inside (y x : Nat)
  | border (y x : Nat)
  | zero
  | const
  deriving DecidableEq, Repr

/-- The element of a position (R155). -/
def Window.tapAt (w : Window) (h wd : Nat) (y x : Int) : Tap :=
  if 0 ≤ y ∧ y < h ∧ 0 ≤ x ∧ x < wd then .inside y.toNat x.toNat
  else match w.mode with
    | 0 => .zero
    | 1 => .const
    | 2 => .border (fold y h) (fold x wd)
    | _ => .border (clampI 0 ((h : Int) - 1) y).toNat (clampI 0 ((wd : Int) - 1) x).toNat

/-- The tap (dy, dx) of output pixel (oy, ox). -/
def Window.tap (w : Window) (h wd oy ox dy dx : Nat) : Tap :=
  w.tapAt h wd ((oy * w.strideY + dy * w.dilY : Nat) - (w.top : Int)) ((ox * w.strideX + dx * w.dilX : Nat) - (w.left : Int))

/-- The index of the element along one axis that a position maps to; none in padding that holds no element (R155). -/
def axisTap (mode i : Nat) (y : Int) : Option Nat :=
  if 0 ≤ y ∧ y < i then some y.toNat
  else match mode with
    | 0 | 1 => none
    | 2 => some (fold y i)
    | _ => some (clampI 0 ((i : Int) - 1) y).toNat

/-- The indices along one axis that the taps of `n` outputs map to. -/
def axisCover (mode i lo stride dil k n : Nat) : List Nat :=
  (List.range n).flatMap fun o => (List.range k).filterMap fun t => axisTap mode i ((o * stride + t * dil : Nat) - (lo : Int))

/-- The positions of an input that the taps of an output's pixels cover (R159). -/
def Window.cover (w : Window) (inp out : Tref) : Cover :=
  let rows := axisCover w.mode inp.d2 w.top w.strideY w.dilY w.kh out.d2
  let cols := axisCover w.mode inp.d1 w.left w.strideX w.dilX w.kw out.d1
  fun y x => rows.contains y && cols.contains x

/-- A reference whose scale rows are one per image (R157; log entry 118). -/
def Tref.perImage (t : Tref) : Tref := { t with layout := if t.layout = rowMajor then nhwc16 else t.layout }

/-- The checks of space for an image operand: its scale tensor has one row per image (R157). -/
def State.imagePlaces (s : State) (e : Fin 7) (t : Tref) : List (Option Half) :=
  s.placeStatus e t.space t.addr t.footBytes
    :: (if t.sMode = 0 then [] else [s.placeStatus e t.sSpace t.sAddr (t.perImage.scaleBytes false)])

/-- Footprints of an image operand. -/
def State.imageFeet (s : State) (e : Fin 7) (t : Tref) : List Foot :=
  s.dataFoot e t ++ s.scaleFoot e t.perImage

/-- Whether PAD_VALUE fits: only the low bits of a format, and zero unless PAD_MODE is CONST. -/
def padValueOk (w : Window) (f : Fmt) (v : Nat) : Bool :=
  if w.mode = 1 then decide (v < 2 ^ (4 * f.nibbles)) else v == 0

/-! ## CONV -/

/-- A CONV descriptor (R152). -/
structure ConvDesc where
  inp     : Tref
  wgt     : Tref
  out     : Tref
  bias    : Tref
  win     : Window
  groups  : Nat
  pad     : Nat
  accMode : Nat
  epi     : Epilogue
  deriving DecidableEq, Repr

/-- The fields of a CONV descriptor. -/
def convDesc (d : List Byte) : ConvDesc where
  inp := trefAt d 32
  wgt := trefAt d 80
  out := trefAt d 128
  bias := trefAt d 176
  win := windowAt d 224
  groups := leAt d 240 4
  pad := leAt d 244 4
  accMode := leAt d 248 1
  epi := epilogueAt d 256

/-- Input channels of a group. -/
def ConvDesc.cgIn (x : ConvDesc) : Nat := x.inp.d0 / x.groups

/-- Output channels of a group. -/
def ConvDesc.cgOut (x : ConvDesc) : Nat := x.out.d0 / x.groups

/-- Whether the mapping is DENSE (R150). -/
def ConvDesc.dense (x : ConvDesc) : Bool := decide (x.cgIn ≥ 16)

/-- Length of the reduction sequence, counting the +0.0 positions (R150). -/
def ConvDesc.seqLen (x : ConvDesc) : Nat :=
  if x.dense then x.win.kh * x.win.kw * roundUp x.cgIn 16 else roundUp (x.win.kh * x.win.kw * x.cgIn) 16

/-- The reduction sequence of an output channel: (dy, dx, ci), none for a position that holds +0.0 (R150). -/
def ConvDesc.sequence (x : ConvDesc) : List (Option (Nat × Nat × Nat)) :=
  let taps := (List.range x.win.kh).flatMap fun dy => (List.range x.win.kw).map fun dx => (dy, dx)
  taps.flatMap fun p =>
    (List.range x.cgIn).map (fun ci => some (p.1, p.2, ci))
      ++ (if x.dense then List.replicate (roundUp x.cgIn 16 - x.cgIn) none else [])

/-- Whether a CONV has nothing to compute (R154). -/
def ConvDesc.nothing (x : ConvDesc) : Bool :=
  decide (x.win.outH x.inp.d2 ≤ 0) || decide (x.win.outW x.inp.d1 ≤ 0) || x.inp.empty || x.out.d0 == 0

/-- The references of a CONV in use. -/
def ConvDesc.used (x : ConvDesc) : List Tref :=
  [x.inp, x.wgt, x.out] ++ (if x.accMode = 1 then [x.bias] else [])

/-- Whether an input layout is accepted (R151). -/
def ConvDesc.layoutOk (x : ConvDesc) : Bool :=
  decide (x.inp.layout ≤ zrcLayout) && (x.inp.layout != planar8 || x.groups == 1)
    && decide (x.out.layout ≤ zrcLayout) && x.out.layout != planar8

/-- Ranges of a CONV, without the overlap rule (R153, R175). -/
def ConvDesc.rangeOk (x : ConvDesc) : Bool :=
  x.win.rangeOk && within 1 65536 x.groups && decide (x.accMode ≤ 1) && padValueOk x.win x.out.fmt x.pad
    && x.inp.d0 % x.groups == 0 && x.out.d0 % x.groups == 0 && decide (x.inp.d0 ≤ 65536) && decide (x.out.d0 ≤ 65536)
    && decide (x.seqLen ≤ 1048576)
    && x.wgt.d0 == x.cgIn && x.wgt.d1 == x.win.kw && x.wgt.d2 == x.win.kh && x.wgt.d3 == x.out.d0
    && x.wgt.layout == rowMajor && x.out.d3 == x.inp.d3
    && (x.out.d1 : Int) == max 0 (x.win.outW x.inp.d1) && (x.out.d2 : Int) == max 0 (x.win.outH x.inp.d2)
    && x.inp.rangeOk false && x.wgt.rangeOk false && x.out.rangeOk true && x.layoutOk
    && (x.accMode != 1 || (x.bias.rangeOk false && x.bias.layout == rowMajor && x.bias.d0 == x.out.d0
      && x.bias.sMode == 0))
    && decide (x.inp.sMode ≤ 1) && (x.wgt.sMode == 0 || x.wgt.sMode == 3) && x.out.sMode == 0
    && !(x.inp.sMode == 1 && x.accMode == 1) && x.epi.rangeOk

/-- The footprints of IN, WGT and BIAS with their scale entries. -/
def State.convInputs (s : State) (e : Fin 7) (x : ConvDesc) : List Foot :=
  s.imageFeet e x.inp ++ s.trefFeet e x.wgt true ++ (if x.accMode = 1 then s.dataFoot e x.bias else [])

/-- The footprints a CONV reads. -/
def State.convReads (s : State) (e : Fin 7) (d : List Byte) : List Foot :=
  s.convInputs e (convDesc d) ++ s.epiReads e (convDesc d).epi

/-- The footprints a CONV writes. -/
def State.convWrites (s : State) (e : Fin 7) (d : List Byte) : List Foot := s.dataFoot e (convDesc d).out

/-- Checks 1 to 7 of a CONV, its epilogue's after them (R153, R474). -/
def State.judgeConv (s : State) (e : Fin 7) (d : List Byte) : Option Half :=
  let x := convDesc d
  let kind := trefPair x.inp x.wgt
  firstStatus
    [ s.judge e d 0x10 34
        (zeroAt d 238 2 && zeroAt d 249 7 && zeroAt d 264 8 && x.epi.resOk && (x.used.all Tref.reservedOk)
          && (x.accMode == 1 || x.bias.absent))
        (kind.isSome && drainFmtOk kind x.epi.en x.out.fmt? && (x.accMode != 1 || biasFmtOk kind x.bias.fmt?))
        (x.rangeOk && !feetMeet (s.convWrites e d) (s.convInputs e x ++ s.epiFeet e x.epi))
        (s.imagePlaces e x.inp ++ s.trefPlaces e x.wgt true ++ s.trefPlaces e x.out
          ++ (if x.accMode = 1 then s.trefPlaces e x.bias else []) ++ s.epiPlaces e x.epi)
    , s.judgeEpilogue e x.epi x.out ]

/-- The CONST padding element in the input's format, with what its conversion reports (R156). -/
def padElem (w : Window) (out inp : Fmt) (v : Nat) : Val × Note :=
  if w.mode = 1 then
    let (c, n) := encodeElem inp false (decodeElem out v)
    (decodeElem inp c, ⟨n.nan, false, 0, decide (n.sat > 0)⟩)
  else (.int 0, .none)

/-- The integer that enters a cell for a tap: the code less the zero point; ZERO padding gives 0 (R155). -/
def tapInt (t : Tref) (bs : List Byte) (z : Int) (pad : Val) (c n : Nat) : Tap → Int
  | .inside y x => (t.elem bs ⟨c, x, y, n⟩).less z
  | .border y x => (t.elem bs ⟨c, x, y, n⟩).less z
  | .zero => 0
  | .const => pad.less z

/-- The FP32 value that enters a cell for a tap. -/
def tapFloat (t : Tref) (bs : List Byte) (pad : Val) (c n : Nat) : Tap → Word
  | .inside y x => (t.elem bs ⟨c, x, y, n⟩).f32
  | .border y x => (t.elem bs ⟨c, x, y, n⟩).f32
  | .zero => 0
  | .const => pad.f32

/-- What enters the cell at each position of the sequence of an output channel, as integers: activations less z, and weights. -/
def ConvDesc.intSeq (x : ConvDesc) (inB wB : List Byte) (z : Int) (pad : Val) (i : Ix) : List Int × List Int :=
  let g := i.i0 / x.cgOut
  (x.sequence.map fun p => match p with
    | none => 0
    | some (dy, dx, ci) => tapInt x.inp inB z pad (g * x.cgIn + ci) i.i3 (x.win.tap x.inp.d2 x.inp.d1 i.i2 i.i1 dy dx),
   x.sequence.map fun p => match p with
    | none => 0
    | some (dy, dx, ci) => (x.wgt.elem wB ⟨ci, dx, dy, i.i0⟩).less 0)

/-- What enters the cell at each position of the sequence of an output channel, as FP32 values. -/
def ConvDesc.floatSeq (x : ConvDesc) (inB wB : List Byte) (pad : Val) (i : Ix) : List Word × List Word :=
  let g := i.i0 / x.cgOut
  (x.sequence.map fun p => match p with
    | none => 0
    | some (dy, dx, ci) => tapFloat x.inp inB pad (g * x.cgIn + ci) i.i3 (x.win.tap x.inp.d2 x.inp.d1 i.i2 i.i1 dy dx),
   x.sequence.map fun p => match p with
    | none => 0
    | some (dy, dx, ci) => (x.wgt.elem wB ⟨ci, dx, dy, i.i0⟩).f32)

/-- The column of a cluster that an output channel takes (R150). -/
def ConvDesc.column (x : ConvDesc) (co : Nat) : Nat :=
  if x.groups > 1 ∧ !x.dense then co % 16 else co % x.cgOut % 16

/-- The indices of a CONV's accumulators: image, line, column, channel. -/
def pixelOrder (c w h n : Nat) : List Ix :=
  (List.range n).flatMap fun i3 => (List.range h).flatMap fun i2 => (List.range w).flatMap fun i1 =>
    (List.range c).map fun i0 => ⟨i0, i1, i2, i3⟩

/-- The place of an output element among a CONV's accumulators. -/
def ConvDesc.at (x : ConvDesc) (i : Ix) : Nat := ((i.i3 * x.out.d2 + i.i2) * x.out.d1 + i.i1) * x.out.d0 + i.i0

/-- The accumulators of a CONV in the order of `pixelOrder` (R116, R117, R149), with what the checker holds beside them. -/
def convAcc (x : ConvDesc) (ups : List Upset) (zps : List ScaleRow) (inB wB biasB : List Byte) (pad : Val) : Acc :=
  let ixs := pixelOrder x.out.d0 x.out.d1 x.out.d2 x.out.d3
  let bias (i : Ix) : Val := x.bias.elem biasB ⟨i.i0, 0, 0, 0⟩
  if trefPair x.inp x.wgt = some true then
    let accs := ixs.map fun i =>
      let init := if x.accMode = 1 then (bias i).less 0 else 0
      let q := x.intSeq inB wB (zps.getD i.i3 ⟨0, 0⟩).zp pad i
      accInt ups (x.at i) init (mod7 init) q.1 q.2
    ⟨.ints (accs.map (·.1)), accs.map (·.2), []⟩
  else
    let accs := ixs.map fun i =>
      let q := x.floatSeq inB wB pad i
      accFloat ups (x.at i) (x.column i.i0) (if x.accMode = 1 then (bias i).f32 else 0) q.1 q.2
    ⟨.floats (accs.map (·.1)), [], (accs.zipIdx).filterMap fun y => if y.1.2 then some y.2 else none⟩

/-- The effect of a CONV whose checks passed. -/
def convEffect (e : Fin 7) (d : List Byte) (x : ConvDesc) (ups : List Upset) (s : State) : Effect :=
  let s := s.dropHeld e d
  if x.nothing then plain (s.countEngine e Eng.zeroExtents 1) flZeroExtent
  else
    match s.scaleRows e x.inp.perImage, s.tensorBytes e x.inp (x.win.cover x.inp x.out), s.tensorBytes e x.wgt,
        s.tensorBytes e x.bias, s.epiSources e x.epi with
    | none, _, _, _, _ => ⟨s, stScaleInvalid, 0⟩
    | some zps, some inB, some wB, some biasB, some src =>
      let (pad, padNote) := padElem x.win x.out.fmt x.inp.fmt x.pad
      let acc := convAcc x ups zps inB wB biasB pad
      drainTo s e x.out (s.epiloguePair e x.epi src) (dOutSat d) ups acc x.out.d0 x.at
        (padNote.join ⟨acc.vals.anyNaN, false, 0, false⟩) 0
    | some _, _, _, _, _ => ⟨s, stBounds, 0⟩

/-- The bytes a CONV reads (R159). -/
def State.convTouch (s : State) (e : Fin 7) (x : ConvDesc) : List Foot :=
  if x.nothing then s.epiOwn e x.epi
  else
    s.tensorTouch e x.inp (x.win.cover x.inp x.out) ++ s.scaleFoot e x.inp.perImage ++ s.tensorTouch e x.wgt
      ++ (if x.accMode = 1 then s.tensorTouch e x.bias else []) ++ s.epiTouch e x.epi

/-- CONV on an engine. -/
def runConv (c : EngCall) (s : State) : State :=
  let e := c.engine
  let x := convDesc c.desc
  s.runEngine c (s.judgeConv e c.desc) (s.convReads e c.desc) (s.convWrites e c.desc) (s.convTouch e x)
    (convEffect e c.desc x c.upsets)

/-! ## POOL (R161 to R163) -/

/-- A POOL descriptor. -/
structure PoolDesc where
  inp  : Tref
  out  : Tref
  win  : Window
  kind : Nat
  pad  : Nat
  deriving DecidableEq, Repr

/-- The fields of a POOL descriptor. -/
def poolDesc (d : List Byte) : PoolDesc :=
  ⟨trefAt d 32, trefAt d 80, windowAt d 128, leAt d 142 1, leAt d 144 4⟩

/-- Whether the kind is global. -/
def PoolDesc.glob (x : PoolDesc) : Bool := decide (x.kind ≥ 2)

/-- Whether the kind takes a mean. -/
def PoolDesc.avg (x : PoolDesc) : Bool := x.kind % 2 == 1

/-- The fields a global kind must carry. -/
def Window.globalOk (w : Window) : Bool :=
  w.kh == 0 && w.kw == 0 && w.strideY == 1 && w.strideX == 1 && w.dilY == 1 && w.dilX == 1 && w.mode == 0
    && decide (w.slot ≤ 15) && w.top == 0 && w.bottom == 0 && w.left == 0 && w.right == 0

/-- Whether a POOL has nothing to compute. -/
def PoolDesc.nothing (x : PoolDesc) : Bool :=
  x.inp.empty || (!x.glob && (decide (x.win.outH x.inp.d2 ≤ 0) || decide (x.win.outW x.inp.d1 ≤ 0)))

/-- Ranges of a POOL, without the overlap rule. -/
def PoolDesc.rangeOk (x : PoolDesc) : Bool :=
  decide (x.kind ≤ 3)
    && (if x.glob then x.win.globalOk && x.pad == 0 else x.win.rangeOk && padValueOk x.win x.out.fmt x.pad)
    && x.inp.rangeOk false && x.out.rangeOk true
    && decide (x.inp.layout ≤ zrcLayout) && x.inp.layout != planar8
    && decide (x.out.layout ≤ zrcLayout) && x.out.layout != planar8
    && decide (x.inp.d0 ≤ 65536)
    && x.out.d0 == x.inp.d0 && x.out.d3 == x.inp.d3
    && (if x.glob then x.out.d1 == 1 && x.out.d2 == 1
      else (x.out.d1 : Int) == max 0 (x.win.outW x.inp.d1) && (x.out.d2 : Int) == max 0 (x.win.outH x.inp.d2))
    && decide (x.inp.sMode ≤ 1) && decide (x.out.sMode ≤ 1)

/-- The footprints a POOL reads. -/
def State.poolReads (s : State) (e : Fin 7) (d : List Byte) : List Foot := s.imageFeet e (poolDesc d).inp

/-- The footprints a POOL writes. -/
def State.poolWrites (s : State) (e : Fin 7) (d : List Byte) : List Foot := s.imageFeet e (poolDesc d).out

/-- Checks 1 to 7 of a POOL. -/
def State.judgePool (s : State) (e : Fin 7) (d : List Byte) : Option Half :=
  let x := poolDesc d
  s.judge e d 0x11 19
    (zeroAt d 143 1 && zeroAt d 148 4 && x.inp.reservedOk && x.out.reservedOk)
    (x.inp.fmt?.isSome && x.inp.code == x.out.code && x.inp.fmt? != some .int32)
    (x.rangeOk && !feetMeet (s.poolWrites e d) (s.poolReads e d))
    (s.imagePlaces e x.inp ++ s.imagePlaces e x.out)

/-- The taps of an output pixel in row-major order; a global kind takes every position of the image. -/
def PoolDesc.taps (x : PoolDesc) (i : Ix) : List Tap :=
  if x.glob then
    (List.range x.inp.d2).flatMap fun y => (List.range x.inp.d1).map fun c => .inside y c
  else
    (List.range x.win.kh).flatMap fun dy => (List.range x.win.kw).map fun dx =>
      x.win.tap x.inp.d2 x.inp.d1 i.i2 i.i1 dy dx

/-- Whether a tap lies inside the image. -/
def Tap.isInside : Tap → Bool
  | .inside _ _ => true
  | _ => false

/-- The divisor of a mean (R162). -/
def PoolDesc.divisor (x : PoolDesc) (taps : List Tap) : Nat :=
  if x.glob then x.inp.d1 * x.inp.d2
  else if x.win.mode = 0 then taps.countP Tap.isInside
  else x.win.kh * x.win.kw

/-- One output element of an integer POOL (R163): its code as a value, and whether an AVG window was empty. -/
def PoolDesc.elemInt (x : PoolDesc) (bs : List Byte) (z : Int) (i : Ix) : Int × Bool :=
  let pad := decodeElem x.inp.fmt x.pad
  let taps := x.taps i
  let vals := taps.map (tapInt x.inp bs z pad i.i0 i.i3)
  if x.avg then
    let dv := x.divisor taps
    if dv = 0 then (z, true) else (divAway vals.sum dv + z, false)
  else (vals.foldl max (vals.headD 0) + z, false)

/-- One output element of a floating-point POOL (R163). -/
def PoolDesc.elemFloat (x : PoolDesc) (bs : List Byte) (i : Ix) : Word × Bool :=
  let pad := decodeElem x.inp.fmt x.pad
  let taps := x.taps i
  let vals := taps.map (tapFloat x.inp bs pad i.i0 i.i3)
  if x.avg then
    let dv := x.divisor taps
    if dv = 0 then (0, true) else (fmul (reduceLine fadd 0 vals) (ratToF32 false 1 dv), false)
  else match vals with
    | [] => (0, false)
    | v :: rest => (rest.foldl fmax v, false)

/-- The positions of its input that a POOL reads (R159, R162). -/
def PoolDesc.cover (x : PoolDesc) : Cover := if x.glob then coverAll else x.win.cover x.inp x.out

/-- The bytes a POOL reads. -/
def State.poolTouch (s : State) (e : Fin 7) (x : PoolDesc) : List Foot :=
  if x.nothing then [] else s.tensorTouch e x.inp x.cover ++ s.scaleFoot e x.inp.perImage

/-- The effect of a POOL whose checks passed. -/
def poolEffect (e : Fin 7) (d : List Byte) (x : PoolDesc) (s : State) : Effect :=
  if x.nothing then plain (s.countEngine e Eng.zeroExtents 1) flZeroExtent
  else
    match s.scaleRows e x.inp.perImage, s.tensorBytes e x.inp x.cover with
    | none, _ => ⟨s, stScaleInvalid, 0⟩
    | some _, none => ⟨s, stBounds, 0⟩
    | some zps, some bs =>
      let one (i : Ix) : Val × Bool :=
        if x.inp.fmt.isInt then
          let (v, b) := x.elemInt bs (zps.getD i.i3 ⟨0, 0⟩).zp i
          (.int v, b)
        else
          let (v, b) := x.elemFloat bs i
          (.flt v, b)
      let code (i : Ix) := encodeElem x.out.fmt (dOutSat d) (one i).1
      let n := joinNotes (x.out.indices.map fun i => (code i).2.join ⟨(one i).1.isNaN, false, 0, false⟩)
      let blank := x.out.indices.any fun i => (one i).2
      let scales := s.peekSpace e x.inp.sSpace x.inp.sAddr (4 * x.inp.d3)
      let (s, ok) := s.writeTensor e x.out (fun i => (code i).1)
      let (s, ok) :=
        if ok && x.out.sMode == 1 && x.inp.sMode == 1 then s.pokeSpace e x.out.sSpace x.out.sAddr scales else (s, ok)
      noted s e ok n (flagIf blank 256)

/-- POOL on an engine. -/
def runPool (c : EngCall) (s : State) : State :=
  let e := c.engine
  let x := poolDesc c.desc
  s.runEngine c (s.judgePool e c.desc) (s.poolReads e c.desc) (s.poolWrites e c.desc)
    (s.poolTouch e x) (poolEffect e c.desc x)

/-! ## ARGMAX (R166) -/

/-- Whether a reference is an image operand that is not PLANAR8 or KV_PAGED (R151), with no scale mode (R175). -/
def Tref.mapOk (t : Tref) (out : Bool) : Bool :=
  t.rangeOk out && decide (t.layout ≤ zrcLayout) && t.layout != planar8 && t.sMode == 0

/-- Checks 1 to 7 of an ARGMAX. -/
def State.judgeArgmax (s : State) (e : Fin 7) (d : List Byte) : Option Half :=
  let a := trefAt d 32
  let o := trefAt d 80
  let v := trefAt d 128
  let valEn := bit (leAt d 176 1) 0
  let shape (t : Tref) : Bool := t.d0 == 1 && t.d1 == a.d1 && t.d2 == a.d2 && t.d3 == a.d3
  let outs := s.dataFoot e o ++ (if valEn then s.dataFoot e v else [])
  s.judge e d 0x12 23
    (leAt d 176 1 / 2 == 0 && zeroAt d 177 7 && a.reservedOk && o.reservedOk && (if valEn then v.reservedOk else v.absent))
    (a.fmt?.isSome && a.fmt? != some .int32 && o.fmt?.isSome && (!valEn || v.fmt?.isSome))
    (a.mapOk false && o.mapOk true && (!valEn || v.mapOk true) && shape o && (!valEn || shape v)
      && (o.fmt? == some .int32 || (o.fmt? == some .uint8 && decide (a.d0 ≤ 256)))
      && (!valEn || v.code == a.code) && !feetMeet outs (s.dataFoot e a))
    (s.trefPlaces e a ++ s.trefPlaces e o ++ (if valEn then s.trefPlaces e v else []))

/-- Whether a value is above another as values: −0 equals +0; a NaN takes no part. -/
def Val.above (a b : Val) : Bool :=
  match a, b with
  | .int x, .int y => decide (y < x)
  | a, b => fgt a.f32 b.f32

/-- The winner among channels, lowest index first; none when every channel is a NaN. -/
def argmaxOf (vals : List Val) : Option (Nat × Val) :=
  (vals.zipIdx).foldl (fun best p =>
    if p.1.isNaN then best
    else match best with
      | none => some (p.2, p.1)
      | some b => if p.1.above b.2 then some (p.2, p.1) else some b) none

/-- The effect of an ARGMAX whose checks passed. -/
def argmaxEffect (e : Fin 7) (d : List Byte) (s : State) : Effect :=
  let a := trefAt d 32
  let o := trefAt d 80
  let v := trefAt d 128
  let valEn := bit (leAt d 176 1) 0
  if a.empty then plain (s.countEngine e Eng.zeroExtents 1) flZeroExtent
  else
    match s.tensorBytes e a with
    | none => ⟨s, stBounds, 0⟩
    | some bs =>
      let win (i : Ix) := argmaxOf ((List.range a.d0).map fun c => a.elem bs { i with i0 := c })
      let idx (i : Ix) := match win i with
        | some (k, _) => toCode (4 * o.fmt.nibbles) (k : Int)
        | none => 0
      let val (i : Ix) := encodeElem v.fmt (dOutSat d) (match win i with
        | some (_, x) => x
        | none => .flt 0x7FC00000)
      let ix := o.indices
      let n : Note := ⟨ix.any fun i => (win i).isNone, false, 0, false⟩
      let n := if valEn then n.join (joinNotes (ix.map fun i => (val i).2)) else n
      let (s, ok) := s.writeTensor e o idx
      let (s, ok) := if ok && valEn then s.writeTensor e v (fun i => (val i).1) else (s, ok)
      noted s e ok n 0

/-- ARGMAX on an engine. -/
def runArgmax (c : EngCall) (s : State) : State :=
  let e := c.engine
  let a := trefAt c.desc 32
  let valEn := bit (leAt c.desc 176 1) 0
  s.runEngine c (s.judgeArgmax e c.desc) (s.dataFoot e a)
    (s.dataFoot e (trefAt c.desc 80) ++ (if valEn then s.dataFoot e (trefAt c.desc 128) else []))
    (s.tensorTouch e a) (argmaxEffect e c.desc)

end Sys2Proof.Machine
end

