-- ==== Sys2Proof/Machine/Boxes.lean ====
section
/-!
DEFINITION. BOXNMS: box decode and non-maximum suppression (R167 to R170).
-/
namespace Sys2Proof.Machine

/-- A BOXNMS descriptor (R167). -/
structure NmsDesc where
  deltas   : Tref
  scores   : Tref
  anchors  : Tref
  out      : Tref
  count    : Tref
  nCand    : Nat
  classes  : Nat
  maxOut   : Nat
  decode   : Nat
  agnostic : Bool
  clip     : Bool
  images   : Nat
  iouThr   : Word
  scoreThr : Word
  vars     : List Word
  whClamp  : Word
  imgW     : Word
  imgH     : Word
  deriving DecidableEq, Repr

/-- A 32-bit pattern of a descriptor. -/
def wordAt (d : List Byte) (o : Nat) : Word := BitVec.ofNat 32 (leAt d o 4)

/-- The fields of a BOXNMS descriptor. -/
def nmsDesc (d : List Byte) : NmsDesc where
  deltas := trefAt d 32
  scores := trefAt d 80
  anchors := trefAt d 128
  out := trefAt d 176
  count := trefAt d 224
  nCand := leAt d 272 4
  classes := leAt d 276 2
  maxOut := leAt d 278 2
  decode := leAt d 280 1
  agnostic := bit (leAt d 281 1) 0
  clip := bit (leAt d 281 1) 1
  images := leAt d 282 2
  iouThr := wordAt d 284
  scoreThr := wordAt d 288
  vars := (List.range 4).map fun k => wordAt d (292 + 4 * k)
  whClamp := wordAt d 308
  imgW := wordAt d 312
  imgH := wordAt d 316

/-- Whether a pattern is a finite number. -/
def isFinite (w : Word) : Bool := !isNaN w && !isInf w

/-- Whether a pattern is a finite number that is not below zero. -/
def nonNegative (w : Word) : Bool := isFinite w && !fgt 0 w

/-- The references of a BOXNMS that it reads. -/
def NmsDesc.ins (x : NmsDesc) : List Tref := [x.deltas, x.scores] ++ (if x.decode = 0 then [] else [x.anchors])

/-- A format a BOXNMS input may take. -/
def nmsFmtOk (f : Option Fmt) : Bool := f == some .fp32 || f == some .bf16 || f == some .fp16

/-- Ranges of a BOXNMS, without the overlap rule (R167). -/
def NmsDesc.rangeOk (x : NmsDesc) : Bool :=
  let d3 (t : Tref) : Bool := t.d3 == 1
  decide (x.nCand ≤ 4096) && within 1 256 x.classes && within 1 1024 x.maxOut && decide (x.decode ≤ 2)
    && within 1 64 x.images
    && nonNegative x.iouThr && !fgt x.iouThr fp32One && isFinite x.scoreThr
    && (if x.decode = 1 then x.vars.all isFinite && isFinite x.whClamp else x.vars.all (· == 0) && x.whClamp == 0)
    && nonNegative x.imgW && nonNegative x.imgH
    && x.deltas.d0 == 4 && x.deltas.d1 == x.nCand && x.deltas.d2 == x.images && d3 x.deltas
    && x.scores.d0 == x.classes && x.scores.d1 == x.nCand && x.scores.d2 == x.images && d3 x.scores
    && (x.decode == 0 || (x.anchors.d0 == 4 && x.anchors.d1 == x.nCand
      && (x.anchors.d2 == x.images || x.anchors.d2 == 1) && d3 x.anchors))
    && x.out.layout == rowMajor && x.out.d0 == 8 && x.out.d1 == x.maxOut && x.out.d2 == x.images && d3 x.out
    && x.count.d0 == x.images && x.count.d1 == 1 && x.count.d2 == 1 && d3 x.count
    && (x.ins.all fun t => t.mapOk false) && x.out.mapOk true && x.count.mapOk true

/-- The footprints a BOXNMS reads. -/
def State.nmsReads (s : State) (e : Fin 7) (d : List Byte) : List Foot :=
  (nmsDesc d).ins.flatMap fun t => s.dataFoot e t

/-- The footprints a BOXNMS writes. -/
def State.nmsWrites (s : State) (e : Fin 7) (d : List Byte) : List Foot :=
  s.dataFoot e (nmsDesc d).out ++ s.dataFoot e (nmsDesc d).count

/-- Checks 1 to 7 of a BOXNMS. -/
def State.judgeNms (s : State) (e : Fin 7) (d : List Byte) : Option Half :=
  let x := nmsDesc d
  s.judge e d 0x13 40
    (leAt d 281 1 / 4 == 0 && (x.ins.all Tref.reservedOk) && x.out.reservedOk && x.count.reservedOk
      && (x.decode != 0 || x.anchors.absent))
    (nmsFmtOk x.deltas.fmt? && nmsFmtOk x.scores.fmt? && (x.decode == 0 || x.anchors.fmt? == some .fp32)
      && x.out.fmt? == some .fp32 && x.count.fmt? == some .int32)
    (x.rangeOk && !feetMeet (s.nmsWrites e d) (s.nmsReads e d))
    (((x.ins ++ [x.out, x.count]).flatMap fun t => s.trefPlaces e t))

/-- A decoded box. -/
structure FBox where
  x0 : Word
  y0 : Word
  x1 : Word
  y1 : Word
  deriving DecidableEq, Repr

/-- The corners of a candidate (R168). -/
def NmsDesc.corners (x : NmsDesc) (t q : List Word) : FBox :=
  let g (l : List Word) (k : Nat) : Word := l.getD k 0
  let half : Word := 0x3F000000
  let b : FBox := match x.decode with
    | 1 =>
      let cx := fadd (g q 0) (fmul (fmul (g t 0) (g x.vars 0)) (g q 2))
      let cy := fadd (g q 1) (fmul (fmul (g t 1) (g x.vars 1)) (g q 3))
      let w := fmul (g q 2) (fexp (fmin (fmul (g t 2) (g x.vars 2)) x.whClamp))
      let h := fmul (g q 3) (fexp (fmin (fmul (g t 3) (g x.vars 3)) x.whClamp))
      ⟨fsub cx (fmul half w), fsub cy (fmul half h), fadd cx (fmul half w), fadd cy (fmul half h)⟩
    | 2 =>
      let off (k : Nat) : Word := fmul (fmax (g t k) 0) (g q 2)
      ⟨fsub (g q 0) (off 0), fsub (g q 1) (off 1), fadd (g q 0) (off 2), fadd (g q 1) (off 3)⟩
    | _ => ⟨g t 0, g t 1, g t 2, g t 3⟩
  if x.clip then
    let cl (v hi : Word) : Word := fmin (fmax v 0) hi
    ⟨cl b.x0 x.imgW, cl b.y0 x.imgH, cl b.x1 x.imgW, cl b.y1 x.imgH⟩
  else b

/-- Whether a corner is a NaN. -/
def FBox.anyNaN (b : FBox) : Bool := isNaN b.x0 || isNaN b.y0 || isNaN b.x1 || isNaN b.y1

/-- The area of a box (R170). -/
def FBox.area (b : FBox) : Word := fmul (fmax 0 (fsub b.x1 b.x0)) (fmax 0 (fsub b.y1 b.y0))

/-- Whether kept box `a` suppresses `b` (R170), and whether an operation of the test gives a NaN. -/
def suppresses (thr : Word) (a b : FBox) : Bool × Bool :=
  let iw := fmax 0 (fsub (fmin a.x1 b.x1) (fmax a.x0 b.x0))
  let ih := fmax 0 (fsub (fmin a.y1 b.y1) (fmax a.y0 b.y0))
  let inter := fmul iw ih
  let uni := fsub (fadd a.area b.area) inter
  let lim := fmul thr uni
  (fgt inter lim, isNaN iw || isNaN ih || isNaN inter || isNaN uni || isNaN lim)

/-- An entry of an image (R169). -/
structure NmsEntry where
  score : Word
  cand  : Nat
  cls   : Nat
  box   : FBox
  deriving DecidableEq, Repr

/-- Whether entry `a` comes before entry `b`: score, then candidate, then class (R169). -/
def NmsEntry.before (a b : NmsEntry) : Bool :=
  if fgt a.score b.score then true
  else if fgt b.score a.score then false
  else decide (a.cand < b.cand) || (a.cand == b.cand && decide (a.cls < b.cls))

/-- An entry placed in order. -/
def insertEntry (x : NmsEntry) : List NmsEntry → List NmsEntry
  | [] => [x]
  | y :: rest => if x.before y then x :: y :: rest else y :: insertEntry x rest

/-- The entries a candidate forms (R169). -/
def NmsDesc.entriesOf (x : NmsDesc) (cand : Nat) (box : FBox) (scores : List Word) : List NmsEntry :=
  if box.anyNaN then []
  else
    let all := (scores.zipIdx).filterMap fun p =>
      if isNaN p.1 then none else some (⟨p.1, cand, p.2, box⟩ : NmsEntry)
    let picked := if x.agnostic then
        match all with
        | [] => []
        | a :: rest => [rest.foldl (fun b y => if fgt y.score b.score then y else b) a]
      else all
    picked.filter fun y => fgt y.score x.scoreThr

/-- Visiting the entries in order (R170): the kept entries in visiting order, whether entries remain unvisited, and
whether an operation gave a NaN. -/
def NmsDesc.visit (x : NmsDesc) : List NmsEntry → List NmsEntry → Bool → List NmsEntry × Bool × Bool
  | kept, [], nan => (kept, false, nan)
  | kept, y :: rest, nan =>
    if kept.length ≥ x.maxOut then (kept, true, nan)
    else
      let tests := (kept.filter fun k => x.agnostic || k.cls == y.cls).map fun k => suppresses x.iouThr k.box y.box
      let nan := nan || tests.any (·.2)
      if tests.any (·.1) then x.visit kept rest nan else x.visit (kept ++ [y]) rest nan

/-- The result of one image: the kept entries, whether entries were dropped by the cap, whether entries remain
unvisited, whether an operation gave a NaN. -/
structure NmsImage where
  kept  : List NmsEntry
  trunc : Bool
  full  : Bool
  nan   : Bool
  deriving DecidableEq, Repr

/-- One image processed (R168 to R170). -/
def NmsDesc.image (x : NmsDesc) (dB sB aB : List Byte) (m : Nat) : NmsImage :=
  let row (t : Tref) (bs : List Byte) (n i k : Nat) : List Word :=
    (List.range n).map fun c => (t.elem bs ⟨c, i, k, 0⟩).f32
  let boxes := (List.range x.nCand).map fun i =>
    x.corners (row x.deltas dB 4 i m)
      (if x.decode = 0 then [] else row x.anchors aB 4 i (if x.anchors.d2 = 1 then 0 else m))
  let entries := (boxes.zipIdx).flatMap fun p => x.entriesOf p.2 p.1 (row x.scores sB x.classes p.2 m)
  let sorted := entries.foldr insertEntry []
  let (kept, full, nan) := x.visit [] (sorted.take 4096) false
  ⟨kept, decide (sorted.length > 4096), full, nan || (x.decode != 0 || x.clip) && boxes.any FBox.anyNaN⟩

/-- The 32 bytes of an output row (R170). -/
def NmsEntry.row (y : NmsEntry) : List Byte :=
  [y.box.x0, y.box.y0, y.box.x1, y.box.y1, y.score, intToF32 y.cls, intToF32 y.cand, 0].flatMap fun w =>
    leBytes 4 w.toNat

/-- The effect of a BOXNMS whose checks passed. -/
def nmsEffect (e : Fin 7) (x : NmsDesc) (s : State) : Effect :=
  match s.tensorBytes e x.deltas, s.tensorBytes e x.scores, s.tensorBytes e x.anchors with
  | some dB, some sB, some aB =>
    let imgs := (List.range x.images).map (x.image dB sB aB)
    let flags := flagIf (x.nCand == 0) flZeroExtent + flagIf (imgs.any (·.trunc)) 256 + flagIf (imgs.any (·.full)) 512
    let inf := imgs.any fun g => g.kept.any fun y => isInf y.box.x0 || isInf y.box.y0 || isInf y.box.x1
      || isInf y.box.y1 || isInf y.score
    let s := if x.nCand = 0 then s.countEngine e Eng.zeroExtents 1 else s
    let drops := imgs.countP (·.trunc)
    let s := if drops > 0 then s.countEngine e Eng.nmsTruncations drops else s
    let rows := (imgs.zipIdx).flatMap fun g => (g.1.kept.zipIdx).map fun y =>
      (x.out.addr % 2 ^ 44 + x.out.offset ⟨0, y.2, g.2, 0⟩ / 2, y.1.row)
    let put := rows.foldl (fun (r : State × Bool) w => if r.2 then r.1.pokeSpace e x.out.space w.1 w.2 else r) (s, true)
    let counts (i : Ix) : Nat := (imgs.getD i.i0 ⟨[], false, false, false⟩).kept.length
    let put := if put.2 then put.1.writeTensor e x.count counts else put
    noted put.1 e put.2 ⟨imgs.any (·.nan), inf, 0, false⟩ flags
  | _, _, _ => ⟨s, stBounds, 0⟩

/-- BOXNMS on an engine. -/
def runBoxnms (c : EngCall) (s : State) : State :=
  let e := c.engine
  let x := nmsDesc c.desc
  s.runEngine c (s.judgeNms e c.desc) (s.nmsReads e c.desc) (s.nmsWrites e c.desc)
    (x.ins.flatMap fun t => s.tensorTouch e t) (nmsEffect e x)

end Sys2Proof.Machine
end

