-- ==== Sys2Proof/Machine/Quant.lean ====
section
/-!
DEFINITION. QUANTIZE: scales, codes, the Diffuser and the clip counters (06_quantisation.md, R178 to R185).
-/
namespace Sys2Proof.Machine

/-! ## FP16 scales -/

/-- The FP16 code of an exact quotient |t| ÷ q with one rounding, held to 2^−24 to 65,504 (R180). -/
def scaleQuot (t : Word) (q : Nat) : Nat :=
  match fp32Val t with
  | .fin _ m e =>
    let r := specFP16.roundMag (m * 2 ^ 64 / q) (e - 64)
    if r = 0 then 1 else if r > 0x7BFF then 0x7BFF else r
  | _ => 0x7BFF

/-- Whether the hold to 2^−24 to 65,504 changes the quotient (R181). -/
def scaleHeld (t : Word) (q : Nat) : Bool :=
  match fp32Val t with
  | .fin _ m e =>
    let r := specFP16.roundMag (m * 2 ^ 64 / q) (e - 64)
    decide (r = 0) || decide (r > 0x7BFF)
  | _ => true

/-- An FP16 code as FP32. -/
def fp16F32 (c : Nat) : Word := fp32Of (specFP16.value c)

/-! ## Rows (R180 to R182) -/

/-- What a row or group was found to be. -/
inductive RowKind where
  | plain
  | zero
  | const (code : Int)
  | constHeld
  deriving DecidableEq, Repr

/-- The quantisation of one row or group. -/
structure QRow where
  kind  : RowKind
  scale : Nat          -- FP16 code
  zp    : Int
  inv   : Word
  qlo   : Int
  qhi   : Int
  deriving DecidableEq, Repr

/-- QMODE SYM, ASYM, STATIC, ROTATE. -/
abbrev qSym : Nat := 0
/-- ASYM. -/ abbrev qAsym : Nat := 1
/-- STATIC. -/ abbrev qStatic : Nat := 2
/-- ROTATE. -/ abbrev qRotate : Nat := 3

/-- Least and greatest code of an output (R180). -/
def codeRange (f : Fmt) (mode : Nat) : Int × Int :=
  if f = .int4 then (-7, 7) else if f = .int8 ∧ mode = qSym then (-127, 127) else f.range

/-- Q of R180. -/
def quantQ (f : Fmt) (mode : Nat) : Nat :=
  if mode = qAsym then 255
  else match f with
    | .int8 => 127
    | .int4 => 7
    | .e4m3 => 448
    | .e5m2 => 57344
    | _ => 255

/-- Largest magnitude among finite elements. -/
def maxAbs (l : List Word) : Word := l.foldl (fun m w => fmax m (fabs w)) 0

/-- Least of 0 and the elements. -/
def minZero (l : List Word) : Word := l.foldl fmin 0

/-- Greatest of 0 and the elements. -/
def maxZero (l : List Word) : Word := l.foldl fmax 0

/-- Rounded value of an FP32 number, an infinity as a value past every code. -/
def roundF32 (w : Word) : Int :=
  match fp32Val w with
  | .nan => 0
  | .inf neg => if neg then -(2 ^ 200 : Nat) else (2 ^ 200 : Nat)
  | .fin neg m e => roundInt neg m e

/-- The quantisation of a row or group of elements (R180, R181). `ratio` is CLIP_RATIO in FP32. -/
def quantRow (f : Fmt) (mode : Nat) (ratio : Word) (staticScale : Nat) (staticZp : Int) (row : List Word) : QRow :=
  let fin := row.filter isFinite
  let (qlo, qhi) := codeRange f mode
  let q := quantQ f mode
  let mk (k : RowKind) (sc : Nat) (z : Int) : QRow := ⟨k, sc, z, frcp (fp16F32 sc), qlo, qhi⟩
  if mode = qStatic then mk .plain staticScale staticZp
  else if fin.all isZero then ⟨.zero, 0, 0, 0, qlo, qhi⟩
  else
    let c := fin.headD 0
    let neg := c.msb
    if f.isInt && fin.all (fun w => w == c) then
      let q := if f = .int4 then 7 else 127
      let sc := scaleQuot c q
      let z : Int := if f = .uint8 && neg then 255 else 0
      if scaleHeld c q then
        let (lo, hi) : Int × Int := if f = .int4 then (-7, 7) else if f = .int8 then (-127, 127) else (0, 255)
        ⟨.constHeld, sc, z, frcp (fp16F32 sc), lo, hi⟩
      else mk (.const (if f = .uint8 then (if neg then 128 else 127) else if neg then -(q : Int) else q)) sc z
    else if mode = qAsym then
      let lo := minZero fin
      let hi := maxZero fin
      let sc := scaleQuot (fmul (fsub hi lo) ratio) q
      let inv := frcp (fp16F32 sc)
      let z := clampI qlo qhi (qlo + roundF32 (fmul (fneg (fmul lo ratio)) inv))
      ⟨.plain, sc, z, inv, qlo, qhi⟩
    else mk .plain (scaleQuot (fmul (maxAbs fin) ratio) q) 0

/-- What an element becomes: its code, whether it was clamped, whether it was a NaN. -/
structure QElem where
  code : Nat
  clip : Bool
  nan  : Bool
  deriving DecidableEq, Repr

/-- The code of an element for an integer output (R180 to R182). `qlo` and `qhi` of the mode serve a non-finite one. -/
def quantInt (f : Fmt) (mode : Nat) (r : QRow) (w : Word) : QElem :=
  let width := 4 * f.nibbles
  let (mlo, mhi) := codeRange f mode
  if isNaN w then ⟨0, false, true⟩
  else if isInf w then
    if r.kind = .zero then ⟨0, false, false⟩ else ⟨toCode width (if w.msb then mlo else mhi), true, false⟩
  else match r.kind with
    | .zero => ⟨0, false, false⟩
    | .const c => ⟨toCode width c, false, false⟩
    | _ =>
      let v := roundF32 (fmul w r.inv) + r.zp
      let c := clampI r.qlo r.qhi v
      ⟨toCode width c, v != c, false⟩

/-- The code of an element for an FP8 output (R180 to R182). -/
def quantFp8 (f : Fmt) (r : QRow) (w : Word) : QElem :=
  if isNaN w then ⟨f.spec.nanPat, false, true⟩
  else if r.kind = .zero then ⟨0, false, false⟩
  else
    let (c, n) := toFloatFmt f true (fp32Val (if isInf w then w else fmul w r.inv))
    ⟨c, decide (n.sat > 0), false⟩

/-- The code of an element. -/
def quantElem (f : Fmt) (mode : Nat) (r : QRow) (w : Word) : QElem :=
  if f.isInt then quantInt f mode r w else quantFp8 f r w

/-! ## The Diffuser (R183) -/

/-- One stage of the transform over pairs at distance `h`. -/
def diffuseStage (h : Nat) (y : List Word) : List Word :=
  (y.zipIdx).map fun (v, i) =>
    if i / h % 2 = 0 then fadd v (y.getD (i + h) 0) else fsub (y.getD (i - h) 0) v

/-- A block of 2^k elements transformed with its signs. -/
def diffuseBlock (k : Nat) (signs : Nat) (x : List Word) : List Word :=
  let y := (x.zipIdx).map fun (v, i) => if signs.testBit i then fneg v else v
  let y := (List.range k).foldl (fun y j => diffuseStage (2 ^ j) y) y
  let f := fp32Of (.fin false 1 (-((k / 2 : Nat) : Int)))
  y.map fun v => fmul v f

/-- A row transformed block by block. `fuel` bounds the blocks. -/
def diffuseRow (k signs : Nat) : Nat → List Word → List Word
  | 0, l => l
  | fuel + 1, l =>
    if l.isEmpty then [] else diffuseBlock k signs (l.take (2 ^ k)) ++ diffuseRow k signs fuel (l.drop (2 ^ k))

/-! ## QUANTIZE -/

/-- A QUANTIZE descriptor (R178). -/
structure QuantDesc where
  inp     : Tref
  out     : Tref
  mode    : Nat
  k       : Nat
  clipId  : Nat
  clipEn  : Bool
  ratio   : Nat
  sScale  : Nat
  sZp     : Nat
  signs   : Nat
  deriving DecidableEq, Repr

/-- The fields of a QUANTIZE descriptor. -/
def quantDesc (d : List Byte) : QuantDesc where
  inp := trefAt d 32
  out := trefAt d 80
  mode := leAt d 128 1
  k := leAt d 129 1
  clipId := leAt d 130 1
  clipEn := bit (leAt d 131 1) 0
  ratio := leAt d 132 2
  sScale := leAt d 134 2
  sZp := leAt d 136 1
  signs := leAt d 144 32

/-- The combinations of QMODE and OUT (R179). A QMODE out of range passes. -/
def QuantDesc.formatOk (x : QuantDesc) : Bool :=
  nmsFmtOk x.inp.fmt?
    && (match x.out.fmt? with
      | none => false
      | some f =>
        match x.mode with
        | 0 => (x.out.sMode == 1 && (f == .int8 || f.isFp8)) || (x.out.sMode == 2 && f == .int4)
        | 1 => x.out.sMode == 1 && (f == .int8 || f == .uint8)
        | 2 => x.out.sMode == 1 && (f == .int8 || f == .uint8 || f.isFp8)
        | 3 => x.out.sMode == 0 && nmsFmtOk (some f)
        | _ => true)

/-- Ranges of a QUANTIZE, without the overlap rule (R178, R179). -/
def QuantDesc.rangeOk (x : QuantDesc) : Bool :=
  let n := 2 ^ x.k
  let scaled := x.mode == qSym || x.mode == qAsym
  decide (x.mode ≤ 3) && (x.k == 0 || within 4 8 x.k) && decide (x.clipId ≤ 63)
    && (if scaled then within 1 0x3C00 x.ratio else x.ratio == 0)
    && (if x.mode = qStatic then within 1 0x7BFF x.sScale else x.sScale == 0)
    && (x.sZp == 0 || (x.mode == qStatic && !x.out.fmt.isFp8))
    && (if x.k = 0 then x.signs == 0 else decide (x.signs < 2 ^ n) && x.inp.d0 % n == 0)
    && (x.mode != qRotate || x.k != 0)
    && sameExtents x.inp x.out
    && x.inp.rangeOk false && x.out.rangeOk true && x.inp.sMode == 0
    && decide (x.inp.layout ≤ nc16hw16)
    && (decide (x.out.layout ≤ nc16hw16) || x.out.layout == zrcLayout)
    && (x.out.fmt != .int4 || x.out.layout == rowMajor)
    && (x.out.sMode != 2 || x.out.layout == rowMajor)

/-- Checks 1 to 7 of a QUANTIZE. -/
def State.judgeQuant (s : State) (e : Fin 7) (d : List Byte) : Option Half :=
  let x := quantDesc d
  let i := s.dataFoot e x.inp
  let o := s.dataFoot e x.out
  let sc := s.scaleFoot e x.out
  s.judge e d 0x20 23
    (leAt d 131 1 / 2 == 0 && zeroAt d 137 7 && zeroAt d 176 8 && x.inp.reservedOk && x.out.reservedOk)
    x.formatOk (x.rangeOk && !feetMeet (o ++ sc) i && !feetMeet o sc)
    (s.trefPlaces e x.inp ++ s.trefPlaces e x.out)

/-- The vectors along D0, in order of (i1, i2, i3), after rotation (R180, R183). -/
def QuantDesc.vectors (x : QuantDesc) (bs : List Byte) : List (List Word) :=
  (List.range x.inp.d3).flatMap fun i3 => (List.range x.inp.d2).flatMap fun i2 =>
    (List.range x.inp.d1).map fun i1 =>
      let v := (List.range x.inp.d0).map fun i0 => (x.inp.elem bs ⟨i0, i1, i2, i3⟩).f32
      if x.k = 0 then v else diffuseRow x.k x.signs v.length v

/-- A list cut into pieces of `n`. `fuel` bounds the pieces. -/
def chunksOf {α : Type} (n : Nat) : Nat → List α → List (List α)
  | 0, _ => []
  | fuel + 1, l => if l.isEmpty then [] else l.take n :: chunksOf n fuel (l.drop n)

/-- The rows or groups of a tensor, in the order of their scale entries (R174, R180). -/
def QuantDesc.rows (x : QuantDesc) (vecs : List (List Word)) : List (List Word) :=
  if x.out.layout ≠ rowMajor then (chunksOf (x.inp.d1 * x.inp.d2) vecs.length vecs).map List.flatten
  else if x.out.sMode = 2 then vecs.flatMap fun v => chunksOf 32 v.length v
  else vecs

/-- The index of the row or group of an element. -/
def QuantDesc.rowOf (x : QuantDesc) (i : Ix) : Nat :=
  let r := i.i1 + x.inp.d1 * (i.i2 + x.inp.d2 * i.i3)
  if x.out.layout ≠ rowMajor then i.i3
  else if x.out.sMode = 2 then r * ceilDiv x.inp.d0 32 + i.i0 / 32
  else r

/-- The zero point code of STATIC as a value. -/
def QuantDesc.staticZp (x : QuantDesc) : Int := if x.out.fmt = .int8 then sext 8 x.sZp else (x.sZp : Int)

/-- The scale entry of a row (R173). -/
def QRow.entry (r : QRow) (group : Bool) : List Byte :=
  if group then leBytes 2 r.scale else leBytes 2 r.scale ++ leBytes 1 (toCode 8 r.zp) ++ [0]

/-- A 32-bit counter advanced, held at its greatest value (R185). -/
def satAdd (w : Word) (k : Nat) : Word := BitVec.ofNat 32 (min (w.toNat + k) 0xFFFFFFFF)

/-- A clip pair advanced (R185). -/
def State.clipAdd (s : State) (e : Fin 7) (id seen sat : Nat) : State :=
  s.onEngine e fun g => { g with
    clips := vmod g.clips (Fin.ofNat 64 id) fun c => ⟨satAdd c.seen seen, satAdd c.saturated sat⟩ }

/-- The effect of a rotation without quantisation (QMODE ROTATE). -/
def rotateEffect (e : Fin 7) (d : List Byte) (x : QuantDesc) (vecs : List (List Word)) (s : State) : Effect :=
  let val (i : Ix) : Word := (vecs.getD (i.i1 + x.inp.d1 * (i.i2 + x.inp.d2 * i.i3)) []).getD i.i0 0
  let code (i : Ix) := encodeElem x.out.fmt (dOutSat d) (.flt (val i))
  let n := joinNotes (x.out.indices.map fun i => (code i).2)
  let seen := x.inp.d0 * x.inp.d1 * x.inp.d2 * x.inp.d3
  let s := if x.clipEn then s.clipAdd e x.clipId seen 0 else s
  let (s, ok) := s.writeTensor e x.out (fun i => (code i).1)
  noted s e ok n 0

/-- The effect of a QUANTIZE whose checks passed (R180 to R185). -/
def quantEffect (e : Fin 7) (d : List Byte) (x : QuantDesc) (s : State) : Effect :=
  if x.inp.empty then plain s flZeroExtent
  else
    match s.tensorBytes e x.inp with
    | none => ⟨s, stBounds, 0⟩
    | some bs =>
      let vecs := x.vectors bs
      if x.mode = qRotate then rotateEffect e d x vecs s
      else
        let f := x.out.fmt
        let rows := x.rows vecs
        let qs := rows.map fun r => quantRow f x.mode (fp16F32 x.ratio) x.sScale x.staticZp r
        let elems := (rows.zip qs).flatMap fun p => p.1.map fun w => quantElem f x.mode p.2 w
        let clips := elems.countP (·.clip)
        let zeros := qs.countP fun q => q.kind == .zero
        let consts := qs.countP fun q => match q.kind with
          | .const _ => true
          | .constHeld => true
          | _ => false
        let val (i : Ix) : Word := (vecs.getD (i.i1 + x.inp.d1 * (i.i2 + x.inp.d2 * i.i3)) []).getD i.i0 0
        let code (i : Ix) : Nat := (quantElem f x.mode (qs.getD (x.rowOf i) ⟨.zero, 0, 0, 0, 0, 0⟩) (val i)).code
        let s := if x.clipEn then s.clipAdd e x.clipId elems.length clips else s
        let s := (s.countEngine e Eng.zeroRows zeros).countEngine e Eng.constRows consts
        let (s, ok) := s.writeTensor e x.out code
        let (s, ok) :=
          if ok then s.pokeSpace e x.out.sSpace x.out.sAddr (qs.flatMap fun q => q.entry (x.out.sMode == 2)) else (s, ok)
        noted s e ok ⟨elems.any (·.nan), false, clips, false⟩
          (flagIf (decide (zeros > 0)) 256 + flagIf (decide (consts > 0)) 512 + flagIf (decide (clips > 0)) 1024)

/-- QUANTIZE on an engine. -/
def runQuantize (c : EngCall) (s : State) : State :=
  let e := c.engine
  let x := quantDesc c.desc
  s.runEngine c (s.judgeQuant e c.desc) (s.dataFoot e x.inp) (s.trefFeet e x.out) (s.tensorTouch e x.inp)
    (quantEffect e c.desc x)

end Sys2Proof.Machine
end

