-- ==== Sys2Proof/Machine/Kv.lean ====
section
/-!
DEFINITION. The KV cache: roots, directories, page-table entries, allocation, eviction, copy-on-write and the score log
(07_attention_and_kv_cache.md, R195 to R205, R219, R222 to R227).
-/
namespace Sys2Proof.Machine

/-- KV_FORMAT. -/ abbrev stKvFormat : Half := 0x0130
/-- KV_LENGTH. -/ abbrev stKvLength : Half := 0x0131
/-- KV_BUDGET. -/ abbrev stKvBudget : Half := 0x0132
/-- KV_DIR. -/ abbrev stKvDir : Half := 0x0133
/-- SEG_RANGE. -/ abbrev stSegRange : Half := 0x0134

/-! ## Page formats (R195 to R198) -/

/-- The number format of a page format code. -/
def pageFmt : Nat → Option Fmt
  | 0 => some .int8
  | 1 => some .int4
  | 2 => some .e4m3
  | 3 => some .e5m2
  | 4 => some .fp16
  | _ => none

/-- The KV root of a member (R199). -/
structure KvRoot where
  addr       : Nat
  raw        : List Byte
  byPosition : Bool
  members    : Nat
  member     : Nat
  layers     : Nat
  heads      : Nat
  depth      : Nat
  fmtNew     : Nat
  fmtPinned  : Nat
  pinFirst   : Bool
  spare      : Nat
  dim        : Nat
  groups     : Nat
  frames     : Nat
  budget     : Nat
  sideBytes  : Nat
  window     : Nat
  poolBase   : Nat
  poolSlots  : Nat
  logAllow   : Nat
  sideBase   : Nat
  gain       : Word
  nGlobal    : Nat
  gen        : Nat
  layerBlock : Nat
  held       : List Nat
  globals    : List Int
  deriving DecidableEq, Repr

/-- The root in 512 bytes. -/
def kvRootOf (a : Nat) (b : List Byte) : KvRoot where
  addr := a
  raw := b
  byPosition := leAt b 2 1 == 1
  members := leAt b 3 1
  member := leAt b 4 1
  layers := leAt b 5 1
  heads := leAt b 6 1
  depth := leAt b 7 1
  fmtNew := leAt b 8 1
  fmtPinned := leAt b 9 1
  pinFirst := leAt b 10 1 == 1
  spare := leAt b 11 1
  dim := leAt b 12 2
  groups := leAt b 14 1
  frames := leAt b 15 1
  budget := leAt b 16 2
  sideBytes := leAt b 18 2
  window := leAt b 20 4
  poolBase := leAt b 24 8
  poolSlots := leAt b 32 4
  logAllow := leAt b 36 2
  sideBase := leAt b 40 8
  gain := wordAt b 48
  nGlobal := leAt b 52 1
  gen := leAt b 56 8
  layerBlock := leAt b 64 8
  held := (List.range 64).map fun l => leAt b (72 + 2 * l) 2
  globals := (List.range (min (leAt b 52 1) 64)).map fun k => sext 32 (leAt b (256 + 4 * k) 4)

/-- Data bytes of a page in a format (R196). -/
def KvRoot.dataBytes (r : KvRoot) (f : Fmt) : Nat := r.heads * 2 * 16 * r.dim * f.nibbles / 2

/-- The number format of a page format code that is legal for the root (R198). -/
def KvRoot.legal (r : KvRoot) (code : Nat) : Option Fmt :=
  match pageFmt code with
  | none => none
  | some f =>
    if r.dataBytes f ≤ r.frames * 4096 ∧ (f ≠ .int4 ∨ (r.dim % 32 = 0 ∧ r.groups = r.dim / 32)) then some f else none

/-- The largest position of a partition of `n` engines (R204). -/
def maxPosition (n : Nat) : Nat := if n ≤ 2 then 8191 else if n ≤ 5 then 32767 else 16777215

/-- Whether integers strictly ascend. -/
def ascending : List Int → Bool
  | a :: b :: rest => decide (a < b) && ascending (b :: rest)
  | _ => true

/-- The check of a root (R202): none when it may be used. -/
def KvRoot.fault (r : KvRoot) (engines logical : Nat) : Option Half :=
  let b := r.raw
  let dirOk := leAt b 0 1 == 1 && leAt b 1 1 == 0 && decide (leAt b 2 1 ≤ 1) && within 1 6 r.members
    && r.members == engines && r.member == logical && within 1 64 r.layers && within 1 8 r.heads && within 1 4 r.depth
    && (r.legal r.fmtNew).isSome && (r.legal r.fmtPinned).isSome && decide (leAt b 10 1 ≤ 1) && decide (1 ≤ r.spare)
    && within 16 256 r.dim && r.dim % 16 == 0 && (r.groups == 1 || (r.groups == r.dim / 32 && r.dim % 32 == 0))
    && within 1 16 r.frames && decide (1 ≤ r.budget) && r.sideBytes == 64 + 64 * r.heads * r.groups
    && (r.window == 0 || (within 512 8192 r.window && r.window % 16 == 0))
    && r.poolBase % 4096 == 0 && within 1 16384 r.logAllow && r.sideBase % 64 == 0
    && isFinite r.gain && fgt r.gain 0 && decide (r.nGlobal ≤ 64) && r.layerBlock % 512 == 0
    && decide (leAt b 204 1 ≤ 1) && ascending r.globals && zeroAt b (256 + 4 * r.nGlobal) (256 - 4 * r.nGlobal)
    && zeroAt b 38 2 && zeroAt b 53 3 && zeroAt b 205 51
  firstStatus
    [ require dirOk stKvDir
    , require (r.globals.all fun g => decide (0 ≤ g) && decide (g ≤ maxPosition engines)) stKvLength ]

/-! ## Page-table entries (R201) -/

/-- A page-table entry. -/
structure Pte where
  pinned : Bool
  fmt    : Nat
  fill   : Nat
  gen    : Nat
  score  : Nat
  frame  : Nat
  deriving DecidableEq, Repr

/-- The entry in 8 bytes; none when it is not valid. -/
def pteOf (w : Nat) : Option Pte :=
  if bit w 0 then some ⟨bit w 1, bits w 2 3, bits w 5 5, bits w 12 8, bits w 20 16, bits w 36 28⟩ else none

/-- The 64 bits of a valid entry. -/
def Pte.word (p : Pte) : Nat :=
  1 + b2n p.pinned * 2 + p.fmt * 4 + p.fill * 32 + p.gen % 256 * 2 ^ 12 + p.score * 2 ^ 20 + p.frame * 2 ^ 36

/-- The slot index of a page. -/
def KvRoot.slotOf (r : KvRoot) (p : Pte) : Nat := (p.frame - r.poolBase / 4096) / r.frames

/-- Whether a valid entry is well-formed (R202). -/
def KvRoot.pteOk (r : KvRoot) (w : Nat) : Bool :=
  bits w 10 2 == 0
    && (match pteOf w with
      | none => true
      | some p => decide (p.fill ≤ 16) && decide (r.poolBase / 4096 ≤ p.frame)
        && (p.frame - r.poolBase / 4096) % r.frames == 0 && decide (r.slotOf p < r.poolSlots))

/-- Whether a directory entry above the lowest level is well-formed. -/
def dirOk (w : Nat) : Bool := bits w 1 8 == 0 && bits w 44 20 == 0

/-- Address of the child block of a directory entry; none when it is not valid. -/
def dirChild (w : Nat) : Option Nat := if bit w 0 then some (bits w 9 35 * 512) else none

/-- The 64 bits of a directory entry for a block. -/
def dirWord (block : Nat) : Nat := 1 + block / 512 * 512

/-- The 8-byte number at a main-memory address. -/
def State.mainQuad (s : State) (a : Nat) : Nat := leNat (s.mem.bytes a 8)

/-- The index of a local page at a level of the tree (R200). -/
def KvRoot.levelIndex (r : KvRoot) (l k : Nat) : Nat := l / 2 ^ (6 * (r.depth - 1 - k)) % 64

/-- The entry addresses from a block down a path of indices: each level's entry address, and whether every directory
entry passed was well-formed. -/
def State.kvWalk (s : State) : List Nat → Nat → List Nat × Option Nat × Bool
  | [], _ => ([], none, true)
  | [i], block => ([block + 8 * i], some (s.mainQuad (block + 8 * i)), true)
  | i :: rest, block =>
    let a := block + 8 * i
    let w := s.mainQuad a
    if !dirOk w then ([a], none, false)
    else
      match dirChild w with
      | none => ([a], none, true)
      | some c =>
        let (as, v, ok) := s.kvWalk rest c
        (a :: as, v, ok)

/-- The path of indices of a page: its layer, then one index for each level. -/
def KvRoot.path (r : KvRoot) (layer l : Nat) : List Nat := layer :: (List.range r.depth).map (r.levelIndex l)

/-- The page-table entry of a page: an error where the directory is not well-formed. -/
def State.kvEntry (s : State) (r : KvRoot) (layer l : Nat) : Except Half (Option Pte) :=
  let (_, v, ok) := s.kvWalk (r.path layer l) r.layerBlock
  if !ok then .error stKvDir
  else
    match v with
    | none => .ok none
    | some w => if r.pteOk w then .ok (pteOf w) else .error stKvDir

/-- The main-memory lines a walk to a page reads. -/
def State.kvWalkLines (s : State) (r : KvRoot) (layer l : Nat) : List Nat :=
  (s.kvWalk (r.path layer l) r.layerBlock).1.map lineOf

/-- Which local indices a command walks to: whether it wants an index of a range. -/
abbrev Wanted := Nat → Nat → Bool

/-- Every index. -/
def wantAll : Wanted := fun _ _ => true

/-- The indices of a range. -/
def wantRange (lo hi : Nat) : Wanted := fun a b => decide (a < hi) && decide (lo < b)

/-- The valid pages under a block among the indices wanted: local index and entry, ascending; and whether every entry on a path to
a wanted index was well-formed (R202). -/
def State.kvLeaves (s : State) (r : KvRoot) (want : Wanted) : Nat → Nat → Nat → List (Nat × Pte) × Bool
  | 0, _, _ => ([], true)
  | levels + 1, block, base =>
    let span := 64 ^ levels
    let ws := ((List.range 64).filter fun i => want ((base * 64 + i) * span) ((base * 64 + i + 1) * span)).map fun i =>
      (base * 64 + i, s.mainQuad (block + 8 * i))
    if levels = 0 then (ws.filterMap fun w => (pteOf w.2).map fun p => (w.1, p), ws.all fun w => r.pteOk w.2)
    else
      let subs := ws.map fun w => match dirChild w.2 with
        | some c => s.kvLeaves r want levels c w.1
        | none => ([], true)
      (subs.flatMap (·.1), (ws.all fun w => dirOk w.2) && subs.all (·.2))

/-- The valid pages of a layer among the indices wanted, in ascending local index. -/
def State.kvPages (s : State) (r : KvRoot) (layer : Nat) (want : Wanted := wantAll) : Except Half (List (Nat × Pte)) :=
  let w := s.mainQuad (r.layerBlock + 8 * layer)
  if !dirOk w then .error stKvDir
  else
    match dirChild w with
    | none => .ok []
    | some c =>
      let (l, ok) := s.kvLeaves r want r.depth c 0
      if ok then .ok l else .error stKvDir

/-- Every directory block of the tree under a block. -/
def State.kvTreeBlocks (s : State) : Nat → Nat → List Nat
  | 0, _ => []
  | 1, block => [block]
  | levels + 1, block =>
    block :: (List.range 64).flatMap fun i => match dirChild (s.mainQuad (block + 8 * i)) with
      | some c => s.kvTreeBlocks levels c
      | none => []

/-- Local index of page `j` and whether it is the member's own (BY_POSITION). -/
def KvRoot.localOf (r : KvRoot) (j : Nat) : Option Nat :=
  if r.byPosition then (if j % r.members = r.member then some (j / r.members) else none) else some j

/-- Page index of a local index. -/
def KvRoot.pageOf (r : KvRoot) (l : Nat) : Nat := if r.byPosition then l * r.members + r.member else l

/-- The member's own local indices among pages `first` to `last`: from the first component on, up to the second. -/
def KvRoot.localRange (r : KvRoot) (first last : Nat) : Nat × Nat :=
  if r.byPosition then
    (ceilDiv (first - r.member) r.members, if last < r.member then 0 else (last - r.member) / r.members + 1)
  else (first, last + 1)

/-- Whether the root's DEPTH covers every local index below `n` (R200, R204). -/
def KvRoot.deep (r : KvRoot) (n : Nat) : Bool := decide (n ≤ 64 ^ r.depth)

/-- The number of the member's own pages below ceil(Lk ÷ 16). -/
def KvRoot.ownPages (r : KvRoot) (lk : Nat) : Nat := if lk = 0 then 0 else (r.localRange 0 (ceilDiv lk 16 - 1)).2

/-- Whether the root's DEPTH covers the page of a position (R204). -/
def KvRoot.covers (r : KvRoot) (pos : Int) : Bool :=
  match r.localOf (pos.toNat / 16) with
  | some l => r.deep (l + 1)
  | none => true

/-- Whether a page holds a global position. -/
def KvRoot.holdsGlobal (r : KvRoot) (j : Nat) : Bool := r.globals.any fun g => g / 16 == (j : Int)

/-- Address of a page's data. -/
def KvRoot.dataAddr (_r : KvRoot) (p : Pte) : Nat := p.frame * 4096

/-- Address of a page's side tensor. -/
def KvRoot.sideAddr (r : KvRoot) (p : Pte) : Nat := r.sideBase + r.slotOf p * r.sideBytes

/-- The lines of a page: its data in its format and its side tensor. -/
def KvRoot.pageLines (r : KvRoot) (p : Pte) : List Nat :=
  linesOf (r.dataAddr p) (r.dataBytes ((pageFmt p.fmt).getD .int8)) ++ linesOf (r.sideAddr p) r.sideBytes

/-! ## Changes to a root (R222) -/

/-- The free slots and blocks reserved for a root (R203). -/
def State.poolOf (s : State) (p : Fin 6) (root : Nat) : Option KvPool := s.parts[p].pools.find? fun q => q.root == root

/-- The free slots and blocks of a root changed. -/
def State.onPool (s : State) (p : Fin 6) (root : Nat) (f : KvPool → KvPool) : State :=
  s.onPart p fun x => { x with pools := x.pools.map fun q => if q.root = root then f q else q }

/-- Slots put back on top of a root's stack. -/
def State.giveSlots (s : State) (p : Fin 6) (root : Nat) (l : List Nat) : State :=
  s.onPool p root fun q => { q with slots := l ++ q.slots }

/-- Blocks put back on top of a root's stack. -/
def State.giveBlocks (s : State) (p : Fin 6) (root : Nat) (l : List Nat) : State :=
  s.onPool p root fun q => { q with blocks := l ++ q.blocks }

/-- A change to a root in progress: the state, the blocks that it may write in place, those it took, those it replaced, and
whether main memory took every write so far (R324). -/
structure KvEdit where
  s     : State
  p     : Fin 6
  root  : Nat
  fresh : List Nat
  took  : List Nat
  freed : List Nat
  ok    : Bool

/-- A change to a root begun. -/
def State.beginEdit (s : State) (p : Fin 6) (root : Nat) : KvEdit := ⟨s, p, root, [], [], [], true⟩

/-- Bytes written by a change; nothing more is written once main memory has refused. -/
def KvEdit.write (x : KvEdit) (a : Nat) (bs : List Byte) : KvEdit :=
  if x.ok then
    let (s, ok) := x.s.mainWrite a bs
    { x with s := s, ok := ok }
  else x

/-- A block taken from the root's reservation, with its first content; KV_BUDGET when none is left (log entry 119). -/
def KvEdit.newBlock (x : KvEdit) (content : List Byte) : Except Half (KvEdit × Nat) :=
  match x.s.poolOf x.p x.root with
  | none => .error stKvBudget
  | some q =>
    match q.blocks with
    | [] => .error stKvBudget
    | n :: rest =>
      let s := x.s.onPool x.p x.root fun q => { q with blocks := rest }
      .ok (({ x with s := s, fresh := n :: x.fresh, took := n :: x.took }).write n content, n)

/-- A fresh copy of a directory block, or the block itself when this change may write it. -/
def KvEdit.block (x : KvEdit) (old : Option Nat) : Except Half (KvEdit × Nat) :=
  match old with
  | none => x.newBlock (List.replicate 512 0)
  | some b =>
    if x.fresh.contains b then .ok (x, b)
    else
      match x.newBlock (x.s.mem.bytes b 512) with
      | .error st => .error st
      | .ok (x, n) => .ok ({ x with freed := b :: x.freed }, n)

/-- An entry written at a path, every block on the path copied; the address of the top block. -/
def KvEdit.put (w : Nat) : List Nat → KvEdit → Option Nat → Except Half (KvEdit × Nat)
  | [], x, b => .ok (x, b.getD 0)
  | [i], x, b =>
    match x.block b with
    | .error st => .error st
    | .ok (x, n) => .ok (x.write (n + 8 * i) (leBytes 8 w), n)
  | i :: rest, x, b =>
    match x.block b with
    | .error st => .error st
    | .ok (x, n) =>
      match KvEdit.put w rest x (dirChild (x.s.mainQuad (n + 8 * i))) with
      | .error st => .error st
      | .ok (x, c) => .ok (x.write (n + 8 * i) (leBytes 8 (dirWord c)), n)

/-- A slot taken from the root's reservation; drawing on SPARE_SLOTS when the page's own budget does not cover it (R219, R222). -/
def KvEdit.slot (x : KvEdit) (r : KvRoot) (spare : Bool) : Except Half (KvEdit × Nat) :=
  let drawn := match x.s.parts[x.p].step with
    | some st => st.spareDraws.countP (· == r.addr)
    | none => 0
  if spare && decide (drawn ≥ r.spare) then .error stKvBudget
  else
    match (x.s.poolOf x.p r.addr).map (·.slots) with
    | some (n :: rest) =>
      let s := x.s.onPool x.p r.addr fun q => { q with slots := rest }
      let s := s.onStep x.p fun st => { st with
        takenSlots := st.takenSlots ++ [(r.addr, n)]
        spareDraws := if spare then st.spareDraws ++ [r.addr] else st.spareDraws }
      .ok ({ x with s := s }, n)
    | _ => .error stKvBudget

/-- A slot released: it returns to the pool when the step retires, or at once when no step is in progress (R224). -/
def KvEdit.release (x : KvEdit) (r : KvRoot) (slot : Nat) : KvEdit :=
  match x.s.parts[x.p].step with
  | some _ => { x with s := x.s.onStep x.p fun st => { st with freedSlots := st.freedSlots ++ [(r.addr, slot)] } }
  | none => { x with s := x.s.giveSlots x.p r.addr [slot] }

/-- The root with its live image written back (R199). -/
def KvRoot.image (r : KvRoot) : List Byte :=
  let b := patchAt r.raw 52 (leBytes 1 r.nGlobal)
  let b := patchAt b 56 (leBytes 8 r.gen)
  let b := patchAt b 64 (leBytes 8 r.layerBlock)
  let b := patchAt b 72 (r.held.flatMap fun n => leBytes 2 n)
  patchAt b 256 ((List.range 64).flatMap fun k => leBytes 4 (toCode 32 (r.globals.getD k 0)))

/-- Whether the step in progress has written a root. -/
def State.rootWritten (s : State) (p : Fin 6) (root : Nat) : Bool :=
  match s.parts[p].step with
  | some st => st.roots.contains root
  | none => false

/-- The shadow taken before a root's first write in a step (R225). -/
def KvEdit.shadow (x : KvEdit) (r : KvRoot) (stepId : Nat) : KvEdit × KvRoot :=
  if x.s.rootWritten x.p r.addr then (x, r)
  else
    let x := x.write (r.addr + 512) r.raw
    let s := x.s.onStep x.p fun st => { st with roots := st.roots ++ [r.addr] }
    ({ x with s := s }, { r with raw := patchAt r.raw 200 (leBytes 4 stepId ++ [1]) })

/-- The look-aside entries of a page closed at a generation (R226). -/
def closeLab (lab : List LabEntry) (root layer page gen : Nat) : List LabEntry :=
  lab.map fun e =>
    if e.root = root ∧ e.layer = layer ∧ e.page = page ∧ e.genHi = none then
      { e with genHi := some (BitVec.ofNat 64 gen) }
    else e

/-- The blocks that a change took and released entered in its step; with no step in progress those released return at once. -/
def KvEdit.account (x : KvEdit) (freed : List Nat) : State :=
  match x.s.parts[x.p].step with
  | some _ => x.s.onStep x.p fun st => { st with
      takenBlocks := st.takenBlocks ++ x.took.map fun b => (x.root, b)
      freedBlocks := st.freedBlocks ++ freed.map fun b => (x.root, b) }
  | none => x.s.giveBlocks x.p x.root freed

/-- A new generation published: the root is written, and the blocks replaced are released when the step retires (R222, R224). The
second component says whether main memory took every write; where it did not, nothing is published. -/
def KvEdit.publish (x : KvEdit) (r : KvRoot) (e : Fin 7) (changed : List (Nat × Nat)) : State × Bool :=
  let x := x.write r.addr r.image
  if x.ok then
    ((x.account x.freed).onEngine e fun g => { g with
      lab := changed.foldl (fun l c => closeLab l r.addr c.1 c.2 r.gen) g.lab }, true)
  else (x.account [], false)

/-- An entry of the page table changed, its path copied; the root names the new layer block. -/
def KvEdit.setEntry (x : KvEdit) (r : KvRoot) (layer l w : Nat) : Except Half (KvEdit × KvRoot) :=
  match KvEdit.put w (r.path layer l) x (some r.layerBlock) with
  | .error st => .error st
  | .ok (x, b) => .ok (x, { r with layerBlock := b })

/-- PAGES_HELD of a layer changed. -/
def KvRoot.hold (r : KvRoot) (layer : Nat) (f : Nat → Nat) : KvRoot := { r with held := modAt r.held layer f }

/-- A page dropped: VALID cleared, PAGES_HELD reduced, its slot released. -/
def KvEdit.drop (x : KvEdit) (r : KvRoot) (layer l : Nat) (p : Pte) : Except Half (KvEdit × KvRoot) :=
  match x.setEntry r layer l ({ p with gen := r.gen }.word - 1) with
  | .error st => .error st
  | .ok (x, r) => .ok (x.release r (r.slotOf p), r.hold layer (· - 1))

/-! ## Eviction (R219) -/

/-- The page of a layer that is evicted for a new page at position `p`; none when there is no candidate. -/
def KvRoot.victim (r : KvRoot) (pages : List (Nat × Pte)) (p : Nat) : Option (Nat × Pte) :=
  let free := pages.filter fun x => !x.2.pinned && r.pageOf x.1 != p / 16
  let old := free.filter fun x =>
    decide (r.window ≠ 0) && decide (r.pageOf x.1 * 16 + 15 + r.window < p + 1) && !r.holdsGlobal (r.pageOf x.1)
  match old with
  | x :: _ => some x
  | [] =>
    match free with
    | [] => none
    | x :: rest => some (rest.foldl (fun b y => if y.2.score < b.2.score then y else b) x)

/-! ## Held generations (R222) -/

/-- FILL of a page in every held generation. -/
def State.heldFill (s : State) (p : Fin 6) (root layer page cur : Nat) : Nat :=
  match s.parts[p].step with
  | none => cur
  | some st =>
    match st.heldFill.find? (fun h => h.1 == root && h.2.1 == layer && h.2.2.1 == page) with
    | some h => h.2.2.2
    | none => cur

/-- The FILL of a page in the held generations recorded. -/
def State.setHeldFill (s : State) (p : Fin 6) (root layer page fill : Nat) : State :=
  s.onStep p fun st => { st with
    heldFill := (root, layer, page, fill)
      :: st.heldFill.filter fun h => !(h.1 == root && h.2.1 == layer && h.2.2.1 == page) }

/-- An ATTEND holds the current generation of its root: every FILL it sees is held. -/
def State.holdGeneration (s : State) (p : Fin 6) (root : Nat) : State :=
  s.onStep p fun st => { st with heldFill := st.heldFill.filter fun h => h.1 != root }

/-! ## The look-aside buffer (R226) -/

/-- The generation at which a cached entry's range starts. -/
def genStart (snapshot gen : Nat) : Nat := snapshot - (snapshot + 256 - gen % 256) % 256

/-- A walk of one valid page through the look-aside buffer. -/
def State.labWalk (s : State) (e : Fin 7) (root layer page snapshot : Nat) (p : Pte) : State :=
  let inRange (x : LabEntry) : Bool :=
    x.root == root && x.layer == layer && x.page == page && decide (x.genLo.toNat ≤ snapshot)
      && (match x.genHi with
        | none => true
        | some h => decide (snapshot < h.toNat))
  let lab := s.engines[e].lab
  match lab.find? inRange with
  | some x =>
    (s.onEngine e fun g => { g with lab := x :: g.lab.filter (fun y => y != x) }).countEngine e Eng.labHits 1
  | none =>
    let x : LabEntry := ⟨root, layer, page, BitVec.ofNat 64 (genStart snapshot p.gen), none, BitVec.ofNat 64 p.word⟩
    (s.onEngine e fun g => { g with lab := (x :: g.lab).take 256 }).countEngine e Eng.labMisses 1

/-! ## The score log at the end of a step (R224) -/

/-- What the application of a score log has done: the change, the root, and the entries changed. -/
structure ScoreRun where
  x       : KvEdit
  r       : KvRoot
  changed : List (Nat × Nat)

/-- The score of an entry written. -/
def ScoreRun.put (a : ScoreRun) (layer l : Nat) (p : Pte) (score : Nat) : ScoreRun :=
  match a.x.setEntry a.r layer l ({ p with score := score }.word) with
  | .ok (x, r) => ⟨x, r, (layer, l) :: a.changed⟩
  | .error _ => a

/-- Every score of a layer shifted right by one bit (R224). -/
def ScoreRun.halve (a : ScoreRun) (e : Fin 7) (layer : Nat) : ScoreRun :=
  match a.x.s.kvPages a.r layer with
  | .error _ => a
  | .ok pages =>
    let a := pages.foldl (fun (a : ScoreRun) q => a.put layer q.1 q.2 (q.2.score / 2)) a
    { a with x := { a.x with s := a.x.s.countEngine e Eng.scoreHalvings 1 } }

/-- The valid page that an entry of the log names. -/
def ScoreRun.page (a : ScoreRun) (se : ScoreEntry) : Option Pte :=
  match a.x.s.kvEntry a.r se.layer se.page with
  | .ok v => v
  | .error _ => none

/-- One increment applied to a page: an addition that would carry a score above 65,535 halves the layer first; an entry
that finds no valid page is dropped (R224). -/
def applyScore (e : Fin 7) (a : ScoreRun) (se : ScoreEntry) : ScoreRun :=
  match a.page se with
  | none => a
  | some p =>
    let a := if p.score + se.inc > 65535 then a.halve e se.layer else a
    match a.page se with
    | none => a
    | some p => a.put se.layer se.page p (min 65535 (p.score + se.inc))

/-- The roots of a log in the order of their first appearance. -/
def logRoots (l : List ScoreEntry) : List Nat :=
  l.foldl (fun acc e => if acc.contains e.root then acc else acc ++ [e.root]) []

/-- The blocks of a root that the step in progress took: no held generation names them once its commands have retired. -/
def State.takenOf (s : State) (p : Fin 6) (root : Nat) : List Nat :=
  match s.parts[p].step with
  | some st => (st.takenBlocks.filter fun b => b.1 == root).map (·.2)
  | none => []

/-- The score log of an engine applied: one generation for each root (R224). Blocks that the step itself took are written in
place (log entry 119). -/
def State.applyLog (s : State) (p : Fin 6) (e : Fin 7) (stepId : Nat) : State :=
  let log := s.engines[e].scoreLog
  let one (s : State) (root : Nat) : State :=
    let r := kvRootOf root (s.mem.bytes root 512)
    let (x, r) := ({ s.beginEdit p root with fresh := s.takenOf p root }).shadow r stepId
    let a := (log.filter (fun l => l.root == root)).foldl (applyScore e) ⟨x, r, []⟩
    (a.x.publish { a.r with gen := a.r.gen + 1 } e a.changed).1
  let s := (logRoots log).foldl one s
  s.onEngine e fun g => { g with scoreLog := [], logUsed := [] }

end Sys2Proof.Machine
end

