-- ==== Sys2Proof/Machine/Attend.lean ====
section
/-!
DEFINITION. ATTEND in FULL, PARTIAL and MERGE mode (R206 to R216).
-/
namespace Sys2Proof.Machine

/-! ## The descriptor (R206, R207) -/

/-- An ATTEND descriptor. -/
structure AttDesc where
  q       : Tref
  out     : Tref
  k       : Tref
  v       : Tref
  segQ    : Tref
  segK    : Tref
  posQ    : Tref
  posK    : Tref
  rope    : Tref
  scale   : Word
  mode    : Nat
  wCode   : Nat
  causal  : Bool
  ropeEn  : Bool
  scoreEn : Bool
  layer   : Nat
  rot     : Nat
  mergeAt : Nat
  deriving DecidableEq, Repr

/-- A paged reference: its D1 uses bits [24:0]. -/
def pagedTref (d : List Byte) (o : Nat) : Tref := { trefAt d o with d1 := bits (leAt d (o + 12) 4) 0 25 }

/-- The fields of an ATTEND descriptor. -/
def attDesc (d : List Byte) : AttDesc where
  q := trefAt d 32
  out := trefAt d 80
  k := if (trefAt d 128).layout = kvPaged then pagedTref d 128 else trefAt d 128
  v := trefAt d 176
  segQ := trefAt d 224
  segK := trefAt d 272
  posQ := trefAt d 320
  posK := trefAt d 368
  rope := trefAt d 416
  scale := wordAt d 464
  mode := leAt d 468 1
  wCode := leAt d 469 1
  causal := bit (leAt d 470 1) 0
  ropeEn := bit (leAt d 470 1) 1
  scoreEn := bit (leAt d 470 1) 2
  layer := leAt d 471 1
  rot := leAt d 472 2
  mergeAt := leAt d 476 4

/-- MERGE mode. -/
def AttDesc.merges (x : AttDesc) : Bool := x.mode == 2

/-- Paged keys. -/
def AttDesc.paged (x : AttDesc) : Bool := !x.merges && x.k.layout == kvPaged

/-- Direct keys. -/
def AttDesc.direct (x : AttDesc) : Bool := !x.merges && x.k.layout != kvPaged

/-- Rows of the query. -/
def AttDesc.lq (x : AttDesc) : Nat := x.out.d1

/-- Query heads. -/
def AttDesc.hq (x : AttDesc) : Nat := x.out.d2

/-- Head dimension. -/
def AttDesc.dim (x : AttDesc) : Nat := if x.mode = 1 then x.out.d0 - 2 else x.out.d0

/-- Keys. -/
def AttDesc.lk (x : AttDesc) : Nat := x.k.d1

/-- KV heads. -/
def AttDesc.hk (x : AttDesc) : Nat := x.k.d2

/-- The working format W_FMT (R206). -/
def AttDesc.wFmt (x : AttDesc) : Option Fmt :=
  if [1, 3, 4, 5, 6].contains x.wCode then fmtOf x.wCode else none

/-- Whether a reference is INT32, ROW_MAJOR, of one extent, or all-zero. -/
def Tref.int1d (t : Tref) (n : Nat) : Bool :=
  t.absent || (t.fmt? == some .int32 && t.layout == rowMajor && t.is2d n 1 && t.rangeOk false && t.sMode == 0)

/-- Whether a reference is ROW_MAJOR with three extents. -/
def Tref.rows3 (t : Tref) (d0 d1 d2 : Nat) (out : Bool) : Bool :=
  t.layout == rowMajor && t.d0 == d0 && t.d1 == d1 && t.d2 == d2 && t.d3 == 1 && t.rangeOk out && t.sMode == 0

/-- Whether the rotary fields agree: none without ROPE_EN, otherwise an even ROT_DIMS and its table (R206, R209). -/
def ropeOk (en : Bool) (rot d : Nat) (t : Tref) : Bool :=
  if en then rot % 2 == 0 && within 2 d rot && t.fmt? == some .fp32 && t.rows3 rot 256 3 false else rot == 0

/-- The number of engines of the partition of an engine. -/
def State.engineCount (s : State) (e : Fin 7) : Nat :=
  match s.engines[e].part with
  | some p => s.parts[p].engines
  | none => 0

/-- Whether a paged reference has the form of R206. -/
def Tref.pagedOk (t : Tref) (d lk hk : Nat) : Bool :=
  t.layout == kvPaged && t.space == 0 && t.code == 0 && t.d0 == d && t.d1 == lk && t.d2 == hk && t.d3 == 1
    && t.s1 == 0 && t.s2 == 0 && t.s3 == 0 && t.sMode == 0

/-- Whether the reserved fields of a paged reference are zero. -/
def Tref.pagedReservedOk (t : Tref) : Bool :=
  ({ t with raw := patchAt t.raw 15 [byteAt t.raw 15 &&& 0xFE] }).reservedOk

/-- The 1,024-byte roots of every member, for check 7 (R207). -/
def State.rootPlaces (s : State) (e : Fin 7) (t : Tref) : List (Option Half) :=
  [s.placeStatus e t.space t.addr (1024 * s.engineCount e)]

/-- Ranges of an ATTEND, without the overlap rule (R207). -/
def AttDesc.rangeOk (x : AttDesc) (engines : Nat) (multi : Bool) : Bool :=
  let d := x.dim
  !multi && decide (x.mode ≤ 2) && x.wFmt.isSome
    && within 16 256 d && d % 16 == 0 && within 1 8 x.hq && decide (x.lq ≤ 16384)
    && isFinite x.scale && fgt x.scale 0
    && (if x.mode = 1 then x.out.fmt? == some .fp32 && x.out.space == 2 && x.out.s1 == 4 * (d + 2)
        && x.out.s2 == x.out.s1 * x.lq
      else nmsFmtOk x.out.fmt?)
    && x.out.rows3 x.out.d0 x.lq x.hq true
    && (x.paged || (!x.scoreEn && x.layer == 0)) && decide (x.layer ≤ 63)
    && (x.merges || x.mergeAt == 0)
    && ropeOk x.ropeEn x.rot d x.rope
    && x.segQ.int1d x.lq && x.posQ.int1d x.lq
    && (x.merges || (nmsFmtOk x.q.fmt? && x.q.rows3 d x.lq x.hq false && decide (1 ≤ x.hk) && x.hq % x.hk == 0
        && decide (x.lk ≤ maxPosition engines + 1)
        && (if x.paged then x.k.pagedOk d x.lk x.hk
          else (x.wFmt == some .bf16 || x.wFmt == some .fp16) && x.k.fmt? == x.wFmt && x.v.fmt? == x.wFmt
            && decide (x.lk ≤ 16384) && x.k.rows3 d x.lk x.hk false && x.v.rows3 d x.lk x.hk false
            && x.segK.int1d x.lk && x.posK.int1d x.lk)))

/-- The references of an ATTEND that it reads as tensors. -/
def AttDesc.tensors (x : AttDesc) : List Tref :=
  ((if x.merges then [] else [x.q]) ++ (if x.direct then [x.k, x.v, x.segK, x.posK] else [])
    ++ [x.segQ, x.posQ] ++ (if x.ropeEn then [x.rope] else [])).filter fun t => !t.absent

/-- The partial results that a MERGE reads: each member's, in MEMBER_PADDOCK space (R214). -/
def AttDesc.partials (x : AttDesc) (members : Nat) : List Nat :=
  if x.merges then (List.range members).map fun m => m * 2 ^ 40 + x.mergeAt else []

/-- Bytes of one member's partials. -/
def AttDesc.partialBytes (x : AttDesc) : Nat := x.hq * x.lq * (x.dim + 2) * 4

/-- The footprints an ATTEND reads, those of the KV cache apart. -/
def State.attendReads (s : State) (e : Fin 7) (d : List Byte) : List Foot :=
  let x := attDesc d
  (x.tensors.flatMap fun t => s.dataFoot e t)
    ++ (x.partials (s.engineCount e)).flatMap fun a => s.footOf e 3 a x.partialBytes

/-- The footprints an ATTEND writes. -/
def State.attendWrites (s : State) (e : Fin 7) (d : List Byte) : List Foot := s.dataFoot e (attDesc d).out

/-- Checks 1 to 7 of an ATTEND. -/
def State.judgeAttend (s : State) (e : Fin 7) (d : List Byte) : Option Half :=
  let x := attDesc d
  s.judge e d 0x30 61
    (leAt d 470 1 / 8 == 0 && zeroAt d 474 2 && zeroAt d 480 8 && x.out.reservedOk
      && (x.tensors.all Tref.reservedOk) && (!x.paged || x.k.pagedReservedOk)
      && (!x.merges || (x.q.absent && x.k.absent && x.v.absent && x.segK.absent && x.posK.absent))
      && (!x.paged || (x.v.absent && x.segK.absent && x.posK.absent)) && (x.ropeEn || x.rope.absent))
    (x.out.fmt?.isSome && (x.tensors.all fun t => t.fmt?.isSome))
    (x.rangeOk (s.engineCount e) (dMulti d) && !feetMeet (s.attendWrites e d) (s.attendReads e d))
    (s.trefPlaces e x.out ++ (x.tensors.flatMap fun t => s.trefPlaces e t)
      ++ (if x.paged then s.rootPlaces e x.k else [])
      ++ (x.partials (s.engineCount e)).map fun a => s.placeStatus e 3 a x.partialBytes)

/-! ## Rows, keys and rotation (R208, R209) -/

/-- The INT32 values of a one-extent tensor, or a default for an all-zero reference. -/
def State.int1d (s : State) (e : Fin 7) (t : Tref) (n : Nat) (dflt : Nat → Int) : List Int :=
  if t.absent then (List.range n).map dflt
  else
    let bs := (s.tensorBytes e t).getD []
    (List.range n).map fun i => (t.elem bs ⟨i, 0, 0, 0⟩).less 0

/-- One rotation of a pair by one digit (R209). -/
def ropePair (c sn x y : Word) : Word × Word :=
  (ffma x c (fneg (fmul y sn)), ffma x sn (fmul y c))

/-- A vector rotated for a position; `table k dk i` reads the rotary table. -/
def ropeVec (rot : Nat) (table : Nat → Nat → Nat → Word) (pos : Nat) (v : List Word) : List Word :=
  let h := rot / 2
  (List.range 3).foldl (fun v k =>
    let dk := pos / 256 ^ k % 256
    (v.zipIdx).map fun (w, i) =>
      if i < h then (ropePair (table k dk (2 * i)) (table k dk (2 * i + 1)) w (v.getD (i + h) 0)).1
      else if i < rot then
        (ropePair (table k dk (2 * (i - h))) (table k dk (2 * (i - h) + 1)) (v.getD (i - h) 0) w).2
      else w) v

/-- A vector rotated when ROPE_EN is set. -/
def State.rotated (s : State) (e : Fin 7) (en : Bool) (rope : Tref) (rot : Nat) (pos : Int) (v : List Word) :
    List Word :=
  if en then
    let bs := (s.tensorBytes e rope).getD []
    ropeVec rot (fun k dk i => (rope.elem bs ⟨i, dk, k, 0⟩).f32) pos.toNat v
  else v

/-- A query vector in the working format (R210): exact integer codes or FP32 values, its scale, and what its conversion
reports. -/
structure QVec where
  ints  : List Int
  flts  : List Word
  qs    : Option Word
  note  : Note
  deriving DecidableEq, Repr

/-- A value rounded to BF16 or FP16, an overflow held to the largest finite. -/
def toWide (f : Fmt) (w : Word) : Word :=
  (decodeElem f (toFloatFmt f true (fp32Val w)).1).f32

/-- What the arithmetic of R180 to R182 reports of its elements. -/
def quantNote (es : List QElem) : Note := ⟨es.any (·.nan), false, es.countP (·.clip), false⟩

/-- A query vector brought to W_FMT (R210). -/
def quantQuery (f : Fmt) (v : List Word) : QVec :=
  if f = .int8 ∨ f.isFp8 = true then
    let r := quantRow f qSym fp32One 0 0 v
    let es := v.map fun w => quantElem f qSym r w
    let qs := fp16F32 r.scale
    if f = .int8 then ⟨es.map fun x => sext 8 x.code, [], some qs, quantNote es⟩
    else ⟨[], es.map fun x => (decodeElem f x.code).f32, some qs, quantNote es⟩
  else ⟨[], v.map (toWide f), none, ⟨v.any isNaN, false, 0, false⟩⟩

/-- A key as the cells meet it: attended or not is judged by position and segment. -/
structure Key where
  pos  : Int
  seg  : Int
  slot : Nat
  deriving DecidableEq, Repr

/-- The keys of one block with their vectors for one KV head. -/
structure KBlock where
  page  : Nat                    -- page index, or block index in direct mode
  own   : Nat                    -- local page index
  keys  : List Key
  fmt   : Option Nat             -- page format code; none in direct mode
  deriving DecidableEq, Repr

/-- Whether row (sq, pq) attends a key (R208). -/
def attends (sq pq : Int) (causal : Bool) (window : Nat) (globals : List Int) (lk : Nat) (k : Key) : Bool :=
  sq % 65536 != 0 && k.seg == sq && decide (k.pos < lk) && (!causal || decide (k.pos ≤ pq))
    && (window == 0 || decide ((pq - k.pos).natAbs < window) || globals.contains k.pos || globals.contains pq)

/-! ## Pages and widening (R211) -/

/-- How a page enters the cells. -/
inductive Entry211 where
  | intNative (groups : Nat)
  | floatNative (scaled : Bool)
  | widened
  deriving DecidableEq, Repr

/-- How a page of a format enters under a working format, and the PV format; none is KV_FORMAT (R211). -/
def entryOf (w page : Fmt) (dim : Nat) : Option (Entry211 × Fmt) :=
  match w, page with
  | .int8, .int8 => some (.intNative 1, .fp16)
  | .int8, .int4 => some (.intNative (dim / 32), .fp16)
  | .e4m3, .e4m3 | .e4m3, .e5m2 | .e5m2, .e4m3 | .e5m2, .e5m2 => some (.floatNative true, .fp16)
  | .bf16, .int8 | .bf16, .int4 | .bf16, .e4m3 | .bf16, .e5m2 => some (.widened, .bf16)
  | .fp16, .int8 | .fp16, .int4 | .fp16, .e4m3 | .fp16, .e5m2 => some (.widened, .fp16)
  | .fp16, .fp16 => some (.floatNative false, .fp16)
  | _, _ => none

/-- The bytes of a page: data and side tensor. -/
structure PageBytes where
  fmt    : Fmt
  data   : List Byte
  side   : List Byte
  heads  : Nat
  dim    : Nat
  groups : Nat
  deriving DecidableEq, Repr

/-- Half-byte offset of an element of a page (R196). -/
def PageBytes.offset (g : PageBytes) (h kv t i : Nat) : Nat := (((h * 2 + kv) * 16 + t) * g.dim + i) * g.fmt.nibbles

/-- The element of a page as stored. -/
def PageBytes.code (g : PageBytes) (h kv t i : Nat) : Val := decodeElem g.fmt (codeAt g.data g.fmt (g.offset h kv t i))

/-- The FP16 scale of a vector or group (R197). -/
def PageBytes.scale (g : PageBytes) (h kv t grp : Nat) : Word :=
  fp16F32 (leAt g.side (64 + 2 * (((h * 2 + kv) * 16 + t) * g.groups + grp)) 2)

/-- The exact FP32 value code × scale of an element; an FP16 page has no scale. -/
def PageBytes.value (g : PageBytes) (h kv t i : Nat) : Word :=
  let c := (g.code h kv t i).f32
  if g.fmt = .fp16 then c else fmul c (g.scale h kv t (if g.fmt = .int4 then i / 32 else 0))

/-- The segment of a token slot. -/
def PageBytes.seg (g : PageBytes) (t : Nat) : Int := leAt g.side (2 * t) 2

/-- The bytes of a page of a root. -/
def State.pageBytes (s : State) (r : KvRoot) (p : Pte) (f : Fmt) : PageBytes :=
  ⟨f, s.mem.bytes (r.dataAddr p) (r.dataBytes f), s.mem.bytes (r.sideAddr p) r.sideBytes, r.heads, r.dim, r.groups⟩

/-- A value rounded to a format and read back as FP32 (R111). -/
def roundTo (f : Fmt) (w : Word) : Word := (decodeElem f (toFloatFmt f false (fp32Val w)).1).f32

/-! ## Scores (R212) -/

/-- Groups of 32 of two integer vectors, their exact sums. -/
def groupSums (n : Nat) (q k : List Int) : List Int :=
  if n ≤ 1 then [dotInt 0 q k]
  else (List.range n).map fun g => dotInt 0 ((q.drop (32 * g)).take 32) ((k.drop (32 * g)).take 32)

/-- The score of a key from integer sums (R212). -/
def scoreInt (sums : List Int) (ks : List Word) (qs sm : Word) : Word :=
  let terms := (sums.zip ks).map fun p => fmul (intToF32 p.1) p.2
  match terms with
  | [] => 0
  | t :: rest => fmul (fmul (rest.foldl fadd t) qs) sm

/-- The score of a key from a floating-point sum; factors that do not exist are skipped (R212). -/
def scoreFloat (acc : Word) (ks qs : Option Word) (sm : Word) : Word :=
  let a := match ks with
    | some k => fmul acc k
    | none => acc
  let a := match qs with
    | some q => fmul a q
    | none => a
  fmul a sm

/-- The score of a key of a page. -/
def PageBytes.score (g : PageBytes) (ent : Entry211) (wide : Fmt) (h t : Nat) (q : QVec) (sm : Word) : Word :=
  let is := List.range g.dim
  match ent with
  | .intNative n =>
    scoreInt (groupSums n q.ints (is.map fun i => (g.code h 0 t i).less 0))
      ((List.range n).map fun grp => g.scale h 0 t grp) (q.qs.getD fp32One) sm
  | .floatNative scaled =>
    scoreFloat (dotFloat 0 q.flts (is.map fun i => (g.code h 0 t i).f32))
      (if scaled then some (g.scale h 0 t 0) else none) q.qs sm
  | .widened => scoreFloat (dotFloat 0 q.flts (is.map fun i => roundTo wide (g.value h 0 t i))) none q.qs sm

/-! ## Online softmax (R213) -/

/-- A block ready for one row and head: its page, and for each of 16 slots the score and value vector of an attended
key. -/
structure SmBlock where
  own  : Nat
  keys : List (Option (Word × List Word))
  deriving DecidableEq, Repr

/-- The running state of a row and head. -/
structure Softmax where
  m   : Word
  l   : Word
  acc : List Word
  mb  : List (Nat × Word × Word)       -- page, m and ls after its block
  deriving DecidableEq, Repr

/-- The state before the first block. -/
def Softmax.start (d : Nat) : Softmax := ⟨0xFF800000, 0, List.replicate d 0, []⟩

/-- One block (R213). -/
def Softmax.block (x : Softmax) (pv : Fmt) (b : SmBlock) : Softmax :=
  match b.keys.filterMap (fun k => k.map (·.1)) with
  | [] => x
  | s :: rest =>
    let bm := rest.foldl fmax s
    let mNew := fmax x.m bm
    let c := if x.m = 0xFF800000 then 0 else fexp (fsub x.m mNew)
    let ps := b.keys.map fun k => match k with
      | some (s, _) => roundTo pv (fexp (fsub s mNew))
      | none => 0
    let ls := treeOf fadd 4 ps
    let sumOf (i : Nat) : Word := treeOf fadd 4 ((b.keys.zip ps).map fun p => match p.1 with
      | some (_, v) => fmul p.2 (v.getD i 0)
      | none => 0)
    ⟨mNew, ffma x.l c ls, (x.acc.zipIdx).map fun (a, i) => ffma a c (sumOf i), x.mb ++ [(b.own, mNew, ls)]⟩

/-- The procedure over the blocks of a row and head. -/
def softmax (d : Nat) (pv : Fmt) (blocks : List SmBlock) : Softmax :=
  blocks.foldl (fun x b => x.block pv b) (Softmax.start d)

/-- The normalised output (R213). -/
def Softmax.output (x : Softmax) : List Word :=
  let r := frcp x.l
  x.acc.map fun a => fmul a r

/-- The share of an attended page in the row's mass (R216). -/
def Softmax.share (x : Softmax) (mb ls : Word) : Word := fmul (fmul ls (fexp (fsub mb x.m))) (frcp x.l)

/-! ## One command -/

/-- What a row and head come to. -/
structure RowResult where
  row    : Nat
  head   : Nat
  seg0   : Bool
  sm     : Softmax
  deriving DecidableEq, Repr

/-- Whether a row attended any key. -/
def RowResult.some? (r : RowResult) : Bool := !r.sm.mb.isEmpty

/-- The FP32 values a row writes in FULL mode. -/
def RowResult.full (r : RowResult) : List Word :=
  if r.some? then r.sm.output else List.replicate r.sm.acc.length 0

/-- The FP32 values a row writes in PARTIAL mode (R214). -/
def RowResult.part (r : RowResult) : List Word :=
  r.sm.acc ++ [r.sm.m, if r.seg0 then 0x80000000 else r.sm.l]

/-- What an ATTEND visits. -/
structure Visit where
  own   : Nat
  page  : Nat
  bytes : PageBytes
  ent   : Entry211
  pv    : Fmt
  keys  : List Key
  pte   : Pte
  deriving DecidableEq, Repr

/-- The pages an ATTEND visits on a root: the valid pages below Lk, on a windowed root only those that hold a key some
row may attend (R208). An error is KV_FORMAT or KV_DIR. -/
def State.visits (s : State) (x : AttDesc) (r : KvRoot) (w : Fmt) (rows : List (Int × Int)) :
    Except Half (List Visit × Nat) :=
  match s.kvPages r x.layer (wantRange 0 (r.ownPages x.lk)) with
  | .error st => .error st
  | .ok inLk =>
    let keysOf (p : Nat × Pte) : List Key :=
      let side := s.mem.bytes (r.sideAddr p.2) 32
      (List.range p.2.fill).map fun t => ⟨(r.pageOf p.1 * 16 + t : Nat), leAt side (2 * t) 2, t⟩
    let wanted (p : Nat × Pte) : Bool :=
      r.window == 0 || (keysOf p).any fun k => rows.any fun q => attends q.1 q.2 x.causal r.window r.globals x.lk k
    let vs := (inLk.filter wanted).map fun p =>
      match r.legal p.2.fmt with
      | none => none
      | some f => (entryOf w f r.dim).map fun en =>
        (⟨p.1, r.pageOf p.1, s.pageBytes r p.2 f, en.1, en.2, keysOf p, p.2⟩ : Visit)
    if vs.all Option.isSome then .ok (vs.filterMap id, inLk.length) else .error stKvFormat

/-- A row and head over the visited pages. -/
def pagedRow (x : AttDesc) (r : KvRoot) (vs : List Visit) (q : QVec) (row head : Nat) (sq pq : Int) : RowResult :=
  let h := head * x.hk / x.hq
  let blocks := vs.map fun v =>
    let keys := (List.range 16).map fun t =>
      match v.keys.find? (fun k => k.slot == t) with
      | some k =>
        if attends sq pq x.causal r.window r.globals x.lk k then
          some (v.bytes.score v.ent v.pv h t q x.scale,
            (List.range r.dim).map fun i => roundTo v.pv (v.bytes.value h 1 t i))
        else none
      | none => none
    (⟨v.own, keys⟩ : SmBlock)
  ⟨row, head, sq == 0, softmax r.dim ((vs.head?.map (·.pv)).getD .fp16) blocks⟩

/-- A row and head over direct keys and values. -/
def directRow (x : AttDesc) (w : Fmt) (kRows : List (List (List Word))) (vB : List Byte) (keys : List Key) (q : QVec)
    (row head : Nat) (sq pq : Int) : RowResult :=
  let h := head * x.hk / x.hq
  let blocks := (chunksOf 16 keys.length keys).map fun ks =>
    let got := ks.map fun k =>
      if attends sq pq x.causal 0 [] x.lk { k with pos := k.pos } then
        some (scoreFloat (dotFloat 0 q.flts ((kRows.getD h []).getD k.slot [])) none q.qs x.scale,
          (List.range x.dim).map fun i => (x.v.elem vB ⟨i, k.slot, h, 0⟩).f32)
      else none
    (⟨0, got ++ List.replicate (16 - got.length) none⟩ : SmBlock)
  ⟨row, head, sq == 0, softmax x.dim w blocks⟩

/-- The increments an ATTEND logs (R216): for each page some row attended, in ascending page. -/
def scoreLog (r : KvRoot) (layer : Nat) (vs : List Visit) (rows : List RowResult) : List ScoreEntry × Bool :=
  let ordered := rows
  let one (v : Visit) : Option (ScoreEntry × Bool) :=
    let shares := ordered.flatMap fun x =>
      if fgt x.sm.l 0 then (x.sm.mb.filter fun b => b.1 == v.own).map fun b => x.sm.share b.2.1 b.2.2 else []
    match shares with
    | [] => none
    | a :: rest =>
      let total := rest.foldl fadd a
      let inc := cvtF2I (fmul total r.gain)
      some (⟨r.addr, layer, v.own, (clampI 0 65535 inc).toNat⟩, isNaN total)
  let l := vs.filterMap one
  (l.map (·.1), l.any (·.2))

/-- The score log with the increments of one command, within the root's allowance; the rest are counted (R224). -/
def State.logScores (s : State) (e : Fin 7) (r : KvRoot) (entries : List ScoreEntry) : State :=
  let used := ((s.engines[e].logUsed.find? fun u => u.1 == r.addr).map (·.2)).getD 0
  let take := entries.take (r.logAllow - used)
  let s := s.onEngine e fun g => { g with
    scoreLog := g.scoreLog ++ take
    logUsed := (r.addr, used + take.length) :: g.logUsed.filter fun u => u.1 != r.addr }
  let lost := entries.length - take.length
  if lost > 0 then s.countEngine e Eng.scoreLogFull lost else s

/-- The rows of a command in ascending row and then ascending head. -/
def rowHeads (lq hq : Nat) : List (Nat × Nat) :=
  (List.range lq).flatMap fun r => (List.range hq).map fun h => (r, h)

/-- The results of an ATTEND written: rows with no attended key are zeros in FULL mode, and in PARTIAL mode they report nothing
(R213 to R215). -/
def writeRows (e : Fin 7) (d : List Byte) (x : AttDesc) (rows : List RowResult) (flags : Nat) (n0 : Note) (s : State) :
    Effect :=
  let vals := rows.map fun r => if x.mode = 1 then r.part else r.full
  let at_ (i : Ix) : Word := (vals.getD (i.i1 * x.hq + i.i2) []).getD i.i0 0
  let some_ := rows.map RowResult.some?
  let code (i : Ix) := encodeElem x.out.fmt (dOutSat d) (.flt (at_ i))
  let n := joinNotes ((x.out.indices.filter fun i => x.mode != 1 || some_.getD (i.i1 * x.hq + i.i2) true).map fun i => (code i).2)
  let blank := if x.mode = 1 then 0 else rows.countP fun r => r.head == 0 && !r.seg0 && !r.some?
  let s := if blank > 0 then s.countEngine e Eng.emptyKeyRows blank else s
  let (s, ok) := s.writeTensor e x.out (fun i => (code i).1)
  noted s e ok (n0.join n) (flags ||| flagIf (decide (blank > 0)) flEmptyKeys)

/-- A command ended by a fault it finds in a root: the codes of R228 describe the context's data and count in KV_FAULTS. -/
def kvFault (s : State) (e : Fin 7) (st : Half) : Effect :=
  ⟨if within 0x130 0x134 st.toNat then s.countEngine e Eng.kvFaults 1 else s, st, 0⟩

/-- Whether positions and segments of the query rows are in range: KV_LENGTH, SEG_RANGE (R204, R208). -/
def rowsStatus (engines : Nat) (segs poss : List Int) : Option Half :=
  firstStatus
    [ require (poss.all fun p => decide (0 ≤ p) && decide (p ≤ maxPosition engines)) stKvLength
    , require (segs.all fun g => decide (0 ≤ g) && decide (g < 65536)) stSegRange ]

/-- The effect of an ATTEND over the KV cache. -/
def pagedEffect (e : Fin 7) (d : List Byte) (x : AttDesc) (w : Fmt) (segs poss : List Int) (qs : List (List QVec))
    (n0 : Note) (s : State) : Effect :=
  match s.engines[e].part with
  | none => kvFault s e stKvDir
  | some p =>
    let a := x.k.addr + 1024 * s.engines[e].logical
    let r := kvRootOf a (s.mem.bytes a 512)
    let engines := s.parts[p].engines
    let chk := firstStatus
      [ r.fault engines s.engines[e].logical
      , require (r.dim == x.dim && r.heads == x.hk && decide (x.layer < r.layers)) stRange
      , require (x.mode == 1 || !r.byPosition || r.members == 1) stKvDir
      , require ((engines != 6 || r.window != 0) && r.deep (r.ownPages x.lk)) stKvLength ]
    match chk with
    | some st => kvFault s e st
    | none =>
      match s.visits x r w (segs.zip poss) with
      | .error st => kvFault s e st
      | .ok (vs, valid) =>
        let rows := (rowHeads x.lq x.hq).map fun (i, h) =>
          pagedRow x r vs ((qs.getD i []).getD h ⟨[], [], none, .none⟩) i h (segs.getD i 0) (poss.getD i 0)
        let flags := flagIf (vs.any fun v => v.ent == .widened) 256
          + flagIf (decide (valid < r.ownPages x.lk)) 512 + flagIf (decide (x.lk = 0)) flEmptyKeys
        let (log, nan) := scoreLog r x.layer vs rows
        let s := vs.foldl (fun s v => s.labWalk e r.addr x.layer v.own r.gen v.pte) s
        let s := if x.scoreEn then s.logScores e r log else s
        writeRows e d x rows flags (n0.join ⟨nan && x.scoreEn, false, 0, false⟩) (s.holdGeneration p r.addr)

/-- The effect of an ATTEND in FULL or PARTIAL mode whose checks passed (R213 to R216). -/
def attendEffect (e : Fin 7) (d : List Byte) (x : AttDesc) (s : State) : Effect :=
  let s := s.dropHeld e d
  if x.lq = 0 then plain (s.countEngine e Eng.zeroExtents 1) flZeroExtent
  else
    let w := x.wFmt.getD .fp16
    let segs := s.int1d e x.segQ x.lq fun _ => 1
    let poss := s.int1d e x.posQ x.lq fun i => (i : Int)
    match rowsStatus (s.engineCount e) segs poss with
    | some st => kvFault s e st
    | none =>
      let qB := (s.tensorBytes e x.q).getD []
      let qs := (List.range x.lq).map fun i => (List.range x.hq).map fun h =>
        quantQuery w (s.rotated e x.ropeEn x.rope x.rot (poss.getD i 0)
          ((List.range x.dim).map fun c => (x.q.elem qB ⟨c, i, h, 0⟩).f32))
      let n0 := joinNotes (qs.flatten.map (·.note))
      if x.paged then pagedEffect e d x w segs poss qs n0 s
      else
        let segK := s.int1d e x.segK x.lk fun _ => 1
        let posK := s.int1d e x.posK x.lk fun i => (i : Int)
        match rowsStatus (s.engineCount e) segK posK with
        | some st => kvFault s e st
        | none =>
          let kB := (s.tensorBytes e x.k).getD []
          let vB := (s.tensorBytes e x.v).getD []
          let turned := (List.range x.hk).map fun h => (List.range x.lk).map fun t =>
            s.rotated e x.ropeEn x.rope x.rot (posK.getD t 0) ((List.range x.dim).map fun c => (x.k.elem kB ⟨c, t, h, 0⟩).f32)
          let kRows := if x.ropeEn then turned.map fun l => l.map fun v => v.map (toWide w) else turned
          let nan := x.ropeEn && turned.any fun l => l.any fun v => v.any isNaN
          let keys := (List.range x.lk).map fun t => (⟨posK.getD t 0, segK.getD t 0, t⟩ : Key)
          let rows := (rowHeads x.lq x.hq).map fun (i, h) =>
            directRow x w kRows vB keys ((qs.getD i []).getD h ⟨[], [], none, .none⟩) i h (segs.getD i 0)
              (poss.getD i 0)
          writeRows e d x rows (flagIf (decide (x.lk = 0)) flEmptyKeys) (n0.join ⟨nan, false, 0, false⟩) s

/-- The main-memory lines that an ATTEND's walk of the cache reads. -/
def State.attendCacheLines (s : State) (e : Fin 7) (x : AttDesc) : List Nat :=
  if !x.paged then []
  else
    let a := x.k.addr + 1024 * s.engines[e].logical
    let r := kvRootOf a (s.mem.bytes a 512)
    let rows := (s.int1d e x.segQ x.lq fun _ => 1).zip (s.int1d e x.posQ x.lq fun i => (i : Int))
    linesOf a 512
      ++ (match s.visits x r (x.wFmt.getD .fp16) rows with
        | .ok (vs, _) => vs.flatMap fun v => s.kvWalkLines r x.layer v.own ++ r.pageLines v.pte
        | .error _ => [])

/-- The bytes an ATTEND reads: its tensors, the partials it merges, and the lines of the cache. -/
def State.attendTouch (s : State) (e : Fin 7) (x : AttDesc) : List Foot :=
  if x.lq = 0 then []
  else
    (x.tensors.flatMap fun t => s.tensorTouch e t)
      ++ ((x.partials (s.engineCount e)).flatMap fun a => s.footOf e 3 a x.partialBytes)
      ++ lineTouch (s.attendCacheLines e x)

/-- ATTEND in FULL or PARTIAL mode on an engine. -/
def runAttend (c : EngCall) (s : State) : State :=
  let e := c.engine
  let x := attDesc c.desc
  s.runEngine c (s.judgeAttend e c.desc) (s.attendReads e c.desc) (s.attendWrites e c.desc)
    (s.attendTouch e x) (attendEffect e c.desc x)

/-! ## MERGE (R214) -/

/-- One member's partial of a row and head. -/
structure Partial where
  acc : List Word
  m   : Word
  l   : Word
  deriving DecidableEq, Repr

/-- The partial of a row and head in the bytes of a member's partials. -/
def partialAt (bs : List Byte) (dim lq r h : Nat) : Partial :=
  let w (i : Nat) : Word := wordAt bs (((h * lq + r) * (dim + 2) + i) * 4)
  ⟨(List.range dim).map w, w dim, w (dim + 1)⟩

/-- The partials of one row and head merged in ascending member order, and whether EMPTY_KEYS is set. -/
def mergeRow (dim : Nat) (ps : List Partial) : List Word × Bool :=
  let zeros := List.replicate dim (0 : Word)
  match ps with
  | [] => (zeros, false)
  | p :: rest =>
    if p.l = 0x80000000 then (zeros, false)
    else
      let m := rest.foldl (fun m q => fmax m q.m) p.m
      if m = 0xFF800000 then (zeros, true)
      else
        let step (a : Word × List Word) (q : Partial) : Word × List Word :=
          let c := if q.m = 0xFF800000 then 0 else fexp (fsub q.m m)
          (ffma q.l c a.1, (a.2.zip q.acc).map fun x => ffma x.2 c x.1)
        let (l, acc) := ps.foldl step (0, zeros)
        let r := frcp l
        (acc.map fun a => fmul a r, false)

/-- The effect of a MERGE whose checks passed. -/
def mergeEffect (e : Fin 7) (d : List Byte) (x : AttDesc) (s : State) : Effect :=
  let s := s.dropHeld e d
  if x.lq = 0 then plain (s.countEngine e Eng.zeroExtents 1) flZeroExtent
  else
    let parts := (x.partials (s.engineCount e)).map fun a => s.peekSpace e 3 a x.partialBytes
    let vals := (rowHeads x.lq x.hq).map fun (r, h) => mergeRow x.dim (parts.map fun b => partialAt b x.dim x.lq r h)
    let at_ (i : Ix) : Word := ((vals.getD (i.i1 * x.hq + i.i2) ([], false)).1).getD i.i0 0
    let code (i : Ix) := encodeElem x.out.fmt (dOutSat d) (.flt (at_ i))
    let n := joinNotes (x.out.indices.map fun i => (code i).2)
    let blank := vals.countP (·.2)
    let (s, ok) := s.writeTensor e x.out (fun i => (code i).1)
    noted s e ok n (flagIf (decide (blank > 0)) flEmptyKeys)

/-- ATTEND in MERGE mode on an engine. -/
def runAttendMerge (c : EngCall) (s : State) : State :=
  let e := c.engine
  let x := attDesc c.desc
  s.runEngine c (s.judgeAttend e c.desc) (s.attendReads e c.desc) (s.attendWrites e c.desc)
    (s.attendTouch e x) (mergeEffect e c.desc x)

end Sys2Proof.Machine
end

