-- ==== Sys2Proof/Machine/KvEdit.lean ====
section
/-!
DEFINITION. KV_APPEND and the six KV_EDIT commands (R217 to R221).
-/
namespace Sys2Proof.Machine

/-! ## KV_APPEND (R217, R218) -/

/-- A KV_APPEND descriptor. -/
structure AppDesc where
  kIn   : Tref
  vIn   : Tref
  kv    : Tref
  seg   : Tref
  pos   : Tref
  rope  : Tref
  first : Nat
  layer : Nat
  ropeEn : Bool
  pin   : Bool
  rot   : Nat
  deriving DecidableEq, Repr

/-- The fields of a KV_APPEND descriptor. -/
def appDesc (d : List Byte) : AppDesc where
  kIn := trefAt d 32
  vIn := trefAt d 80
  kv := pagedTref d 128
  seg := trefAt d 176
  pos := trefAt d 224
  rope := trefAt d 272
  first := leAt d 320 4
  layer := leAt d 324 1
  ropeEn := bit (leAt d 325 1) 0
  pin := bit (leAt d 325 1) 1
  rot := leAt d 326 2

/-- The references of a KV_APPEND that it reads as tensors. -/
def AppDesc.tensors (x : AppDesc) : List Tref :=
  ([x.kIn, x.vIn, x.seg, x.pos] ++ if x.ropeEn then [x.rope] else []).filter fun t => !t.absent

/-- Tokens of a KV_APPEND. -/
def AppDesc.count (x : AppDesc) : Nat := x.kIn.d1

/-- Checks 1 to 7 of a KV_APPEND. -/
def State.judgeAppend (s : State) (e : Fin 7) (d : List Byte) : Option Half :=
  let x := appDesc d
  let dim := x.kIn.d0
  s.judge e d 0x31 42
    (leAt d 325 1 / 4 == 0 && zeroAt d 328 8 && x.kv.pagedReservedOk && (x.tensors.all Tref.reservedOk)
      && (x.ropeEn || x.rope.absent))
    (x.tensors.all fun t => t.fmt?.isSome)
    (!dMulti d && nmsFmtOk x.kIn.fmt? && nmsFmtOk x.vIn.fmt? && decide (x.count ≤ 4096)
      && x.kIn.rows3 dim x.count x.kIn.d2 false && x.vIn.rows3 dim x.count x.kIn.d2 false
      && x.kv.pagedOk dim 0 x.kIn.d2 && x.seg.int1d x.count && x.pos.int1d x.count
      && (x.pos.absent || x.first == 0) && decide (x.layer ≤ 63) && ropeOk x.ropeEn x.rot dim x.rope)
    ((x.tensors.flatMap fun t => s.trefPlaces e t) ++ s.rootPlaces e x.kv)

/-- A K or V vector quantised into a page format (R218 step 2): its codes, its scales, and what the arithmetic reports. -/
def quantVector (f : Fmt) (v : List Word) : List Nat × List Nat × Note :=
  if f = .fp16 then
    let cs := v.map fun w => toFloatFmt .fp16 true (fp32Val w)
    (cs.map (·.1), [], joinNotes (cs.map (·.2)))
  else
    let parts := if f = .int4 then chunksOf 32 v.length v else [v]
    let qs := parts.map fun p => (quantRow f qSym fp32One 0 0 p, p)
    let es := qs.flatMap fun p => p.2.map fun w => quantElem f qSym p.1 w
    (es.map (·.code), qs.map (·.1.scale), quantNote es)

/-- The bytes of a vector's codes. -/
def codeBytes (f : Fmt) (codes : List Nat) : List Byte :=
  if f = .int4 then (packNibbles (fun _ => 0) ((codes.zipIdx).map fun c => (c.2, c.1))).flatMap (·.2)
  else codes.flatMap fun c => leBytes (f.nibbles / 2) c

/-- A vector written to slot `t` of a page: its codes, and its scales (+0.0 entries for FP16) (R195, R196, R197). -/
def KvEdit.putVector (x : KvEdit) (r : KvRoot) (p : Pte) (f : Fmt) (h kv t : Nat) (codes scales : List Nat) : KvEdit :=
  let o := (((h * 2 + kv) * 16 + t) * r.dim) * f.nibbles / 2
  let sc := if f = .fp16 then List.replicate r.groups 0 else scales
  (x.write (r.dataAddr p + o) (codeBytes f codes)).write
    (r.sideAddr p + 64 + 2 * (((h * 2 + kv) * 16 + t) * r.groups)) (sc.flatMap fun c => leBytes 2 c)

/-- What KV_APPEND has done so far. -/
structure AppState where
  x       : KvEdit
  r       : KvRoot
  changed : List (Nat × Nat)
  evicted : Bool
  copied  : Bool
  wrote   : Bool
  note    : Note

/-- A new page: a slot, from the budget or after an eviction; its data and side tensor zeroed (R218 step 1, R219). -/
def AppState.newPage (a : AppState) (e : Fin 7) (layer l pos : Nat) (pin : Bool) : Except Half (AppState × Pte) :=
  let full := decide (a.r.held.getD layer 0 ≥ a.r.budget)
  let room : Except Half AppState :=
    if !full then .ok a
    else
      match a.x.s.kvPages a.r layer with
      | .error st => .error st
      | .ok pages =>
        match a.r.victim pages pos with
        | none => .error stKvBudget
        | some (vl, vp) =>
          match a.x.drop a.r layer vl vp with
          | .error st => .error st
          | .ok (x, r) =>
            .ok { a with
              x := { x with s := x.s.countEngine e Eng.kvEvictions 1 }
              r := r, changed := (layer, vl) :: a.changed, evicted := true }
  match room with
  | .error st => .error st
  | .ok a =>
    match a.x.slot a.r full with
    | .error st => .error st
    | .ok (x, slot) =>
      let j := a.r.pageOf l
      let pinned := pin || (j == 0 && a.r.pinFirst) || a.r.holdsGlobal j
      let p : Pte := ⟨pinned, if pinned then a.r.fmtPinned else a.r.fmtNew, 0, a.r.gen, 0,
        a.r.poolBase / 4096 + slot * a.r.frames⟩
      let f := (pageFmt p.fmt).getD .int8
      let x := (x.write (a.r.dataAddr p) (List.replicate (a.r.dataBytes f) 0)).write (a.r.sideAddr p)
        (List.replicate a.r.sideBytes 0)
      let s := (x.s.countEngine e Eng.kvPagesTaken 1).setHeldFill x.p a.r.addr layer l 0
      .ok ({ a with x := { x with s := s }, r := a.r.hold layer (· + 1) }, p)

/-- A page whose slot `t` lies below its FILL in a held generation is copied into a new slot first (R222). -/
def AppState.copyPage (a : AppState) (e : Fin 7) (layer l t : Nat) (p : Pte) : Except Half (AppState × Pte) :=
  if t ≥ a.x.s.heldFill a.x.p a.r.addr layer l p.fill then
    let held := a.x.s.heldFill a.x.p a.r.addr layer l p.fill
    .ok ({ a with x := { a.x with s := a.x.s.setHeldFill a.x.p a.r.addr layer l held } }, p)
  else
    match a.x.slot a.r true with
    | .error st => .error st
    | .ok (x, slot) =>
      let q := { p with frame := a.r.poolBase / 4096 + slot * a.r.frames }
      let f := (pageFmt p.fmt).getD .int8
      let x := x.write (a.r.dataAddr q) (x.s.mem.bytes (a.r.dataAddr p) (a.r.dataBytes f))
      let x := x.write (a.r.sideAddr q) (x.s.mem.bytes (a.r.sideAddr p) a.r.sideBytes)
      let s := (x.s.countEngine e Eng.kvPageCopies 1).setHeldFill x.p a.r.addr layer l 0
      let x := ({ x with s := s }).release a.r (a.r.slotOf p)
      .ok ({ a with x := x, copied := true }, q)

/-- The entry of a page after a token: GEN names the new generation where VALID, PINNED, FMT, FILL or FRAME differs from what the
entry held (R201); none where the entry stays as it was. -/
def Pte.after (old : Option Pte) (p : Pte) (gen : Nat) : Option Pte :=
  if old = some p then none else some { p with gen := gen }

/-- One token appended (R218). -/
def AppState.token (a : AppState) (e : Fin 7) (d : AppDesc) (pos : Nat) (seg : Int) (k v : Nat → List Word) :
    Except Half AppState :=
  match a.r.localOf (pos / 16) with
  | none => .ok a
  | some l =>
    let t := pos % 16
    match a.x.s.kvEntry a.r d.layer l with
    | .error st => .error st
    | .ok found =>
      let page : Except Half (AppState × Pte) := match found with
        | some p => a.copyPage e d.layer l t { p with pinned := p.pinned || d.pin }
        | none => a.newPage e d.layer l pos d.pin
      match page with
      | .error st => .error st
      | .ok (a, p) =>
        match a.r.legal p.fmt with
        | none => .error stKvFormat
        | some f =>
          let put (acc : KvEdit × Note) (h : Nat) : KvEdit × Note :=
            let (kc, ks, kn) := quantVector f (k h)
            let (vc, vs, vn) := quantVector f (v h)
            ((acc.1.putVector a.r p f h 0 t kc ks).putVector a.r p f h 1 t vc vs, (acc.2.join kn).join vn)
          let (x, note) := (List.range a.r.heads).foldl put (a.x, a.note)
          let x := x.write (a.r.sideAddr p + 2 * t) (leBytes 2 seg.toNat)
          let a := { a with x := x, wrote := true, note := note }
          match Pte.after found { p with fill := max p.fill (t + 1) } a.r.gen with
          | none => .ok a
          | some p =>
            match a.x.setEntry a.r d.layer l p.word with
            | .error st => .error st
            | .ok (x, r) => .ok { a with x := x, r := r, changed := (d.layer, l) :: a.changed }

/-- A fold that stops at the first error. -/
def foldExcept {α β : Type} (f : β → α → Except Half β) : List α → β → Except Half β
  | [], b => .ok b
  | x :: rest, b =>
    match f b x with
    | .error st => .error st
    | .ok b => foldExcept f rest b

/-- The root of the executing member. -/
def State.memberRoot (s : State) (e : Fin 7) (t : Tref) : KvRoot :=
  let a := t.addr + 1024 * s.engines[e].logical
  kvRootOf a (s.mem.bytes a 512)

/-- The effect of a KV_APPEND whose checks passed. A data fault leaves the state as it was (R228). -/
def appendEffect (e : Fin 7) (d : List Byte) (x : AppDesc) (s : State) : Effect :=
  if x.count = 0 then plain (s.countEngine e Eng.zeroExtents 1) flZeroExtent
  else
    match s.engines[e].part with
    | none => kvFault s e stKvDir
    | some p =>
      let engines := s.parts[p].engines
      let r := s.memberRoot e x.kv
      let segs := s.int1d e x.seg x.count fun _ => 1
      let poss := s.int1d e x.pos x.count fun i => (x.first + i : Nat)
      let badPage := (poss.filterMap fun q => r.localOf (q.toNat / 16)).any fun l =>
        match s.kvEntry r x.layer l with
        | .ok (some q) => (r.legal q.fmt).isNone
        | _ => false
      let chk := firstStatus
        [ r.fault engines s.engines[e].logical
        , require (r.dim == x.kIn.d0 && r.heads == x.kIn.d2 && decide (x.layer < r.layers)) stRange
        , rowsStatus engines segs poss
        , require (poss.all r.covers && (engines != 6 || r.window != 0)) stKvLength
        , require (!badPage) stKvFormat ]
      match chk with
      | some st => kvFault s e st
      | none =>
        let kB := (s.tensorBytes e x.kIn).getD []
        let vB := (s.tensorBytes e x.vIn).getD []
        let row (t : Tref) (bs : List Byte) (i h : Nat) : List Word :=
          (List.range x.kIn.d0).map fun c => (t.elem bs ⟨c, i, h, 0⟩).f32
        let labs := (poss.filterMap fun q => r.localOf (q.toNat / 16)).foldl (fun s l =>
          match s.kvEntry r x.layer l with
          | .ok (some q) => s.labWalk e r.addr x.layer l r.gen q
          | _ => s) s
        let (ed, r1) := (labs.beginEdit p r.addr).shadow r (dStepId d)
        let start : AppState := ⟨ed, { r1 with gen := r1.gen + 1 }, [], false, false, false, .none⟩
        let one (a : AppState) (i : Nat) : Except Half AppState :=
          let pos := poss.getD i 0
          a.token e x pos.toNat (segs.getD i 0)
            (fun h => s.rotated e x.ropeEn x.rope x.rot pos (row x.kIn kB i h)) (fun h => row x.vIn vB i h)
        match foldExcept one (List.range x.count) start with
        | .error st => kvFault s e st
        | .ok a =>
          if !a.wrote then plain labs 0
          else
            let (s, ok) := a.x.publish a.r e a.changed
            noted s e ok (if ok then a.note else .none) (flagIf (ok && a.evicted) 256 + flagIf (ok && a.copied) 512)

/-- The cache lines that a KV_APPEND reads: its root, the paths of its pages, and the pages that it copies because a token goes
below their FILL in a held generation. -/
def State.appendCacheLines (s : State) (e : Fin 7) (x : AppDesc) : List Nat :=
  let r := s.memberRoot e x.kv
  let poss := s.int1d e x.pos x.count fun i => (x.first + i : Nat)
  let own := poss.filterMap fun q => (r.localOf (q.toNat / 16)).map fun l => (l, q.toNat % 16)
  let copied (q : Nat × Nat) : List Nat := match s.engines[e].part, s.kvEntry r x.layer q.1 with
    | some p, .ok (some y) => if q.2 < s.heldFill p r.addr x.layer q.1 y.fill then r.pageLines y else []
    | _, _ => []
  if x.count = 0 then []
  else linesOf r.addr 512 ++ (destutter (own.map (·.1))).flatMap (fun l => s.kvWalkLines r x.layer l)
    ++ (own.map copied).eraseDups.flatten

/-- KV_APPEND on an engine. -/
def runKvAppend (c : EngCall) (s : State) : State :=
  let e := c.engine
  let x := appDesc c.desc
  s.runEngine c (s.judgeAppend e c.desc) (x.tensors.flatMap fun t => s.dataFoot e t) []
    (if x.count = 0 then [] else (x.tensors.flatMap fun t => s.tensorTouch e t) ++ lineTouch (s.appendCacheLines e x))
    (appendEffect e c.desc x)

/-! ## KV_EDIT (R220, R221) -/

/-- A KV_EDIT descriptor. -/
structure EditDesc where
  kv     : Tref
  op     : Nat
  layer  : Nat
  newFmt : Nat
  first  : Nat
  last   : Nat
  src    : Tref
  deriving DecidableEq, Repr

/-- The fields of a KV_EDIT descriptor. -/
def editDesc (d : List Byte) : EditDesc :=
  ⟨pagedTref d 32, leAt d 80 1, leAt d 81 1, leAt d 82 1, leAt d 84 4, leAt d 88 4, trefAt d 96⟩

/-- Checks 1 to 7 of a KV_EDIT. -/
def State.judgeEdit (s : State) (e : Fin 7) (d : List Byte) : Option Half :=
  let x := editDesc d
  let whole := x.op == 4 || x.op == 5
  let src := x.op == 5 && !x.src.absent
  s.judge e d 0x32 19
    (zeroAt d 83 1 && zeroAt d 92 4 && zeroAt d 144 8 && x.kv.pagedReservedOk
      && (if x.op = 5 then x.src.reservedOk else x.src.absent))
    (!src || x.src.fmt?.isSome)
    (!dMulti d && decide (x.op ≤ 5) && (decide (x.layer ≤ 63) || x.layer == 0xFF) && (x.op != 5 || x.layer == 0)
      && (if x.op = 3 then decide (x.newFmt ≤ 4) else x.newFmt == 0)
      && (if whole then x.first == 0 && x.last == 0 else decide (x.first ≤ x.last) && decide (x.last < 2 ^ 20))
      && x.kv.pagedOk x.kv.d0 0 x.kv.d2
      && (!src || (x.src.fmt? == some .int32 && x.src.layout == rowMajor && decide (x.src.d0 ≤ 64) && x.src.is2d x.src.d0 1
        && x.src.rangeOk false && x.src.sMode == 0)))
    ((if src then s.trefPlaces e x.src else []) ++ s.rootPlaces e x.kv)

/-- One change to a valid page; none when the edit leaves it as it is. -/
abbrev PageChange := KvEdit × KvRoot → Nat → Nat → Pte → Except Half (Option ((KvEdit × KvRoot) × Note))

/-- A change of an entry that reports nothing. -/
def quietly (r : Except Half (KvEdit × KvRoot)) : Except Half (Option ((KvEdit × KvRoot) × Note)) :=
  r.map fun y => some (y, .none)

/-- PIN: PINNED set. -/
def changePin : PageChange := fun (x, r) layer l p =>
  if p.pinned then .ok none
  else quietly (x.setEntry r layer l ({ p with pinned := true, gen := r.gen }.word))

/-- UNPIN: PINNED cleared, except on a page that holds a global position. -/
def changeUnpin : PageChange := fun (x, r) layer l p =>
  if !p.pinned || r.holdsGlobal (r.pageOf l) then .ok none
  else quietly (x.setEntry r layer l ({ p with pinned := false, gen := r.gen }.word))

/-- DROP: VALID cleared. -/
def changeDrop : PageChange := fun (x, r) layer l p => quietly (x.drop r layer l p)

/-- SET_GLOBALS: PINNED set on a page that holds a new global position. -/
def changeGlobal : PageChange := fun (x, r) layer l p =>
  if p.pinned || !r.holdsGlobal (r.pageOf l) then .ok none
  else quietly (x.setEntry r layer l ({ p with pinned := true, gen := r.gen }.word))

/-- A page rewritten into another format in a new slot; segments and FILL are kept (R221 CONVERT). -/
def convertPage (newFmt : Nat) (x : KvEdit) (r : KvRoot) (layer l : Nat) (p : Pte) (f g : Fmt) :
    Except Half ((KvEdit × KvRoot) × Note) :=
  match x.slot r true with
  | .error st => .error st
  | .ok (x, slot) =>
    let q := { p with frame := r.poolBase / 4096 + slot * r.frames, fmt := newFmt, gen := r.gen }
    let old := x.s.pageBytes r p f
    let x := (x.write (r.dataAddr q) (List.replicate (r.dataBytes g) 0)).write (r.sideAddr q)
      (old.side.take 64 ++ List.replicate (r.sideBytes - 64) 0)
    let (x, note) := (List.range (r.heads * 2 * p.fill)).foldl (fun (a : KvEdit × Note) k =>
      let t := k % p.fill
      let kv := k / p.fill % 2
      let h := k / p.fill / 2
      let (c, sc, n) := quantVector g ((List.range r.dim).map fun i => old.value h kv t i)
      (a.1.putVector r q g h kv t c sc, a.2.join n)) (x, .none)
    ((x.release r (r.slotOf p)).setEntry r layer l q.word).map fun y => (y, note)

/-- CONVERT of one page. -/
def changeConvert (newFmt : Nat) : PageChange := fun (x, r) layer l p =>
  match r.legal p.fmt, r.legal newFmt with
  | some f, some g => (convertPage newFmt x r layer l p f g).map some
  | _, _ => .error stKvFormat

/-- The local indices of a layer that an edit acts on: all of them, those of its range, or those of the new global positions. -/
def EditDesc.wanted (x : EditDesc) (r : KvRoot) (globals : List Int) : Wanted :=
  if x.op = 4 then wantAll
  else if x.op = 5 then fun lo hi => globals.any fun g => match r.localOf (g.toNat / 16) with
    | some l => decide (lo ≤ l) && decide (l < hi)
    | none => false
  else wantRange (r.localRange x.first x.last).1 (r.localRange x.first x.last).2

/-- Whether the root's DEPTH covers every local index that an edit names (R204; log entry 120). -/
def EditDesc.deepOk (x : EditDesc) (r : KvRoot) (globals : List Int) : Bool :=
  if x.op = 4 then true
  else if x.op = 5 then globals.all r.covers
  else r.deep (r.localRange x.first x.last).2

/-- The global positions that a root has after an edit. -/
def State.editGlobals (s : State) (e : Fin 7) (r : KvRoot) (x : EditDesc) : List Int :=
  if x.op = 5 then s.int1d e x.src x.src.d0 fun _ => 0 else r.globals

/-- The valid pages an edit acts on: the layers and the range it names. -/
def State.editPages (s : State) (e : Fin 7) (r : KvRoot) (x : EditDesc) : Except Half (List (Nat × Nat × Pte)) :=
  let layers := if x.layer = 0xFF ∨ x.op = 5 then List.range r.layers else [x.layer]
  let want := x.wanted r (s.editGlobals e r x)
  let all := layers.map fun l => match s.kvPages r l want with
    | .ok pages => some (pages.map fun p => (l, p.1, p.2))
    | .error _ => none
  if all.all Option.isSome then .ok (all.flatMap fun l => l.getD []) else .error stKvDir

/-- The effect of an edit whose checks passed: `change` acts on each page in its range; an edit that changes nothing
publishes nothing and sets NO_CHANGE. A data fault leaves the state as it was. -/
def editEffect (e : Fin 7) (d : List Byte) (x : EditDesc) (change : PageChange) (s : State) : Effect :=
  match s.engines[e].part with
  | none => kvFault s e stKvDir
  | some p =>
    let engines := s.parts[p].engines
    let r := s.memberRoot e x.kv
    let globals := s.editGlobals e r x
    let globalsOk := ascending globals && globals.all fun g => decide (0 ≤ g) && decide (g ≤ maxPosition engines)
    let chk := firstStatus
      [ r.fault engines s.engines[e].logical
      , require (r.dim == x.kv.d0 && r.heads == x.kv.d2 && (x.layer == 0xFF || decide (x.layer < r.layers))) stRange
      , require (x.op != 3 || (r.legal x.newFmt).isSome) stKvFormat
      , require (globalsOk && x.deepOk r globals) stKvLength ]
    match chk with
    | some st => kvFault s e st
    | none =>
      match s.editPages e r x with
      | .error st => kvFault s e st
      | .ok pages =>
        let (ed, r1) := (s.beginEdit p r.addr).shadow r (dStepId d)
        let r1 := { r1 with gen := r1.gen + 1, globals := globals, nGlobal := globals.length }
        let one (a : ((KvEdit × KvRoot) × Note) × List (Nat × Nat)) (q : Nat × Nat × Pte) :
            Except Half (((KvEdit × KvRoot) × Note) × List (Nat × Nat)) :=
          match change a.1.1 q.1 q.2.1 q.2.2 with
          | .error st => .error st
          | .ok none => .ok a
          | .ok (some (y, n)) => .ok ((y, a.1.2.join n), (q.1, q.2.1) :: a.2)
        match foldExcept one pages (((ed, r1), .none), []) with
        | .error st => kvFault s e st
        | .ok (((ed, r1), n), changed) =>
          if changed.isEmpty && globals == r.globals then plain s 256
          else
            let (s, ok) := ed.publish r1 e changed
            noted s e ok (if ok then n else .none) 0

/-- The cache lines an edit reads. -/
def State.editCacheLines (s : State) (e : Fin 7) (x : EditDesc) : List Nat :=
  let r := s.memberRoot e x.kv
  linesOf r.addr 512
    ++ (match s.editPages e r x with
      | .ok pages => pages.flatMap fun p =>
          s.kvWalkLines r p.1 p.2.1 ++ (if x.op = 3 then r.pageLines p.2.2 else [])
      | .error _ => [])

/-- A KV_EDIT of one kind on an engine. -/
def runKvEdit (c : EngCall) (change : PageChange) (s : State) : State :=
  let e := c.engine
  let x := editDesc c.desc
  let src := if x.op = 5 && !x.src.absent then [x.src] else []
  s.runEngine c (s.judgeEdit e c.desc) (src.flatMap fun t => s.dataFoot e t) []
    ((src.flatMap fun t => s.tensorTouch e t) ++ lineTouch (s.editCacheLines e x)) (editEffect e c.desc x change)

/-- Whether a descriptor spells another KV_EDIT than EDIT_OP `op`, or another opcode. -/
def otherEdit (d : List Byte) (op : Nat) : Bool :=
  otherOpcode d 0x32 || (dOpcode d == 0x32 && decide ((editDesc d).op ≤ 5) && (editDesc d).op != op)

end Sys2Proof.Machine
end

