-- ==== Sys2Proof/Machine/Moe.lean ====
section
/-!
DEFINITION. Mixtures of experts: ROUTE, and EXCHANGE with its rendezvous (08_experts_and_adaptation.md, R231 to R245).
-/
namespace Sys2Proof.Machine

/-- EXCH_MISMATCH. -/ abbrev stExchMismatch : Half := 0x0140
/-- CTX_RANGE. -/ abbrev stCtxRange : Half := 0x0141

/-- A two-dimensional ROW_MAJOR operand of a format without scale entries. -/
def Tref.plain2d (t : Tref) (f : Fmt) (d0 d1 : Nat) (out : Bool) : Bool :=
  t.fmt? == some f && t.rows3 d0 d1 1 out

/-! ## ROUTE (R233 to R237) -/

/-- A ROUTE descriptor. -/
structure RouteDesc where
  logits : Tref
  ctx    : Tref
  table  : Tref
  e      : Nat
  topk   : Nat
  norm   : Nat
  cap    : Nat
  ctxMax : Nat
  t      : Nat
  map    : List Byte
  deriving DecidableEq, Repr

/-- The fields of a ROUTE descriptor. -/
def routeDesc (d : List Byte) : RouteDesc :=
  ⟨trefAt d 32, trefAt d 80, trefAt d 128, leAt d 176 1, leAt d 177 1, leAt d 178 1, leAt d 180 2, leAt d 182 2,
    leAt d 184 4, sliceAt d 192 48⟩

/-- The member of a home. -/
def homeMember (b : Byte) : Nat := b.toNat / 8 % 8

/-- Whether no two bytes of a list are the same home. -/
def homesDistinct : List Byte → Bool
  | [] => true
  | b :: rest => !(rest.any fun x => x.toNat % 64 == b.toNat % 64) && homesDistinct rest

/-- Whether a format is one of FP32, BF16, FP16. -/
def wideFmt (f : Option Fmt) : Bool := f == some .fp32 || f == some .bf16 || f == some .fp16

/-- Ranges of a ROUTE (R233, R234), without the overlap rule. -/
def RouteDesc.rangeOk (x : RouteDesc) (members : Nat) : Bool :=
  within 1 48 x.e && within 1 2 x.topk && decide (x.norm ≤ 1) && within 1 4096 x.cap && within 1 1024 x.ctxMax
    && decide (x.t ≤ 16384) && (x.topk == 1 || x.e != 1)
    && ((x.map.take x.e).all fun b => decide (homeMember b < members)) && homesDistinct (x.map.take x.e)
    && (x.map.drop x.e).all (· == 0)
    && wideFmt x.logits.fmt? && x.logits.rows3 x.e x.t 1 false
    && (x.ctx.absent || x.ctx.plain2d .int32 x.t 1 false)
    && x.table.plain2d .uint8 32 x.t true && x.table.space == 2

/-- The operands a ROUTE reads. -/
def RouteDesc.inputs (x : RouteDesc) : List Tref := if x.ctx.absent then [x.logits] else [x.logits, x.ctx]

/-- Checks 1 to 7 of a ROUTE. -/
def State.judgeRoute (s : State) (e : Fin 7) (d : List Byte) : Option Half :=
  let x := routeDesc d
  s.judge e d 0x40 31
    (zeroAt d 179 1 && zeroAt d 188 4 && zeroAt d 240 8 && (x.map.all fun b => decide (b.toNat < 64))
      && (x.inputs.all Tref.reservedOk) && x.table.reservedOk)
    ((x.inputs ++ [x.table]).all fun t => t.fmt?.isSome)
    (x.rangeOk (s.engineCount e)
      && !feetMeet (s.dataFoot e x.table) (x.inputs.flatMap fun t => s.dataFoot e t))
    ((x.inputs ++ [x.table]).flatMap fun t => s.trefPlaces e t)

/-- The experts by logit, highest first, equal logits to the lower number (R235): the first three. -/
def rankExperts (l : List Word) : List Nat :=
  let pick (cands : List (Word × Nat)) : Option (Word × Nat) := match cands with
    | [] => none
    | c :: rest => some (rest.foldl (fun b y => if fgt y.1 b.1 then y else b) c)
  let step (acc : List Nat × List (Word × Nat)) (_ : Nat) : List Nat × List (Word × Nat) :=
    match pick acc.2 with
    | none => acc
    | some c => (acc.1 ++ [c.2], acc.2.filter fun y => y.2 != c.2)
  ((List.range 3).foldl step ([], l.zipIdx)).1

/-- The gate weights of a token's picks (R235). -/
def gateWeights (x : RouteDesc) (l : List Word) (r : List Nat) : Word × Word :=
  let at_ (k : Nat) : Word := l.getD (r.getD k 0) 0
  if x.norm = 0 then
    if x.topk = 1 then (fp32One, 0)
    else
      let e2 := fexp (fsub (at_ 1) (at_ 0))
      let w1 := frcp (fadd fp32One e2)
      (w1, fmul e2 w1)
  else
    let inv := frcp (reduceLine fadd 0 (l.map fun v => fexp (fsub v (at_ 0))))
    (fmul (fexp (fsub (at_ 0) (at_ 0))) inv,
      if x.topk = 1 then 0 else fmul (fexp (fsub (at_ 1) (at_ 0))) inv)

/-- An entry of the dispatch table (R237). -/
structure Pick where
  kind   : Nat
  expert : Nat
  choice : Nat
  weight : Word
  row    : Nat
  deriving DecidableEq, Repr

/-- The entry NONE. -/
def Pick.none : Pick := ⟨0, 0xFF, 0, 0, 0⟩

/-- An entry of the shared expert. -/
def Pick.shared (w : Word) : Pick := ⟨2, 0xFF, 0, w, 0⟩

/-- The 16 bytes of an entry. -/
def Pick.bytes (p : Pick) : List Byte :=
  leBytes 1 p.kind ++ leBytes 1 p.expert ++ leBytes 1 p.choice ++ [0] ++ leBytes 4 p.weight.toNat ++ leBytes 4 p.row
    ++ leBytes 4 0

/-- An entry read from 16 bytes. -/
def pickOf (b : List Byte) : Pick :=
  ⟨leAt b 0 1, leAt b 1 1, leAt b 2 1, BitVec.ofNat 32 (leAt b 4 4), leAt b 8 4⟩

/-- The picks served so far: for each a context and an expert. -/
abbrev Served := List (Int × Nat)

/-- The first expert of a chain of (rank, expert) that the token has not taken and that has room (R236). -/
def walkChain (cap : Nat) (ctx : Int) (served : Served) (taken : List Nat) (chain : List (Nat × Nat)) :
    Option (Nat × Nat) :=
  chain.find? fun c => !taken.contains c.2 && decide (served.count (ctx, c.2) < cap)

/-- What the visit of a token yields: its two entries, the picks served, and its counts. -/
structure Visited where
  entries : List Pick
  served  : Served
  second  : Nat
  shared  : Nat
  nans    : Nat
  nan     : Bool
  deriving DecidableEq, Repr

/-- One pick of a token: its entry, and the counts of overflow (R236). -/
def servePick (x : RouteDesc) (ctx : Int) (w : Word) (chain : List (Nat × Nat)) (taken : List Nat) (v : Visited) :
    Visited × List Nat :=
  match walkChain x.cap ctx v.served taken chain with
  | some (rank, ex) =>
    ({ v with
        entries := v.entries ++ [⟨1, ex, rank, w, 0⟩]
        served := (ctx, ex) :: v.served
        second := v.second + (if chain.head? = some (rank, ex) then 0 else 1) }, ex :: taken)
  | none => ({ v with entries := v.entries ++ [Pick.shared w], shared := v.shared + 1 }, taken)

/-- The visit of a token with its ordinal and logits (R235, R236). -/
def routeToken (x : RouteDesc) (v : Visited) (tok : Int × List Word) : Visited :=
  let (ctx, l) := tok
  if ctx = -1 then { v with entries := v.entries ++ [Pick.none, Pick.none] }
  else if l.any isNaN then
    { v with entries := v.entries ++ [Pick.shared fp32One, Pick.none], nans := v.nans + 1, nan := true }
  else
    let r := rankExperts l
    let chain (ks : List Nat) : List (Nat × Nat) := ks.filterMap fun k => (r[k - 1]?).map fun ex => (k, ex)
    let (w1, w2) := gateWeights x l r
    let v := { v with nan := v.nan || isNaN w1 || isNaN w2 }
    if x.topk = 1 then
      let (v, _) := servePick x ctx w1 (chain [1, 2]) [] v
      { v with entries := v.entries ++ [Pick.none] }
    else
      let (v, taken) := servePick x ctx w1 (chain [1, 3]) [] v
      (servePick x ctx w2 (chain [2, 3]) taken v).1

/-- The effect of a ROUTE whose checks passed. -/
def routeEffect (e : Fin 7) (d : List Byte) (x : RouteDesc) (s : State) : Effect :=
  let s := s.dropHeld e d
  if x.t = 0 then plain (s.countEngine e Eng.zeroExtents 1) flZeroExtent
  else
    let ctxs := s.int1d e x.ctx x.t fun _ => 0
    if ctxs.any fun c => decide (c < -1) || decide (c ≥ x.ctxMax) then ⟨s, stCtxRange, 0⟩
    else
      let bs := (s.tensorBytes e x.logits).getD []
      let toks := (List.range x.t).map fun t =>
        (ctxs.getD t 0, (List.range x.e).map fun j => (x.logits.elem bs ⟨j, t, 0, 0⟩).f32)
      let v := toks.foldl (routeToken x) ⟨[], [], 0, 0, 0, false⟩
      let picks := v.entries.countP fun p => p.kind != 0
      let s := (((s.countEngine e Eng.routedPicks picks).countEngine e Eng.overflowSecond v.second).countEngine e
        Eng.overflowShared v.shared).countEngine e Eng.routeNans v.nans
      let s := s.onEngine e fun g => { g with
        routeMaps := (x.table.addr, x.map) :: g.routeMaps.filter fun m => m.1 != x.table.addr }
      let (s, ok) := s.pokes (.paddock e) ((v.entries.zipIdx).map fun p =>
        (x.table.addr + 16 * p.2, p.1.bytes))
      noted s e ok ⟨v.nan, false, 0, false⟩ (flagIf (decide (v.second + v.shared > 0)) 256 + flagIf (decide (v.nans > 0)) 512)

/-- ROUTE on an engine. -/
def runRoute (c : EngCall) (s : State) : State :=
  let e := c.engine
  let x := routeDesc c.desc
  s.runEngine c (s.judgeRoute e c.desc) (x.inputs.flatMap fun t => s.dataFoot e t) (s.dataFoot e x.table)
    (x.inputs.flatMap fun t => s.tensorTouch e t) (routeEffect e c.desc x)

/-! ## EXCHANGE (R238 to R244) -/

/-- An EXCHANGE descriptor. -/
structure ExchDesc where
  src      : Tref
  table    : Tref
  aux      : Tref
  dst      : Tref
  countOff : Nat
  exchId   : Nat
  phase    : Nat
  topk     : Nat
  inbox    : Nat
  cap      : Nat
  ctxMax   : Nat
  deriving DecidableEq, Repr

/-- The fields of an EXCHANGE descriptor. -/
def exchDesc (d : List Byte) : ExchDesc :=
  ⟨trefAt d 32, trefAt d 80, trefAt d 128, trefAt d 176, leAt d 224 4, leAt d 228 2, leAt d 230 1, leAt d 231 1,
    leAt d 232 4, leAt d 236 2, leAt d 238 2⟩

/-- Tokens of an EXCHANGE on a member. -/
def ExchDesc.tokens (x : ExchDesc) : Nat := if x.phase = 0 then x.src.d1 else x.dst.d1

/-- The tensor in the arena: INBOX or OUTBOX. -/
def ExchDesc.arena (x : ExchDesc) : Tref := if x.phase = 0 then x.dst else x.src

/-- The fields that must agree across members (R240). -/
def ExchDesc.agree (x : ExchDesc) : List Nat :=
  let a := x.arena
  [x.exchId, x.phase, x.inbox, x.countOff, x.topk, x.cap, x.ctxMax, a.addr, a.code, a.d0, a.s1, a.s2, a.s3]

/-- A two-dimensional ROW_MAJOR operand with PER_ROW entries or none. -/
def Tref.grid (t : Tref) (d0 d1 mode : Nat) (out : Bool) : Bool :=
  t.layout == rowMajor && t.d0 == d0 && t.d1 == d1 && t.d2 == 1 && t.d3 == 1 && t.rangeOk out && t.sMode == mode

/-- Ranges of an EXCHANGE in a partition of `members` engines (R238), without the overlap rule. -/
def ExchDesc.rangeOk (x : ExchDesc) (members : Nat) : Bool :=
  let rows := members * 8 * x.inbox
  let t := x.tokens
  decide (x.phase ≤ 1) && within 1 2 x.topk && within 1 65536 x.inbox && within 1 4096 x.cap && within 1 1024 x.ctxMax
    && decide (members * x.ctxMax * x.cap ≤ x.inbox) && x.countOff % 64 == 0 && decide (t ≤ 16384)
    && x.table.plain2d .uint8 32 t true && x.table.space == 2
    && (if x.phase = 0 then
        (x.src.sMode == 0 || (x.src.sMode == 1 && x.src.fmt.isInt))
          && x.src.grid x.src.d0 t x.src.sMode false && x.aux.grid x.src.d0 t x.src.sMode true
          && x.dst.grid x.src.d0 rows x.src.sMode true && x.aux.code == x.src.code && x.dst.code == x.src.code
          && x.src.space == 2 && x.aux.space == 2 && x.dst.space == 1
      else
        wideFmt x.src.fmt? && wideFmt x.aux.fmt? && wideFmt x.dst.fmt?
          && x.src.grid x.src.d0 rows 0 false && x.aux.grid x.src.d0 t 0 false && x.dst.grid x.src.d0 t 0 true
          && x.src.space == 1 && x.aux.space == 2 && x.dst.space == 2)

/-- Bytes of the counts of a partition's blocks. -/
def countBytes (members : Nat) : Nat := members * 8 * 4

/-- The footprints that an EXCHANGE reads, without the arena tensor. -/
def State.exchReads (s : State) (e : Fin 7) (x : ExchDesc) : List Foot :=
  s.dataFoot e x.table ++ (if x.phase = 0 then s.trefFeet e x.src else s.dataFoot e x.aux)

/-- The footprints that an EXCHANGE writes on its member, without the arena tensor and the ROW fields. -/
def State.exchWrites (s : State) (e : Fin 7) (x : ExchDesc) : List Foot :=
  if x.phase = 0 then s.trefFeet e x.aux else s.dataFoot e x.dst

/-- Where the entry of pick `k` of token `t` lies in a dispatch table (R237). -/
def ExchDesc.entryAt (x : ExchDesc) (t k : Nat) : Nat := x.table.addr + 32 * t + 16 * k

/-- The ROW fields that a DISPATCH writes. -/
def State.rowFields (s : State) (e : Fin 7) (x : ExchDesc) : List Foot :=
  if x.phase = 0 then
    (List.range x.tokens).flatMap fun t => (List.range x.topk).flatMap fun k => s.footOf e 2 (x.entryAt t k + 8) 4
  else []

/-- Every footprint that an EXCHANGE writes but for the ROW fields. -/
def State.exchOutputs (s : State) (e : Fin 7) (x : ExchDesc) : List Foot :=
  if x.phase = 0 then
    s.trefFeet e x.aux ++ s.trefFeet e x.dst ++ s.footOf e 1 x.countOff (countBytes (s.engineCount e))
  else s.dataFoot e x.dst

/-- Every footprint that an EXCHANGE reads. -/
def State.exchInputs (s : State) (e : Fin 7) (x : ExchDesc) : List Foot :=
  if x.phase = 0 then s.trefFeet e x.src ++ s.dataFoot e x.table
  else s.dataFoot e x.src ++ s.dataFoot e x.table ++ s.dataFoot e x.aux

/-- Checks 1 to 7 of an EXCHANGE. -/
def State.judgeExch (s : State) (e : Fin 7) (d : List Byte) : Option Half :=
  let x := exchDesc d
  let ts := [x.src, x.table, x.aux, x.dst]
  s.judge e d 0x41 31
    (zeroAt d 240 8 && ts.all Tref.reservedOk)
    (ts.all fun t => t.fmt?.isSome)
    (x.rangeOk (s.engineCount e) && !feetMeet (s.exchOutputs e x) (s.exchInputs e x)
      && !feetMeet (s.rowFields e x) (s.trefFeet e x.src))
    (s.placeStatus e 1 x.countOff (countBytes (s.engineCount e)) :: ts.flatMap fun t => s.trefPlaces e t)

/-- The arena blocks of a member in a tensor of `rows` rows per block of eight (R242). -/
def blockFoot (t : Tref) (inbox m : Nat) : Foot :=
  let lo := t.addr + m * 8 * inbox * t.s1
  ⟨.arena, lo, lo + (8 * inbox - 1) * t.s1 + ceilDiv (t.d0 * t.fmt.nibbles) 2⟩

/-- Areas without those of a tensor's blocks. -/
def dropAreas (l : List (Option (Fin 7) × Foot)) (blocks : List Foot) : List (Option (Fin 7) × Foot) :=
  l.filter fun a => !blocks.contains a.2

/-- Areas given to an owner. -/
def giveAreas (l : List (Option (Fin 7) × Foot)) (blocks : List Foot) (owner : Option (Fin 7)) : List (Option (Fin 7) × Foot) :=
  dropAreas l blocks ++ blocks.map fun b => (owner, b)

/-- The arena blocks of the exchanges among commands, for `n` members: before their DISPATCH completes they belong to the EXCHANGE
alone (R242). -/
def exchBlocks (cmds : List (List Byte)) (n : Nat) : List Foot :=
  ((cmds.filter fun d => dOpcode d == 0x41).flatMap fun d =>
    (List.range n).map (blockFoot (exchDesc d).arena (exchDesc d).inbox)).eraseDups

/-- The INBOX and OUTBOX blocks of a member in the exchange of a command, as the member's posted list names them (R242). -/
def State.memberBlocks (s : State) (r : StepRun) (e : Fin 7) (x : ExchDesc) : List Foot :=
  let same := (s.posted r e).filter fun d => dOpcode d == 0x41 && (exchDesc d).exchId == x.exchId
  ((x :: same.map exchDesc).map fun y => blockFoot y.arena y.inbox s.engines[e].logical).eraseDups

/-- The ownership of the arena blocks when an EXCHANGE is issued: a COMBINE returns the issuing member's blocks to the EXCHANGE
alone, whose they are before a DISPATCH completes (R242). -/
def State.exchClaim (s : State) (p : Fin 6) (e : Fin 7) (x : ExchDesc) : State :=
  s.onStep p fun r => { r with exchAreas := giveAreas r.exchAreas (s.memberBlocks r e x) none }

/-- An EXCHANGE issued on a member: it waits for its rendezvous, where its rows move (R240). -/
def State.issueExch (s : State) (c : EngCall) : State :=
  match s.engines[c.engine].part with
  | none => s
  | some p =>
    ((s.dropHeld c.engine c.desc).exchClaim p c.engine (exchDesc c.desc)).onStep p fun r => { r with
      exchanges := r.exchanges ++ [⟨c.engine, c.desc, c.cycles⟩] }

/-- The table entries of a token that count: TOPK of them. -/
def State.picksOf (s : State) (e : Fin 7) (x : ExchDesc) (t : Nat) : List (Nat × Pick) :=
  (List.range x.topk).map fun k => (k, pickOf (s.peek (.paddock e) (x.entryAt t k) 16))

/-- The token rows that an EXCHANGE reads on its member: of SRC those of the tokens with a pick, of SHARED_RES those of the tokens
with a pick of the shared expert. -/
def State.readRows (s : State) (e : Fin 7) (x : ExchDesc) : List Nat :=
  (List.range x.tokens).filter fun t =>
    (s.picksOf e x t).any fun p => if x.phase = 0 then p.2.kind == 1 || p.2.kind == 2 else p.2.kind == 2

/-- One row of a tensor. -/
def Tref.rowAt (t : Tref) (r : Nat) : Tref := { t with addr := t.addr + r * t.s1, d1 := 1 }

/-- The bytes an EXCHANGE reads on its member. -/
def State.exchTouch (s : State) (e : Fin 7) (x : ExchDesc) : List Foot :=
  let t := if x.phase = 0 then x.src else x.aux
  (s.footOf e 2 x.table.addr (32 * x.tokens))
    ++ ((s.readRows e x).flatMap fun r => s.tensorTouch e (t.rowAt r)
      ++ (if t.sMode = 1 then s.footOf e t.sSpace (t.sAddr + 4 * r) 4 else []))

/-- The scale entry of a row. -/
def State.rowEntry (s : State) (e : Fin 7) (t : Tref) (r : Nat) : List Byte :=
  if t.sMode = 1 then s.peekSpace e t.sSpace (t.sAddr + 4 * r) 4 else []

/-- Whether every PER_ROW entry that an EXCHANGE reads is valid (R177). -/
def State.rowsValid (s : State) (e : Fin 7) (x : ExchDesc) : Bool :=
  x.phase != 0 || x.src.sMode != 1
    || (s.readRows e x).all fun r => (scaleRow x.src.fmt (s.rowEntry e x.src r)).isSome

/-- An EXCHANGE on a member: a failed check or access, or a scale entry that is not valid, ends it; otherwise it is issued and
waits for its rendezvous. -/
def runExchange (c : EngCall) (s : State) : State :=
  let e := c.engine
  let x := exchDesc c.desc
  s.enterEngine c (s.judgeExch e c.desc) (s.exchReads e x) (s.exchWrites e x ++ s.rowFields e x) (s.exchTouch e x) fun s =>
    if s.rowsValid e x then s.issueExch c else s.finish e c.desc stScaleInvalid 0 c.cycles

/-- Whether a descriptor spells another phase of EXCHANGE, or another opcode. -/
def otherPhase (d : List Byte) (phase : Nat) : Bool :=
  otherOpcode d 0x41 || (dOpcode d == 0x41 && decide ((exchDesc d).phase ≤ 1) && (exchDesc d).phase != phase)

/-! ## The rendezvous (R240, R241, R243) -/

/-- A member at a rendezvous. -/
structure AtRdv where
  engine  : Fin 7
  logical : Nat
  x       : ExchDesc
  desc    : List Byte
  cycles  : Word
  deriving DecidableEq, Repr

/-- The home of an expert in the MAP of the ROUTE that wrote a table: member × 8 + slot. A table that no ROUTE of the
step wrote has homes that the spec does not state: a free value (log entry 13). -/
def State.homeOf (s : State) (m : AtRdv) (expert members : Nat) : Nat :=
  match s.engines[m.engine].routeMaps.find? fun r => r.1 == m.x.table.addr with
  | some r =>
    let b := byteAt r.2 expert
    homeMember b * 8 + b.toNat % 8
  | none => Config.freeHome expert % (members * 8)

/-- A row that a member sends: its token, its pick, its block and its place in the block. -/
structure Sent where
  m     : AtRdv
  token : Nat
  pick  : Nat
  block : Nat
  place : Nat
  deriving DecidableEq, Repr

/-- The rows that the members send, in the order of R241: source member, token, pick. -/
def State.sentRows (s : State) (ms : List AtRdv) : List Sent :=
  let wanted := ms.flatMap fun m => (List.range m.x.tokens).flatMap fun t =>
    (s.picksOf m.engine m.x t).filterMap fun p =>
      if p.2.kind = 1 then some (m, t, p.1, s.homeOf m p.2.expert ms.length) else none
  (wanted.foldl (fun (acc : List Sent × (Nat → Nat)) w =>
    let n := acc.2 w.2.2.2
    (⟨w.1, w.2.1, w.2.2.1, w.2.2.2, n⟩ :: acc.1, fun b => if b = w.2.2.2 then n + 1 else acc.2 b))
    ([], fun _ => 0)).1.reverse

/-- The codes of a row of a tensor. -/
def State.rowCodes (s : State) (e : Fin 7) (t : Tref) (r : Nat) : List Nat :=
  let u := t.rowAt r
  let bs := s.peekSpace e u.space u.addr u.footBytes
  (List.range t.d0).map fun i => u.elemCode bs ⟨i, 0, 0, 0⟩

/-- A row of a tensor written, with its scale entry where the tensor has them. -/
def State.putRow (s : State) (e : Fin 7) (t : Tref) (r : Nat) (codes : List Nat) (entry : List Byte) : State × Bool :=
  let (s, ok) := if t.d0 = 0 then (s, true) else s.writeTensor e (t.rowAt r) fun i => codes.getD i.i0 0
  if ok && t.sMode == 1 then s.pokeSpace e t.sSpace (t.sAddr + 4 * r) entry else (s, ok)

/-- The entry of a zero row: SCALE +0.0, ZP 0 (R173). -/
def zeroEntry : List Byte := [0, 0, 0, 0]

/-- Writes in order; the flag falls at the first that is refused. -/
def foldWrites {α : Type} (f : State → α → State × Bool) : List α → State → State × Bool
  | [], s => (s, true)
  | a :: rest, s =>
    match f s a with
    | (s, true) => foldWrites f rest s
    | (s, false) => (s, false)

/-- The rows of a DISPATCH placed in the inbox. -/
def State.placeRows (s : State) (sent : List Sent) : State × Bool :=
  foldWrites (fun s w =>
    let x := w.m.x
    if w.place < x.inbox then
      s.putRow w.m.engine x.dst (w.block * x.inbox + w.place) (s.rowCodes w.m.engine x.src w.token)
        (s.rowEntry w.m.engine x.src w.token)
    else (s, true)) sent s

/-- The ROW fields and SHARED_IN of a member in a DISPATCH. -/
def State.dispatchMember (s : State) (sent : List Sent) (m : AtRdv) : State × Bool :=
  let x := m.x
  foldWrites (fun s t =>
    let picks := s.picksOf m.engine x t
    let rows := picks.filterMap fun p =>
      if p.2.kind = 1 then
        (sent.find? fun w => w.m.engine == m.engine && w.token == t && w.pick == p.1).map fun w =>
          (x.entryAt t p.1 + 8, leBytes 4 (w.block * x.inbox + w.place))
      else if p.2.kind = 2 then some (x.entryAt t p.1 + 8, leBytes 4 t)
      else none
    let (s, _) := s.pokes (.paddock m.engine) rows
    if picks.any fun p => p.2.kind == 2 then
      s.putRow m.engine x.aux t (s.rowCodes m.engine x.src t) (s.rowEntry m.engine x.src t)
    else s.putRow m.engine x.aux t [] zeroEntry) (List.range x.tokens) s

/-- The counts and the filler rows of a member's own blocks in a DISPATCH. -/
def State.fillBlocks (s : State) (sent : List Sent) (m : AtRdv) : State × Bool :=
  let x := m.x
  foldWrites (fun s slot =>
    let b := m.logical * 8 + slot
    let n := sent.countP fun w => w.block == b
    let (s, _) := s.pokeSpace m.engine 1 (x.countOff + 4 * b) (leBytes 4 n)
    foldWrites (fun s r => s.putRow m.engine x.dst (b * x.inbox + n + r) [] zeroEntry) (List.range (x.inbox - n)) s)
    (List.range 8) s

/-- The result of a COMBINE for one token (R243). -/
def State.combineToken (s : State) (m : AtRdv) (t : Nat) : List Word :=
  let x := m.x
  let zero := List.replicate x.dst.d0 (0 : Word)
  (s.picksOf m.engine x t).foldl (fun acc p =>
    if p.2.kind = 0 then acc
    else
      let (u, r) := if p.2.kind = 1 then (x.src, p.2.row) else (x.aux, t)
      let v := (s.rowCodes m.engine u r).map fun c => (decodeElem u.fmt c).f32
      (acc.zipIdx).map fun a => ffma p.2.weight (v.getD a.2 0) a.1) zero

/-- A COMBINE of a member: OUT written, and what its conversions report. -/
def State.combineMember (s : State) (m : AtRdv) : State × Bool × Note :=
  let x := m.x
  let rows := (List.range x.tokens).map fun t =>
    (t, (s.combineToken m t).map fun w => encodeElem x.dst.fmt (dOutSat m.desc) (.flt w))
  let (s, ok) := foldWrites (fun s r => s.putRow m.engine x.dst r.1 (r.2.map (·.1)) []) rows s
  (s, ok, joinNotes (rows.flatMap fun r => r.2.map (·.2)))

/-- The completion of a member whose phase has landed (R240, R244). -/
def State.finishExch (s : State) (m : AtRdv) (ok : Bool) (n : Note) : State :=
  let r := noted s m.engine ok n (flagIf (decide (m.x.tokens = 0)) flZeroExtent)
  let s := if m.x.tokens = 0 then r.s.countEngine m.engine Eng.zeroExtents 1 else r.s
  s.finish m.engine m.desc r.status r.flags m.cycles

/-- A DISPATCH whose members have all issued it. -/
def State.dispatchAll (s : State) (p : Fin 6) (ms : List AtRdv) : State :=
  let sent := s.sentRows ms
  let (s, ok) := s.placeRows sent
  let fill (acc : State × List (AtRdv × Bool)) (m : AtRdv) : State × List (AtRdv × Bool) :=
    let (s, a) := acc.1.dispatchMember sent m
    let (s, b) := s.fillBlocks sent m
    let n := sent.countP fun w => w.m.engine == m.engine
    (s.countEngine m.engine Eng.exchRows n, acc.2 ++ [(m, ok && a && b)])
  let (s, ends) := ms.foldl fill (s, [])
  let s := s.onStep p fun r => { r with
    exchAreas := ms.foldl (fun l m => giveAreas l (s.memberBlocks r m.engine m.x) (some m.engine)) r.exchAreas
    exchCounts := r.exchCounts ++ ((ms.head?.map fun m => (m.x.exchId, m.x.countOff)).toList) }
  ends.foldl (fun s m => s.finishExch m.1 m.2 .none) s

/-- A COMBINE whose members have all issued it. -/
def State.combineAll (s : State) (ms : List AtRdv) : State :=
  ms.foldl (fun s m =>
    let (s, ok, n) := s.combineMember m
    s.finishExch m ok n) s

/-- The members of a step that wait at a rendezvous, in ascending logical index. -/
def State.waiting (s : State) (p : Fin 6) : List AtRdv :=
  match s.parts[p].step with
  | none => []
  | some r => r.members.filterMap fun e =>
    (r.exchanges.find? fun i => i.engine == e).map fun i =>
      ⟨e, s.engines[e].logical, exchDesc i.desc, i.desc, i.cycles⟩

/-- The engines that the step in progress was posted to, a member fenced since among them (R240). -/
def State.stepMembers (s : State) (p : Fin 6) : List (Fin 7) :=
  match s.parts[p].step with
  | some r => r.members
  | none => []

/-- The rendezvous of an exchange: nothing until every member has issued one; then the phase lands and every member
completes, or every member completes with EXCH_MISMATCH (R240). -/
def rendezvous (p : Fin 6) (exchId : Half) (phase : Fin 2) (s : State) : State :=
  let ms := s.waiting p
  match ms with
  | [] => s
  | m :: _ =>
    if ms.length ≠ (s.stepMembers p).length then s
    else if !(ms.any fun k => k.x.exchId == exchId.toNat && k.x.phase == phase.val) then s
    else
      let s := s.onStep p fun r => { r with exchanges := [] }
      if ms.all fun k => k.x.agree == m.x.agree then
        if m.x.phase = 0 then s.dispatchAll p ms else s.combineAll ms
      else ms.foldl (fun s k => s.finish k.engine k.desc stExchMismatch 0 k.cycles) s

/-- EXCHANGE_RENDEZVOUS: completion of an exchange on every member (R240). -/
def execExchangeRendezvous (p : Fin 6) (exchId : Half) (phase : Fin 2) (s : State) : Host.Outcome State Fault Refusal :=
  done s (rendezvous p exchId phase s)

end Sys2Proof.Machine
end

