-- ==== Sys2Proof/Machine/Recipe.lean ====
section
/-!
DEFINITION. Recipes: their envelope, sections, chains, templates, patch tables, bounds and declarations, and the checks of
R435 (14_boot_identity_and_events.md, R428 to R435; 09, R264, R276; 10, R290 to R292).
-/
namespace Sys2Proof.Machine

/-! ## REASON codes (R260, R292, R307, R341; R330) -/

/-- NONE. -/ abbrev reNone : Byte := 0x00
/-- GALLOP_NOT_RESERVED. -/ abbrev reGallopNotReserved : Byte := 0x01
/-- NO_ARRIVAL_DECL. -/ abbrev reNoArrivalDecl : Byte := 0x02
/-- NO_FALLBACK. -/ abbrev reNoFallback : Byte := 0x03
/-- STEP_OVER_200US. -/ abbrev reStepOver : Byte := 0x04
/-- BANDWIDTH_SHORT. -/ abbrev reBandwidthShort : Byte := 0x05
/-- RATE_EXCEEDS_SERVICE. -/ abbrev reRateExceeds : Byte := 0x06
/-- DEADLINE_UNMET. -/ abbrev reDeadlineUnmet : Byte := 0x07
/-- RESERVED_NONZERO. -/ abbrev reReserved : Byte := 0x08
/-- PLAN_FORMAT. -/ abbrev rePlanFormat : Byte := 0x10
/-- PLAN_GAITS. -/ abbrev rePlanGaits : Byte := 0x11
/-- PLAN_ENGINES. -/ abbrev rePlanEngines : Byte := 0x12
/-- PLAN_REGIONS. -/ abbrev rePlanRegions : Byte := 0x13
/-- PLAN_PORTS. -/ abbrev rePlanPorts : Byte := 0x14
/-- PLAN_TAGS. -/ abbrev rePlanTags : Byte := 0x15
/-- CONTEXT_RESERVE. -/ abbrev reContextReserve : Byte := 0x16
/-- RECIPE_ABI. -/ abbrev reRecipeAbi : Byte := 0x17
/-- CONTRACT_REV. -/ abbrev reContractRev : Byte := 0x18
/-- PLAN_BUSY. -/ abbrev rePlanBusy : Byte := 0x19
/-- ENGINE_LOSS. -/ abbrev reEngineLoss : Byte := 0x1A
/-- SCHEDULE_FORMAT. -/ abbrev reScheduleFormat : Byte := 0x1B
/-- SLOT_FORMAT. -/ abbrev reSlotFormat : Byte := 0x1C
/-- SLOT_CLASH. -/ abbrev reSlotClash : Byte := 0x1D
/-- SLOT_SHORT. -/ abbrev reSlotShort : Byte := 0x1E
/-- RECOVERY_SHORT. -/ abbrev reRecoveryShort : Byte := 0x1F
/-- SOURCE_LOST. -/ abbrev reSourceLost : Byte := 0x20

/-- The first reason that stands. -/
def firstReason : List (Option Byte) → Option Byte
  | [] => none
  | some r :: _ => some r
  | none :: rest => firstReason rest

/-- A reason when a condition fails. -/
def refuse (ok : Bool) (r : Byte) : Option Byte := if ok then none else some r

/-! ## The envelope and its sections (R428 to R430) -/

/-- LENGTH. -/
def recLength (b : List Byte) : Nat := leAt b 8 4

/-- Offset of section `k`. -/
def secOff (b : List Byte) (k : Nat) : Nat := leAt b (80 + 8 * k) 4

/-- Length of section `k`. -/
def secLen (b : List Byte) (k : Nat) : Nat := leAt b (84 + 8 * k) 4

/-- The bytes of section `k`; none where it leaves the recipe. -/
def section_ (b : List Byte) (k : Nat) : List Byte := (b.drop (secOff b k)).take (secLen b k)

/-- Sections by index (R430). -/ abbrev secLayouts := 0
/-- TEMPLATES. -/ abbrev secTemplates := 1
/-- PATCHES. -/ abbrev secPatches := 2
/-- BOUNDS. -/ abbrev secBounds := 3
/-- SWITCH_POINTS. -/ abbrev secSwitch := 4
/-- BUDGETS. -/ abbrev secBudgets := 5
/-- KEYS. -/ abbrev secKeys := 6
/-- KV_CLASSES. -/ abbrev secKv := 7
/-- CLIP_ALARMS. -/ abbrev secClip := 8
/-- ADAPTERS. -/ abbrev secAdapters := 9
/-- RESHARD. -/ abbrev secReshard := 10
/-- WEIGHTS. -/ abbrev secWeights := 11
/-- SCHEDULES. -/ abbrev secSched := 12
/-- LISTS. -/ abbrev secLists := 13

/-- An array of `n` numbers of `w` bytes at an offset of a section. -/
def arrayAt (sec : List Byte) (off n w : Nat) : List Nat := (List.range n).map fun i => leAt sec (off + w * i) w

/-- The numbers that an 8-byte reference at `o` names: offset, then count. -/
def refArray (sec : List Byte) (o w : Nat) : List Nat := arrayAt sec (leAt sec o 4) (leAt sec (o + 4) 4) w

/-- Whether a reference stays in its section. -/
def refOk (sec : List Byte) (o w : Nat) : Bool := decide (leAt sec o 4 + w * leAt sec (o + 4) 4 ≤ sec.length)

/-- The chains of size `s`. -/
def layoutAt (sec : List Byte) (s : Nat) : Layout :=
  let o := 32 * (s - 1)
  ⟨refArray sec o 2, refArray sec (o + 8) 2, refArray sec (o + 16) 2, refArray sec (o + 24) 2⟩

/-- Template `t`. -/
def templateAt (sec : List Byte) (t : Nat) : Template :=
  let o := 8 + 64 * t
  { bound := leAt sec o 4
    batch := leAt sec (o + 4) 2
    engines := leAt sec (o + 6) 1
    tflags := leAt sec (o + 7) 1
    schedOff := leAt sec (o + 8) 4
    patchOff := leAt sec (o + 12) 4
    lists := (List.range 6).map fun e => (leAt sec (o + 16 + 8 * e) 4, leAt sec (o + 20 + 8 * e) 4) }

/-- Adapter declaration `k`. -/
def adapterAt (sec : List Byte) (k : Nat) : Adapter :=
  let o := 8 + 96 * k
  { number := leAt sec o 1
    layer := leAt sec (o + 1) 1
    rank := leAt sec (o + 2) 1
    n := leAt sec (o + 4) 4
    k := leAt sec (o + 8) 4
    alpha := wordAt sec (o + 12)
    gInit := sext 16 (leAt sec (o + 16) 2)
    overlayBytes := leAt sec (o + 20) 4
    target := sliceAt sec (o + 32) 64 }

/-- The recipe in bytes, with its digest and the copy they came from. -/
def parseRecipe (b digest : List Byte) (copy : Nat) : Recipe :=
  let tm := section_ b secTemplates
  let ly := section_ b secLayouts
  let bd := section_ b secBounds
  let sw := section_ b secSwitch
  let bu := section_ b secBudgets
  let kv := section_ b secKv
  let ad := section_ b secAdapters
  { bytes := b
    digest := digest
    copy := copy
    abiMajor := leAt b 4 1
    abiMinor := leAt b 5 1
    contractRev := leAt b 6 1
    rflags := leAt b 7 1
    svn := leAt b 12 4
    seq := leAt b 16 8
    keyIndex := leAt b 24 1
    gaits := leAt b 25 1
    flags := leAt b 26 1
    sizes := leAt b 27 1
    rate := leAt b 28 4
    burst := leAt b 32 2
    ctxPerSide := leAt b 34 2
    deadline := leAt b 36 4
    assembly := leAt b 40 4
    bwMinDecl := leAt b 44 4
    recordMax := leAt b 48 4
    tokenCap := leAt b 52 2
    tokenCapFb := leAt b 54 2
    timeMax := leAt b 56 4
    timeMaxFb := leAt b 60 4
    residentBytes := leAt b 64 4
    carryMax := leAt b 68 4
    layouts := (List.range 6).map fun s => layoutAt ly (s + 1)
    templates := (List.range (min 4096 (leAt tm 0 4))).map fun t => templateAt tm t
    rbP := (List.range 6).map fun s => refArray bd (16 * s) 8
    rbF := (List.range 6).map fun s => refArray bd (16 * s + 8) 8
    switchPoints := (List.range (min 64 (leAt sw 0 4))).map fun k => (leAt sw (4 + 4 * k) 2, leAt sw (6 + 4 * k) 2)
    budgets := (List.range 5).map fun f => (leAt bu (12 * f) 4, leAt bu (12 * f + 4) 4, leAt bu (12 * f + 8) 4)
    kvClasses := (List.range 2).map fun k => sliceAt kv (256 * k) 256
    clipAlarms := arrayAt (section_ b secClip) 0 64 2
    adapters := (List.range (leAt ad 0 4 % 65536)).map fun k => adapterAt ad k }

/-- HAS_FALLBACK. -/
def Recipe.hasFallback (r : Recipe) : Bool := bit r.flags 0

/-- Whether the recipe may be bound for a gait. -/
def Recipe.allows (r : Recipe) (g : Nat) : Bool := bit r.gaits g

/-- The chains of a partition of `n` engines. -/
def Recipe.layout (r : Recipe) (n : Nat) : Layout := (r.layouts[n - 1]?).getD ⟨[], [], [], []⟩

/-- The template a context runs next: its chain by kind and standing, at its position (R431). The last template of a line
chain is run once for each further token. -/
def Recipe.nextTemplate (r : Recipe) (n : Nat) (line fallback : Bool) (pos : Nat) : Option Nat :=
  let l := r.layout n
  if line then
    let lines := if fallback then l.lineFallback else l.linePrimary
    let i := min pos (lines.length - 1)
    lines[i]?
  else (if fallback then l.sideFallback else l.sidePrimary)[pos]?

/-- The entries of the patch table of a template (R432). -/
structure Patch where
  kind  : Nat
  logic : Nat
  cmd   : Nat
  off   : Nat
  deriving DecidableEq, Repr

/-- The patches of a template. -/
def Recipe.patches (r : Recipe) (t : Template) : List Patch :=
  let sec := section_ r.bytes secPatches
  (List.range (leAt sec t.patchOff 4 % 1048576)).map fun i =>
    let o := t.patchOff + 8 + 8 * i
    ⟨leAt sec o 1, leAt sec (o + 1) 1, leAt sec (o + 2) 2, leAt sec (o + 4) 2⟩

/-- The descriptor list of a logical engine, as the recipe holds it. -/
def Recipe.listOf (r : Recipe) (t : Template) (l : Nat) : List Byte :=
  let (off, len) := t.lists.getD l (0, 0)
  ((section_ r.bytes secLists).drop off).take (8 * len)

/-- A list cut into its descriptors by their DESC_LEN. `fuel` bounds the commands; a length of 0 ends the list. -/
def cutList : Nat → List Byte → List (List Byte)
  | 0, _ => []
  | fuel + 1, b =>
    if b.isEmpty then []
    else
      let n := 8 * dLen b
      if n = 0 then [] else b.take n :: cutList fuel (b.drop n)

/-- The commands of a list. -/
def listCommands (b : List Byte) : List (List Byte) := cutList 65536 b

/-! ## Adapters (R246, R434) -/

/-- The declaration of an adapter in a recipe. -/
def Recipe.adapter (r : Recipe) (n : Nat) : Option Adapter := r.adapters.find? fun a => a.number == n

/-- The tensors of the adapters that a recipe declares, A before B, in the order of the declarations: the adapter, the tensor (0 for
A, 1 for B), and its elements. -/
def Recipe.adapterTensors (r : Recipe) : List (Nat × Nat × Nat) :=
  r.adapters.flatMap fun a => [(a.number, 0, a.rank * a.k), (a.number, 1, a.n * a.rank)]

/-- The adapter tensor of `n` elements that a STEP updates: of those of its size the first that no earlier STEP of the batch step
has updated (DESIGN CHOICE, log entry 22). -/
def Recipe.tensorOf (r : Recipe) (seen : List Master) (n : Nat) : Option (Nat × Nat) :=
  (r.adapterTensors.find? fun t => t.2.2 == n && !(seen.any fun m => m.adapter == t.1 && m.tensor == t.2.1)).map fun t =>
    (t.1, t.2.1)

/-! ## KV classes (R434, R203) -/

/-- Whether contexts of a kind hold KV state. -/
def kvClassUsed (c : List Byte) : Bool := c.any (· != 0)

/-- The KV class of a kind of context. -/
def Recipe.kvClass (r : Recipe) (line : Bool) : Option KvRoot :=
  match r.kvClasses[b2n line]? with
  | some c => if kvClassUsed c then some (kvRootOf 0 (sliceAt c 0 512)) else none
  | none => none

/-- Slots reserved for a context on each member (R203). -/
def KvRoot.slotNeed (r : KvRoot) : Nat := r.layers * r.budget + r.spare

/-- Directory blocks reserved for a context on each member (R203). -/
def KvRoot.blockNeed (r : KvRoot) : Nat :=
  1 + r.layers * ((List.range r.depth).map fun k => min (64 ^ k) r.budget).sum + (1 + r.depth) * r.spare

/-- Bytes of the slots and side tensors reserved for a context on each member. -/
def KvRoot.slotBytes (r : KvRoot) : Nat := r.slotNeed * (r.frames * 4096 + r.sideBytes)

/-- Bytes that the reservation of a context takes on `members` members, its roots included. -/
def KvRoot.needBytes (r : KvRoot) (members : Nat) : Nat := members * (r.slotBytes + 512 * r.blockNeed + 1024)

/-- Whether the reserved bytes of a KV class are zero (R199): the first check of R435 judges them. -/
def kvClassReservedOk (c : List Byte) : Bool := zeroAt c 38 2 && zeroAt c 53 3 && zeroAt c 205 51

/-- Whether a KV class passes the checks of R202 that do not depend on the pool and concern no reserved byte. -/
def kvClassOk (c : List Byte) : Bool :=
  !kvClassUsed c
    || (let r := kvRootOf 0 (sliceAt c 0 512)
        leAt c 0 1 == 1 && leAt c 1 1 == 0 && decide (leAt c 2 1 ≤ 1) && within 1 64 r.layers && within 1 8 r.heads
          && within 1 4 r.depth && (r.legal r.fmtNew).isSome && (r.legal r.fmtPinned).isSome
          && decide (leAt c 10 1 ≤ 1) && decide (1 ≤ r.spare) && within 16 256 r.dim && r.dim % 16 == 0
          && (r.groups == 1 || (r.groups == r.dim / 32 && r.dim % 32 == 0)) && within 1 16 r.frames
          && decide (1 ≤ r.budget) && r.sideBytes == 64 + 64 * r.heads * r.groups
          && (r.window == 0 || (within 512 8192 r.window && r.window % 16 == 0)) && within 1 16384 r.logAllow
          && isFinite r.gain && fgt r.gain 0 && zeroAt c 3 2 && zeroAt c 24 12 && zeroAt c 40 8 && zeroAt c 56 149)

/-! ## The schedule blocks (R290 to R292) -/

/-- A schedule entry (R291). -/
structure SchedEntry where
  issue  : Nat
  doneBy : Nat
  phases : Nat
  resOk  : Bool
  deriving DecidableEq, Repr

/-- The schedule entry at an offset. -/
def schedEntryAt (sec : List Byte) (o : Nat) : SchedEntry := ⟨leAt sec o 4, leAt sec (o + 4) 4, leAt sec (o + 8) 1, zeroAt sec (o + 9) 7⟩

/-- The window slot of a CONV or of a window kind of POOL (R158, R161), none for another command. -/
def windowSlotOf (d : List Byte) : Option Nat :=
  if dOpcode d = 0x10 then some (windowAt d 224).slot
  else if dOpcode d = 0x11 ∧ leAt d 142 1 < 2 then some (windowAt d 128).slot
  else none

/-- Whether two overlapping commands of one engine share neither a phase nor a window slot. -/
def schedApart (a b : SchedEntry × List Byte) : Bool :=
  decide (a.1.doneBy < b.1.issue) || decide (b.1.doneBy < a.1.issue)
    || (a.1.phases &&& b.1.phases == 0
        && (match windowSlotOf a.2, windowSlotOf b.2 with
          | some x, some y => x != y
          | _, _ => true))

/-- Whether every two members of a list stand apart. -/
def pairwiseB {α : Type} (f : α → α → Bool) : List α → Bool
  | [] => true
  | a :: rest => rest.all (f a) && pairwiseB f rest

/-- The commands of every engine with their schedule entries, in the order of the block. -/
def Recipe.schedule (r : Recipe) (t : Template) : List (List (SchedEntry × List Byte)) :=
  let sec := section_ r.bytes secSched
  let lists := (List.range t.engines).map fun l => listCommands (r.listOf t l)
  (lists.foldl (fun (acc : List (List (SchedEntry × List Byte)) × Nat) cmds =>
    (acc.1 ++ [(cmds.zipIdx).map fun c => (schedEntryAt sec (acc.2 + 16 * c.2), c.1)], acc.2 + 16 * cmds.length))
    ([], t.schedOff + 16)).1

/-- Whether the schedule block of a template passes R292 in a partition of `engines` engines. -/
def Recipe.scheduleOk (r : Recipe) (t : Template) (engines : Nat) : Bool :=
  let sec := section_ r.bytes secSched
  let o := t.schedOff
  let stepCycles := leAt sec (o + 4) 4
  let per := r.schedule t
  let mask (e : Nat) : Nat := leAt sec (o + 8 + e) 1
  let total := (per.map List.length).sum
  let exch := (per.flatten).filter fun c => dOpcode c.2 == 0x41
  decide (o + 16 + 16 * total ≤ sec.length)
    && leAt sec o 1 == 1 && leAt sec (o + 1) 1 == 0 && leAt sec (o + 2) 1 == r.contractRev
    && leAt sec (o + 3) 1 == engines && zeroAt sec (o + 14) 2 && decide (stepCycles ≤ t.bound)
    && (List.range 6).all (fun e => if e < engines then mask e != 0 else mask e == 0)
    && (per.zipIdx).all (fun p =>
      (p.1.all fun c => c.1.resOk && decide (c.1.issue < c.1.doneBy) && decide (c.1.doneBy ≤ stepCycles)
        && c.1.phases != 0 && c.1.phases &&& mask p.2 == 0)
        && pairwiseB (fun a b => decide (a.1.issue < b.1.issue) && schedApart a b) p.1)
    && exch.all (fun a => per.all fun m =>
      m.any (fun b => dOpcode b.2 == 0x41 && leAt a.2 228 3 == leAt b.2 228 3)
        && m.all (fun b => dOpcode b.2 != 0x41 || leAt a.2 228 3 != leAt b.2 228 3 || a.1.issue == b.1.issue))

/-! ## The checks of R435 -/

/-- Sections present, each with its index and extent. -/
def secSpans (b : List Byte) : List (Nat × Nat) :=
  (List.range 16).filterMap fun k => if secLen b k = 0 then none else some (secOff b k, secOff b k + secLen b k)

/-- Whether the zero byte of every key entry is zero. `fuel` bounds the entries. -/
def keysReservedOk : Nat → List Byte → Bool
  | 0, _ => true
  | fuel + 1, b => zeroAt b 3 1 && keysReservedOk fuel (b.drop (roundUp (4 + leAt b 2 1) 8))

/-- Check 1, the reserved fields of the envelope and of the sections. -/
def recipeReservedOk (b : List Byte) : Bool :=
  let tm := section_ b secTemplates
  let pt := section_ b secPatches
  let r := parseRecipe b [] 0
  leAt b 7 1 / 2 == 0 && leAt b 25 1 / 16 == 0 && leAt b 26 1 / 32 == 0 && leAt b 27 1 / 64 == 0
    && zeroAt b 72 8 && zeroAt b 208 47 && secLen b 14 == 0 && secLen b 15 == 0 && zeroAt b (recLength b - 6) 6
    && zeroAt tm 4 4
    && r.templates.all (fun t => decide (t.tflags < 4) && zeroAt pt (t.patchOff + 4) 4
      && (t.lists.drop t.engines).all (fun l => l == (0, 0))
      && (List.range (leAt pt t.patchOff 4 % 1048576)).all (fun i => zeroAt pt (t.patchOff + 8 + 8 * i + 6) 2))
    && (List.range 6).all (fun s => bit (leAt b 27 1) s || zeroAt (section_ b secLayouts) (32 * s) 32)
    && zeroAt (section_ b secKeys) 4 4 && zeroAt (section_ b secAdapters) 4 4
    && keysReservedOk (leAt (section_ b secKeys) 0 4 % 65536) ((section_ b secKeys).drop 8)
    && r.kvClasses.all kvClassReservedOk
    && (List.range r.adapters.length).all (fun k =>
      let o := 8 + 96 * k
      let ad := section_ b secAdapters
      zeroAt ad (o + 3) 1 && zeroAt ad (o + 18) 2 && zeroAt ad (o + 24) 8)

/-- Check 2: sections stay apart, clear of the envelope and the signature, and in the recipe. -/
def recipeSpansOk (b : List Byte) : Bool :=
  let l := secSpans b
  (l.all fun x => decide (256 ≤ x.1) && decide (x.2 + 120 ≤ recLength b) && x.1 % 8 == 0)
    && pairwiseB (fun x y => decide (x.2 ≤ y.1) || decide (y.2 ≤ x.1)) l

/-- Check 3: required sections. -/
def recipeSectionsOk (b : List Byte) (stream : Bool) : Bool :=
  let has (k : Nat) : Bool := decide (secLen b k ≠ 0)
  has secLayouts && has secTemplates && has secPatches && (leAt b 25 1 % 4 == 0 || has secBounds)
    && (!stream || has secBudgets) && (leAt b 6 1 != 1 || has secSched)

/-- Whether the keys ascend. `fuel` bounds the entries. -/
def keysOk : Nat → Int → List Byte → Bool
  | 0, _, _ => true
  | fuel + 1, last, b =>
    let id : Int := leAt b 0 2
    decide (last < id) && decide (4 ≤ b.length) && keysOk fuel id (b.drop (roundUp (4 + leAt b 2 1) 8))

/-- Check 4: fields within their ranges. -/
def Recipe.rangesOk (r : Recipe) : Bool :=
  let b := r.bytes
  let gallop := r.allows 0
  let timed := r.allows 0 || r.allows 1
  let sw := section_ b secSwitch
  r.gaits % 16 != 0 && decide (r.svn ≤ 64) && decide (r.keyIndex ≤ 3) && (gallop || (r.rate == 0 && r.burst == 0))
    && (!gallop || decide (1 ≤ r.burst)) && decide (1 ≤ r.ctxPerSide)
    && (if timed then within 1 10000000 r.deadline else r.deadline == 0)
    && within 32 16777208 r.recordMax && r.recordMax % 8 == 0 && decide (1 ≤ r.tokenCap)
    && (!r.hasFallback || decide (1 ≤ r.tokenCapFb))
    && decide (r.residentBytes ≤ paddockBytes) && r.sizes != 0
    && within 1 4096 (leAt (section_ b secTemplates) 0 4)
    && r.templates.all (fun t => within 1000 200000 t.bound && decide (t.batch ≤ 1024) && within 1 6 t.engines)
    && decide (leAt sw 0 4 ≤ 64) && pairwiseB (fun x y => decide (x.1 < y.1)) r.switchPoints
    && r.budgets.all (fun x => x == (0, 0, 0) || within 100 1000000 x.2.2)
    && keysOk (leAt (section_ b secKeys) 0 4) (-1) ((section_ b secKeys).drop 8)

/-- Check 6: chains. -/
def Recipe.chainsOk (r : Recipe) : Bool :=
  let ly := section_ r.bytes secLayouts
  (List.range 6).all fun s => !bit r.sizes s ||
    (let l := r.layout (s + 1)
     let ok (line : Bool) (t : Nat) : Bool := match r.templates[t]? with
      | some x => x.engines == s + 1 && bit x.tflags 0 == line
      | none => false
     (List.range 4).all (fun j => refOk ly (32 * s + 8 * j) 2)
      && !l.sidePrimary.isEmpty && l.sidePrimary.all (ok false) && l.linePrimary.all (ok true)
      && l.sideFallback.all (ok false) && l.lineFallback.all (ok true)
      && (if r.hasFallback then !l.sideFallback.isEmpty else l.sideFallback.isEmpty && l.lineFallback.isEmpty))

/-- The start allowance A of R433 in ns. -/
def Recipe.startAllowance (r : Recipe) : Nat := if r.gaits % 16 = 1 then 500 else 5000

/-- Whether a table of remaining bounds fits a chain (R433). -/
def Recipe.boundsOk (r : Recipe) (chain table : List Nat) : Bool :=
  table.length == chain.length + 1 && table.getLast? == some 0
    && (chain.zipIdx).all fun c => match r.templates[c.1]? with
      | some t => decide (table.getD (c.2 + 1) 0 + t.bound + r.startAllowance ≤ table.getD c.2 0)
      | none => false

/-- Check 7: bounds and switch points. -/
def Recipe.boundTablesOk (r : Recipe) : Bool :=
  (secLen r.bytes secBounds == 0
    || (List.range 6).all fun s => !bit r.sizes s ||
      (r.boundsOk (r.layout (s + 1)).sidePrimary (r.rbP.getD s [])
        && (if r.hasFallback then r.boundsOk (r.layout (s + 1)).sideFallback (r.rbF.getD s []) else r.rbF.getD s [] == [])))
    && (List.range 6).all (fun s => !bit r.sizes s || r.switchPoints.all fun p =>
      decide (p.1 < (r.layout (s + 1)).sidePrimary.length) && decide (p.2 < (r.layout (s + 1)).sideFallback.length))

/-- Bytes a patch writes. -/
def patchBytes (kind : Nat) : Nat := if kind = 1 then 3 else if kind = 2 then 1 else if kind = 3 then 4 else 8

/-- Check 8: patch entries. -/
def Recipe.patchesOk (r : Recipe) : Bool :=
  r.templates.all fun t => (r.patches t).all fun p =>
    within 1 10 p.kind && decide (p.logic < t.engines)
      && (match (listCommands (r.listOf t p.logic))[p.cmd]? with
        | some d => decide (p.off + patchBytes p.kind ≤ d.length)
        | none => false)

/-- Check 10: batches within the score log. -/
def Recipe.batchesOk (r : Recipe) : Bool :=
  r.templates.all fun t => t.batch == 0
    || (match r.kvClass (bit t.tflags 0) with
      | some k => decide (t.batch * k.logAllow ≤ 16384)
      | none => true)

/-- Check 11: adapters. -/
def Recipe.adaptersOk (r : Recipe) : Bool :=
  r.adapters.all fun a => within 4 64 a.rank && isFinite a.alpha && fgt a.alpha 0 && decide (-127 ≤ a.gInit)
    && decide (a.gInit ≤ 112) && decide (a.overlayBytes ≤ 524032)

/-- The checks of R435 in their order, for the partitions of `sizes` engines to which the recipe binds; `stream` says
whether it serves a stream. The RESERVED_NONZERO of check 1 comes after its version. -/
def Recipe.fault (r : Recipe) (sizes : List Nat) (stream : Bool) : Option Byte :=
  let b := r.bytes
  firstReason
    [ refuse (r.abiMajor == 1 && r.abiMinor == 0) reRecipeAbi
    , refuse (decide (r.contractRev ≤ 1)) reContractRev
    , refuse (recipeReservedOk b) reReserved
    , refuse (recipeSpansOk b) reRecipeAbi
    , refuse (recipeSectionsOk b stream) reRecipeAbi
    , refuse r.rangesOk reRecipeAbi
    , refuse (sizes.all fun n => decide (1 ≤ n) && bit r.sizes (n - 1)) reRecipeAbi
    , refuse r.chainsOk reRecipeAbi
    , refuse r.boundTablesOk reRecipeAbi
    , refuse r.patchesOk reRecipeAbi
    , refuse (r.kvClasses.all kvClassOk) reRecipeAbi
    , refuse r.batchesOk reRecipeAbi
    , refuse r.adaptersOk reRecipeAbi ]

/-- What a SCHEDULED partition of `engines` engines asks of a recipe beyond R435: revision 1, and its schedule blocks
(R292, R314). -/
def Recipe.scheduledFault (r : Recipe) (engines : Nat) : Option Byte :=
  firstReason
    [ refuse (r.contractRev == 1) reContractRev
    , refuse (r.templates.all fun t => t.engines != engines
        || (t.schedOff != 0xFFFFFFFF && r.scheduleOk t engines)) reScheduleFormat ]

/-- The service times S of the primary chain and of every switch point in a partition of `n` engines, and the largest of
them (R433). -/
def Recipe.serviceTime (r : Recipe) (n : Nat) : Nat :=
  let p := r.rbP.getD (n - 1) []
  let f := r.rbF.getD (n - 1) []
  r.switchPoints.foldl (fun m x => max m (p.getD 0 0 - p.getD x.1 0 + f.getD x.2 0)) (p.getD 0 0)

end Sys2Proof.Machine
end

