-- ==== Sys2Proof/Machine/Adapt.lean ====
section
/-!
DEFINITION. ADAPT_UPDATE: AUGMENT, GRAD and STEP (R189 to R192, R246 to R252).
-/
namespace Sys2Proof.Machine

/-- TRAIN_REC. -/ abbrev stTrainRec : Half := 0x0142
/-- AUG_INVALID. -/ abbrev stAugInvalid : Half := 0x0143

/-! ## The descriptor (R248) -/

/-- An ADAPT_UPDATE descriptor. -/
structure AdaptDesc where
  in0    : Tref
  in1    : Tref
  in2    : Tref
  recIn  : Tref
  out0   : Tref
  out1   : Tref
  recOut : Tref
  mode   : Nat
  clipId : Nat
  clipEn : Bool
  lr     : Word
  beta1  : Word
  beta2  : Word
  eps    : Word
  wd     : Word
  deriving DecidableEq, Repr

/-- The fields of an ADAPT_UPDATE descriptor. -/
def adaptDesc (d : List Byte) : AdaptDesc where
  in0 := trefAt d 32
  in1 := trefAt d 80
  in2 := trefAt d 128
  recIn := trefAt d 176
  out0 := trefAt d 224
  out1 := trefAt d 272
  recOut := trefAt d 320
  mode := leAt d 368 1
  clipId := leAt d 369 1
  clipEn := bit (leAt d 370 1) 0
  lr := wordAt d 372
  beta1 := wordAt d 376
  beta2 := wordAt d 380
  eps := wordAt d 384
  wd := wordAt d 388

/-- Elements of a tensor. -/
def Tref.count (t : Tref) : Nat := t.d0 * t.d1 * t.d2 * t.d3

/-- Blocks of optimiser state for `n` weights (R191). -/
def stateBlocks (n : Nat) : Nat := ceilDiv n 256

/-- A ROW_MAJOR operand of a format without scale entries. -/
def Tref.rowsOf (t : Tref) (f : Fmt) (out : Bool) : Bool :=
  t.fmt? == some f && t.layout == rowMajor && t.rangeOk out && t.sMode == 0

/-- A vector of bytes. -/
def Tref.byteVec (t : Tref) (n : Nat) (out : Bool) : Bool :=
  t.rowsOf .uint8 out && t.d0 == n && t.d1 == 1 && t.d2 == 1 && t.d3 == 1

/-- Whether an FP32 lies in [lo, hi]. -/
def fwithin (lo hi x : Word) : Bool := isFinite x && !fgt lo x && !fgt x hi

/-- Whether the optimiser settings lie in their ranges (R248). -/
def AdaptDesc.settingsOk (x : AdaptDesc) : Bool :=
  let max : Word := 0x7F7FFFFF
  fwithin 0 max x.lr && fwithin 0 fp32One x.beta1 && fgt fp32One x.beta1 && fwithin 0 fp32One x.beta2
    && fgt fp32One x.beta2 && isFinite x.eps && fgt x.eps 0 && fwithin 0 max x.wd

/-- Whether the optimiser settings are zero. -/
def AdaptDesc.settingsZero (x : AdaptDesc) : Bool :=
  x.lr == 0 && x.beta1 == 0 && x.beta2 == 0 && x.eps == 0 && x.wd == 0

/-- The operands a mode reads. -/
def AdaptDesc.inputs (x : AdaptDesc) : List Tref :=
  if x.mode = 0 then [x.in0, x.in1] else if x.mode = 1 then [x.in0, x.recIn] else [x.in0, x.in1, x.in2, x.recIn]

/-- The operands a mode writes. -/
def AdaptDesc.outputs (x : AdaptDesc) : List Tref :=
  if x.mode = 0 then [x.out0] else if x.mode = 1 then [x.out0, x.recOut] else [x.out0, x.out1, x.recOut]

/-- Whether the references a mode does not use are all-zero (R248). -/
def AdaptDesc.unusedZero (x : AdaptDesc) : Bool :=
  if x.mode = 0 then x.in2.absent && x.recIn.absent && x.out1.absent && x.recOut.absent
  else if x.mode = 1 then x.in1.absent && x.in2.absent && x.out1.absent
  else true

/-- Ranges of an ADAPT_UPDATE (R248), without the overlap rule. -/
def AdaptDesc.rangeOk (x : AdaptDesc) : Bool :=
  x.unusedZero
    && (match x.mode with
      | 0 =>
        x.in0.rowsOf .uint8 false && (x.in0.d0 == 1 || x.in0.d0 == 3) && x.in0.d3 == 1 && x.in1.byteVec 16 false
          && x.out0.rowsOf .uint8 true && sameExtents x.in0 x.out0
          && x.clipId == 0 && !x.clipEn && x.settingsZero
      | 1 =>
        x.in0.rowsOf .fp32 false && x.recIn.byteVec 16 false && x.out0.rowsOf .e5m2 true
          && sameExtents x.in0 x.out0 && x.recOut.byteVec 4 true && decide (x.clipId ≤ 63) && x.settingsZero
      | 2 =>
        x.in0.rowsOf .bf16 false && x.in1.rowsOf .e5m2 false && sameExtents x.in0 x.in1
          && x.in2.byteVec (520 * stateBlocks x.in0.count) false && x.in2.addr % 8 == 0 && x.recIn.byteVec 16 false
          && x.out0.rowsOf .bf16 true && sameExtents x.in0 x.out0
          && x.out1.byteVec (520 * stateBlocks x.in0.count) true && x.out1.addr % 8 == 0 && x.recOut.byteVec 12 true
          && x.clipId == 0 && !x.clipEn && x.settingsOk
      | _ => false)

/-- Checks 1 to 7 of an ADAPT_UPDATE. -/
def State.judgeAdapt (s : State) (e : Fin 7) (d : List Byte) : Option Half :=
  let x := adaptDesc d
  let all := x.inputs ++ x.outputs
  s.judge e d 0x42 50
    (leAt d 370 1 / 2 == 0 && zeroAt d 371 1 && zeroAt d 392 8 && all.all Tref.reservedOk)
    (all.all fun t => t.fmt?.isSome)
    (x.rangeOk && !feetMeet (x.outputs.flatMap fun t => s.dataFoot e t) (x.inputs.flatMap fun t => s.dataFoot e t))
    (all.flatMap fun t => s.trefPlaces e t)

/-! ## The training record (R249) -/

/-- A training record. -/
structure TrainRec where
  g     : Int
  stepN : Nat
  p1    : Word
  p2    : Word
  deriving DecidableEq, Repr

/-- The record in 16 bytes; none where R249 refuses it. -/
def trainRec (b : List Byte) : Option TrainRec :=
  let r : TrainRec := ⟨sext 16 (leAt b 0 2), leAt b 4 4, wordAt b 8, wordAt b 12⟩
  if decide (-127 ≤ r.g) && decide (r.g ≤ 112) && zeroAt b 2 2 && decide (r.stepN < 0xFFFFFFFF)
    && fwithin 0 fp32One r.p1 && fwithin 0 fp32One r.p2 then some r
  else none

/-- 2 to an integer power, as FP32. -/
def fpow2 (k : Int) : Word := fp32Of (.fin false 1 k)

/-! ## AUGMENT (R250) -/

/-- An augmentation block (R98). -/
structure AugBlock where
  rotation : Int
  scale    : Nat
  contrast : Nat
  noise    : Nat
  seed     : Nat
  deriving DecidableEq, Repr

/-- The block in 16 bytes; none where it lies outside R98. -/
def augBlock (b : List Byte) : Option AugBlock :=
  let x : AugBlock := ⟨sext 16 (leAt b 0 2), leAt b 2 2, leAt b 4 2, leAt b 6 1, leAt b 8 4⟩
  if decide (-1000 ≤ x.rotation) && decide (x.rotation ≤ 1000) && within 2048 8192 x.scale
    && within 1024 16384 x.contrast && decide (x.noise ≤ 64) && zeroAt b 7 1 && zeroAt b 12 4 then some x
  else none

/-- The matrix of an augmentation: C and S in Q.16 (R250). -/
def augMatrix (b : AugBlock) : Int × Int :=
  let a := fmul (intToF32 b.rotation) 0x393702D3
  let a2 := fmul a a
  let sn := fmul a (ffma (ffma a2 0x3C088889 0xBE2AAAAB) a2 fp32One)
  let cs := ffma (ffma (ffma a2 0xBAB60B61 0x3D2AAAAB) a2 0xBF000000) a2 fp32One
  let inv := frcp (fmul (intToF32 b.scale) 0x39800000)
  let q (w : Word) : Int := match fp32Val w with
    | .fin neg m e => roundInt neg m (e + 16)
    | _ => 0
  (q (fmul cs inv), q (fmul sn inv))

/-- The source of an output pixel in units of 2^-8. Twice the Q.16 value is exact; bits below 2^-8 are dropped. -/
def augSource (c s : Int) (w h u v : Nat) : Int × Int :=
  let du : Int := 2 * (u : Int) - ((w : Int) - 1)
  let dv : Int := 2 * (v : Int) - ((h : Int) - 1)
  ((((w : Int) - 1) * 65536 + c * du + s * dv) / 512, (((h : Int) - 1) * 65536 - s * du + c * dv) / 512)

/-- The contrast of a sample. -/
def augContrast (k y : Nat) : Nat := (clampI 0 255 (divAway (128 * 4096 + ((y : Int) - 128) * k) 4096)).toNat

/-- A step of the noise generator on 32 bits. -/
def noiseStep (st : Nat) : Nat :=
  let a := st ^^^ (st * 2 ^ 13 % 2 ^ 32)
  let b := a ^^^ (a / 2 ^ 17)
  b ^^^ (b * 2 ^ 5 % 2 ^ 32)

/-- Noise on the samples in order. -/
def addNoise (amp : Nat) : Nat → List Nat → List Nat
  | _, [] => []
  | st, y :: rest =>
    let st := noiseStep st
    (clampI 0 255 ((y : Int) + (st % (2 * amp + 1) : Nat) - amp)).toNat :: addNoise amp st rest

/-- The samples of an augmented image in line, pixel and channel order; `px c x y` is a pixel of the source. -/
def augSamples (b : AugBlock) (ch w h : Nat) (px : Nat → Int → Int → Nat) : List Nat :=
  let (c, s) := augMatrix b
  let ys := (List.range h).flatMap fun v => (List.range w).flatMap fun u =>
    let (x8, y8) := augSource c s w h u v
    (List.range ch).map fun k => augContrast b.contrast (bilinear (px k) x8 y8)
  if b.noise = 0 then ys else addNoise b.noise (if b.seed = 0 then 0x9E3779B9 else b.seed) ys

/-- The effect of an AUGMENT whose checks passed. -/
def augEffect (e : Fin 7) (d : List Byte) (x : AdaptDesc) (s : State) : Effect :=
  let s := s.dropHeld e d
  if x.in0.empty then plain (s.countEngine e Eng.zeroExtents 1) flZeroExtent
  else
    match augBlock ((s.tensorBytes e x.in1).getD []) with
    | none => ⟨s, stAugInvalid, 0⟩
    | some b =>
      let bs := (s.tensorBytes e x.in0).getD []
      let w := x.in0.d1
      let h := x.in0.d2
      let px (c : Nat) (i j : Int) : Nat :=
        if 0 ≤ i ∧ i < w ∧ 0 ≤ j ∧ j < h then x.in0.elemCode bs ⟨c, i.toNat, j.toNat, 0⟩ else 255
      let ys := augSamples b x.in0.d0 w h px
      let (s, ok) := s.writeTensor e x.out0 fun i => ys.getD ((i.i2 * w + i.i1) * x.in0.d0 + i.i0) 0
      noted (s.countEngine e Eng.augmentedImages 1) e ok .none 0

/-! ## GRAD (R189, R190, R251) -/

/-- The next exponent of a gradient tensor (R190). -/
def nextG (g : Int) (vals : List Word) : Int :=
  let fin := (vals.filter isFinite).map fabs
  match fin with
  | [] => g
  | v :: rest =>
    match fp32Val (rest.foldl (fun a b => if fgt b a then b else a) v) with
    | .fin _ m e =>
      if m = 0 then g
      else
        let ex : Int := (m.log2 : Int) + e
        clampI (-127) 112 ((if m = 2 ^ m.log2 then ex else ex + 1) - 15)
    | _ => g

/-- The code of a gradient element (R189). -/
def gradCode (g : Int) (w : Word) : Nat × Note := toFloatFmt .e5m2 true (fp32Val (fmul w (fpow2 (-g))))

/-- The effect of a GRAD whose checks passed. -/
def gradEffect (e : Fin 7) (d : List Byte) (x : AdaptDesc) (s : State) : Effect :=
  let s := s.dropHeld e d
  if x.in0.empty then plain (s.countEngine e Eng.zeroExtents 1) flZeroExtent
  else
    match trainRec ((s.tensorBytes e x.recIn).getD []) with
    | none => ⟨s, stTrainRec, 0⟩
    | some r =>
      let bs := (s.tensorBytes e x.in0).getD []
      let val (i : Ix) : Word := (x.in0.elem bs i).f32
      let n := joinNotes (x.in0.indices.map fun i => (gradCode r.g (val i)).2)
      let s := if x.clipEn then s.clipAdd e x.clipId x.in0.count n.sat else s
      let (s, ok) := s.writeTensor e x.out0 fun i => (gradCode r.g (val i)).1
      let (s, ok) := if ok then
          s.pokeSpace e x.recOut.space x.recOut.addr
            (leBytes 2 (toCode 16 (nextG r.g (x.in0.indices.map val))) ++ [0, 0])
        else (s, ok)
      noted s e ok n 0

/-! ## STEP (R191, R252) -/

/-- A block of optimiser state; none where R191 faults it. -/
structure MomentBlock where
  m : List Word
  v : List Word
  deriving DecidableEq, Repr

/-- The moments in 520 bytes. -/
def momentBlock (b : List Byte) : Option MomentBlock :=
  let ms := leAt b 512 2
  let vs := leAt b 514 2
  if ms ≥ 0x7C00 ∨ vs ≥ 0x7C00 ∨ !zeroAt b 516 4 then none
  else some ⟨(List.range 256).map fun i => fmul (intToF32 (sext 8 (leAt b i 1))) (fp16F32 ms),
    (List.range 256).map fun i =>
      let r := fmul (intToF32 (leAt b (256 + i) 1)) (fp16F32 vs)
      fmul r r⟩

/-- The root under which a second moment is stored (R191). -/
def momentRoot (v : Word) : Word :=
  if isNaN v then 0x7FC00000
  else if isZero v then 0
  else if v.msb then 0x7FC00000
  else fmul v (frsq v)

/-- The 520 bytes of a block of up to 256 moments (R191), with the elements clamped in its two quantisations (R182). -/
def momentBytes (m v : List Word) : List Byte × Note :=
  let qm := quantRow .int8 qSym fp32One 0 0 m
  let rs := v.map momentRoot
  let qv := quantRow .uint8 qAsym fp32One 0 0 rs
  let ms := m.map fun w => quantElem .int8 qSym qm w
  let vs := rs.map fun w => quantElem .uint8 qAsym qv w
  let codes (l : List QElem) : List Byte := l.map (fun x => BitVec.ofNat 8 x.code) ++ List.replicate (256 - l.length) 0
  (codes ms ++ codes vs ++ leBytes 2 qm.scale ++ leBytes 2 qv.scale ++ [0, 0, 0, 0], quantNote (ms ++ vs))

/-- What one weight becomes. -/
structure Updated where
  m : Word
  v : Word
  w : Word
  deriving DecidableEq, Repr

/-- The optimiser update of one weight (R252). -/
def updateWeight (x : AdaptDesc) (g : Int) (p1n p2n : Word) (code : Nat) (mOld vOld wOld : Word) : Updated :=
  let gr := fmul (decodeElem .e5m2 code).f32 (fpow2 g)
  let m := ffma x.beta1 mOld (fmul (fsub fp32One x.beta1) gr)
  let v := ffma x.beta2 vOld (fmul (fsub fp32One x.beta2) (fmul gr gr))
  let mh := fmul m (frcp (fsub fp32One p1n))
  let vh := fmul v (frcp (fsub fp32One p2n))
  let rt := if isZero vh then 0 else fmul vh (frsq vh)
  let u := fmul mh (frcp (fadd rt x.eps))
  ⟨m, v, fsub wOld (fmul x.lr (ffma x.wd wOld u))⟩

/-- Whether a new weight forbids the update: it, or the master it becomes, is a NaN or infinite. -/
def badWeight (outSat : Bool) (w : Word) : Bool :=
  !isFinite w || decide ((toFloatFmt .bf16 outSat (fp32Val w)).1 % 2 ^ 15 ≥ 0x7F80)

/-- The master that a STEP wrote, entered in the step in progress under the adapter tensor it belongs to (R247, R253). -/
def State.noteMaster (s : State) (e : Fin 7) (d : List Byte) : State :=
  match s.engines[e].part with
  | none => s
  | some p => s.onStep p fun r =>
    match (s.recipeFor p r.gait.val).bind fun x => x.tensorOf r.masters (adaptDesc d).out0.count with
    | some (a, k) => { r with masters := r.masters ++ [⟨a, k, e, d⟩] }
    | none => r

/-- A skipped update: master, state and record copied (R252). -/
def skipEffect (e : Fin 7) (d : List Byte) (x : AdaptDesc) (recB : List Byte) (s : State) : Effect :=
  let bs := (s.tensorBytes e x.in0).getD []
  let st := (s.tensorBytes e x.in2).getD []
  let s := s.countEngine e Eng.adaptSkips 1
  let (s, a) := s.writeTensor e x.out0 fun i => x.in0.elemCode bs i
  let (s, b) := if a then s.pokeSpace e x.out1.space x.out1.addr st else (s, a)
  let (s, c) := if b then s.pokeSpace e x.recOut.space x.recOut.addr (sliceAt recB 4 12) else (s, b)
  noted (s.noteMaster e d) e c .none 256

/-- The effect of a STEP whose checks passed. -/
def stepEffect (e : Fin 7) (d : List Byte) (x : AdaptDesc) (s : State) : Effect :=
  let s := s.dropHeld e d
  if x.in0.empty then plain (s.countEngine e Eng.zeroExtents 1) flZeroExtent
  else
    let recB := (s.tensorBytes e x.recIn).getD []
    let stB := (s.tensorBytes e x.in2).getD []
    let n := x.in0.count
    let blocks := (List.range (stateBlocks n)).map fun b => momentBlock (sliceAt stB (520 * b) 520)
    match trainRec recB with
    | none => ⟨s, stTrainRec, 0⟩
    | some r =>
      if !blocks.all Option.isSome then ⟨s, stScaleInvalid, 0⟩
      else
        let w0 := (s.tensorBytes e x.in0).getD []
        let g0 := (s.tensorBytes e x.in1).getD []
        let ms := (blocks.filterMap id).flatMap (·.m)
        let vs := (blocks.filterMap id).flatMap (·.v)
        let p1n := fmul r.p1 x.beta1
        let p2n := fmul r.p2 x.beta2
        let ix := x.in0.indices
        let codes := ix.map fun i => x.in1.elemCode g0 i
        let ups := ((ix.zip codes).zipIdx).map fun q =>
          updateWeight x r.g p1n p2n q.1.2 (ms.getD q.2 0) (vs.getD q.2 0) (x.in0.elem w0 q.1.1).f32
        let sat := dOutSat d
        if (codes.any fun c => (decodeElem .e5m2 c).isNaN) || (ups.any fun u => badWeight sat u.w) then
          skipEffect e d x recB s
        else
          let outs := ups.map fun u => toFloatFmt .bf16 sat (fp32Val u.w)
          let pos (i : Ix) : Nat := i.i0 + x.in0.d0 * (i.i1 + x.in0.d1 * (i.i2 + x.in0.d2 * i.i3))
          let (s, a) := s.writeTensor e x.out0 fun i => (outs.getD (pos i) (0, .none)).1
          let blocks := (chunksOf 256 ups.length ups).map fun c => momentBytes (c.map (·.m)) (c.map (·.v))
          let (s, b) := if a then s.pokeSpace e x.out1.space x.out1.addr (blocks.flatMap (·.1)) else (s, a)
          let (s, c) := if b then
              s.pokeSpace e x.recOut.space x.recOut.addr
                (leBytes 4 (min (r.stepN + 1) 0xFFFFFFFE) ++ leBytes 4 p1n.toNat ++ leBytes 4 p2n.toNat)
            else (s, b)
          noted (s.noteMaster e d) e c (joinNotes (outs.map (·.2) ++ blocks.map (·.2))) 0

/-! ## The three commands -/

/-- The bytes an ADAPT_UPDATE reads: none where its tensor is empty. -/
def State.adaptTouch (s : State) (e : Fin 7) (x : AdaptDesc) : List Foot :=
  if x.in0.empty then [] else x.inputs.flatMap fun t => s.tensorTouch e t

/-- An ADAPT_UPDATE on an engine. -/
def runAdapt (c : EngCall) (eff : AdaptDesc → State → Effect) (s : State) : State :=
  let e := c.engine
  let x := adaptDesc c.desc
  s.runEngine c (s.judgeAdapt e c.desc) (x.inputs.flatMap fun t => s.dataFoot e t)
    (x.outputs.flatMap fun t => s.dataFoot e t) (s.adaptTouch e x) (eff x)

/-- Whether a descriptor spells another ADAPT_UPDATE than MODE `m`, or another opcode. -/
def otherMode (d : List Byte) (m : Nat) : Bool :=
  otherOpcode d 0x42 || (dOpcode d == 0x42 && decide ((adaptDesc d).mode ≤ 2) && (adaptDesc d).mode != m)

end Sys2Proof.Machine
end

