-- ==== Sys2Proof/Machine/Geometry.lean ====
section
/-!
DEFINITION. What the front-end registers say of ports, planes, sides and images (02_scan_front_end.md, R35, R36, R51 to
R56), and the figures of the admission check and of the bandwidth budget that follow from them (R24, R26, R340, R341).
-/
namespace Sys2Proof.Machine

/-! ## Ports and planes -/

/-- Bits of a register. -/
def wbits (w : Word) (lo len : Nat) : Nat := bits w.toNat lo len

/-- EN of PORT_CFG. -/
def Port.cfgEn (p : Port) : Bool := bit p.portCfg.toNat 0
/-- TRANSPORT of PORT_CFG. -/
def Port.transport (p : Port) : Fin 4 := Fin.ofNat 4 (wbits p.portCfg 1 2)
/-- SAMPLE_BITS of PORT_CFG: the code. -/
def Port.bitsCode (p : Port) : Nat := wbits p.portCfg 3 2
/-- Bits of a sample. DESIGN CHOICE, log entry 133: the refused code 3 counts as 14 in the check of the lanes. -/
def Port.sampleBits (p : Port) : Nat := 8 + 2 * p.bitsCode
/-- Lanes in use. -/
def Port.lanes (p : Port) : Nat := 2 ^ wbits p.portCfg 5 2
/-- Number of planes. -/
def Port.planes (p : Port) : Nat := wbits p.portCfg 7 2 + 1
/-- PLANE_ORDER: by line. -/
def Port.byLine (p : Port) : Bool := bit p.portCfg.toNat 9
/-- SAMPLES_PER_PLANE. -/
def Port.samples (p : Port) : Nat := wbits p.portCfg 16 14
/-- PERIOD in ticks of 10 ns. -/
def Port.period (p : Port) : Nat := wbits p.ttPeriod 0 18

/-- A plane of a port and what it feeds (R51). -/
structure PlaneDef where
  port  : Fin 4
  index : Nat
  role  : Nat
  dly   : Nat
  side  : Nat
  xOff  : Nat
  width : Nat
  deriving DecidableEq, Repr

/-- The planes of port `n`. -/
def State.portPlanes (s : State) (n : Fin 4) : List PlaneDef :=
  let p := s.ports[n]
  (List.range p.planes).map fun i =>
    let w := p.plane[Fin.ofNat 4 i]
    ⟨n, i, wbits w 0 3, wbits w 4 9, wbits w 13 3, wbits w 16 14, p.samples⟩

/-- The planes of the ports that a configuration enables, in ascending port and plane. -/
def State.allPlanes (s : State) : List PlaneDef :=
  (List.finRange 4).flatMap fun n => if s.ports[n].cfgEn then s.portPlanes n else []

/-! ## Side definitions (R52) -/

/-- A side definition. -/
structure SideDef where
  en        : Bool
  transport : Fin 4
  mirror    : Bool
  deskew    : Bool
  backing   : Bool
  lines     : Nat
  width     : Nat
  maxAngle  : Nat
  edgeDelta : Nat
  deriving DecidableEq, Repr

/-- Side definition `d`. -/
def State.sideDef (s : State) (d : Fin 8) : SideDef :=
  let a := s.sideDefA[d].toNat
  let b := s.sideDefB[d].toNat
  ⟨bit a 0, Fin.ofNat 4 (bits a 1 2), bit a 3, bit a 4, bit a 5, bits a 16 16, bits b 0 14, bits b 14 6, bits b 20 8⟩

/-- The planes that feed a side. -/
def State.sidePlanes (s : State) (d : Fin 8) : List PlaneDef := s.allPlanes.filter fun p => p.side == d.val

/-- The enabled side definitions of a transport. -/
def State.sidesOf (s : State) (t : Fin 4) : List (Fin 8) :=
  (List.finRange 8).filter fun d => (s.sideDef d).en && (s.sideDef d).transport == t

/-- Whether the visible image of a side is RGB8. -/
def State.sideRgb (s : State) (d : Fin 8) : Bool := (s.sidePlanes d).any fun p => p.role == 1

/-- Whether a side has planes of a role. -/
def State.sideHas (s : State) (d : Fin 8) (role : Nat) : Bool := (s.sidePlanes d).any fun p => p.role == role

/-- The stride of an image line (R55). -/
def strideOf (width bytes : Nat) : Nat := roundUp (width * bytes) 64

/-- The images of a side: role, RGB8 or not, stride (R55). -/
def State.sideImages (s : State) (d : Fin 8) : List (Nat × Bool × Nat) :=
  let w := (s.sideDef d).width
  (0, s.sideRgb d, strideOf w (if s.sideRgb d then 3 else 1))
    :: (if s.sideHas d 4 then [(1, false, strideOf w 1)] else [])
    ++ (if s.sideHas d 5 then [(2, false, strideOf w 1)] else [])

/-- Lb of R56: the sum of the strides. -/
def State.sideLb (s : State) (d : Fin 8) : Nat := ((s.sideImages d).map (·.2.2)).sum

/-- t_line of R56 in ns. -/
def State.tLine (s : State) (d : Fin 8) : Nat := max 2000 (ceilDiv (s.sideLb d * 1000) 4096)

/-- Frames of each image of a side. -/
def State.imageFrames (s : State) (d : Fin 8) (stride : Nat) : Nat := ceilDiv ((s.sideDef d).lines * stride) 4096

/-- The lead port of a transport: its lowest-index enabled port (R38). -/
def State.leadPort (s : State) (t : Fin 4) : Option (Fin 4) :=
  (List.finRange 4).find? fun n => s.ports[n].cfgEn && s.ports[n].transport == t

/-- The partition a port is bound to in a plan. -/
def planPort (plan : List (Option PartDesc)) (n : Fin 4) : Option (Fin 6) :=
  (plan.filterMap id).findSome? fun d => if bit d.ports n.val then some (Fin.ofNat 6 d.part) else none

/-- The partition to which a side's planes are bound in a plan. -/
def State.sidePart (s : State) (plan : List (Option PartDesc)) (d : Fin 8) : Option (Fin 6) :=
  match s.sidePlanes d with
  | [] => none
  | p :: _ => planPort plan p.port

/-! ## Bandwidth (R340, R341) -/

/-- FE_RATE in MB/s, rounded up: over the enabled side definitions, the strides of their images per line period. -/
def State.feRate (s : State) : Nat :=
  ((List.finRange 8).map fun d =>
    let x := s.sideDef d
    if x.en then
      match s.leadPort x.transport with
      | some n => if s.ports[n].period = 0 then 0 else ceilDiv (s.sideLb d * 100) s.ports[n].period
      | none => 0
    else 0).sum

/-- Main-memory bandwidth of a slot plan's grants in MB/s, times 4,096: a slot carries 64 bytes, and a superframe lasts
4,096 CK_MEM cycles of 0.9376 ns. -/
def SlotPlan.granted (p : SlotPlan) : Nat :=
  (p.grants.map fun w => (List.range 14).countP fun s => bits w.toNat (2 * s) 2 != 0).sum

/-- Granted bandwidth in MB/s, rounded down: granted slots × 64 B ÷ 3.8406 µs (R307). -/
def SlotPlan.bandwidth (p : SlotPlan) : Nat := p.granted * 64 * 10000 / 38406

/-- Bandwidth of the grants of the slot plans of a plan. -/
def grantedTotal (plans : List SlotPlan) : Nat := (plans.map SlotPlan.bandwidth).sum

/-! ## Publication and tail terms (R24, R26) -/

/-- The recipe of a slot as a new binding takes it. -/
def RecipeSlot.current (x : RecipeSlot) : Option Recipe := x.staged.or x.bound

/-- The recipe of a slot number. -/
def State.slotRecipe (s : State) (n : Nat) : Option Recipe :=
  if n < 16 then s.boot.recipes[Fin.ofNat 16 n].current else none

/-- The descriptor of a partition in a plan. -/
def descIn (plan : List (Option PartDesc)) (p : Fin 6) : Option PartDesc :=
  (plan.filterMap id).find? fun d => d.part == p.val

/-- The recipe that a plan binds to a stream's partition for its gait (R79). -/
def State.streamRecipe (s : State) (plan : List (Option PartDesc)) (n : Fin 64) : Option Recipe :=
  if wbits s.streamA[n] 8 3 < 6 then
    (descIn plan (Fin.ofNat 6 (wbits s.streamA[n] 8 3))).bind fun d => s.slotRecipe (d.recipes.getD (wbits s.streamA[n] 11 2) 0xFF)
  else none

/-- The budgets that a recipe declares for the formats a stream accepts. -/
def State.streamBudgets (s : State) (n : Fin 64) (r : Recipe) : List (Nat × Nat × Nat × Nat) :=
  ((List.range 5).filter fun f => bit s.streamA[n].toNat (f + 1)).map fun f => (f, r.budgets.getD f (0, 0, 0))

/-- The largest image, in bytes, of at most `pixels` pixels of `bpp` bytes, neither extent above 32,768 (R87, R91): for each
line stride the narrowest width that has it, as high as it may be. -/
def largestImage (bpp pixels : Nat) : Nat :=
  ((List.range (512 * bpp)).map fun k =>
    let w := 64 * k / bpp + 1
    if w ≤ pixels then min 32768 (pixels / w) * (64 * (k + 1)) else 0).foldl max 0

/-- The largest image that a stream delivers under the budgets of its recipe: GRAY8 for Group 4 and for video of COLOUR
GRAY8, otherwise RGB8. -/
def State.streamImage (s : State) (plan : List (Option PartDesc)) (n : Fin 64) : Nat :=
  match s.streamRecipe plan n with
  | some r => ((s.streamBudgets n r).map fun x =>
      largestImage (if x.1 = 1 ∨ bit s.streamA[n].toNat 17 then 1 else 3) x.2.1).foldl max 0
  | none => 0

/-- Bytes of the images that a recipe's export flags name, at the largest extents bound to a partition (R24): those of the
side definitions bound to it, those of the streams bound to it, and for the fused picture those of the streams whose frames
its sides receive. -/
def State.worstExports (s : State) (p : Fin 6) (plan : List (Option PartDesc)) (r : Recipe) : Nat :=
  let defs := (List.finRange 8).filter fun d => (s.sideDef d).en && s.sidePart plan d == some p
  let role (k : Nat) : Nat := ((defs.flatMap fun d =>
    (s.sideImages d).filterMap fun i => if i.1 = k then some ((s.sideDef d).lines * i.2.2) else none)).foldl max 0
  let most (l : List (Fin 64)) : Nat := (l.map (s.streamImage plan)).foldl max 0
  let enabled := (List.finRange 64).filter fun n => s.streams[n].enabled
  let own := most (enabled.filter fun n => wbits s.streamA[n] 8 3 == p.val)
  let fused := most (enabled.filter fun n => bit s.streamA[n].toNat 13
    && defs.any fun d => (s.sideDef d).transport.val == wbits s.streamA[n] 14 2)
  (if bit r.flags 1 then max (role 0) own else 0) + (if bit r.flags 2 then role 1 else 0)
    + (if bit r.flags 3 then role 2 else 0) + (if bit r.flags 4 then fused else 0)

/-- T_PUB in ns: ASSEMBLY and the visibility allowance V at its worst (R24, R26). -/
def State.tPub (s : State) (p : Fin 6) (plan : List (Option PartDesc)) (r : Recipe) : Nat :=
  let bp := r.recordMax + s.worstExports p plan r
  r.assembly * 1000 + 100000 + ceilDiv (bp - 1048576) 20

/-- The decoder unit of a stream (R75). -/
def streamUnit (n : Fin 64) : Fin 8 := Fin.ofNat 8 (if n.val < 32 then n.val % 4 else 4 + n.val % 4)

/-- The number of a decoder unit: D0 to D3 are the image units, D4 to D7 the video units (R75). -/
def decoderUnit (kind : DecoderKind) (i : Fin 4) : Fin 8 := match kind with
  | .image => Fin.ofNat 8 i.val
  | .video => Fin.ofNat 8 (4 + i.val)

/-- FUSE_OFFSET of a stream in ns. -/
def State.fuseOffset (s : State) (n : Fin 64) : Int := sext 16 (wbits s.streamB[n] 16 16) * 10000

/-- FUSE_WINDOW of a stream in ns. -/
def State.fuseWindow (s : State) (n : Fin 64) : Nat := wbits s.streamB[n] 0 16 * 10000

/-- The enabled streams whose frames are attached to the sides of a transport (R77). -/
def State.fusesOf (s : State) (t : Fin 4) : List (Fin 64) :=
  (List.finRange 64).filter fun n => s.streams[n].enabled && bit s.streamA[n].toNat 13 && wbits s.streamA[n] 14 2 == t.val

/-- D_BLOCK in us: the largest DECODE_BUDGET that the recipe bound to its partition gives any format of another enabled stream
of the same unit (R79). -/
def State.dBlock (s : State) (plan : List (Option PartDesc)) (n : Fin 64) : Nat :=
  (((List.finRange 64).filter fun m => m != n && s.streams[m].enabled && streamUnit m == streamUnit n).map fun m =>
    match s.streamRecipe plan m with
    | some r => ((s.streamBudgets m r).map fun x => x.2.2.2).foldl max 0
    | none => 0).foldl max 0

/-- T_TAIL in ns: the largest over the sides bound to a partition (R56, with R97 for fused sides) and its GALLOP streams
(R79). DESIGN CHOICE, log entry 114: of a stream that accepts several formats it takes the largest FETCH_BUDGET and the
largest DECODE_BUDGET, each over all of them. -/
def State.tTail (s : State) (p : Fin 6) (plan : List (Option PartDesc)) (r : Recipe) : Nat :=
  let sides := (List.finRange 8).map fun d =>
    let x := s.sideDef d
    if x.en && s.sidePart plan d == some p then
      (s.fusesOf x.transport).foldl (fun m n => max m (s.fuseOffset n + s.fuseWindow n).toNat)
        ((if x.deskew then 272 else 16) * s.tLine d + 44000)
    else 0
  let own (n : Fin 64) : Bool :=
    s.streams[n].enabled && wbits s.streamA[n] 8 3 == p.val && wbits s.streamA[n] 11 2 == 0
  let streams := (List.finRange 64).map fun n =>
    if own n then
      let l := s.streamBudgets n r
      ((l.map fun x => x.2.2.1).foldl max 0 + s.dBlock plan n + r.burst * (l.map fun x => x.2.2.2).foldl max 0) * 1000 + 20000
    else 0
  (sides ++ streams).foldl max 0

end Sys2Proof.Machine
end

