-- ==== Sys2Proof/Machine/Contexts.lean ====
section
/-!
DEFINITION. Sides' statuses, contexts and their KV reservations, allocation, eviction and restart, the admission queue
(R203, R268 to R275, R378).
-/
namespace Sys2Proof.Machine

/-! ## Statuses of a side (R378, R379) -/

/-- How the detail of a status joins when its code applies again: port masks are ORed, counts add, others keep their
first occurrence. -/
def joinDetail (code : Nat) (old new : Nat) : Nat :=
  if [0x0102, 0x0103, 0x0104, 0x0105, 0x0108, 0x0109].contains code then old ||| new
  else if code = 0x0302 ∨ code = 0x0403 then min 0xFFFF (old + new)
  else old

/-- A status entered in a list in ascending order of code. -/
def insertStatus (code detail : Nat) : List (Half × Half) → List (Half × Half)
  | [] => [(BitVec.ofNat 16 code, BitVec.ofNat 16 (min detail 0xFFFF))]
  | (c, d) :: rest =>
    if c.toNat = code then (c, BitVec.ofNat 16 (joinDetail code d.toNat (min detail 0xFFFF))) :: rest
    else if code < c.toNat then (BitVec.ofNat 16 code, BitVec.ofNat 16 (min detail 0xFFFF)) :: (c, d) :: rest
    else (c, d) :: insertStatus code detail rest

/-- A status added to a side. -/
def State.addStatus (s : State) (k code detail : Nat) : State :=
  s.onSide k fun x => { x with status := insertStatus code detail x.status }

/-- Whether a side carries a status. -/
def Side.has (x : Side) (code : Nat) : Bool := x.status.any fun q => q.1.toNat == code

/-! ## Recipes and partitions -/

/-- Whether the partition serves GALLOP. -/
def Partition.gallop (x : Partition) : Bool := match x.desc with
  | some d => bit d.gaits 0
  | none => false

/-- Whether the partition is SCHEDULED. -/
def Partition.scheduled (x : Partition) : Bool := match x.desc with
  | some d => d.mode == 1
  | none => false

/-- MAX_CONTEXTS of a partition. -/
def Partition.maxContexts (x : Partition) : Nat := match x.desc with
  | some d => d.maxContexts
  | none => 0

/-- The GALLOP recipe of a partition. -/
def State.gallopRecipe (s : State) (p : Fin 6) : Option Recipe :=
  if s.parts[p].gallop then s.recipeFor p 0 else none

/-! ## The KV pool of a partition (R203; log entry 14) -/

/-- The KV classes of a recipe. -/
def Recipe.classes (r : Recipe) : List KvRoot := (r.kvClass false).toList ++ (r.kvClass true).toList

/-- The bytes of the pool that the reservation of a context takes in a partition of `n` engines, in whole frames. -/
def KvRoot.extent (r : KvRoot) (n : Nat) : Nat := roundUp (r.needBytes n) 4096

/-- The reservation of whichever of some classes reserves more. -/
def largestExtent (classes : List KvRoot) (n : Nat) : Nat := (classes.map fun k => k.extent n).foldl max 0

/-- The reservation that the pool of a GALLOP partition holds back for each conforming context (R272). -/
def State.kvCell (s : State) (p : Fin 6) : Nat :=
  match s.gallopRecipe p with
  | some r => largestExtent r.classes s.parts[p].engines
  | none => 0

/-- Whether no reservation meets a range of the pool. -/
def State.kvClear (s : State) (p : Fin 6) (lo hi : Nat) : Bool :=
  !(s.parts[p].pools.any fun q => decide (q.lo < hi) && decide (lo < q.hi))

/-- Where a context's reservation of a class goes: for a conforming GALLOP context the first free place of the part held back for
MAX_CONTEXTS of them; otherwise the lowest room behind that part. None: the pool does not cover it. -/
def State.kvPlace (s : State) (p : Fin 6) (k : KvRoot) (g : Nat) (conforming : Bool) : Option Nat :=
  match s.parts[p].desc with
  | none => none
  | some d =>
    let need := k.extent s.parts[p].engines
    let cell := s.kvCell p
    let shared := d.kvBase + s.parts[p].maxContexts * cell
    let fits (a : Nat) : Bool := decide (a + need ≤ d.kvBase + d.kvFrames * 4096) && s.kvClear p a (a + need)
    let held := if g = 0 && conforming then
        ((List.range s.parts[p].maxContexts).map fun i => d.kvBase + i * cell).find? fits
      else none
    held.or (match (shared :: (s.parts[p].pools.map (·.hi)).filter fun a => decide (shared ≤ a)).filter fits with
      | [] => none
      | a :: rest => some (rest.foldl min a))

/-- The contexts of a partition. -/
def State.contextsOf (s : State) (p : Fin 6) : List Context := s.contexts.filter fun c => c.part == p

/-- The KV class of a context of a partition. -/
def State.classFor (s : State) (p : Fin 6) (g : Nat) (line : Bool) : Option KvRoot :=
  (s.recipeFor p g).bind fun r => r.kvClass line

/-- Whether the KV pool can cover a context's reservation. -/
def State.kvCovers (s : State) (p : Fin 6) (g : Nat) (line conforming : Bool) : Bool :=
  match s.classFor p g line with
  | none => true
  | some k => (s.kvPlace p k g conforming).isSome

/-- Member `m`'s root of a context whose reservation lies from `lo` on: the slots of every member, then their blocks, their roots
and their side tensors. Its free slots and blocks have the lowest on top; the lowest block is the empty layer block (R199). -/
def State.buildRoot (s : State) (p : Fin 6) (k : KvRoot) (n lo m : Nat) : State :=
  let slotArea := k.slotNeed * k.frames * 4096
  let blocks := lo + n * slotArea
  let block := blocks + m * k.blockNeed * 512
  let roots := blocks + n * k.blockNeed * 512
  let root := roots + 1024 * m
  let s := s.mainPut block (List.replicate 512 0)
  let img := patchAt k.raw 3 (leBytes 1 n ++ leBytes 1 m)
  let img := patchAt img 24 (leBytes 8 (lo + m * slotArea) ++ leBytes 4 k.slotNeed)
  let img := patchAt img 40 (leBytes 8 (roots + 1024 * n + m * k.slotNeed * k.sideBytes))
  let img := patchAt img 64 (leBytes 8 block)
  (s.mainPut root (img ++ List.replicate 512 0)).onPart p fun x => { x with
    pools := x.pools ++ [⟨root, lo, lo + k.extent n, List.range k.slotNeed,
      (List.range (k.blockNeed - 1)).map fun i => block + 512 * (i + 1)⟩] }

/-- The roots of a context built in a reservation: one for each member (R199, R434); the address of member 0's. -/
def State.buildRoots (s : State) (p : Fin 6) (k : KvRoot) (lo : Nat) : State × Nat :=
  let n := s.parts[p].engines
  ((List.range n).foldl (fun s m => s.buildRoot p k n lo m) s,
    lo + n * (k.slotNeed * k.frames * 4096) + n * k.blockNeed * 512)

/-- The reservation of a context returned to the pool; its look-aside entries are flushed (R227). -/
def State.freeKv (s : State) (c : Context) : State :=
  if c.kvRoots = 0 then s
  else
    let mine (a : Nat) : Bool := decide (c.kvRoots ≤ a) && decide (a < c.kvRoots + 1024 * s.parts[c.part].engines)
    let s := s.onPart c.part fun x => { x with pools := x.pools.filter fun q => !mine q.root }
    (s.members c.part).foldl (fun s e => s.onEngine e fun g => { g with lab := g.lab.filter fun l => !mine l.root }) s

/-- The KV pages of a context dropped; its reservation stays, with every slot and block free (R278). -/
def State.resetKv (s : State) (c : Context) : State :=
  match s.poolOf c.part c.kvRoots, s.classFor c.part c.gait.val c.line with
  | some q, some k => ((s.freeKv c).buildRoots c.part k q.lo).1
  | _, _ => s

/-! ## The context table and its cache (R270, R271) -/

/-- STATE of a context descriptor. -/
def CtxState.code : CtxState → Nat
  | .free => 0
  | .ready => 1
  | .inStep => 2
  | .waiting => 3
  | .done => 4

/-- The 64 bytes of a context's descriptor (R270). -/
def Context.bytes (c : Context) : List Byte :=
  leBytes 1 1 ++ leBytes 1 0 ++ leBytes 1 c.state.code
    ++ leBytes 1 (c.gait.val + 4 * c.part.val + 32 * b2n c.line + 64 * b2n c.fromReserve + 128 * b2n c.fallback)
    ++ leBytes 4 (c.id % 2 ^ 24) ++ leBytes 4 (c.parent % 2 ^ 24 + 2 ^ 24 * b2n c.reread + 2 ^ 25 * b2n c.trunc)
    ++ leBytes 4 c.chainPos ++ leBytes 8 c.sideId.toNat ++ leBytes 8 c.tStart ++ leBytes 8 (c.kvRoots % 2 ^ 44)
    ++ leBytes 8 (c.image % 2 ^ 44) ++ leBytes 8 c.aux ++ leBytes 8 c.lastUse

/-- The descriptor of an id; that of a free entry is zero but for its version and id (log entry 80). -/
def State.descriptor (s : State) (id : Nat) : List Byte :=
  match s.context? id with
  | some c => c.bytes
  | none => leBytes 1 1 ++ List.replicate 3 0 ++ leBytes 4 (id % 2 ^ 24) ++ List.replicate 56 0

/-- Descriptors that the arena caches. -/
def cacheEntries : Nat := 16384

/-- The lowest number not in use. -/
def freeId (used : List Nat) : Nat → Nat → Nat
  | 0, i => i
  | fuel + 1, i => if used.contains i then freeId used fuel (i + 1) else i

/-- A descriptor brought into the cache, or to its front: with the cache full, the least recently used one whose context is in no
step is written back to the table, and its place is taken (R271). -/
def State.holdDescriptor (s : State) (id : Nat) : State :=
  let l := s.mem.ctxCache
  let put (s : State) (place : Nat) (rest : List (Nat × Nat)) : State := { s with mem := { s.mem with ctxCache := (place, id) :: rest } }
  match l.find? fun x => x.2 == id with
  | some x => put s x.1 (l.erase x)
  | none =>
    if l.length < cacheEntries then put s (freeId (l.map (·.1)) l.length 0) l
    else
      let busy (x : Nat × Nat) : Bool := match s.context? x.2 with
        | some c => c.state == .inStep
        | none => false
      match l.reverse.find? fun x => !busy x with
      | some x => put (s.mainPut (s.boot.limits.ctxTableBase + 64 * x.2) (s.descriptor x.2)) x.1 (l.erase x)
      | none => s

/-! ## Releasing -/

/-- A context released. -/
def State.freeContext (s : State) (c : Context) : State :=
  let s := s.freeKv c
  { s with contexts := s.contexts.filter fun x => x.id != c.id }

/-- Every context of a side released, and its line requests dropped. -/
def State.freeSide (s : State) (k : Nat) : State :=
  let s := (s.contexts.filter fun c => c.side == k).foldl State.freeContext s
  { s with queue := s.queue.filter fun w => w.side != k }

/-! ## Restart (R275) -/

/-- A side put back in the admission queue at its original arrival time. -/
def State.requeue (s : State) (k : Nat) : State :=
  match s.side? k with
  | none => s
  | some x => { s with queue := s.queue ++ [⟨k, false, 0, x.gait, x.part, x.tArrive, x.conforming, false⟩] }

/-- A side restarted: its contexts are freed, every effect of its earlier steps is discarded, and it waits again at its
original arrival time with its image intact. The statuses that those steps gave it go with them. -/
def State.restartSide (s : State) (k detail : Nat) : State :=
  match s.side? k with
  | none => s
  | some x =>
    let s := s.freeSide k
    let s := s.onSide k fun y => { y with
      stage := .queued
      switched := false
      switchSp := 0
      switchFp := 0
      status := y.status.filter fun q => !([0x0301, 0x0302, 0x0308].contains q.1.toNat) }
    let s := (s.addStatus k 0x0303 detail).countPart x.part Part.sidesRestarted 1
    s.requeue k

/-! ## The Spur (R276, R277) -/

/-- The plan that a partition runs under. -/
def State.planOf (s : State) (p : Fin 6) : List (Option PartDesc) := s.boot.plans.getD s.parts[p].plan []

/-- The stretch factor of a gait of a partition, in 1/256 (R276). -/
def SpurGait.rho (x : SpurGait) : Nat :=
  if x.window.length < 64 then 256
  else
    let e := (x.window.map (·.1)).sum
    let b := (x.window.map (·.2)).sum
    min 65535 (max 256 (256 * e / b))

/-- A side switched at the first switch point at or after a position; none when it has switched, or no point remains, or
its recipe has no fallback (R277). Lines that have not started will start on the fallback decoder. -/
def State.switchSide (s : State) (c : Context) : Option State :=
  match s.side? c.side, s.recipeFor c.part c.gait.val with
  | some x, some r =>
    if x.switched || c.fallback || !r.hasFallback then none
    else
      match r.switchPoints.find? fun q => decide (c.chainPos ≤ q.1) with
      | none => none
      | some q =>
        let s := s.onSide c.side fun y => { y with switched := true, switchSp := q.1, switchFp := q.2 }
        let s := (s.addStatus c.side 0x0301 q.1).countPart c.part Part.fallbackSwitches 1
        some { s with contexts := s.contexts.map fun d =>
          if d.side = c.side ∧ d.line ∧ d.state = .ready ∧ d.chainPos = 0 ∧ !d.reread then { d with fallback := true } else d }
  | _, _ => none

/-- A side context that has reached its switch point continues on the fallback chain. -/
def State.settleSwitch (s : State) (id : Nat) : State :=
  match s.context? id with
  | none => s
  | some c =>
    match s.side? c.side with
    | none => s
    | some x =>
      if x.switched && !c.line && !c.fallback && decide (x.switchSp ≤ c.chainPos) then
        s.onContext id fun d => { d with fallback := true, chainPos := x.switchFp }
      else s

/-- The Spur's prediction for a side context that has not switched (R276). -/
def State.predict (s : State) (id : Nat) : State :=
  match s.context? id with
  | none => s
  | some c =>
    match s.side? c.side, s.recipeFor c.part c.gait.val with
    | some x, some r =>
      if c.line || x.switched || c.fallback || decide (c.gait.val > 1) then s
      else
        let rb := (r.rbP.getD (s.parts[c.part].engines - 1) []).getD c.chainPos 0
        let f := s.now + s.parts[c.part].spur[c.gait].rho * rb / 256 + s.tPub c.part (s.planOf c.part) r
        if f > c.tStart + r.deadline * 1000 then
          match s.switchSide c with
          | some s => s.settleSwitch id
          | none => s.countPart c.part Part.spurNoPoint 1
        else s
    | _, _ => s

/-! ## Allocation (R272) -/

/-- Entries of the context table. -/
def tableSize : Nat := 1048576

/-- Entries in use with FROM_RESERVE set, or without, in one partition. -/
def State.usedIn (s : State) (p : Fin 6) (reserve : Bool) : Nat :=
  s.contexts.countP fun c => c.part == p && c.fromReserve == reserve

/-- SHARED_USED. -/
def State.sharedUsed (s : State) : Nat := s.contexts.countP fun c => !c.fromReserve

/-- Whether a context is idle (R270). -/
def Context.idle (c : Context) : Bool := c.state == .ready || c.state == .waiting

/-- The WALK context that is evicted: idle, with the oldest LAST_USE, whose side has no context in a step. -/
def State.lruWalk (s : State) : Option Context :=
  let cands := s.contexts.filter fun c => c.gait == 3 && c.idle
    && !(s.contexts.any fun d => d.side == c.side && d.state == .inStep)
  match cands with
  | [] => none
  | c :: rest => some (rest.foldl (fun b x =>
      if x.lastUse < b.lastUse ∨ (x.lastUse = b.lastUse ∧ x.id < b.id) then x else b) c)

/-- What an attempt to allocate does. -/
inductive Alloc where
  | reserve
  | shared
  | evict (side : Nat)
  | wait
  | full
  deriving DecidableEq, Repr

/-- The branch of R272 that a request takes. -/
def State.allocKind (s : State) (w : Waiting) : Alloc :=
  let max := s.parts[w.part].maxContexts
  if w.gait = 0 && w.conforming && decide (s.usedIn w.part true < max) then .reserve
  else if s.usedIn w.part false ≥ max then .wait
  else if s.sharedUsed < tableSize - s.boot.limits.gallopReserve then .shared
  else if w.gait ≠ 3 then
    match s.lruWalk with
    | some c => .evict c.side
    | none => .full
  else .full

/-- A context made for a request. -/
def State.takeContext (s : State) (w : Waiting) (reserve : Bool) : State :=
  match s.side? w.side with
  | none => s
  | some x =>
    let id := freeId (s.contexts.map (·.id)) s.contexts.length 0
    let (s, roots) := match s.classFor w.part w.gait.val w.line with
      | some k => s.buildRoots w.part k ((s.kvPlace w.part k w.gait.val w.conforming).getD 0)
      | none => (s, 0)
    let img := match x.images with
      | i :: _ => i.addr
      | [] => 0
    let fused := match x.images.find? fun i => i.role == 3 with
      | some i => i.addr
      | none => 0
    let c : Context :=
      { id := id, state := .ready, gait := w.gait, part := w.part, line := w.line, fromReserve := reserve
        fallback := x.switched, parent := if w.line then w.parent else id, reread := false, trunc := false
        chainPos := 0, side := w.side, sideId := x.sideId, tStart := x.tStart.getD 0, kvRoots := roots, image := img
        aux := if w.line then s.now else fused, lastUse := s.now, readySince := s.now }
    let s := State.holdDescriptor { s with contexts := s.contexts ++ [c] } id
    if w.line then s
    else ((s.onSide w.side fun y => { y with stage := .active }).countPart w.part Part.sidesAdmitted 1).predict id

/-- A request counted once in CONTEXT_FULL. -/
def State.countFull (s : State) (w : Waiting) : State :=
  if w.counted then s
  else
    { s.countChip Chip.contextFull 1 with
      queue := s.queue.map fun x => if x = w then { x with counted := true } else x }

/-- An attempt to admit a waiting request; the second component says whether it was. -/
def State.admitOne (s : State) (w : Waiting) : State × Bool :=
  if !s.kvCovers w.part w.gait.val w.line w.conforming then (s, false)
  else
    let out (s : State) : State := { s with queue := s.queue.erase w }
    match s.allocKind w with
    | .reserve => ((out s).takeContext w true, true)
    | .shared => ((out s).takeContext w false, true)
    | .evict k => (((out s).countChip Chip.walkEvictions 1).restartSide k 0 |>.takeContext w false, true)
    | .wait => (s, false)
    | .full => (s.countFull w, false)

/-! ## Admission (R273) -/

/-- Whether one request goes before another (R273): lines first, then the lower gait code, conforming GALLOP sides before
others, the earlier arrival, the lower partition. -/
def Waiting.before (a b : Waiting) : Bool :=
  let key (w : Waiting) : List Nat :=
    [if w.line then 0 else 1, w.gait.val, if w.gait.val = 0 && !w.conforming then 1 else 0, w.arrival, w.part.val]
  decide (key a < key b)

/-- A request put in its place among others in order. -/
def insertWaiting (w : Waiting) : List Waiting → List Waiting
  | [] => [w]
  | x :: rest => if w.before x then w :: x :: rest else x :: insertWaiting w rest

/-- Requests in the order of R273. -/
def admissionOrder (l : List Waiting) : List Waiting := l.foldl (fun acc w => insertWaiting w acc) []

/-- Whether a request's partition admits work: it is bound, and the request does not wait for the switch of a recipe
(R259, R438). -/
def State.mayAdmit (s : State) (w : Waiting) : Bool :=
  let x := s.parts[w.part]
  x.bound && !x.rebinding
    && (match s.side? w.side with
      | some y => !(y.newRecipe && x.binding)
      | none => false)

/-- Whether a request stands among those that conform: a GALLOP request with a token (R272). -/
def Waiting.standing (w : Waiting) : Bool := w.gait == 0 && w.conforming

/-- Requests admitted in order; one that its partition cannot admit is overtaken by no later request of its partition and gait, and
blocks no other. An over-rate GALLOP request blocks only others that are over rate (R272). -/
def admitLoop : List Waiting → List (Fin 6 × Fin 4 × Bool) → State → State
  | [], _, s => s
  | w :: rest, blocked, s =>
    if blocked.contains (w.part, w.gait, true) || blocked.contains (w.part, w.gait, w.standing) then admitLoop rest blocked s
    else if !s.mayAdmit w then admitLoop rest ((w.part, w.gait, w.standing) :: blocked) s
    else
      match s.admitOne w with
      | (s, true) => admitLoop rest blocked s
      | (s, false) => admitLoop rest ((w.part, w.gait, w.standing) :: blocked) s

/-- One pass of admission. -/
def State.admitAll (s : State) : State :=
  if s.holderActs then admitLoop (admissionOrder s.queue) [] s else s

/-- The positions of the admission queue. -/
def queueMax : Nat := 4096

/-- Positions in use: side contexts that wait; line requests are held by their sides (R273). -/
def State.queueUsed (s : State) : Nat := s.queue.countP fun w => !w.line

end Sys2Proof.Machine
end

