-- ==== Sys2Proof/Machine/Records.lean ====
section
/-!
DEFINITION. Side records: their items, their place in the output spool and their publication (01, R23 to R31;
12, R362 to R380).
-/
namespace Sys2Proof.Machine

/-! ## Items (R374 to R378) -/

/-- An item: its head, its body, and zero padding to a multiple of 8. -/
def itemOf (type : Nat) (body : List Byte) : List Byte :=
  let size := roundUp (4 + body.length) 8
  leBytes 1 type ++ leBytes 3 size ++ body ++ List.replicate (size - 4 - body.length) 0

/-- The 8 bytes of a box. -/
def boxBytes (b : Box) : List Byte :=
  leBytes 2 b.x0.toNat ++ leBytes 2 b.y0.toNat ++ leBytes 2 b.x1.toNat ++ leBytes 2 b.y1.toNat

/-- A TEXT_LINE or FIELD item (R375, R376). -/
def itemBytes : Item → List Byte
  | .textLine index flags box chars conf text charConf =>
    itemOf 1 (leBytes 2 index.toNat ++ [flags &&& 7, 0] ++ boxBytes box ++ leBytes 2 text.length ++ leBytes 2 chars.toNat
      ++ leBytes 2 conf.toNat ++ [0, 0] ++ text ++ charConf)
  | .field key notFound conf boxes value =>
    itemOf 2 (leBytes 2 key.toNat ++ leBytes 1 boxes.length ++ leBytes 1 (b2n notFound) ++ leBytes 2 conf.toNat
      ++ leBytes 2 value.length ++ [0, 0, 0, 0] ++ boxes.flatMap boxBytes ++ value)

/-- What orders an item in its record: text lines by LINE_INDEX, then fields by KEY_ID. -/
def itemOrder : Item → Nat
  | .textLine index _ _ _ _ _ _ => index.toNat
  | .field key _ _ _ _ => 65536 + key.toNat

/-- An item put behind every item that does not order after it. -/
def insertItem (i : Item) : List Item → List Item
  | [] => [i]
  | x :: rest => if itemOrder i < itemOrder x then i :: x :: rest else x :: insertItem i rest

/-- Items in the order of R374; items of one key keep their order of emission. -/
def sortItems (l : List Item) : List Item := l.foldl (fun acc i => insertItem i acc) []

/-- The status item, absent when no status stands (R378). -/
def statusItem (st : List (Half × Half)) : List Byte :=
  if st.isEmpty then []
  else itemOf 4 (leBytes 2 st.length ++ [0, 0] ++ st.flatMap fun q => leBytes 2 q.1.toNat ++ leBytes 2 q.2.toNat)

/-- An IMAGE_REF item (R377). -/
def imageItem (i : ImageRef) (m : Nat) : List Byte :=
  itemOf 3 ([BitVec.ofNat 8 i.role, if i.rgb then 1 else 0, 0, 0] ++ leBytes 4 i.width ++ leBytes 4 i.height
    ++ leBytes 4 i.stride ++ [0, 0, 0, 0] ++ leBytes 8 m)

/-- Items kept from the front while they fit in `room` bytes. -/
def keepItems (room : Nat) : List (List Byte) → List (List Byte)
  | [] => []
  | i :: rest => if i.length ≤ room then i :: keepItems (room - i.length) rest else []

/-- The bytes of a record with the given statuses and items. -/
def recordBytes (st : List (Half × Half)) (items : List (List Byte)) : Nat :=
  32 + (statusItem st).length + (items.map List.length).sum

/-- Items dropped from the end, whole, past the limit; the statuses then name how many (R380). -/
def fitRecord (limit : Nat) (st : List (Half × Half)) (items : List (List Byte)) :
    List (Half × Half) × List (List Byte) :=
  if recordBytes st items ≤ limit then (st, items)
  else
    let room := limit - 32 - (statusItem (insertStatus 0x0403 1 st)).length
    let kept := keepItems room items
    (insertStatus 0x0403 (items.length - kept.length) st, kept)

/-- Whether the statuses gained OVERLONG. -/
def gainedOverlong (old new : List (Half × Half)) : Bool :=
  new.any (fun q => q.1 == 0x0403) && !old.any (fun q => q.1 == 0x0403)

/-! ## The spool (R370, R371) -/

/-- SIDE_RESERVE. -/
def State.sideReserve (s : State) : Nat := s.boot.limits.sideReserve

/-- FREE of the spool. -/
def State.spoolFree (s : State) : Nat := s.boot.limits.spoolBytes - s.host.spoolUsed - s.host.spoolResv

/-- The reserve: SIDE_RESERVE for each enabled side definition, and at least one. -/
def State.spoolReserve (s : State) : Nat :=
  s.sideReserve * max 1 ((List.finRange 8).countP fun d => (s.sideDef d).en)

/-- Whether a reservation leaves FREE at or above the reserve. -/
def State.grantOutright (s : State) (bytes : Nat) : Bool := decide (s.spoolReserve + bytes ≤ s.spoolFree)

/-- Whether a sheet may draw on the reserve. -/
def State.grantSheet (s : State) (bytes : Nat) : Bool := decide (bytes ≤ s.spoolFree)

/-- Bytes reserved. -/
def State.reserveSpool (s : State) (bytes : Nat) : State :=
  { s with host := { s.host with spoolResv := s.host.spoolResv + bytes } }

/-- A reservation that was not granted outright: the spool is at high water (R371). -/
def State.spoolEnterHigh (s : State) : State :=
  if s.host.spoolHigh then s
  else ({ s with host := { s.host with spoolHigh := true } }).countChip Chip.spoolHighWaters 1

/-- High water ends once a reservation of one side could be granted outright (log entry 16). -/
def State.spoolSettle (s : State) : State :=
  if s.host.spoolHigh && s.grantOutright s.sideReserve then { s with host := { s.host with spoolHigh := false } } else s

/-- The frames of a side released (R263). -/
def State.freeFrames (s : State) (k : Nat) : State := { s with frames := s.frames.filter fun f => f.owner != k }

/-- Input staging given back (R358). -/
def State.freeStage (s : State) (bytes : Nat) : State :=
  { s with host := { s.host with inRing := { s.host.inRing with stageUsed := s.host.inRing.stageUsed - bytes } } }

/-- A side that will be published with its statuses and no other item (R378). -/
def State.abandonSide (s : State) (k code detail : Nat) : State :=
  let s := s.freeSide k
  (s.addStatus k code detail).onSide k fun x => { x with statusOnly := true }

/-! ## Stalls (R372) -/

/-- OUT_SIZE in bytes. -/
def OutRing.bytes (r : OutRing) : Nat := r.size.toNat * 1024

/-- IMG_SIZE in bytes. -/
def OutRing.imgBytes (r : OutRing) : Nat := r.imgSize.toNat * 1048576

/-- The limit of a record of a ring (R380). -/
def State.recordLimit (s : State) (r : OutRing) : Nat :=
  min (min s.sideReserve (r.bytes / 4)) 16777208 / 8 * 8

/-- Where an image goes: the image count it is placed at, and the bytes used, the skipped tail included (R366). -/
def imagePlace (m size bytes : Nat) : Nat × Nat :=
  let off := m % size
  if off + bytes ≤ size then (m, bytes) else (m + (size - off), size - off + bytes)

/-- Images placed one after another: their counts, and the bytes they use. -/
def placeImages (m size : Nat) : List ImageRef → List (ImageRef × Nat) × Nat
  | [] => ([], 0)
  | i :: rest =>
    let (at_, used) := imagePlace m size (i.height * i.stride)
    let (l, n) := placeImages (m + used) size rest
    ((i, at_) :: l, used + n)

/-- A record as it would be published: its statuses, text and field items, images with their counts, image bytes used,
and the images left out as larger than the buffer. -/
structure Draft where
  status  : List (Half × Half)
  items   : List (List Byte)
  images  : List (ImageRef × Nat)
  used    : Nat
  skipped : Nat
  deriving DecidableEq, Repr

/-- The draft of a record (R366, R380). -/
def State.draftOf (s : State) (r : OutRing) (x : Rec) : Draft :=
  let want := if s.host.imageExport && r.imgSize != 0 then x.exports else []
  let fits := want.filter fun i => decide (i.height * i.stride ≤ r.imgBytes)
  let skip := want.filter fun i => !decide (i.height * i.stride ≤ r.imgBytes)
  let st := skip.foldl (fun st i => insertStatus 0x0404 i.role st) x.status
  let dummy := fits.map fun i => imageItem i 0
  let (st, kept) := fitRecord (s.recordLimit r) st (x.items ++ dummy)
  let (imgs, used) := placeImages r.imgCount r.imgBytes (fits.take (kept.length - x.items.length))
  let bad := imgs.any fun i => !s.mem.readable i.1.addr (i.1.height * i.1.stride)
  if bad then ⟨insertStatus 0x0401 0 x.status, [], [], 0, 0⟩
  else ⟨st, kept.take x.items.length, imgs, used, skip.length⟩

/-- The bytes of a draft's record. -/
def Draft.bytes (d : Draft) : Nat := recordBytes d.status (d.items ++ d.images.map fun i => imageItem i.1 i.2)

/-- Bytes skipped before a record of `len` bytes (R364). -/
def OutRing.skip (r : OutRing) (len : Nat) : Nat :=
  let left := r.bytes - r.prod.toNat % r.bytes
  if left < len then left else 0

/-- Whether the ring has room for `len` bytes. -/
def OutRing.room (r : OutRing) (len : Nat) : Bool :=
  decide (r.prod.toNat + r.skip len + len ≤ r.consSeen.toNat + r.bytes)

/-- Whether the image buffer has room for `used` bytes. -/
def OutRing.imgRoom (r : OutRing) (used : Nat) : Bool :=
  decide (used = 0) || decide ((r.imgSpans.map (·.bytes)).sum + used ≤ r.imgBytes)

/-- Whether the next record of a ring can be published now. -/
def State.canPublish (s : State) (p : Fin 6) : Bool :=
  let r := s.host.out[p]
  r.en && s.host.linkUp && (match r.records with
    | x :: _ =>
      let d := s.draftOf r x
      r.room d.bytes && r.imgRoom d.used
    | [] => false)

/-- Whether a ring is stalled: its next record is ready, and it is disabled, the link is down, or space lacks. -/
def State.isStalled (s : State) (p : Fin 6) : Bool := !s.host.out[p].records.isEmpty && !s.canPublish p

/-- The stall of a ring brought up to date: one begins, or one ends, is counted, and is reported when it had passed its
timeout. -/
def State.settleRing (s : State) (p : Fin 6) : State :=
  let r := s.host.out[p]
  match s.isStalled p, r.stallStart with
  | true, none => s.onOut p fun x => { x with stallStart := some s.now }
  | false, some t0 =>
    let s := (s.onOut p fun x => { x with stallStart := none, stalledOut := false }).countChip Chip.hostStallNs (s.now - t0)
    if r.stalledOut then
      s.log 0x0702 (srcPart p) (leBytes 4 (min 0xFFFFFFFF ((s.now - t0) / 1000000)))
    else s
  | _, _ => s

/-- Every ring's stall brought up to date. -/
def State.settleRings (s : State) : State := (List.finRange 6).foldl State.settleRing s

/-! ## RECORD_READY -/

/-- The deadline of a side in ns, for the gaits that have one. -/
def State.deadlineOf (s : State) (x : Side) : Option Nat :=
  if x.gait.val ≤ 1 then (s.recipeFor x.part x.gait.val).map fun r => r.deadline * 1000 else none

/-- The cause of LATE of a side past its deadline, and whether a BOUND_MISS is written (R31, R438). -/
def Side.lateCause (x : Side) : Nat × Bool :=
  if x.gait = 0 then
    if x.duringBind then (0, false)
    else if x.has 0x0305 then (3, false)
    else if x.holdSeen then (1, false)
    else if x.recoveries ≥ 2 then (2, false)
    else (0, true)
  else if x.holdSeen then (1, false)
  else if x.recoveries ≥ 2 then (2, false)
  else (0, false)

/-- LATE and BOUND_MISS of a side that is ready now. A side aborted by a cover or a cartridge has no T_START. -/
def State.judgeLate (s : State) (x : Side) : State :=
  match s.deadlineOf x, x.tStart with
  | some d, some t0 =>
    if s.now > t0 + d ∧ !x.has 0x0101 ∧ !x.has 0x0102 then
      let (cause, miss) := x.lateCause
      let s := s.addStatus x.key 0x0306 cause
      if miss then
        s.log 0x0402 (srcPart x.part) (leBytes 8 x.sideId.toNat ++ leBytes 4 (ceilDiv (s.now - t0 - d) 1000))
      else s
    else s
  | _, _ => s

/-- Whether a side's record can be completed: it ends with its statuses alone, or its side context is DONE. -/
def State.readyFor (s : State) (x : Side) : Bool :=
  x.stage != .ready
    && (x.statusOnly || s.contexts.any fun c => c.side == x.key && !c.line && c.state == .done)

/-- The images a recipe exports for a side, in the order of R374. -/
def State.exportsOf (s : State) (x : Side) : List ImageRef :=
  match s.recipeFor x.part x.gait.val with
  | some r => (List.range 4).flatMap fun k => if bit r.flags (1 + k) then x.images.filter fun i => i.role == k else []
  | none => []

/-- The records in the spool. -/
def State.spooled (s : State) : List Rec := s.host.out.toList.flatMap fun o => o.records

/-- A place for a record in the spool: the lowest that no waiting record overlaps (log entry 21). -/
def State.spoolPlace (s : State) (len : Nat) : Nat :=
  let l := s.boot.limits
  let starts := l.spoolBase :: s.spooled.map fun r => r.at_ + r.used
  let free (a : Nat) : Bool := decide (a + len ≤ l.spoolBase + l.spoolBytes)
    && s.spooled.all fun r => decide (a + len ≤ r.at_) || decide (r.at_ + r.used ≤ a)
  ((starts.filter free).foldl (fun (b : Option Nat) a => match b with
    | some m => some (min m a)
    | none => some a) none).getD l.spoolBase

/-- The header of a record (R373). -/
def recordHeader (ver : Half) (x : Rec) (st : List (Half × Half)) (plain : Bool) (len : Nat) : List Byte :=
  [ver.extractLsb' 8 8, ver.extractLsb' 0 8
  , BitVec.ofNat 8 (x.gait.val + 4 * x.part.val + 32 * (if x.host then 0 else x.sideDef.val))
  , BitVec.ofNat 8 (b2n x.host + 2 * b2n plain + 4 * b2n x.overlay + 8 * b2n (!st.isEmpty))]
  ++ leBytes 3 len ++ [x.recipe] ++ leBytes 8 x.sideId.toNat ++ leBytes 4 x.sheetId.toNat ++ leBytes 4 x.delta.toNat
  ++ leBytes 8 x.tCapture.toNat

/-- The record of a side, completed in the spool at T_READY. -/
def readyEffect (k : Nat) (items : List Item) (s : State) : State :=
  match s.side? k with
  | none => s
  | some x =>
    if !s.readyFor x then s
    else
      let s := s.judgeLate x
      let st := match s.side? k with
        | some y => y.status
        | none => x.status
      let body := if x.statusOnly then [] else (sortItems items).map itemBytes
      let (st', kept) := fitRecord (min s.sideReserve 16777208 / 8 * 8) st body
      let s := if gainedOverlong st st' then s.countChip Chip.overlongRecords 1 else s
      let t0 := x.tStart.getD s.now
      let r : Rec :=
        { part := x.part, gait := x.gait, sideDef := x.sideDef, host := x.host, overlay := x.overlay, recipe := x.recipe
          sideId := x.sideId, sheetId := x.sheetId
          delta := BitVec.ofNat 32 (min 0xFFFFFFFF (ceilDiv (s.now - t0) 1000)), tCapture := BitVec.ofNat 64 t0
          status := st', items := kept, exports := if x.statusOnly then [] else s.exportsOf x
          used := recordBytes st' kept, side := k, at_ := s.spoolPlace (recordBytes st' kept) }
      let s := s.mainPut r.at_ (recordHeader s.host.recVersion r st' kept.isEmpty r.used ++ statusItem st' ++ kept.flatMap id)
      let s := s.freeSide k
      let s := (s.freeStage x.stageBytes).onSide k fun y => { y with stage := .ready, stageBytes := 0, reserve := 0 }
      let s := { s with host := { s.host with
        spoolResv := s.host.spoolResv - x.reserve
        spoolUsed := s.host.spoolUsed + r.used } }
      let s := s.onOut x.part fun o => { o with records := o.records ++ [r] }
      s.spoolSettle.settleRing x.part

/-- RECORD_READY: a record completes assembly in the output spool (R23, R370). -/
def execRecordReady (side : Nat) (items : List Item) (t : Nat) (s : State) : Host.Outcome State Fault Refusal :=
  done s (readyEffect side items (s.at t))

/-! ## RECORD_PUBLISH -/

/-- A skip marker of `n` bytes; its bytes from the eighth on are undefined (R364; log entry 2). -/
def skipMarker (ctr n : Nat) : List Byte :=
  [0xFF, 0, 0, 0] ++ leBytes 3 n ++ [0] ++ (List.range (n - 8)).map fun i => Config.freeByte (ctr + i)

/-- A skip marker written where one is needed. -/
def State.putSkip (s : State) (p : Fin 6) (n : Nat) : State :=
  if n = 0 then s
  else
    let r := s.host.out[p]
    let s := s.hostWrite (r.base.toNat + r.prod.toNat % r.bytes) (skipMarker s.freeCtr n)
    ({ s with freeCtr := s.freeCtr + (n - 8) }).onOut p fun o => { o with prod := o.prod + BitVec.ofNat 64 n }

/-- An image copied into the image buffer. -/
def State.putImage (s : State) (p : Fin 6) (i : ImageRef × Nat) : State :=
  let r := s.host.out[p]
  s.hostWrite (r.imgBase.toNat + i.2 % r.imgBytes) (s.mem.bytes i.1.addr (i.1.height * i.1.stride))

/-- The vector of a ring signalled when COAL_RECORDS records have been published since it last was (R368). -/
def State.coalesce (s : State) (p : Fin 6) : State :=
  let r := s.host.out[p]
  if r.unsignalled + 1 ≥ r.coalRecords.toNat then
    (s.onOut p fun o => { o with unsignalled := 0, firstUnsig := none }).signal (Fin.ofNat 32 (8 + p.val))
  else s.onOut p fun o => { o with unsignalled := o.unsignalled + 1, firstUnsig := some (o.firstUnsig.getD s.now) }

/-- The next record of a ring written to host memory with its images, and the producer count advanced over it. -/
def State.publishNext (s : State) (p : Fin 6) : State :=
  let r := s.host.out[p]
  match r.records with
  | [] => s
  | x :: rest =>
    let d := s.draftOf r x
    let all := d.items ++ d.images.map fun i => imageItem i.1 i.2
    let len := d.bytes
    let s := s.putSkip p (r.skip len)
    let s := d.images.foldl (fun s i => s.putImage p i) s
    let r1 := s.host.out[p]
    let bytes := recordHeader s.host.recVersion x d.status all.isEmpty len ++ statusItem d.status ++ all.flatMap id
    let s := s.hostWrite (r1.base.toNat + r1.prod.toNat % r1.bytes) bytes
    let prod := r1.prod + BitVec.ofNat 64 len
    let s := s.hostWrite r1.prodAddr.toNat (leBytes 8 prod.toNat)
    let s := s.onOut p fun o => { o with
      prod := prod
      records := rest
      imgCount := o.imgCount + d.used
      imgSpans := if d.used = 0 then o.imgSpans else o.imgSpans ++ [⟨d.used, prod.toNat⟩] }
    let s := { s with host := { s.host with spoolUsed := s.host.spoolUsed - x.used } }
    let s := (s.countChip Chip.recordsPublished 1).countChip Chip.recordBytes len
    let s := if gainedOverlong x.status d.status then s.countChip Chip.overlongRecords 1 else s
    let s := if d.skipped > 0 then s.countChip Chip.imagesSkipped d.skipped else s
    let s := s.freeFrames x.side
    let s := ({ s with sides := s.sides.filter fun y => y.key != x.side }).countLife 3 1
    (s.coalesce p).spoolSettle

/-- The next record of a ring published when the ring and the image buffer have room (R364 to R366). -/
def publishEffect (p : Fin 6) (s : State) : State :=
  (if s.canPublish p then s.publishNext p else s).settleRing p

/-- RECORD_PUBLISH: the next ready record and its exported images are written and the producer count advanced (R365). -/
def execRecordPublish (p : Fin 6) (t : Nat) (s : State) : Host.Outcome State Fault Refusal :=
  done s (publishEffect p (s.at t))

/-! ## Consumer words, coalescing and stalls -/

/-- A consumer word read (R364): a value below OUT_CONS_SEEN or above the producer count is ignored and counted. -/
def consEffect (p : Fin 6) (count : DWord) (s : State) : State :=
  let r := s.host.out[p]
  if !r.en || !s.host.linkUp || r.records.isEmpty then s
  else if count < r.consSeen || count > r.prod then s.countChip Chip.ringErrors 1
  else
    (s.onOut p fun o => { o with
      consSeen := count
      imgSpans := o.imgSpans.filter fun i => decide (count.toNat < i.upTo) }).settleRing p

/-- OUT_CONS_POLL: while a record waits, the host's consumer word is read (R364). -/
def execOutConsPoll (p : Fin 6) (count : DWord) (t : Nat) (s : State) : Host.Outcome State Fault Refusal :=
  done s (consEffect p count (s.at t))

/-- A ring's vector signalled COAL_US after the first publication not yet signalled (R368). -/
def coalesceEffect (p : Fin 6) (s : State) : State :=
  let r := s.host.out[p]
  match r.firstUnsig with
  | some t0 =>
    if s.now ≥ t0 + r.coalUs.toNat * 1000 then
      (s.onOut p fun o => { o with unsignalled := 0, firstUnsig := none }).signal (Fin.ofNat 32 (8 + p.val))
    else s
  | none => s

/-- COALESCE_TIMEOUT (R368). -/
def execCoalesceTimeout (p : Fin 6) (t : Nat) (s : State) : Host.Outcome State Fault Refusal :=
  done s (coalesceEffect p (s.at t))

/-- A ring whose stall has lasted HOST_STALL_TIMEOUT (R372). -/
def stallEffect (p : Fin 6) (s : State) : State :=
  let r := s.host.out[p]
  match r.stallStart with
  | some t0 =>
    if !r.stalledOut && decide (s.now ≥ t0 + s.host.stallMs.toNat * 1000000) then
      ((s.onOut p fun o => { o with stalledOut := true }).countChip Chip.hostStalls 1).log 0x0701 (srcPart p) []
    else s
  | none => s

/-- HOST_STALL_TIMEOUT: a ring stalled for the timeout sets HOST_STALL (R372); vector 1 follows from the change. -/
def execHostStallTimeout (p : Fin 6) (t : Nat) (s : State) : Host.Outcome State Fault Refusal :=
  done s (stallEffect p (s.at t))

end Sys2Proof.Machine
end

