-- ==== Sys2Proof/Machine/Steps.lean ====
section
/-!
DEFINITION. Arrivals at stage 5, and batch steps: their formation, their posted lists, their retirement
(09_scheduling_and_partitions.md, R30, R264 to R279; 14, R431, R432).
-/
namespace Sys2Proof.Machine

/-! ## Token bucket and arrival (R30, R272 to R274) -/

/-- One side, in the units of the token bucket. -/
def tokenUnit : Nat := 1000000000000

/-- The token bucket of a partition refilled up to now. -/
def State.refillTokens (s : State) (p : Fin 6) : State :=
  match s.gallopRecipe p with
  | some r =>
    let x := s.parts[p]
    let level := min (r.burst * tokenUnit) (x.tokens + r.rate * (s.now - x.tokenTime))
    s.onPart p fun y => { y with tokens := level, tokenTime := s.now }
  | none => s

/-- The bucket of a partition filled, as at its binding. -/
def State.fillTokens (s : State) (p : Fin 6) : State :=
  match s.gallopRecipe p with
  | some r => s.onPart p fun y => { y with tokens := r.burst * tokenUnit, tokenTime := s.now }
  | none => s.onPart p fun y => { y with tokens := 0, tokenTime := s.now }

/-- GALLOP_TOKEN_REFILL: the token bucket of a partition refills at rate R up to depth B (R30). -/
def execGallopTokenRefill (p : Fin 6) (t : Nat) (s : State) : Host.Outcome State Fault Refusal :=
  done s ((s.at t).refillTokens p)

/-- A side that conforms takes a token; one that finds none carries OVER_RATE. -/
def State.meter (s : State) (x : Side) : State :=
  if x.gait ≠ 0 then s
  else
    let s := s.refillTokens x.part
    if s.parts[x.part].tokens ≥ tokenUnit then
      (s.onPart x.part fun y => { y with tokens := y.tokens - tokenUnit }).onSide x.key fun y => { y with conforming := true }
    else (s.onSide x.key fun y => { y with conforming := false }).addStatus x.key 0x0305 0

/-- A side at stage 5: its partition is gone, or the queue is full, or it is metered, queued, and admitted if it can be. -/
def arrivalEffect (k : Nat) (s : State) : State :=
  match s.side? k with
  | none => s
  | some x =>
    if x.stage ≠ .arriving ∨ x.statusOnly then s
    else if !s.parts[x.part].bound && !s.parts[x.part].rebinding then
      (s.abandonSide k 0x0303 4).freeFrames k
    else if s.queueUsed ≥ queueMax then
      if x.host then s else ((s.abandonSide k 0x0304 0).freeFrames k).countChip Chip.admitFull 1
    else
      let s := s.meter x
      let conf := match s.side? k with
        | some y => y.conforming
        | none => false
      let s := s.onSide k fun y => { y with stage := .queued, tArrive := s.now, arrived := true }
      let w : Waiting := ⟨k, false, 0, x.gait, x.part, s.now, conf, false⟩
      State.admitAll { s with queue := s.queue ++ [w] }

/-- SIDE_ARRIVAL: a side or sample reaches stage 5, is metered and requests a context or is queued (R30, R272, R274). -/
def execSideArrival (side : Nat) (t : Nat) (s : State) : Host.Outcome State Fault Refusal :=
  done s (arrivalEffect side (s.at t))

/-- ADMIT_FROM_QUEUE: waiting line requests and sides are admitted in the order of R273. -/
def execAdmitFromQueue (t : Nat) (s : State) : Host.Outcome State Fault Refusal := done s (s.at t).admitAll

/-! ## What an engine's commands write (R135) -/

/-- The footprints of the tensors that a command writes; those of an EXCHANGE's arena tensor stand apart (R242). -/
def State.outputFeet (s : State) (e : Fin 7) (d : List Byte) : List Foot :=
  match dOpcode d with
    | 0x01 => s.matmulWrites e d
    | 0x02 => s.vectorWrites e d
    | 0x03 => s.dataFoot e (trefAt d 80)
    | 0x10 => s.convWrites e d
    | 0x11 => s.poolWrites e d
    | 0x12 => s.dataFoot e (trefAt d 80) ++ (if bit (leAt d 176 1) 0 then s.dataFoot e (trefAt d 128) else [])
    | 0x13 => s.nmsWrites e d
    | 0x20 => s.trefFeet e (quantDesc d).out
    | 0x30 => s.attendWrites e d
    | 0x40 => s.dataFoot e (routeDesc d).table
    | 0x41 => s.exchWrites e (exchDesc d) ++ s.rowFields e (exchDesc d)
    | 0x42 => (adaptDesc d).outputs.flatMap fun t => s.dataFoot e t
    | _ => []

/-- The footprints that a command writes, its completion word among them. -/
def State.commandWrites (s : State) (e : Fin 7) (d : List Byte) : List Foot := s.outputFeet e d ++ s.complFoot e d

/-- The write footprints an engine publishes at the start of a step: those in the arena and in paddocks. -/
def State.publishedBy (s : State) (e : Fin 7) (cmds : List (List Byte)) : List Foot :=
  (cmds.flatMap fun d => s.commandWrites e d).filter fun f => f.store != .main

/-! ## Posting the lists of a step (R264, R432) -/

/-- What the patches of a step write. -/
structure PatchEnv where
  ctx    : Nat
  multi  : Bool
  gait   : Nat
  rows   : Nat
  image  : Nat
  root   : Nat
  table  : Nat
  segs   : Nat
  base   : Nat
  fused  : Nat
  compl  : Nat
  stepId : Nat
  deriving DecidableEq, Repr

/-- The low 44 bits of the 8 bytes at an offset replaced. -/
def put44 (d : List Byte) (off v : Nat) : List Byte :=
  patchAt d off (leBytes 8 (leAt d off 8 / 2 ^ 44 * 2 ^ 44 + v % 2 ^ 44))

/-- One patch of a descriptor; `k` is its place in the patch table, from which its completion word follows. -/
def PatchEnv.apply (v : PatchEnv) (k : Nat) (p : Patch) (d : List Byte) : List Byte :=
  match p.kind with
  | 1 => patchAt d p.off (leBytes 3 v.ctx)
  | 2 => patchAt d p.off (leBytes 1 (leAt d p.off 1 / 8 * 8 + b2n v.multi + 2 * v.gait))
  | 3 => patchAt d p.off (leBytes 4 v.rows)
  | 4 => put44 d p.off v.image
  | 5 => put44 d p.off v.root
  | 6 => put44 d p.off v.table
  | 7 => put44 d p.off v.segs
  | 8 => put44 d p.off (leAt d p.off 8 % 2 ^ 44 + v.base)
  | 9 => put44 d p.off v.fused
  | 10 => put44 d p.off (v.compl + 16 * k)
  | _ => d

/-- The commands of a logical engine, patched, each with the step's id. -/
def PatchEnv.list (v : PatchEnv) (patches : List Patch) (l : Nat) (cmds : List (List Byte)) : List (List Byte) :=
  (cmds.zipIdx).map fun c =>
    let d := (patches.zipIdx).foldl (fun d p => if p.1.logic = l ∧ p.1.cmd = c.2 then v.apply p.2 p.1 d else d) c.1
    patchAt d 12 (leBytes 4 v.stepId)

/-- Commands without those of excluded contexts; the last one left ends the list (R228). -/
def dropExcluded (excluded : List Nat) (cmds : List (List Byte)) : List (List Byte) :=
  if excluded.isEmpty then cmds
  else
    let kept := cmds.filter fun d => dMulti d || !excluded.contains (dContext d)
    match kept.getLast? with
    | some d => kept.dropLast ++ [patchAt d 3 (leBytes 1 (leAt d 3 1 ||| 2))]
    | none => []

/-- The line-decoder or side chain's next template of a context. -/
def State.templateOf (s : State) (c : Context) : Option Nat :=
  match s.recipeFor c.part c.gait.val with
  | some r => r.nextTemplate s.parts[c.part].engines c.line (c.fallback || c.reread) c.chainPos
  | none => none

/-- Where the images of a partition's work region end: its spill areas, then recipe images with their mirrors. -/
def Partition.workUsed (x : Partition) (base : Nat) : Nat :=
  x.images.foldl (fun m i => max m (max (i.base + i.bytes) (i.mirror + i.bytes))) base

/-- Bytes of the spill areas of the free-list stacks over `bytes` of KV pool: 4 for each slot and each block of as many reservations
of a class as the pool holds, for the class that has the most (R344). -/
def spillArea (classes : List KvRoot) (n bytes : Nat) : Nat :=
  roundUp ((classes.map fun k => 4 * (bytes / k.needBytes n) * (n * (k.slotNeed + k.blockNeed))).foldl max 0) 64

/-- The KV classes of the recipes bound for the gaits of a partition. -/
def State.kvClassesOf (s : State) (p : Fin 6) : List KvRoot :=
  (List.range 4).flatMap fun g => ((s.recipeFor p g).map Recipe.classes).getD []

/-- Bytes of the spill areas of a partition. -/
def State.spillBytes (s : State) (p : Fin 6) : Nat :=
  match s.parts[p].desc with
  | some d => spillArea (s.kvClassesOf p) s.parts[p].engines (d.kvFrames * 4096)
  | none => 0

/-- The first free byte of a work region for posted lists. -/
def State.listBase (s : State) (p : Fin 6) : Nat :=
  match s.parts[p].desc with
  | some d => roundUp (s.parts[p].workUsed (d.workBase + s.spillBytes p)) 64
  | none => 0

/-- Where a recipe's image lies in the work region of a partition. -/
def State.recipeBase (s : State) (p : Fin 6) (slot : Nat) (r : Recipe) : Nat :=
  match s.parts[p].images.find? fun i => i.slot == slot && i.digest == r.digest with
  | some i => i.base
  | none => 0

/-- W_g of a gait. -/
def PartDesc.weight (d : PartDesc) (g : Nat) : Nat :=
  if g = 1 then d.wCanter else if g = 2 then d.wTrot else d.wWalk

/-- V_g charged at issue by the declared bound (R268). -/
def State.chargeTime (s : State) (p : Fin 6) (g : Fin 4) (bound : Nat) : State :=
  match s.parts[p].desc with
  | some d =>
    if g = 0 ∨ d.weight g.val = 0 then s
    else s.onPart p fun x => { x with
      vTime := x.vTime.set g (x.vTime[g] + BitVec.ofNat 64 (bound * 256 / d.weight g.val)) }
  | none => s

/-- The bytes of the step context table (R432). -/
def stepTable (cs : List Context) : List Byte :=
  (cs.zipIdx).flatMap fun c =>
    leBytes 4 c.1.id ++ leBytes 2 (c.2 + 1) ++ [0, 0] ++ leBytes 8 c.1.image ++ leBytes 8 c.1.kvRoots
      ++ leBytes 8 (if c.1.line then 0 else c.1.aux)

/-- The segment tensor: row `i` of a context carries segment i + 1, a row without one carries segment 0 (R261). -/
def stepSegments (n rows : Nat) : List Byte := (List.range rows).flatMap fun i => leBytes 4 (if i < n then i + 1 else 0)

/-- Per-step state of an engine cleared when its list is posted. -/
def Engine.startStep (g : Engine) (published : List Foot) : Engine :=
  { g with clips := Vector.replicate 64 ⟨0, 0⟩, scoreLog := [], logUsed := [], published := published, held := none
           routeMaps := [], busy := true }

/-- What a step posts in the work region: its context table, its segment tensor, its completion words, the blank picture, and the
lists of its engines with the address of each; and where the lists end. -/
structure Posting where
  table  : Nat
  segs   : Nat
  compl  : Nat
  blank  : Nat
  lists  : List (List (List Byte))
  starts : List Nat
  endsAt : Nat
  deriving DecidableEq, Repr

/-- The addresses of lists laid one after another from an address on, each on a line of its own, and where they end. -/
def layLists (lists : List (List (List Byte))) (base : Nat) : List Nat × Nat :=
  lists.foldl (fun a l => (a.1 ++ [a.2], roundUp (a.2 + l.flatten.length) 64)) ([], base)

/-- The rows of a step: the compiled batch size in a SCHEDULED partition, otherwise one for each context (R261). -/
def stepRows (pd : PartDesc) (t : Template) (contexts : Nat) : Nat := if pd.mode = 1 then t.batch else contexts

/-- The posting of a step with some contexts, its lists patched with a step id. -/
def State.posting (s : State) (p : Fin 6) (pd : PartDesc) (slot : Fin 16) (r : Recipe) (t : Template) (run : StepRun)
    (stepId : Nat) : Posting :=
  let cs := run.contexts.filterMap fun i => s.context? i
  let rows := stepRows pd t cs.length
  let patches := r.patches t
  let table := s.listBase p
  let segs := roundUp (table + 32 * cs.length) 64
  let compl := roundUp (segs + 4 * rows) 64
  let blank := roundUp (compl + 16 * patches.length) 64
  let first := cs.head?
  let aux := first.elim 0 fun c => if c.line then 0 else c.aux
  let env : PatchEnv :=
    { ctx := first.elim 0 (·.id), multi := bit t.tflags 1, gait := run.gait.val, rows := rows
      image := first.elim 0 (·.image), root := first.elim 0 (·.kvRoots), table := table, segs := segs
      base := s.recipeBase p slot.val r, fused := if aux = 0 then blank else aux, compl := compl, stepId := stepId }
  let lists := (List.range t.engines).map fun l =>
    dropExcluded (run.excluded.map (·.1)) (env.list patches l (listCommands (r.listOf t l)))
  let laid := layLists lists (blank + 4096)
  ⟨table, segs, compl, blank, lists, laid.1, laid.2⟩

/-- A posting written to the work region. -/
def State.writePosting (s : State) (x : Posting) (cs : List Context) (rows : Nat) : State :=
  let s := s.mainPut x.table (stepTable cs)
  let s := s.mainPut x.segs (stepSegments cs.length rows)
  let s := s.mainPut x.blank (List.replicate 4096 255)
  (x.lists.zip x.starts).foldl (fun s (l : List (List Byte) × Nat) => s.mainPut l.2 l.1.flatten) s

/-- A step issued, or replayed, from its contexts and template: the lists are copied into the work region, patched and
posted (R264). A replay takes a new sequence number and is charged again (R268). The arena blocks of its exchanges belong to them
alone (R242). -/
def State.issueStep (s : State) (p : Fin 6) (run : StepRun) : State :=
  match s.parts[p].desc, s.slotFor p run.gait.val, s.recipeFor p run.gait.val with
  | some pd, some slot, some r =>
    match r.templates[run.template]? with
    | none => s
    | some t =>
      let cs := run.contexts.filterMap fun i => s.context? i
      let stepId := run.template * 2 ^ 20 + s.parts[p].seqNo.toNat
      let s := s.chargeTime p run.gait t.bound
      let x := s.posting p pd slot r t run stepId
      let s := s.writePosting x cs (stepRows pd t cs.length)
      let s := (x.lists.zipIdx).foldl (fun s (l : List (List Byte) × Nat) => match s.member? p l.2 with
        | some e =>
          let pub := s.publishedBy e l.1
          s.onEngine e fun g => g.startStep pub
        | none => s) s
      let empty := (x.lists.zipIdx).filterMap fun l => if l.1.isEmpty then s.member? p l.2 else none
      let s := run.contexts.foldl (fun s i => (s.onContext i fun c => { c with state := .inStep }).holdDescriptor i) s
      s.onPart p fun y => { y with
        seqNo := y.seqNo + 1
        step := some { run with
          stepId := BitVec.ofNat 32 stepId, started := s.now, bound := t.bound, retired := [], done := empty, faults := []
          fencing := [], waitRemount := false, lists := x.starts, members := s.members p, exchanges := []
          exchAreas := (exchBlocks x.lists.flatten pd.engines).map fun f => (none, f)
          exchCounts := [], masters := [], roots := [], takenSlots := [], freedSlots := [], takenBlocks := [], freedBlocks := []
          spareDraws := [], heldFill := [] } }
  | _, _, _ => s

/-! ## The training record of a new adapter (R249) -/

/-- The training record with which an adapter starts. -/
def Adapter.initialRecord (a : Adapter) : List Byte :=
  leBytes 2 (toCode 16 a.gInit) ++ [0, 0] ++ leBytes 4 0 ++ leBytes 4 fp32One.toNat ++ leBytes 4 fp32One.toNat

/-- The STEP commands of a template, engine by engine, with the recipe's base address patched in. -/
def State.stepsOf (s : State) (p : Fin 6) (slot : Nat) (r : Recipe) (t : Template) : List (Fin 7 × AdaptDesc) :=
  let base := s.recipeBase p slot r
  (List.range t.engines).flatMap fun l => match s.member? p l with
    | none => []
    | some e => ((listCommands (r.listOf t l)).zipIdx.map fun c =>
        ((r.patches t).filter fun q => q.kind == 8 && q.logic == l && q.cmd == c.2).foldl (fun d q =>
          put44 d q.off (leAt d q.off 8 % 2 ^ 44 + base)) c.1).filterMap fun d =>
      if dOpcode d = 0x42 ∧ (adaptDesc d).mode = 2 then some (e, adaptDesc d) else none

/-- The records of new adapters written where the STEP commands of their recipe read them (log entry 22). -/
def State.startAdapters (s : State) (p : Fin 6) (slot : Nat) (r : Recipe) (new : Nat → Bool) : State :=
  (r.templates.filter fun t => t.engines == s.parts[p].engines).foldl (fun (s : State) t =>
    ((s.stepsOf p slot r t).foldl (fun (a : State × List Master) x =>
      match r.tensorOf a.2 x.2.in0.count with
      | none => a
      | some (n, k) =>
        let s := match r.adapter n with
          | some y => if new n then (a.1.pokeSpace x.1 x.2.recIn.space x.2.recIn.addr y.initialRecord).1 else a.1
          | none => a.1
        (s, ⟨n, k, x.1, []⟩ :: a.2)) (s, [])).1) s

/-! ## Forming a step (R267, R268) -/

/-- Whether a verb pause or a throttle pause holds a gait of a partition (R383, R466). -/
def State.gaitHeld (s : State) (p : Fin 6) (g : Nat) : Bool :=
  s.parts[p].paused.getLsbD g || (decide (g ≥ 1) && decide (s.power.throttle.toNat ≥ 4 - g))

/-- Whether one context goes before another: by T_START, ties to the lower id. -/
def Context.before (a b : Context) : Bool := decide (a.tStart < b.tStart) || (a.tStart == b.tStart && decide (a.id < b.id))

/-- A context put in its place. -/
def insertContext (c : Context) : List Context → List Context
  | [] => [c]
  | x :: rest => if c.before x then c :: x :: rest else x :: insertContext c rest

/-- The ready contexts of a gait of a partition, in order. -/
def State.readyOf (s : State) (p : Fin 6) (g : Fin 4) : List Context :=
  (s.contexts.filter fun c => c.part == p && c.gait == g && c.state == .ready).foldl (fun l c => insertContext c l) []

/-- The gaits that take part at a step boundary. -/
def State.readyGaits (s : State) (p : Fin 6) : List (Fin 4) :=
  (List.finRange 4).filter fun g => !s.gaitHeld p g.val && !(s.readyOf p g).isEmpty

/-- A gait set as a mask. -/
def gaitMask (l : List (Fin 4)) : BitVec 4 := BitVec.ofNat 4 ((l.map fun g => 2 ^ g.val).sum)

/-- V_g of a gait that has become ready raised to the smallest V of the gaits that were ready before it (R268). -/
def State.syncTimes (s : State) (p : Fin 6) : State :=
  let x := s.parts[p]
  let now := s.readyGaits p
  let old := now.filter fun g => x.readyMask.getLsbD g.val
  match old with
  | [] => s.onPart p fun y => { y with readyMask := gaitMask now }
  | o :: rest =>
    let low := rest.foldl (fun m g => if x.vTime[g] < m then x.vTime[g] else m) x.vTime[o]
    let v := now.foldl (fun (v : Vector DWord 4) (g : Fin 4) =>
      if x.readyMask.getLsbD g.val then v else if v[g] < low then v.set g low else v) x.vTime
    s.onPart p fun y => { y with readyMask := gaitMask now, vTime := v }

/-- The gait of the next step: the ready gait with the smallest V_g, ties to the lower code (R268). -/
def State.chooseGait (s : State) (p : Fin 6) : Option (Fin 4) :=
  match s.readyGaits p with
  | [] => none
  | g :: rest => some (rest.foldl (fun b x => if s.parts[p].vTime[x] < s.parts[p].vTime[b] then x else b) g)

/-- Whether a command touches the KV root of its context: an ATTEND in paged mode, a KV_APPEND, a KV_EDIT. -/
def touchesRoot (d : List Byte) : Bool :=
  dOpcode d == 0x31 || dOpcode d == 0x32 || (dOpcode d == 0x30 && (attDesc d).paged)

/-- The score-log entries that a context may place on an engine in a step of a template: LOG_ALLOW of its root, where some engine's
commands touch it (R267). -/
def State.logAllowOf (s : State) (t : Template) (c : Context) : Nat :=
  match s.recipeFor c.part c.gait.val with
  | some r =>
    if (List.range t.engines).any fun l => (listCommands (r.listOf t l)).any touchesRoot then
      ((r.kvClass c.line).map KvRoot.logAllow).getD 0
    else 0
  | none => 0

/-- The contexts of a batch, taken in order while their number and their LOG_ALLOW values fit (R267). -/
def takeBatch (allow : Context → Nat) : Nat → Nat → List Context → List Context
  | 0, _, _ => []
  | _ + 1, _, [] => []
  | n + 1, room, c :: rest => if allow c ≤ room then c :: takeBatch allow n (room - allow c) rest else []

/-- Whether a partition may start a step now (R266, R280, R394, R411). -/
def State.mayStep (s : State) (p : Fin 6) : Bool :=
  let x := s.parts[p]
  s.up && s.holderActs && x.bound && !x.rebinding && x.step.isNone && s.power.hold.isNone

/-- Bytes in a unit of step scratch (R261, R344). -/
def scratchUnit : Nat := 65536

/-- The scratch of a step of `n` contexts in units, for each paddock and for the arena; none where `scratch` does not say it
(log entry 121). -/
def scratchOf (scratch : List (Nat × Nat)) (n : Nat) : Nat × Nat := scratch.getD (n - 1) (0, 0)

/-- Whether scratch fits PADDOCK_DYN and ARENA_DYN; a SCHEDULED partition has it placed by its schedule (R261). -/
def PartDesc.scratchFits (d : PartDesc) (x : Nat × Nat) : Bool :=
  d.mode == 1 || (decide (x.1 * scratchUnit ≤ d.paddockDyn) && decide (x.2 * scratchUnit ≤ d.arenaDyn))

/-- The largest batch of at most `n` contexts whose scratch fits, of one context at least (R261). -/
def PartDesc.fitBatch (d : PartDesc) (scratch : List (Nat × Nat)) : Nat → Nat
  | 0 => 0
  | n + 1 => if n = 0 ∨ d.scratchFits (scratchOf scratch (n + 1)) = true then n + 1 else d.fitBatch scratch n

/-- The units of scratch that a step places in the work region: all of it, where that of a single context does not fit. -/
def PartDesc.spillUnits (d : PartDesc) (x : Nat × Nat) : Nat := if d.scratchFits x then 0 else d.engines * x.1 + x.2

/-- Whether scratch of some units lies clear of a posting, from the top of the work region down (R344). -/
def PartDesc.spillFits (d : PartDesc) (units endsAt : Nat) : Bool :=
  units == 0 || decide (endsAt + units * scratchUnit ≤ d.workBase + d.workFrames * 4096)

/-- A step of a gait and template as it is formed. -/
def StepRun.formed (g : Fin 4) (t : Nat) (tm : Template) (c : Context) (ids : List Nat) (now : Nat) (u : Nat × Nat) (spill : Nat) :
    StepRun :=
  { gait := g, template := t, line := c.line, stepId := 0, contexts := ids, started := now, bound := tm.bound
    mode := .first, retired := [], done := [], faults := [], previous := [], faultCount := 0, fencing := [], faultAt := 0
    waitRemount := false, lists := [], members := [], recovered := false, exchanges := [], exchAreas := [], exchCounts := []
    masters := [], roots := [], takenSlots := [], freedSlots := [], takenBlocks := [], freedBlocks := [], spareDraws := []
    heldFill := [], excluded := [], oldestReady := c.readySince, scratch := u, spill := spill }

/-- A side that a batch takes: the recipe slot and the overlay its record will carry. -/
def State.tagSide (s : State) (p : Fin 6) (g : Fin 4) (k : Nat) : State :=
  let n := s.slotFor p g.val
  s.onSide k fun y => { y with
    recipe := BitVec.ofNat 8 (n.elim 0xFF (·.val)), overlay := (n.bind fun n => s.overlayFor p n).isSome }

/-- The next step of a partition formed and issued. Where the scratch of a single context finds no place, it waits (R344). -/
def State.formStep (s : State) (p : Fin 6) (scratch : List (Nat × Nat)) : State :=
  let s := s.syncTimes p
  match s.chooseGait p, s.parts[p].desc with
  | some g, some pd =>
    match s.readyOf p g, s.recipeFor p g.val, s.slotFor p g.val with
    | c :: rest, some r, some slot =>
      match s.templateOf c with
      | none => s
      | some t =>
        match r.templates[t]? with
        | none => s
        | some tm =>
          let cap := if bit tm.tflags 1 then (if pd.mode = 1 then tm.batch else pd.maxBatch) else 1
          let same := (c :: rest).filter fun d => s.templateOf d == some t && d.line == c.line
          let fit := takeBatch (s.logAllowOf tm) cap 16384 same
          let batch := fit.take (pd.fitBatch scratch fit.length)
          let u := scratchOf scratch batch.length
          let spill := pd.spillUnits u
          let run := StepRun.formed g t tm c (batch.map (·.id)) s.now (if spill = 0 then u else (0, 0)) spill
          if batch.isEmpty || !pd.spillFits spill (s.posting p pd slot r tm run 0).endsAt then s
          else (batch.foldl (fun (s : State) d => s.tagSide p g d.side) s).issueStep p run
    | _, _, _ => s
  | _, _ => s

/-! ## Lines (R278, R279) -/

/-- A running mean updated: the plain mean of the first 16, then M + (m - M) / 16, in FP32 (R93). -/
def meanNext (completed : Nat) (sum mean m : Word) : Word × Word :=
  if completed < 16 then
    let sum := fadd sum m
    (sum, if completed = 15 then fdiv sum (fp32Of (.fin false 16 0)) else mean)
  else (sum, fadd mean (fdiv (fsub m mean) (fp32Of (.fin false 16 0))))

/-- A count as FP32. -/
def natF32 (n : Nat) : Word := fp32Of (.fin false n 0)

/-- A completed attempt entered in a decoder's mean. -/
def LineMean.add (x : LineMean) (ns : Nat) : LineMean :=
  let (sum, mean) := meanNext x.completed x.sum x.mean (natF32 ns)
  ⟨x.completed + 1, sum, mean⟩

/-- The time cap of an attempt in ns. -/
def LineMean.cap (x : LineMean) (timeMax : Nat) : Nat :=
  if x.completed < 16 then timeMax else min timeMax (max 1000000 (roundF32 (fmul (natF32 100) x.mean)).toNat)

/-- Whether a line decodes on the fallback decoder. -/
def Context.onFallback (c : Context) : Bool := c.fallback || c.reread

/-- The mean of the decoder of a line: that of its recipe, or of the recipe's fallback (R278). -/
def State.decoderOf (s : State) (c : Context) : Fin 32 :=
  Fin.ofNat 32 (2 * (s.slotFor c.part c.gait.val).elim 0 (·.val) + b2n c.onFallback)

/-- Whether the attempt of a line has overrun (R278). -/
def State.lineOver (s : State) (c : Context) : Bool :=
  match s.recipeFor c.part c.gait.val with
  | some r =>
    let fb := c.onFallback
    let cap := (s.parts[c.part].means[s.decoderOf c]).cap ((if fb then r.timeMaxFb else r.timeMax) * 1000)
    decide (c.chainPos ≥ (if fb then r.tokenCapFb else r.tokenCap)) || decide (s.now - c.aux > cap)
  | none => false

/-- Whether a side has line requests waiting or live line contexts. -/
def State.linesOpen (s : State) (k : Nat) : Bool :=
  s.queue.any (fun w => w.side == k && w.line) || s.contexts.any (fun c => c.side == k && c.line)

/-- A side context whose lines are all final goes on: to its next template, or to its record. -/
def State.wakeSide (s : State) (k : Nat) : State :=
  if s.linesOpen k then s
  else match s.contexts.find? fun c => c.side == k && !c.line && c.state == .waiting with
    | some c => s.onContext c.id fun d => { d with
        state := if (s.templateOf c).isNone then .done else .ready
        readySince := s.now }
    | none => s

/-- A line released. -/
def State.endLine (s : State) (c : Context) : State := (s.freeContext c).wakeSide c.side

/-- The attempt of a line overruns: the first on the primary decoder is decoded again on the fallback; any other is
truncated. A recipe without a fallback line chain has no second attempt (log entry 17). -/
def State.lineOverrun (s : State) (c : Context) : State :=
  let fb := match s.recipeFor c.part c.gait.val with
    | some r => !(r.layout s.parts[c.part].engines).lineFallback.isEmpty
    | none => false
  if !c.onFallback && fb then
    ((s.resetKv c).countPart c.part Part.linesReread 1).onContext c.id fun d => { d with
      reread := true, chainPos := 0, aux := s.now, state := .ready, readySince := s.now }
  else
    (((s.onContext c.id fun d => { d with trunc := true }).addStatus c.side 0x0302 1).countPart c.part
      Part.linesTruncated 1).endLine c

/-- A line context after its step: its text is final, or its attempt overruns, or it goes on. -/
def State.lineAfter (s : State) (c : Context) (final : Bool) : State :=
  if final then
    let ns := s.now - c.aux
    (s.onPart c.part fun x => { x with means := vmod x.means (s.decoderOf c) fun m => m.add ns }).endLine c
  else if s.lineOver c then s.lineOverrun c
  else s.onContext c.id fun d => { d with state := .ready, readySince := s.now }

/-! ## Retirement -/

/-- A side context after its step: it asks for a line context for each line found, the Spur predicts its finish, and it
waits for its lines, goes on, or is done. -/
def State.sideAfter (s : State) (c : Context) (lines : Nat) : State :=
  let s := s.settleSwitch c.id
  let ended (s : State) : Bool := match s.context? c.id with
    | some d => (s.templateOf d).isNone
    | none => true
  let s := if ended s then s else s.predict c.id
  let conf := match s.side? c.side with
    | some x => x.conforming
    | none => false
  let s := { s with queue := s.queue ++ List.replicate lines ⟨c.side, true, c.id, c.gait, c.part, s.now, conf, false⟩ }
  let next : CtxState := if s.linesOpen c.side then .waiting else if ended s then .done else .ready
  s.onContext c.id fun d => { d with state := next, readySince := s.now }

/-- A context after a step that retired: CHAIN_POS moves on. -/
def State.contextAfter (s : State) (reports : List CtxReport) (id : Nat) : State :=
  let s := (s.onContext id fun c => { c with chainPos := c.chainPos + 1, lastUse := s.now }).holdDescriptor id
  match s.context? id with
  | none => s
  | some c =>
    let rep := (reports.find? fun r => r.ctx == id).getD ⟨id, 0, false⟩
    if c.line then s.lineAfter c rep.final else s.sideAfter c rep.lines

/-- The clip pairs of a step's engines added to the partition's totals, with CLIP_HIGH where an alarm is passed (R186). -/
def State.addClips (s : State) (p : Fin 6) (alarms : List Nat) : State :=
  let es := s.members p
  (List.finRange 64).foldl (fun (s : State) (i : Fin 64) =>
    let seen := (es.map fun e => s.engines[e].clips[i].seen.toNat).sum
    let sat := (es.map fun e => s.engines[e].clips[i].saturated.toNat).sum
    if seen = 0 ∧ sat = 0 then s
    else
      let s := s.onPart p fun x => { x with
        clipSeen := x.clipSeen.set i (bump x.clipSeen[i] seen), clipSat := x.clipSat.set i (bump x.clipSat[i] sat) }
      let a := alarms.getD i.val 0
      if a ≠ 0 ∧ sat * 65536 > a * seen then s.log 0x0403 (srcPart p) (leBytes 1 i.val) else s) s

/-- The counts of every exchange of a step added to EXPERT_LOAD (R245). -/
def State.addLoads (s : State) (p : Fin 6) (counts : List (Nat × Nat)) : State :=
  counts.foldl (fun s c =>
    s.onPart p fun x => { x with expertLoad := (List.range (min 48 (8 * x.engines))).foldl (fun v i =>
      bumpAt v i (leNat (cellsSlice 0 s.mem.arena (c.2 + 4 * i) 4))) x.expertLoad }) s

/-- The slots and blocks that a step released returned to their roots' reservations (R224). -/
def State.returnFreed (s : State) (p : Fin 6) (r : StepRun) : State :=
  let s := r.freedSlots.foldl (fun s q => s.giveSlots p q.1 [q.2]) s
  r.freedBlocks.foldl (fun s q => s.giveBlocks p q.1 [q.2]) s

/-- The masters kept of each adapter tensor: the two newest, which are the copies of both step parities (R249). -/
def keepMasters (l : List Master) : List Master :=
  l.foldl (fun acc m =>
    if acc.countP (fun x => x.adapter == m.adapter && x.tensor == m.tensor) < 2 then acc ++ [m] else acc) []

/-- Whether every engine of a step has retired its last command, with no fault reported (R264). -/
def State.stepDone (s : State) (p : Fin 6) (r : StepRun) : Bool :=
  r.faults.isEmpty && !r.waitRemount && r.exchanges.isEmpty && (s.members p).all fun e =>
    r.done.contains e && !s.engines[e].needFence

/-- The members' score logs applied, and what the step released returned. -/
def State.closeStep (s : State) (p : Fin 6) (r : StepRun) : State :=
  let s := (s.members p).foldl (fun s e => s.applyLog p e r.stepId.toNat) s
  let s := match s.parts[p].step with
    | some r => s.returnFreed p r
    | none => s
  (s.members p).foldl (fun s e => s.onEngine e fun g => { g with busy := false, published := [], routeMaps := [] }) s

/-- A context that failed in its step: with a code of R228 its side is published with the status of the same name; with
another code a line has overrun, and a side switches to its fallback or is published with what it has (R404). -/
def State.failContext (s : State) (id : Nat) (code : Half) (logical : Nat) : State :=
  match s.context? id with
  | none => s
  | some c =>
    if 0x0130 ≤ code.toNat ∧ code.toNat ≤ 0x0134 then s.abandonSide c.side (code.toNat + 0x01E0) logical
    else if c.line then s.lineOverrun c
    else match s.switchSide c with
      | some s =>
        ((s.addStatus c.side 0x0308 code.toNat).onContext id fun d => { d with state := .ready, readySince := s.now }).settleSwitch id
      | none => s.abandonSide c.side 0x0308 code.toNat

/-- The retirement of a step. -/
def retireEffect (p : Fin 6) (reports : List CtxReport) (s : State) : State :=
  match s.parts[p].step with
  | none => s
  | some r =>
    if !s.stepDone p r then s
    else
      let s := s.closeStep p r
      let alarms := match s.recipeFor p r.gait.val with
        | some x => x.clipAlarms
        | none => []
      let s := (s.addClips p alarms).addLoads p r.exchCounts
      let s := (s.onPart p fun x => { x with
        step := none
        masters := keepMasters (r.masters.reverse ++ x.masters)
        spur := vmod x.spur r.gait fun w => ⟨((s.now - r.oldestReady, r.bound) :: w.window).take 64⟩ }).countPart p
        Part.steps 1
      let s := r.excluded.foldl (fun s x => s.failContext x.1 x.2.1 x.2.2) s
      (r.contexts.filter fun i => !(r.excluded.any fun x => x.1 == i)).foldl (fun s i => s.contextAfter reports i) s

end Sys2Proof.Machine
end

