-- ==== Sys2Proof/Machine/Commands.lean ====
section
/-!
DEFINITION. The engine commands as they issue: what a command waits for, what a SCHEDULED step finds at issue, and the twenty-three
commands of the opcode table (04, R132, R134; 05, R158; 07, R223; 10, R293, R295, R311).
-/
namespace Sys2Proof.Machine

/-! ## What a command depends on (R132, R134, R143, R223) -/

/-- FENCE_BEFORE. -/
def dFence (d : List Byte) : Bool := bit (leAt d 3 1) 0

/-- Whether WAIT_MASK names the command of an index. -/
def dWaitsFor (d : List Byte) (i : Nat) : Bool :=
  decide (i < dIndex d) && decide (dIndex d - 1 - i < 32) && bit (leAt d 24 4) (dIndex d - 1 - i)

/-- The footprints of the tensors that a command reads. -/
def State.inputFeet (s : State) (e : Fin 7) (d : List Byte) : List Foot :=
  match dOpcode d with
  | 0x01 => s.matmulReads e d
  | 0x02 => s.vectorReads e d
  | 0x03 => s.dataFoot e (trefAt d 32)
  | 0x10 => s.convReads e d
  | 0x11 => s.poolReads e d
  | 0x12 => s.dataFoot e (trefAt d 32)
  | 0x13 => s.nmsReads e d
  | 0x20 => s.dataFoot e (quantDesc d).inp
  | 0x30 => s.attendReads e d
  | 0x31 => (appDesc d).tensors.flatMap fun t => s.dataFoot e t
  | 0x32 => s.dataFoot e (editDesc d).src
  | 0x40 => (routeDesc d).inputs.flatMap fun t => s.dataFoot e t
  | 0x41 => s.exchReads e (exchDesc d)
  | 0x42 => (adaptDesc d).inputs.flatMap fun t => s.dataFoot e t
  | _ => []

/-- Whether the footprints of a command and of an earlier one order them: it meets what the earlier one writes, or writes into what
it reads (R134). -/
def State.feetOrder (s : State) (e : Fin 7) (d earlier : List Byte) : Bool :=
  feetMeet (s.inputFeet e d ++ s.outputFeet e d) (s.outputFeet e earlier) || feetMeet (s.outputFeet e d) (s.inputFeet e earlier)

/-- Whether a command must wait for the retirement of an earlier one: FENCE_BEFORE, WAIT_MASK, footprints. -/
def State.dependsOn (s : State) (e : Fin 7) (d earlier : List Byte) : Bool :=
  dFence d || dWaitsFor d (dIndex earlier) || s.feetOrder e d earlier

/-- The root that a command of the KV cache names: that of an ATTEND in paged mode, a KV_APPEND, a KV_EDIT. -/
def kvRootNamed (d : List Byte) : Option Nat :=
  match dOpcode d with
  | 0x30 => if (attDesc d).paged then some (attDesc d).k.addr else none
  | 0x31 => some (appDesc d).kv.addr
  | 0x32 => some (editDesc d).kv.addr
  | _ => none

/-- Whether two commands take effect in the order of the list whatever their footprints: commands of one root (R223), and commands of
the cells, which share the held accumulators (R143). -/
def inListOrder (d earlier : List Byte) : Bool :=
  ((kvRootNamed d).isSome && kvRootNamed d == kvRootNamed earlier && (dOpcode d != 0x30 || dOpcode earlier != 0x30))
    || (cellCommand d && cellCommand earlier)

/-- The commands that stand before a command in the list posted to its engine and have not retired. -/
def State.earlier (s : State) (r : StepRun) (e : Fin 7) (d : List Byte) : List (List Byte) :=
  (s.unretired r e).filter fun x => decide (dIndex x < dIndex d)

/-! ## At issue (R158, R293, R295) -/

/-- The schedule entry of command `i` of a logical engine in a step. -/
def State.entryOf (s : State) (p : Fin 6) (r : StepRun) (l i : Nat) : Option SchedEntry :=
  ((s.recipeFor p r.gait.val).bind fun x => (x.templates[r.template]?).map fun t => (x.schedule t).getD l []).bind fun cmds =>
    cmds.findSome? fun c => if dIndex c.2 = i then some c.1 else none

/-- INBOUND_PHASES of a logical engine in a step. -/
def State.inboundPhases (s : State) (p : Fin 6) (r : StepRun) (l : Nat) : Nat :=
  ((s.recipeFor p r.gait.val).bind fun x => (x.templates[r.template]?).map fun t =>
    leAt (section_ x.bytes secSched) (t.schedOff + 8 + l) 1).getD 0

/-- Whether a command's PHASES meet those of an earlier unretired command, or INBOUND_PHASES (R295). -/
def State.phaseClash (s : State) (p : Fin 6) (r : StepRun) (e : Fin 7) (d : List Byte) (earlier : List (List Byte)) : Bool :=
  let l := s.engines[e].logical
  let phases (x : List Byte) : Nat := (s.entryOf p r l (dIndex x)).elim 0 (·.phases)
  phases d &&& s.inboundPhases p r l != 0 || earlier.any fun x => phases d &&& phases x != 0

/-- Whether a command's window slot is held by an earlier unretired command (R158). -/
def slotHeld (d : List Byte) (earlier : List (List Byte)) : Bool :=
  match windowSlotOf d with
  | some k => earlier.any fun x => windowSlotOf x == some k
  | none => false

/-- The contract faults that a SCHEDULED step finds at the issue of a command (R311). -/
def State.issueFaults (s : State) (p : Fin 6) (r : StepRun) (e : Fin 7) (d : List Byte) (earlier : List (List Byte)) : List Half :=
  (if s.phaseClash p r e d earlier then [stPhaseClash] else [])
    ++ (if earlier.any (s.dependsOn e d) then [stHazardUnmet] else [])
    ++ (if slotHeld d earlier then [stWindowSlotBusy] else [])

/-- What the issue of a command comes to. -/
inductive Issue where
  /-- It waits for an earlier command. -/
  | waits
  /-- It issues, with the contract faults found. -/
  | goes (faults : List Half)
  deriving DecidableEq, Repr

/-- The issue of a command on its engine. Under the MANAGED rules it waits for what it depends on and for its window slot; in a
SCHEDULED step the engine never waits, and what is not met is a fault. -/
def State.issueOf (s : State) (e : Fin 7) (d : List Byte) : Issue :=
  match s.engines[e].part with
  | none => .goes []
  | some p =>
    match s.parts[p].step with
    | none => .goes []
    | some r =>
      let before := s.earlier r e d
      if before.any (inListOrder d) then .waits
      else if s.parts[p].scheduled && r.mode != .managed then .goes (s.issueFaults p r e d before)
      else if before.any (s.dependsOn e d) || slotHeld d before then .waits
      else .goes []

/-- A command issued: nothing where its descriptor spells another command, or while it waits (log entry 122). -/
def State.issueCommand (s : State) (c : EngCall) (other : Bool) (run : EngCall → State → State) : State :=
  if other then s
  else
    match s.issueOf c.engine c.desc with
    | .waits => s
    | .goes faults => run { c with hw := c.hw ++ faults } s

/-! ## The commands -/

/-- MATMUL (R142). -/
def execMatmul (c : EngCall) (s : State) : Host.Outcome State Fault Refusal :=
  done s (s.issueCommand c (otherOpcode c.desc 0x01) runMatmul)

/-- MOVE (R148). -/
def execMove (c : EngCall) (s : State) : Host.Outcome State Fault Refusal :=
  done s (s.issueCommand c (otherOpcode c.desc 0x03) runMove)

/-- VECTOR: an engine runs a program per output element, with optional reduction (R146). -/
def execVector (c : EngCall) (s : State) : Host.Outcome State Fault Refusal :=
  done s (s.issueCommand c (otherOpcode c.desc 0x02) runVector)

/-- CONV: a convolution through the windowing unit and the cells (R149). -/
def execConv (c : EngCall) (s : State) : Host.Outcome State Fault Refusal :=
  done s (s.issueCommand c (otherOpcode c.desc 0x10) runConv)

/-- POOL: max, average or global pooling (R162). -/
def execPool (c : EngCall) (s : State) : Host.Outcome State Fault Refusal :=
  done s (s.issueCommand c (otherOpcode c.desc 0x11) runPool)

/-- ARGMAX: the index of the largest channel of each pixel (R166). -/
def execArgmax (c : EngCall) (s : State) : Host.Outcome State Fault Refusal :=
  done s (s.issueCommand c (otherOpcode c.desc 0x12) runArgmax)

/-- BOXNMS: candidate boxes decoded and suppressed (R170). -/
def execBoxnms (c : EngCall) (s : State) : Host.Outcome State Fault Refusal :=
  done s (s.issueCommand c (otherOpcode c.desc 0x13) runBoxnms)

/-- QUANTIZE: rows rotated if asked, then quantised into codes and scale entries (R180). -/
def execQuantize (c : EngCall) (s : State) : Host.Outcome State Fault Refusal :=
  done s (s.issueCommand c (otherOpcode c.desc 0x20) runQuantize)

/-- ATTEND: attention in FULL or PARTIAL mode over direct or paged keys and values (R213). -/
def execAttend (c : EngCall) (s : State) : Host.Outcome State Fault Refusal :=
  done s (s.issueCommand c (otherOpcode c.desc 0x30 || (dOpcode c.desc == 0x30 && (attDesc c.desc).merges)) runAttend)

/-- ATTEND_MERGE: the members' partials merged into the normalised output (R214). -/
def execAttendMerge (c : EngCall) (s : State) : Host.Outcome State Fault Refusal :=
  done s (s.issueCommand c (otherOpcode c.desc 0x30 || (dOpcode c.desc == 0x30 && !(attDesc c.desc).merges)) runAttendMerge)

/-- KV_APPEND: new keys and values quantised into KV pages (R218). -/
def execKvAppend (c : EngCall) (s : State) : Host.Outcome State Fault Refusal :=
  done s (s.issueCommand c (otherOpcode c.desc 0x31) runKvAppend)

/-- KV_EDIT PIN: sets PINNED on the valid pages in range (R221). -/
def execKvEditPin (c : EngCall) (s : State) : Host.Outcome State Fault Refusal :=
  done s (s.issueCommand c (otherEdit c.desc 0) (fun c => runKvEdit c changePin))

/-- KV_EDIT UNPIN: clears PINNED except on pages that hold a global position (R221). -/
def execKvEditUnpin (c : EngCall) (s : State) : Host.Outcome State Fault Refusal :=
  done s (s.issueCommand c (otherEdit c.desc 1) (fun c => runKvEdit c changeUnpin))

/-- KV_EDIT DROP: invalidates the pages in range (R221). -/
def execKvEditDrop (c : EngCall) (s : State) : Host.Outcome State Fault Refusal :=
  done s (s.issueCommand c (otherEdit c.desc 2) (fun c => runKvEdit c changeDrop))

/-- KV_EDIT CONVERT: rewrites the pages in range into NEW_FMT (R221). -/
def execKvEditConvert (c : EngCall) (s : State) : Host.Outcome State Fault Refusal :=
  done s (s.issueCommand c (otherEdit c.desc 3) (fun c => runKvEdit c (changeConvert (editDesc c.desc).newFmt)))

/-- KV_EDIT RESET: drops every page of the named layer or layers (R221). -/
def execKvEditReset (c : EngCall) (s : State) : Host.Outcome State Fault Refusal :=
  done s (s.issueCommand c (otherEdit c.desc 4) (fun c => runKvEdit c changeDrop))

/-- KV_EDIT SET_GLOBALS: replaces the global positions and pins the pages that hold them (R221). -/
def execKvEditSetGlobals (c : EngCall) (s : State) : Host.Outcome State Fault Refusal :=
  done s (s.issueCommand c (otherEdit c.desc 5) (fun c => runKvEdit c changeGlobal))

/-- ROUTE: experts ranked per token, picks assigned under capacity, the dispatch table written (R236). -/
def execRoute (c : EngCall) (s : State) : Host.Outcome State Fault Refusal :=
  done s (s.issueCommand c (otherOpcode c.desc 0x40) runRoute)

/-- EXCHANGE in the DISPATCH phase, issued by a member: checked, then held for the rendezvous at which the rows of its
EXPERT entries move into the inboxes (R240, R241). -/
def execExchangeDispatch (c : EngCall) (s : State) : Host.Outcome State Fault Refusal :=
  done s (s.issueCommand c (otherPhase c.desc 0) runExchange)

/-- EXCHANGE in the COMBINE phase, issued by a member: checked, then held for the rendezvous at which its tokens'
results are combined (R240, R243). -/
def execExchangeCombine (c : EngCall) (s : State) : Host.Outcome State Fault Refusal :=
  done s (s.issueCommand c (otherPhase c.desc 1) runExchange)

/-- ADAPT_UPDATE AUGMENT: a training image rotated, scaled, its contrast changed, noise added (R250). -/
def execAdaptAugment (c : EngCall) (s : State) : Host.Outcome State Fault Refusal :=
  done s (s.issueCommand c (otherMode c.desc 0) (fun c => runAdapt c (augEffect c.engine c.desc)))

/-- ADAPT_UPDATE GRAD: a gradient packed into FP8_E5M2, and the next exponent (R251). -/
def execAdaptGrad (c : EngCall) (s : State) : Host.Outcome State Fault Refusal :=
  done s (s.issueCommand c (otherMode c.desc 1) (fun c => runAdapt c (gradEffect c.engine c.desc)))

/-- ADAPT_UPDATE STEP: master, moments and record updated, or copied when skipped (R252). -/
def execAdaptStep (c : EngCall) (s : State) : Host.Outcome State Fault Refusal :=
  done s (s.issueCommand c (otherMode c.desc 2) (fun c => runAdapt c (stepEffect c.engine c.desc)))

end Sys2Proof.Machine
end

