-- ==== Sys2Proof/Machine/Plans.lean ====
section
/-!
DEFINITION. Partition plans: the checks of R258, R307, R341 and R342, the admission check of R27, the assignment of
engines (R475, R409), rebinding (R280 to R282), and the loss of an engine with no spare standing.
-/
namespace Sys2Proof.Machine

/-! ## Recipes as a plan would bind them -/

/-- The gaits of a descriptor, each with its recipe slot. -/
def PartDesc.served (d : PartDesc) : List (Nat × Nat) :=
  (List.range 4).filterMap fun g => if bit d.gaits g then some (g, d.recipes.getD g 0xFF) else none

/-- The recipes of a descriptor, one for each slot it names, in ascending gait. -/
def State.recipesOf (s : State) (d : PartDesc) : List (Nat × Recipe) :=
  (d.served.foldl (fun (l : List Nat) x => if l.contains x.2 then l else l ++ [x.2]) []).filterMap fun n =>
    (s.slotRecipe n).map fun r => (n, r)

/-! ## Partition checks (R258, R307) -/

/-- The slot plan that a descriptor names. -/
def State.slotPlanOf (s : State) (d : PartDesc) : Option SlotPlan := s.boot.slotPlans.find? fun x => x.offset == d.slotPlan

/-- Whether the fields of a descriptor lie within their ranges (R257). -/
def PartDesc.formatOk (d : PartDesc) : Bool :=
  d.verMajor == 1 && d.verMinor == 0 && decide (d.part ≤ 5) && within 1 6 d.engines && decide (d.mode ≤ 1)
    && decide (d.shadow ≤ 1) && (d.shadow == 0 || d.gaits == 1) && within 1 48 d.tagQuota && within 1 1024 d.maxBatch
    && within 1 1048576 d.maxContexts && d.captureBase % 65536 == 0 && d.kvBase % 65536 == 0 && d.workBase % 65536 == 0
    && d.paddockDyn % 65536 == 0 && decide (d.paddockDyn ≤ paddockBytes) && d.arenaDyn % 65536 == 0
    && (if d.mode = 1 then d.paddockDyn == 0 && d.arenaDyn == 0 && d.slotPlan != 0 else d.slotPlan == 0)
    && d.recipes.all fun n => decide (n ≤ 15) || n == 0xFF

/-- Whether a gait's weight agrees with GAITS. -/
def PartDesc.weightsOk (d : PartDesc) : Bool :=
  [1, 2, 3].all fun g => if bit d.gaits g then within 1 255 (d.weight g) else d.weight g == 0

/-- Whether GAITS, weights and recipe slots agree, no slot is empty, and each recipe allows its gait. -/
def State.gaitsOk (s : State) (d : PartDesc) : Bool :=
  d.gaits % 16 != 0 && d.weightsOk
    && (List.range 4).all fun g =>
      let n := d.recipes.getD g 0xFF
      if bit d.gaits g then (match s.slotRecipe n with
        | some r => r.allows g
        | none => false)
      else n == 0xFF

/-- Whether a gait of a partition serves an enabled stream. -/
def State.servesStream (s : State) (p g : Nat) : Bool :=
  (List.finRange 64).any fun n => bit s.streamA[n].toNat 0 && wbits s.streamA[n] 8 3 == p && wbits s.streamA[n] 11 2 == g

/-- The fault of a descriptor's recipes, by the checks of R435 and R292. -/
def State.recipesFault (s : State) (d : PartDesc) : Option Byte :=
  firstReason (d.served.map fun x => match s.slotRecipe x.2 with
    | some r => (r.fault [d.engines] (s.servesStream d.part x.1)).or (if d.mode = 1 then r.scheduledFault d.engines else none)
    | none => some rePlanGaits)

/-- Whether frame `f` of a superframe is a refresh frame (R305). -/
def refreshFrame (f : Nat) : Bool := decide (9 ≤ f % 16)

/-- The fault of a slot plan in itself (R307). -/
def SlotPlan.fault (x : SlotPlan) (d : PartDesc) : Option Byte :=
  firstReason
    [ refuse (x.reservedZero && x.grants.all fun w => bits w.toNat 28 4 == 0) reReserved
    , refuse (x.verMajor == 1 && x.verMinor == 0 && x.contractRev == 1 && x.part == d.part
        && [1, 2, 4, 8].contains x.chanCount && x.chanBase % x.chanCount == 0 && decide (x.chanBase + x.chanCount ≤ 12)
        && (x.grants.zipIdx).all fun g => (!refreshFrame (g.2 % 64) || g.1 == 0)
          && (List.range 14).all fun k => bits g.1.toNat (2 * k) 2 != 3) reSlotFormat
    , refuse (decide (d.bwMin ≤ x.bandwidth)) reSlotShort ]

/-- Whether the channel groups of two slot plans share a channel (R307, R318). -/
def SlotPlan.clashes (a b : SlotPlan) : Bool :=
  decide (a.chanBase < b.chanBase + b.chanCount) && decide (b.chanBase < a.chanBase + a.chanCount)

/-- The partition check of descriptor `i` of a plan; `before` are the slot plans of lower descriptors. -/
def State.partFault (s : State) (before : List PartDesc) (d : PartDesc) : Option Byte :=
  firstReason
    [ refuse d.reservedZero reReserved
    , refuse (d.formatOk && !before.any fun x => x.part == d.part) rePlanFormat
    , refuse (s.gaitsOk d) rePlanGaits
    , s.recipesFault d
    , if d.mode = 1 then (match s.slotPlanOf d with
        | some x => (x.fault d).or (refuse (!(before.filterMap fun y => if y.mode = 1 then s.slotPlanOf y else none).any
            fun y => x.clashes y) reSlotClash)
        | none => some reSlotFormat)
      else none ]

/-! ## Plan checks (R258, R341, R342, R369) -/

/-- A byte range. -/
abbrev Span := Nat × Nat

/-- Whether two ranges that are not empty overlap. -/
def spansMeet (a b : Span) : Bool := decide (a.2 > 0) && decide (b.2 > 0) && decide (a.1 < b.1 + b.2) && decide (b.1 < a.1 + a.2)

/-- Whether no two ranges of a list overlap. -/
def spansApart (l : List Span) : Bool := pairwiseB (fun a b => !spansMeet a b) l

/-- The areas of main memory that the limits block sets. -/
def Limits.areas (l : Limits) : List Span :=
  [ (l.ctxTableBase, 67108864), (l.spoolBase, l.spoolBytes), (l.inputStageBase, l.inputStageBytes)
  , (l.stageBase, l.stageBytes) ]

/-- The areas of the arena that the limits block sets. -/
def Limits.arenaAreas (l : Limits) : List Span := (l.shadowBase, l.shadowBytes) :: l.arenaBase.zip l.arenaBytes

/-- The regions of a descriptor. -/
def PartDesc.regions (d : PartDesc) : List Span :=
  [(d.captureBase, d.captureFrames * 4096), (d.kvBase, d.kvFrames * 4096), (d.workBase, d.workFrames * 4096)]

/-- The offset of a mirror copy from its primary: 384 more than a multiple of 768, past the image (R330). -/
def mirrorOffset (bytes : Nat) : Nat := 768 * ceilDiv (bytes - 384) 768 + 384

/-- Bytes that a recipe image takes in a work region with its mirror. -/
def imageSpan (bytes : Nat) : Nat := roundUp (mirrorOffset (roundUp bytes 64) + roundUp bytes 64) 64

/-- The KV classes of a descriptor's recipes. -/
def State.classesOf (s : State) (d : PartDesc) : List KvRoot :=
  (s.recipesOf d).flatMap fun x => x.2.classes

/-- Whether the work region holds the spill areas and the recipe images of a descriptor (R344, R437). -/
def State.workFits (s : State) (d : PartDesc) : Bool :=
  decide (spillArea (s.classesOf d) d.engines (d.kvFrames * 4096) + ((s.recipesOf d).map fun x => imageSpan x.2.bytes.length).sum ≤ d.workFrames * 4096)

/-- Whether the regions of a plan lie in the data range, apart from one another and from every area, a SCHEDULED
partition's inside its channel group's window. -/
def State.regionsOk (s : State) (ok : List PartDesc) : Bool :=
  let l := s.boot.limits
  spansApart (l.areas ++ ok.flatMap PartDesc.regions) && spansApart l.arenaAreas
    && ok.all (fun d => d.regions.all fun r => decide (r.2 = 0) || decide (r.1 + r.2 ≤ s.mem.dataEnd))
    && ok.all (fun d => s.workFits d)
    && ok.all (fun d => d.mode != 1 || (match s.slotPlanOf d with
      | some x => d.regions.all fun r => decide (r.2 = 0)
          || (decide (x.chanBase * winBytes ≤ r.1) && decide (r.1 + r.2 ≤ (x.chanBase + x.chanCount) * winBytes))
      | none => true))

/-- Whether a GALLOP partition's contexts are covered: by count, and by its KV pool (R258). -/
def State.reserveOk (s : State) (d : PartDesc) : Bool :=
  match s.slotRecipe (d.recipes.getD 0 0xFF) with
  | some r =>
    decide ((r.burst + 1) * r.ctxPerSide ≤ d.maxContexts)
      && decide (d.maxContexts * largestExtent r.classes d.engines ≤ d.kvFrames * 4096)
  | none => true

/-- Engines in service (R353). -/
def State.inService (s : State) : Nat := (List.finRange 7).countP fun e => s.engines[e].role == .inService

/-- The plan check over the partitions that passed their own. -/
def State.planFault (s : State) (ok : List PartDesc) : Option Byte :=
  let gallop := ok.filter fun d => bit d.gaits 0
  let slots := ok.filterMap fun d => if d.mode = 1 then s.slotPlanOf d else none
  firstReason
    [ refuse (decide ((ok.map (·.engines)).sum ≤ s.inService)) rePlanEngines
    , refuse (s.regionsOk ok) rePlanRegions
    , refuse (pairwiseB (fun (a b : PartDesc) => a.ports &&& b.ports == 0) ok) rePlanPorts
    , refuse (decide ((ok.map (·.tagQuota)).sum ≤ 48)) rePlanTags
    , refuse (decide ((gallop.map (·.maxContexts)).sum ≤ s.boot.limits.gallopReserve) && gallop.all s.reserveOk) reContextReserve
    , refuse (decide (s.feRate + 160000 + grantedTotal slots ≤ 170800)) reRecoveryShort ]

/-! ## The admission check (R26 to R28) -/

/-- L_WORST of a GALLOP partition in ns (R26). -/
def State.lWorst (s : State) (p : Fin 6) (plan : List (Option PartDesc)) (d : PartDesc) (shadow : Bool) (r : Recipe) : Nat :=
  let sv := r.serviceTime d.engines
  s.tTail p plan r + (r.burst - 1) * sv + 205000 + sv + (if shadow then 590000 else 910000) + s.tPub p plan r

/-- The admission check of a GALLOP recipe: its reason, or L_WORST. DESIGN CHOICE, log entry 115: the other GALLOP partitions'
declared minima (R28) are the BW_MIN of those descriptors of the plan that passed their own checks. -/
def State.admission (s : State) (plan : List (Option PartDesc)) (ok : List PartDesc) (d : PartDesc) (shadow : Bool)
    (r : Recipe) : Except Byte Nat :=
  let p := Fin.ofNat 6 d.part
  let ly := r.layout d.engines
  let bounds := (ly.sidePrimary ++ ly.linePrimary ++ ly.sideFallback ++ ly.lineFallback).filterMap fun t =>
    (r.templates[t]?).map (·.bound)
  let slots := ok.filterMap fun x => if x.mode = 1 then s.slotPlanOf x else none
  let others := ((ok.filter fun x => bit x.gaits 0 && x.part != d.part).map (·.bwMin)).sum
  let taken := s.feRate + grantedTotal slots + 160000 + others
  let l := s.lWorst p plan d shadow r
  match firstReason
    [ refuse (d.gaits == 1) reGallopNotReserved
    , refuse (r.rate != 0 && r.burst != 0) reNoArrivalDecl
    , refuse r.hasFallback reNoFallback
    , refuse (bounds.all fun b => decide (b ≤ 200000)) reStepOver
    , refuse (decide (r.bwMinDecl ≤ d.bwMin) && decide (d.bwMin + taken ≤ 170800)) reBandwidthShort
    , refuse (decide (r.rate * r.serviceTime d.engines ≤ 1000000000000)) reRateExceeds
    , refuse (decide (l ≤ r.deadline * 1000)) reDeadlineUnmet ] with
  | some reason => .error reason
  | none => .ok l

/-- What a plan makes of one of its partitions. -/
structure Verdict where
  desc   : PartDesc
  reason : Option Byte
  atAdmission : Bool        -- the reason is the admission check's
  shadow : Bool
  lw     : Nat         -- L_WORST in us, rounded up
  deriving DecidableEq, Repr

/-- The partition checks of a plan, in order. -/
def State.partVerdicts (s : State) : List PartDesc → List PartDesc → List Verdict
  | _, [] => []
  | before, d :: rest => ⟨d, s.partFault before d, false, false, 0⟩ :: s.partVerdicts (before ++ [d]) rest

/-- Shadow copies placed in ascending partition: a recipe of at most 2 MiB, while the area holds them (R343). -/
def State.shadowVerdicts (s : State) : Nat → List Verdict → List Verdict
  | _, [] => []
  | room, v :: rest =>
    let need := match s.slotRecipe (v.desc.recipes.getD 0 0xFF) with
      | some r => if r.residentBytes ≤ 2097152 then some (v.desc.engines * r.residentBytes) else none
      | none => none
    match need with
    | some n =>
      if v.reason.isNone && v.desc.shadow == 1 && decide (n ≤ room) then { v with shadow := true } :: s.shadowVerdicts (room - n) rest
      else v :: s.shadowVerdicts room rest
    | none => v :: s.shadowVerdicts room rest

/-- Verdicts in ascending partition number. -/
def sortVerdicts (l : List Verdict) : List Verdict :=
  (List.range 256).flatMap fun p => l.filter fun v => v.desc.part == p

/-- A plan evaluated: the reason of a failing plan check, and what becomes of each partition. -/
def State.evalPlan (s : State) (plan : List (Option PartDesc)) : Option Byte × List Verdict :=
  let vs := sortVerdicts (s.partVerdicts [] (plan.filterMap id))
  let ok := (vs.filter fun v => v.reason.isNone).map (·.desc)
  match s.planFault ok with
  | some r => (some r, vs)
  | none =>
    let vs := s.shadowVerdicts s.boot.limits.shadowBytes vs
    (none, vs.map fun v =>
      if v.reason.isNone && bit v.desc.gaits 0 then
        match s.slotRecipe (v.desc.recipes.getD 0 0xFF) with
        | some r => match s.admission plan ok v.desc v.shadow r with
          | .ok l => { v with lw := ceilDiv l 1000 }
          | .error e => { v with reason := some e, atAdmission := true }
        | none => v
      else v)

/-- A rejection reported: REASON of the partition and its PLAN_REJECT (R29). -/
def State.rejectPart (s : State) (p : Fin 6) (reason : Byte) (plan : Nat) : State :=
  (s.onPart p fun x => { x with reason := reason }).log 0x0401 (srcPart p) [reason, BitVec.ofNat 8 plan]

/-- The rejections of an evaluated plan reported: a plan check's for every partition that passed its own. -/
def State.reportRejects (s : State) (plan : Nat) (fault : Option Byte) (vs : List Verdict) : State :=
  vs.foldl (fun s v =>
    if v.desc.part ≤ 5 then
      match v.reason.or fault with
      | some r => s.rejectPart (Fin.ofNat 6 v.desc.part) r plan
      | none => s
    else s) s

/-! ## Engines (R475, R409, R461) -/

/-- The lowest logical index that a partition does not use. -/
def State.freeLogical (s : State) (p : Fin 6) : Nat :=
  freeId ((s.members p).map fun e => s.engines[e].logical) 7 0

/-- What a domain's bit reads once the switches in progress have ended. -/
def Power.domainAhead (p : Power) (bit_ : Nat) : Bool :=
  match p.switching.find? fun r => r.1 == bit_ with
  | some r => r.2
  | none => p.domains.getLsbD bit_

/-- A switch of an engine's domains asked for (R462): PD_En and PD_Pn are one request. -/
def State.askDomain (s : State) (bit_ : Nat) (on : Bool) : State :=
  { s with power := { s.power with requests :=
    (s.power.requests.filter fun r => r.1 != bit_) ++ (if s.power.domainAhead bit_ = on then [] else [(bit_, on)]) } }

/-- An engine given to a partition. -/
def State.giveEngine (s : State) (e : Fin 7) (p : Fin 6) (logical : Nat) : State :=
  (s.onEngine e fun g => { g with role := .inService, part := some p, logical := logical }).askDomain e.val true

/-- An engine taken from its partition. -/
def State.dropEngine (s : State) (e : Fin 7) : State :=
  (s.onEngine e fun g => { g with part := none, logical := 0, busy := false }).askDomain e.val false

/-- Steps 1 and 2 of R409: every partition keeps its engines in ascending logical index up to its count. -/
def State.keepEngines (s : State) (counts : Fin 6 → Nat) : State :=
  (List.finRange 6).foldl (fun s p => ((s.members p).drop (counts p)).foldl State.dropEngine s) s

/-- The lowest-index engine in service that no partition holds. -/
def State.freeEngine (s : State) : Option (Fin 7) :=
  (List.finRange 7).find? fun e => s.engines[e].role == .inService && s.engines[e].part.isNone

/-- A partition that grows takes free engines, lowest index first. `fuel` bounds how many. -/
def State.growTo (s : State) (p : Fin 6) (count : Nat) : Nat → State
  | 0 => s
  | fuel + 1 =>
    if (s.members p).length < count then
      match s.freeEngine with
      | some e => (s.giveEngine e p (s.freeLogical p)).growTo p count fuel
      | none => s
    else s

/-- Step 4 of R409: partitions that grow take engines in ascending number. -/
def State.growEngines (s : State) (counts : Fin 6 → Nat) : State :=
  (List.finRange 6).foldl (fun s p => s.growTo p (counts p) 7) s

/-- ENGINES of every partition brought up to date. -/
def State.countEngines (s : State) : State :=
  (List.finRange 6).foldl (fun s p => s.onPart p fun x => { x with engines := (s.members p).length }) s

/-- The counts of a plan's partitions that bind. -/
def bindCounts (verdicts : List (Nat × Nat × Bool)) (plan : List (Option PartDesc)) (p : Fin 6) : Nat :=
  if verdicts.any fun v => v.1 == p.val then
    match (plan.filterMap id).find? fun d => d.part == p.val with
    | some d => d.engines
    | none => 0
  else 0

/-! ## Binding a partition -/

/-- The resident weights of an engine's partition, with its active overlays, loaded into its paddock (R253, R343, R408). -/
def State.loadResident (s : State) (e : Fin 7) : State :=
  (s.weightImages e).reverse.foldl (fun s w => s.paddockWrite e w.1 w.2) s

/-- A place for a recipe image in a work region: the lowest that clears every image there (R437). -/
def placeImage (x : Partition) (lo hi bytes : Nat) : Option Nat :=
  let span := imageSpan bytes
  let starts := lo :: x.images.map fun i => roundUp (i.base + imageSpan i.bytes) 64
  let free (a : Nat) : Bool := decide (lo ≤ a) && decide (a + span ≤ hi)
    && x.images.all fun i => !spansMeet (a, span) (i.base, imageSpan i.bytes)
  ((starts.filter free).foldl (fun (b : Option Nat) a => match b with
    | some m => some (min m a)
    | none => some a) none)

/-- A recipe copied into a partition's work region, with its mirror; false when there is no room. -/
def State.placeRecipe (s : State) (p : Fin 6) (slot : Nat) (r : Recipe) : State × Bool :=
  match s.parts[p].desc with
  | none => (s, false)
  | some d =>
    if s.parts[p].images.any fun i => i.slot == slot && i.digest == r.digest then (s, true)
    else
      match placeImage s.parts[p] (roundUp (d.workBase + s.spillBytes p) 64) (d.workBase + d.workFrames * 4096) r.bytes.length with
      | none => (s, false)
      | some a =>
        let m := a + mirrorOffset (roundUp r.bytes.length 64)
        let s := (s.mainPut a r.bytes).mainPut m r.bytes
        (s.onPart p fun x => { x with images := x.images ++ [⟨slot, r.digest, a, r.bytes.length, m⟩] }, true)

/-- RECIPE_BOUND (R451). -/
def State.logBound (s : State) (p : Fin 6) (slot : Nat) (r : Recipe) : State :=
  s.log 0x010A (srcPart p) ([BitVec.ofNat 8 slot, BitVec.ofNat 8 r.copy] ++ r.digest.take 8)

/-- A recipe bound: its image is in the work region, its binding is logged, and the adapters of a training recipe that was not
bound there before start with their initial records (R249, R437). -/
def State.bindRecipe (s : State) (p : Fin 6) (slot : Nat) (r : Recipe) (new : Bool) : State :=
  let s := (s.placeRecipe p slot r).1.logBound p slot r
  if new && (s.slotFor p 3).elim false (fun n => n.val == slot) then s.startAdapters p slot r fun _ => true else s

/-- The slot plans of the bound SCHEDULED partitions put in force. -/
def State.settleSlotPlans (s : State) : State :=
  { s with mem := { s.mem with slotPlans := (List.finRange 6).filterMap fun p =>
    match s.parts[p].desc with
    | some d => if s.parts[p].bound && d.mode == 1 then s.slotPlanOf d else none
    | none => none } }

/-- Virtual times, stretch factors, line means and the token bucket as at a binding (R268, R276, R278, R30). -/
def State.freshTimes (s : State) (p : Fin 6) : State :=
  (s.onPart p fun x => { x with
    vTime := Vector.replicate 4 0, readyMask := 0, spur := Vector.replicate 4 ⟨[]⟩
    means := Vector.replicate 32 LineMean.reset }).fillTokens p

/-- The reload of a partition's shadow given up. -/
def State.stopReload (s : State) (p : Fin 6) : State :=
  { s with mem := { s.mem with reloading := s.mem.reloading.filter fun q => q != p } }

/-- A partition bound under a descriptor: its recipes placed and its engines loaded. Its contexts stay (R280), and so do their KV
reservations. -/
def State.bindPart (s : State) (p : Fin 6) (d : PartDesc) (lw : Nat) (shadow : Bool) : State :=
  let s := s.stopReload p
  let s := s.onPart p fun x => { x with
    desc := some d, bound := true, rebinding := false, shadow := shadow, lWorst := BitVec.ofNat 32 lw
    binding := false, waitBind := false, nextRecipes := none
    images := if (x.desc.map fun e => e.workBase) = some d.workBase then x.images else [] }
  let there := s.parts[p].images
  let s := (s.recipesOf d).foldl (fun s x =>
    s.bindRecipe p x.1 x.2 (!(there.any fun i => i.slot == x.1 && i.digest == x.2.digest))) s
  ((s.members p).foldl State.loadResident s).freshTimes p

/-- A partition that no longer exists, or is left unbound. -/
def State.unbindPart (s : State) (p : Fin 6) (desc : Option PartDesc) : State :=
  (s.stopReload p).onPart p fun x => { x with
    desc := desc, bound := false, rebinding := false, shadow := false, lWorst := 0, binding := false, waitBind := false
    nextRecipes := none, images := [], pools := [], step := none }

/-- Every side that a partition holds, from stage 5 to its record, published as lost with it (R280, R282). -/
def State.losePart (s : State) (p : Fin 6) : State :=
  let s := (s.sides.filter fun x => x.part == p && x.arrived && x.stage != .ready).foldl (fun s x =>
    let s := (s.abandonSide x.key 0x0303 4).freeFrames x.key
    let s := s.onSide x.key fun y => { y with reserve := 0 }
    { s with host := { s.host with spoolResv := s.host.spoolResv - x.reserve } }) s
  (s.onPart p fun x => { x with step := none }).spoolSettle

/-! ## Selection and rebinding (R280 to R282) -/

/-- A plan of the bundle. -/
def State.planAt (s : State) (n : Nat) : List (Option PartDesc) := s.boot.plans.getD n []

/-- A descriptor without its recipe slots. -/
def PartDesc.core (d : PartDesc) : PartDesc := { d with recipes := [] }

/-- Whether a selection affects a partition (R280). -/
def State.affects (s : State) (plan : List (Option PartDesc)) (vs : List Verdict) (p : Fin 6) : Bool :=
  let x := s.parts[p]
  let binds := vs.any fun v => v.desc.part == p.val && v.reason.isNone
  x.bound != binds || x.desc.map PartDesc.core != (descIn plan p).map PartDesc.core

/-- The verdicts of the partitions that bind, as the rebinding keeps them. -/
def keptVerdicts (vs : List Verdict) : List (Nat × Nat × Bool) :=
  (vs.filter fun v => v.reason.isNone).map fun v => (v.desc.part, v.lw, v.shadow)

/-- A selection begun: the affected partitions stop forming steps. -/
def State.startRebind (s : State) (n : Nat) (vs : List Verdict) (fromVerb : Bool) : State :=
  let aff := (List.finRange 6).filter fun p => s.affects (s.planAt n) vs p
  let s := aff.foldl (fun s p => s.onPart p fun x => { x with rebinding := true }) s
  { s with rebind := ⟨.draining, n, aff.map (·.val), fromVerb, keptVerdicts vs⟩ }

/-- The reason for which a selection is refused: a plan check, or an admission check (R29). -/
def selectReason (e : Option Byte × List Verdict) : Option Byte :=
  e.1.or ((e.2.filter fun v => v.atAdmission).findSome? fun v => v.reason)

/-- A selection through BAR0: refused with its reason, or begun. One that is requested while another is in progress fails the
plan check with PLAN_BUSY and is reported as every rejection is (R29, R258). The second component is the reason. -/
def State.selectPlan (s : State) (n : Nat) : State × Option Byte :=
  if s.rebind.stage ≠ .idle then
    (s.reportRejects n (some rePlanBusy) (sortVerdicts (s.partVerdicts [] ((s.planAt n).filterMap id))), some rePlanBusy)
  else
    let e := s.evalPlan (s.planAt n)
    match selectReason e with
    | some r =>
      (s.reportRejects n e.1 (if e.1.isSome then e.2 else e.2.filter fun v => v.reason.isSome), some r)
    | none => ((s.reportRejects n none e.2).startRebind n e.2 true, none)

/-- Whether a partition has a sensor port, and so sheet gaps. -/
def State.hasPorts (s : State) (p : Fin 6) : Bool := match s.parts[p].desc with
  | some d => (List.finRange 4).any fun n => s.ports[n].cfgEn && bit d.ports n.val
  | none => false

/-- The binding point of a partition (R438): later sides run on the new recipe and wait for the switch. -/
def State.bindPoint (s : State) (p : Fin 6) : State :=
  s.onPart p fun x => if x.waitBind then { x with waitBind := false, binding := true } else x

/-- A partition told to bind: at once when it has no sensor port, otherwise at its next sheet gap. -/
def State.askBind (s : State) (p : Fin 6) : State :=
  let s := s.onPart p fun x => { x with waitBind := true }
  if s.hasPorts p then s else s.bindPoint p

/-- Whether a Remount is in progress. -/
def State.remounting (s : State) : Bool := (List.finRange 6).any fun p => match s.parts[p].step with
  | some r => r.waitRemount
  | none => false

/-- Contexts of the affected partitions released or kept, and engines moved, once every step has retired (R280). An engine
fault is recovered first (R281). -/
def drainedEffect (s : State) : State :=
  let rb := s.rebind
  let aff := (List.finRange 6).filter fun p => rb.affected.contains p.val
  if rb.stage ≠ .draining ∨ aff.any (fun p => s.parts[p].step.isSome) ∨ s.remounting ∨ !s.holderActs then s
  else
    let plan := s.planAt rb.target
    let counts := bindCounts rb.verdicts plan
    let s := aff.foldl (fun s p =>
      if !s.parts[p].bound then s
      else if !(rb.verdicts.any fun v => v.1 == p.val) then s.losePart p
      else if counts p ≠ s.parts[p].engines then
        let keys := ((s.contextsOf p).map (·.side)).eraseDups
        keys.foldl (fun s k => s.restartSide k 1) s
      else s) s
    let s := ((s.keepEngines counts).growEngines counts).countEngines
    { s with rebind := { s.rebind with stage := .loading } }

/-- REBIND_DRAINED: the affected partitions' steps have retired; contexts are released or kept, engines and regions
rebound (R280). -/
def execRebindDrained (t : Nat) (s : State) : Host.Outcome State Fault Refusal := done s (drainedEffect (s.at t))

/-- The affected partitions bound under the selected plan, once a Remount in progress has ended (R281). -/
def completeEffect (s : State) : State :=
  let rb := s.rebind
  let plan := s.planAt rb.target
  let aff := (List.finRange 6).filter fun p => rb.affected.contains p.val
  let waiting := (List.finRange 7).any fun e =>
    s.engines[e].part.isSome && !s.power.domains.getLsbD e.val
  if rb.stage ≠ .loading ∨ waiting ∨ s.remounting ∨ s.power.hold.isSome ∨ !s.holderActs then s
  else
    let s := aff.foldl (fun (s : State) (p : Fin 6) => match rb.verdicts.find? (fun v => v.1 == p.val), descIn plan p with
      | some v, some d => s.bindPart p d v.2.1 v.2.2
      | _, d => s.unbindPart p d) s
    let s := (List.finRange 6).foldl (fun (s : State) (p : Fin 6) =>
      let d := descIn plan p
      let s := s.onPart p fun x => { x with plan := rb.target }
      if aff.contains p ∨ s.parts[p].desc = d then s
      else (s.onPart p fun x => { x with nextRecipes := d.map (·.recipes) }).askBind p) s
    let s := s.settleSlotPlans
    let s := (List.finRange 4).foldl (fun s t => s.onTransport t fun x => { x with pendBind := true }) s
    let s := { s with rebind := ⟨.idle, 0, [], false, []⟩ }
    let s := if rb.fromVerb then { s with host := { s.host with box := { s.host.box with outcome := some (0, 0) } } } else s
    s.admitAll

/-- REBIND_COMPLETE: the affected partitions are bound, REBINDING clears and step formation resumes (R280). -/
def execRebindComplete (t : Nat) (s : State) : Host.Outcome State Fault Refusal := done s (completeEffect (s.at t))

/-! ## The loss of an engine with no spare (R281, R282, R409) -/

/-- Whether an alternative keeps every GALLOP partition with its engine count, and every port and stream bound. -/
def State.keepsAll (s : State) (plan : List (Option PartDesc)) : Bool :=
  let ds := plan.filterMap id
  (List.finRange 6).all (fun p =>
    !(s.parts[p].bound && s.parts[p].gallop) || (match s.parts[p].desc, descIn plan p with
      | some a, some b => a.engines == b.engines && bit b.gaits 0
      | _, _ => false))
    && (List.finRange 4).all (fun n =>
      !((List.finRange 6).any fun p => s.parts[p].bound && (match s.parts[p].desc with
        | some d => bit d.ports n.val
        | none => false)) || ds.any fun d => bit d.ports n.val)
    && (List.finRange 64).all (fun n =>
      !(s.streams[n].enabled && s.parts[s.streams[n].boundPart].bound)
        || ds.any fun d => d.part == wbits s.streamA[n] 8 3 && bit d.gaits (wbits s.streamA[n] 11 2))

/-- The lowest-numbered declared alternative that qualifies, with its verdicts. DESIGN CHOICE, log entry 116: an alternative
that fails the check in this search is no selection, and writes no record. -/
def State.alternative (s : State) : Option (Nat × List Verdict) :=
  (List.range s.boot.planCount).findSome? fun n =>
    if n = 0 then none
    else
      let plan := s.planAt n
      let (f, vs) := s.evalPlan plan
      if f.isNone && vs.all (fun v => v.reason.isNone) && s.keepsAll plan then some (n, vs) else none

/-- A selection of the host superseded by the Rein's: its verb completes with PLAN_BUSY (R281). -/
def State.supersede (s : State) : State :=
  if s.rebind.stage ≠ .idle && s.rebind.fromVerb then
    let s := (List.finRange 6).foldl (fun s p => s.onPart p fun x => { x with rebinding := false }) s
    { s with
      rebind := ⟨.idle, 0, [], false, []⟩
      host := { s.host with box := { s.host.box with outcome := some (rePlanBusy, 0) } } }
  else s

/-- A partition that lost an engine and has no alternative becomes unbound with ENGINE_LOSS (R282). -/
def State.engineLoss (s : State) (p : Fin 6) : State :=
  let s := s.losePart p
  let plan := s.parts[p].plan
  let desc := s.parts[p].desc
  let s := (s.members p).foldl State.dropEngine s
  ((s.unbindPart p desc).countEngines.settleSlotPlans).rejectPart p reEngineLoss plan

end Sys2Proof.Machine
end

