-- ==== Sys2Proof/Machine/Recover.lean ====
section
/-!
DEFINITION. Step faults and their recovery: the watchdog, the schedule's overruns, restoration and replay, fencing, the
Remount and the spare (07, R225, R228; 09, R265; 10, R311, R313; 11, R330; 13, R402 to R410).
-/
namespace Sys2Proof.Machine

/-- A 32-bit value that the spec leaves open. -/
def State.drawWord (s : State) : State × Word :=
  ({ s with freeCtr := s.freeCtr + 4 }
  , BitVec.ofNat 32 (leNat ((List.range 4).map fun i => Config.freeByte (s.freeCtr + i))))

/-- A command ended from outside with a status. Its CYCLES are not stated: a free value (log entry 19). -/
def State.cutShort (s : State) (e : Fin 7) (d : List Byte) (st : Half) : State :=
  let (s, c) := s.drawWord
  s.finish e d st 0 c

/-- A command of a step that has not retired, faulted by a unit outside its engine (R308, R311). -/
def State.faultCommand (s : State) (e : Fin 7) (i : Half) (st : Half) : State :=
  match s.engines[e].part.bind fun p => s.parts[p].step with
  | none => s
  | some r => match (s.unretired r e).find? fun d => dIndex d == i.toNat with
    | some d => s.cutShort e d st
    | none => s

/-! ## STEP_WATCHDOG (R265) and CMD_OVERRUN (R311) -/

/-- The watchdog of a step fires once its bound and 10,000 cycles have passed. While the step awaits a Remount only the commands that
wait at a rendezvous for the fenced member are still to be ended (R240). -/
def watchdogEffect (p : Fin 6) (s : State) : State :=
  match s.parts[p].step with
  | none => s
  | some r =>
    if s.power.hold.isSome ∨ s.now < r.started + r.bound + 10000 then s
    else
      let late := if r.waitRemount then r.exchanges.map fun x => (x.engine, x.desc)
        else (s.members p).flatMap fun e => (s.unretired r e).map fun d => (e, d)
      if late.isEmpty then s
      else
        let s := late.foldl (fun (s : State) (x : Fin 7 × List Byte) => s.cutShort x.1 x.2 stWatchdog) s
        (if r.waitRemount then s.onStep p fun x => { x with exchanges := [] } else s).countPart p Part.stepWatchdogs 1

/-- STEP_WATCHDOG: every command of the step not retired completes with WATCHDOG and the step faults (R265). -/
def execStepWatchdog (p : Fin 6) (t : Nat) (s : State) : Host.Outcome State Fault Refusal :=
  done s (watchdogEffect p (s.at t))

/-- A scheduled command that has not retired at its DONE_BY cycle. One that comes while an engine of the partition is being
fenced is part of that recovery (R313); a step in which a recovery event has occurred is covered by the watchdog alone (R288). -/
def overrunEffect (e : Fin 7) (i : Half) (s : State) : State :=
  match s.engines[e].part with
  | none => s
  | some p =>
    match s.parts[p].step with
    | none => s
    | some r =>
      if !s.parts[p].scheduled ∨ r.mode = .managed ∨ r.waitRemount ∨ r.recovered ∨ s.power.hold.isSome then s
      else
        match (s.unretired r e).find? fun d => dIndex d == i.toNat, (s.entryOf p r s.engines[e].logical i.toNat).map (·.doneBy) with
        | some d, some c => if s.now ≥ r.started + c then s.cutShort e d 0x0204 else s
        | _, _ => s

/-- CMD_OVERRUN: a command not retired by its DONE_BY cycle faults (R311). -/
def execCmdOverrun (engine : Fin 7) (cmdIndex : Half) (t : Nat) (s : State) : Host.Outcome State Fault Refusal :=
  done s (overrunEffect engine cmdIndex (s.at t))

/-! ## Restoration (R225, R226) -/

/-- A root put back to its shadow, its look-aside entries flushed on every engine. -/
def State.restoreRoot (s : State) (root : Nat) : State :=
  let s := s.mainPut root (s.mem.bytes (root + 512) 512)
  (List.finRange 7).foldl (fun (s : State) (e : Fin 7) =>
    s.onEngine e fun g => { g with lab := g.lab.filter fun l => l.root != root }) s

/-- A step restored: every root it wrote goes back to its shadow; what it took returns to the pool, what it released is
kept. -/
def State.restoreStep (s : State) (p : Fin 6) (r : StepRun) : State :=
  let s := r.takenSlots.foldl (fun (s : State) (q : Nat × Nat) => s.giveSlots p q.1 [q.2]) s
  let s := r.takenBlocks.foldl (fun (s : State) (q : Nat × Nat) => s.giveBlocks p q.1 [q.2]) s
  let s := r.roots.foldl State.restoreRoot s
  (s.members p).foldl (fun (s : State) (e : Fin 7) => s.onEngine e fun g => { g with
    busy := false, held := none, scoreLog := [], logUsed := [], published := [], routeMaps := [] }) s

/-- The contexts of a step that remain, ready again at their step boundary. -/
def State.readyAgain (s : State) (ids : List Nat) : State :=
  { s with contexts := s.contexts.map fun c =>
    if ids.contains c.id ∧ c.state = .inStep then { c with state := .ready, readySince := s.now } else c }

/-- A step ended without retiring: the contexts that failed are handled, the others are ready again. -/
def State.dissolve (s : State) (p : Fin 6) (r : StepRun) : State :=
  let s := s.onPart p fun x => { x with step := none }
  (r.excluded.foldl (fun (s : State) (x : Nat × Half × Nat) => s.failContext x.1 x.2.1 x.2.2) s).readyAgain r.contexts

/-- The step of a partition aborted and restored. -/
def State.abortStep (s : State) (p : Fin 6) : State :=
  match s.parts[p].step with
  | some r => (s.restoreStep p r).dissolve p r
  | none => s

/-! ## Attribution and triggers (R402, R403) -/

/-- The engines of a partition to which the faults of a step are attributed, in ascending logical index. An engine whose
oldest command waits at an EXCHANGE is not blamed for a watchdog. -/
def State.blamed (s : State) (p : Fin 6) (r : StepRun) : List (Fin 7) :=
  (s.members p).filter fun e =>
    s.engines[e].needFence
      || (r.faults.any fun f => f.engine == e && f.code == stResidue)
      || ((r.faults.any fun f => f.engine == e && f.code == stWatchdog) && !(r.exchanges.any fun x => x.engine == e))

/-- The faults of a step that a later one is compared with: a watchdog's only where it was attributed. -/
def keptFaults (blamed : List (Fin 7)) (l : List FaultRec) : List FaultRec :=
  l.filter fun f => f.code != stWatchdog || blamed.contains f.engine

/-- Whether a fault is attributed to its engine. -/
def FaultRec.attributed (f : FaultRec) : Bool := f.code == stResidue || f.code == stWatchdog

/-- The trigger for which an engine is fenced: 0 immediate, 1 repeated in the replay, 2 the fourth in 60 s. -/
def State.trigger (s : State) (r : StepRun) (e : Fin 7) : Option Nat :=
  if s.engines[e].needFence then some 0
  else if r.previous.any fun f => f.engine == e && f.attributed then some 1
  else if (s.engines[e].faultTimes.filter fun t => decide (s.now < t + 60 * second)).length ≥ 4 then some 2
  else none

/-- A fault attributed to an engine: ENGINE_FAULT, and its time. -/
def State.blame (s : State) (r : StepRun) (e : Fin 7) : State :=
  let code := match r.faults.find? fun f => f.engine == e && f.attributed with
    | some f => f.code
    | none => s.engines[e].lastFault
  let s := s.onEngine e fun g => { g with faultTimes := (s.now :: g.faultTimes).take 16 }
  s.log 0x0406 (srcEngine e) (leBytes 2 code.toNat ++ leBytes 2 r.template ++ leBytes 1 s.engines[e].logical)

/-- One recovery event counted for every side of a partition that has started and is not ready (R25), and marked in its step
(R288). -/
def State.recoveryEvent (s : State) (p : Fin 6) : State :=
  let s := { s with sides := s.sides.map fun (x : Side) =>
    if x.part = p ∧ x.tStart.isSome ∧ x.stage ≠ SideStage.ready then { x with recoveries := x.recoveries + 1 } else x }
  s.onStep p fun r => { r with recovered := true }

/-- An engine fenced (R405), counted in ENGINE_FENCES (R443). -/
def State.fence (s : State) (e : Fin 7) (trigger : Nat) : State :=
  ((s.onEngine e fun g => { g with
    role := .fenced, part := none, logical := 0, busy := false, needFence := false }).log 0x0408
    (srcEngine e) [BitVec.ofNat 8 trigger]).countLife 5 1

/-- The engine that stands spare (R406). -/
def State.spare (s : State) : Option (Fin 7) := (List.finRange 7).find? fun e => s.engines[e].role == .spare

/-- A spare that fails its check or its copy: fenced, its domains off, SPARE_FAIL (R406). -/
def State.spareFails (s : State) (e : Fin 7) : State :=
  ((s.fence e 4).log 0x040A (srcEngine e) []).askDomain e.val false

/-! ## Lines with no source (R330) -/

/-- A partition that loses the weights of a recipe: unbound with SOURCE_LOST. -/
def State.sourceLost (s : State) (p : Fin 6) : State :=
  let s := s.losePart p
  let plan := s.parts[p].plan
  let desc := s.parts[p].desc
  let s := (s.members p).foldl State.dropEngine s
  ((s.unbindPart p desc).countEngines.settleSlotPlans).rejectPart p reSourceLost plan

/-- Whether a line lies in a range. -/
def inSpan (a : Nat) (x : Nat × Nat) : Bool := decide (x.1 ≤ a) && decide (a < x.1 + x.2)

/-- Lines that cannot be read. -/
def State.badLines (s : State) : List Nat := (s.mem.checks.map (·.1)).filter s.mem.lineBad

/-- Whether the main-memory images of a side hold a bad line. -/
def State.imageLost (s : State) (x : Side) : Bool :=
  s.badLines.any fun a => x.images.any fun i => inSpan a (lineOf i.addr, i.height * i.stride + 64)

/-- Whether the descriptor of a context in the context table is a bad line. -/
def State.descriptorLost (s : State) (c : Context) : Bool :=
  s.badLines.contains (s.boot.limits.ctxTableBase + 64 * c.id)

/-- The lines of a context's KV state on every member: roots, directory blocks, and the pages with their side tensors (R229). -/
def State.kvLines (s : State) (c : Context) : List Nat :=
  (List.range s.parts[c.part].engines).flatMap fun m =>
    let a := c.kvRoots + 1024 * m
    let r := kvRootOf a (s.mem.bytes a 512)
    linesOf a 1024 ++ ((s.kvTreeBlocks (r.depth + 1) r.layerBlock).flatMap fun b => linesOf b 512)
      ++ (List.range r.layers).flatMap fun l => match s.kvPages r l with
        | .ok pages => pages.flatMap fun q => r.pageLines q.2
        | .error _ => []

/-- Whether a line of a context's own KV state cannot be read. -/
def State.kvLost (s : State) (c : Context) : Bool :=
  c.kvRoots != 0 && !s.badLines.isEmpty && (s.kvLines c).any s.badLines.contains

/-- Whether the recipe images of a partition hold a bad line in both copies' place. -/
def State.weightsLost (s : State) (p : Fin 6) : Bool :=
  s.badLines.any fun a => s.parts[p].images.any fun i => inSpan a (i.base, i.bytes) || inSpan a (i.mirror, i.bytes)

/-- A bus error that the replay of a step meets again: what R330 says of the data lost, by the place of the bad lines. -/
def State.dataLost (s : State) (p : Fin 6) (r : StepRun) : State :=
  let s := s.onPart p fun x => { x with step := none }
  if s.weightsLost p then s.sourceLost p
  else
    let cs := r.contexts.filterMap s.context?
    let one (s : State) (c : Context) : State :=
      match s.side? c.side with
      | none => s
      | some x =>
        if s.imageLost x then s.abandonSide c.side 0x0401 0
        else if s.descriptorLost c then s.abandonSide c.side 0x0401 1
        else if s.kvLost c then (s.restartSide c.side 2).countPart p Part.kvRestarts 1
        else s.restartSide c.side 3
    let hit := cs.filter fun c => match s.side? c.side with
      | some x => s.imageLost x || s.descriptorLost c || s.kvLost c
      | none => false
    ((if hit.isEmpty then cs else hit).foldl one s).readyAgain r.contexts

/-! ## No spare standing (R281, R282, R409) -/

/-- A staged recipe given up: the recipe in force stays. -/
def State.unstage (s : State) : State :=
  let s := { s with boot := { s.boot with recipes := s.boot.recipes.map fun (x : RecipeSlot) => { x with staged := none, pendPart := [] } } }
  let s := { s with sides := s.sides.map fun (x : Side) => { x with newRecipe := false } }
  (List.finRange 6).foldl (fun (s : State) (p : Fin 6) =>
    s.onPart p fun x => { x with waitBind := x.nextRecipes.isSome, binding := false }) s

/-- A selection during a binding repeats the checks of the staged recipe under the new plan; when no alternative qualifies
with it but one does without, the verb completes with the reason and the old recipe stays bound (R438). -/
def State.dropStaged (s : State) : State :=
  if !(s.boot.recipes.toList.any fun x => x.staged.isSome) || s.alternative.isSome then s
  else
    let u := s.unstage
    match u.alternative with
    | some (n, _) =>
      let e := s.evalPlan (s.planAt n)
      let why := (e.1.or (e.2.findSome? fun v => v.reason)).getD reRecipeAbi
      { u with host := { u.host with box := { u.host.box with outcome := some (why, 0) } } }
    | none => s

/-- A partition that a rebinding must bring up to date beside those its plan changes. -/
def State.alsoRebind (s : State) (p : Fin 6) : State :=
  let s := s.onPart p fun x => { x with rebinding := true }
  if s.rebind.affected.contains p.val then s
  else { s with rebind := { s.rebind with affected := s.rebind.affected ++ [p.val] } }

/-- What follows when an engine of a partition is lost and no spare stands: an alternative is selected, or the partition is
unbound. A selection in progress, the host's or the Rein's own, gives way to one that runs from the state it has reached
(R281). A partition without GALLOP then waits for the rebinding; one with GALLOP waits for its donor. -/
def State.noSpare (s : State) (p : Fin 6) : State :=
  let reached := (List.finRange 6).filter fun q => decide (s.rebind.stage ≠ .idle) && s.rebind.affected.contains q.val
  let s := s.supersede.dropStaged
  match s.alternative with
  | some (n, vs) =>
    let s := reached.foldl State.alsoRebind (s.startRebind n vs false)
    if s.parts[p].gallop then s else (s.abortStep p).alsoRebind p
  | none => (s.abortStep p).engineLoss p

/-- The donor for a GALLOP partition: the lowest-index engine that no partition keeps under the selected alternative. -/
def State.donor (s : State) : Option (Fin 7) :=
  if s.rebind.stage = .idle then none
  else
    let counts := bindCounts s.rebind.verdicts (s.planAt s.rebind.target)
    let kept := (List.finRange 6).flatMap fun p => (s.members p).take (counts p)
    (List.finRange 7).find? fun e => s.engines[e].role == .inService && !kept.contains e

/-! ## STEP_FAULT (R403, R404, R313, R228) -/

/-- The contexts that a fault names. -/
def FaultRec.contexts (f : FaultRec) (r : StepRun) : List Nat := if f.multi then r.contexts else [f.context]

/-- Whether a fault is of the last row of R402: handled under R404. -/
def FaultRec.other (f : FaultRec) : Bool :=
  !f.attributed && f.code != stBusError && f.code != stOk && !(decide (0x0130 ≤ f.code.toNat) && decide (f.code.toNat ≤ 0x0134))
    && !(decide (0x0200 ≤ f.code.toNat) && decide (f.code.toNat ≤ 0x0209))

/-- Whether a fault is a contract fault. -/
def FaultRec.contract (f : FaultRec) : Bool := decide (0x0200 ≤ f.code.toNat) && decide (f.code.toNat ≤ 0x0209)

/-- Whether a fault recurs from before the last replay. -/
def FaultRec.recurs (f : FaultRec) (r : StepRun) : Bool :=
  r.previous.any fun g => g.code == f.code && g.cmdIndex == f.cmdIndex && g.logical == f.logical

/-- The contexts that fail by the faults of a step, each with its code and logical engine. -/
def StepRun.failing (r : StepRun) : List (Nat × Half × Nat) :=
  let l := r.faults.flatMap fun f =>
    if 0x0130 ≤ f.code.toNat ∧ f.code.toNat ≤ 0x0134 then [(f.context, f.code, f.logical)]
    else if f.other && f.recurs r then (f.contexts r).map fun i => (i, f.code, f.logical)
    else []
  l.foldl (fun acc x => if (acc.any fun y => y.1 == x.1) || !r.contexts.contains x.1 then acc else acc ++ [x]) r.excluded

/-- The records RECIPE_FAULT of a step's recurring faults. -/
def State.logRecipeFaults (s : State) (p : Fin 6) (r : StepRun) : State :=
  (r.faults.filter fun f => f.other && f.recurs r).foldl (fun (s : State) (f : FaultRec) =>
    s.log 0x0405 (srcPart p) (leBytes 2 f.code.toNat ++ leBytes 2 r.template ++ leBytes 2 f.cmdIndex)) s

/-- A step whose replay met a contract fault again runs under the MANAGED rules (R313). -/
def State.contractFault (s : State) (p : Fin 6) (r : StepRun) : State :=
  match r.faults.find? FaultRec.contract with
  | some f =>
    if r.previous.any FaultRec.contract && r.mode != .managed then
      let keys := ((r.contexts.filterMap s.context?).map (·.side)).eraseDups
      let s := keys.foldl (fun (s : State) (k : Nat) => s.addStatus k 0x0307 (f.code.toNat - 0x0200)) s
      (s.log 0x0404 (srcPart p) (leBytes 2 f.code.toNat ++ leBytes 2 r.template ++ leBytes 2 f.cmdIndex
        ++ leBytes 1 f.logical)).countPart p Part.contractFaults 1
    else s
  | none => s

/-- How a step is run after its faults. -/
def StepRun.nextMode (r : StepRun) : StepMode :=
  if r.mode = .managed ∨ ((r.faults.any FaultRec.contract) && r.previous.any FaultRec.contract) then .managed else .replay

/-- STEP_REPLAY and the replay of a step with no fence. -/
def State.replay (s : State) (p : Fin 6) (r : StepRun) : State :=
  (s.log 0x0407 (srcPart p) (leBytes 2 r.template ++ leBytes 4 (ceilDiv r.bound 1000))).issueStep p r

/-- Engines fenced, and where the replay waits for a Remount or for what R409 does. -/
def State.fenceAll (s : State) (p : Fin 6) (r : StepRun) (l : List (Fin 7 × Nat)) : State :=
  let places := l.map fun x => (x.1, s.engines[x.1].logical)
  let s := l.foldl (fun (s : State) (x : Fin 7 × Nat) => s.fence x.1 x.2) s
  let s := s.onPart p fun x => { x with
    step := some { r with faults := [], waitRemount := true, fencing := places, faultAt := s.now } }
  if s.spare.isNone ∨ l.length > 1 then s.noSpare p else s

/-- The faults of a step in which engines are fenced: an overrun that came with them is part of that recovery, and no contract
fault (R313). -/
def StepRun.apart (r : StepRun) (fenced : Bool) : StepRun :=
  if fenced then { r with faults := r.faults.filter fun f => f.code != 0x0204 } else r

/-- The handling of a step's faults, once it is restored. -/
def State.recover (s : State) (p : Fin 6) (r : StepRun) : State :=
  let blamed := s.blamed p r
  let s := blamed.foldl (fun (s : State) (e : Fin 7) => s.blame r e) s
  let fences := blamed.filterMap fun e => (s.trigger r e).map fun t => (e, t)
  let r := r.apart (!fences.isEmpty)
  let first := r.faultCount = 0
  let own := r.faultCount = 1 ∧ fences.any fun x => x.2 = 1
  let s := if first ∨ !own then s.recoveryEvent p else s
  let s := (s.logRecipeFaults p r).contractFault p r
  let lost := r.faults.any fun f => f.code == stBusError && f.recurs r
  let next := { r with
    mode := r.nextMode, recovered := true, excluded := r.failing, faultCount := r.faultCount + 1
    previous := r.previous ++ keptFaults blamed r.faults }
  if !fences.isEmpty then s.fenceAll p next fences
  else if lost then s.dataLost p next
  else if next.faultCount ≥ 8 then
    let s := s.onPart p fun x => { x with step := none }
    (((next.contexts.filterMap s.context?).map (·.side)).eraseDups.foldl (fun (s : State) (k : Nat) => s.restartSide k 5) s)
  else if next.contexts.all fun i => next.excluded.any fun x => x.1 == i then s.dissolve p next
  else s.replay p next

/-- The first fault of a step handled. -/
def stepFaultEffect (p : Fin 6) (s : State) : State :=
  match s.parts[p].step with
  | none => s
  | some r =>
    let needy := (s.members p).any fun e => s.engines[e].needFence
    if (r.faults.isEmpty && !needy) ∨ r.waitRemount ∨ s.power.hold.isSome ∨ !s.holderActs then s
    else (s.restoreStep p r).recover p r

/-- STEP_FAULT: the step is restored, engines are attributed and fenced, and the step is replayed (R403). -/
def execStepFault (p : Fin 6) (t : Nat) (s : State) : Host.Outcome State Fault Refusal :=
  done s (stepFaultEffect p (s.at t))

/-! ## REMOUNT (R408, R409) -/

/-- The recovery rate that remains at a refresh rate, in MB/s (R341). -/
def State.recoveryRate (s : State) : Nat :=
  let worst := ((List.finRange 12).map fun c => s.mem.channels[c].refresh.toNat).foldl max 0
  let budget := if worst = 0 then 170800 else if worst = 1 then 149800 else 107800
  let gallop := ((List.finRange 6).map fun p => match s.parts[p].desc with
    | some d => if s.parts[p].bound && s.parts[p].gallop then d.bwMin else 0
    | none => 0).sum
  min 160000 (budget - s.feRate - grantedTotal s.mem.slotPlans - gallop)

/-- Resident bytes that each engine of a partition holds. -/
def State.residentBytes (s : State) (p : Fin 6) : Nat :=
  match s.parts[p].desc with
  | some d => ((s.recipesOf d).map fun x => x.2.residentBytes).sum
  | none => 0

/-- The reload of an engine's weights counted; one from main memory that refresh slows beyond 315 us is recorded. -/
def State.noteReload (s : State) (p : Fin 6) : State :=
  let bytes := s.residentBytes p
  if s.parts[p].shadow then s
  else
    let s := s.countChip Chip.recoveryBytes bytes
    let slow := (List.finRange 12).any fun c => s.mem.channels[c].refresh != 0
    let us := ceilDiv bytes (max 1 s.recoveryRate)
    if slow && decide (us > 315) then s.log 0x0506 srcChip (leBytes 4 us) else s

/-- An engine put in the place of a fenced one: its partition, its logical index, its carry data (R407, DEDUCED, log entry 143) and
its weights. -/
def State.mount (s : State) (p : Fin 6) (e old : Fin 7) (logical : Nat) : State :=
  let s := match s.engines[e].part with
    | some q =>
      if q = p then s
      else
        let s := s.abortStep q
        ((s.contextsOf q).map fun (c : Context) => c.side).eraseDups.foldl (fun (s : State) (k : Nat) => s.restartSide k 1) s
    | none => s
  let s := s.giveEngine e p logical
  let s := s.onEngine e fun g => { g with paddock := s.engines[old].paddock, held := none, needFence := false }
  let s := { s with mem := s.mem.forgetFlips [.paddock e] }
  ((s.loadResident e).askDomain old.val false).countEngines

/-- One stage of a Remount: the first fenced engine's place is taken, or its copy fails. -/
def remountEffect (p : Fin 6) (copyOk : Bool) (s : State) : State :=
  match s.parts[p].step with
  | none => s
  | some r =>
    if !r.waitRemount ∨ s.power.hold.isSome ∨ !s.holderActs then s
    else
      match r.fencing, s.spare.or s.donor with
      | (old, logical) :: rest, some e =>
        if copyOk then
          let s := (s.mount p e old logical).noteReload p
          let us := ceilDiv (s.now - r.faultAt + r.bound) 1000
          let s := s.log 0x0409 (srcPart p) ([BitVec.ofNat 8 old.val, BitVec.ofNat 8 e.val] ++ leBytes 4 us)
          if rest.isEmpty then s.issueStep p { r with fencing := [] }
          else s.onStep p fun x => { x with fencing := rest }
        else if s.engines[e].role = .spare then (s.spareFails e).noSpare p
        else ((s.fence e 0).askDomain e.val false).noSpare p
      | _, _ => s

/-- REMOUNT: the spare or a donor takes the fenced engine's place and the replay is issued (R408). -/
def execRemount (p : Fin 6) (copyOk : Bool) (t : Nat) (s : State) : Host.Outcome State Fault Refusal :=
  done s (remountEffect p copyOk (s.at t))

/-! ## SPARE_CHECK (R406) -/

/-- The spare tested: one that fails is fenced. -/
def spareCheckEffect (pass : Bool) (s : State) : State :=
  match s.spare with
  | some e => if pass || s.power.hold.isSome || !s.holderActs then s else s.spareFails e
  | none => s

/-- SPARE_CHECK: every 60 s the holder tests the spare (R406). -/
def execSpareCheck (pass : Bool) (t : Nat) (s : State) : Host.Outcome State Fault Refusal :=
  done s (spareCheckEffect pass (s.at t))

end Sys2Proof.Machine
end

