-- ==== Sys2Proof/Machine/Reins.lean ====
section
/-!
DEFINITION. The Reins, the Bridle arbiter, the journal, take-over and the restart of a Rein (13, R389 to R401).
-/
namespace Sys2Proof.Machine

/-! ## Latches and roles (R389, R393) -/

/-- The other Rein. -/
def other (r : Fin 2) : Fin 2 := 1 - r

/-- The arbiter updated. -/
def State.onBridle (s : State) (f : Bridle → Bridle) : State := { s with bridle := f s.bridle }

/-- Rein `r` updated. -/
def State.onRein (s : State) (r : Fin 2) (f : Rein → Rein) : State :=
  s.onBridle fun b => { b with reins := vmod b.reins r f }

/-- The health latch of Rein `r`. -/
def Bridle.health (b : Bridle) (r : Fin 2) : Bool := if r = 0 then b.healthA else b.healthB

/-- The health latch of a Rein set or cleared; setting it clears its HB_LOST. -/
def Bridle.setHealth (b : Bridle) (r : Fin 2) (v : Bool) : Bridle :=
  if r = 0 then { b with healthA := v, hbLostA := if v then false else b.hbLostA }
  else { b with healthB := v, hbLostB := if v then false else b.hbLostB }

/-- HB_LOST of a Rein set. -/
def Bridle.loseBeat (b : Bridle) (r : Fin 2) : Bridle := if r = 0 then { b with hbLostA := true } else { b with hbLostB := true }

/-- The result of a claim recorded. -/
def Bridle.setResult (b : Bridle) (r : Fin 2) (v : BitVec 3) : Bridle :=
  if r = 0 then { b with resultA := v } else { b with resultB := v }

/-- Since when both latches are clear and nobody holds the Bridle. -/
def State.noteBothLost (s : State) : State :=
  if s.bridle.healthA || s.bridle.healthB || s.bridle.held then s.onBridle fun b => { b with bothLostAt := none }
  else s.onBridle fun b => { b with bothLostAt := some (b.bothLostAt.getD s.now) }

/-- 24 hours in ns. -/
def dayNs : Nat := 86400 * second

/-- A Rein that has lost its latch: OFF; after the third loss within 24 h it stays off, with REIN_LOST (R400). -/
def State.loseLatch (s : State) (r : Fin 2) : State :=
  let s := (s.onBridle fun b => b.setHealth r false).onRein r fun x => { x with
    role := .off, restarting := false, losses := s.now :: x.losses.filter fun t => decide (s.now < t + dayNs) }
  let s := if s.bridle.reins[r].losses.length ≥ 3 && !s.bridle.reins[r].lostForGood then
      (s.onRein r fun x => { x with lostForGood := true }).log 0x0605 (srcRein r) []
    else s
  s.noteBothLost

/-- A shadow that is lost: its journal goes unacknowledged, and the holder continues alone (R390). -/
def State.loseShadow (s : State) (r : Fin 2) : State := (s.loseLatch r).log 0x0603 (srcRein r) []

/-- A Rein whose latch is set by the holder, or at a reset: it becomes SHADOW. -/
def State.makeShadow (s : State) (r : Fin 2) : State :=
  ((s.onBridle fun b => b.setHealth r true).onRein r fun x => { x with
    role := .shadow, stopped := false, restarting := false, lastBeat := s.now }).noteBothLost

/-! ## The journal (R390) -/

/-- A journal entry applied by the shadow, in sequence and of the holder's epoch. -/
def journalEffect (seq epoch : DWord) (s : State) : State :=
  let b := s.bridle
  let sh := other b.holder
  if b.held && b.reins[sh].role == .shadow && !b.reins[sh].stopped && epoch == b.epoch && seq == b.journal + 1 then
    s.onBridle fun x => { x with journal := seq }
  else s

/-- JOURNAL_ENTRY (R390). -/
def execJournalEntry (seq epoch : DWord) (t : Nat) (s : State) : Host.Outcome State Fault Refusal :=
  done s (journalEffect seq epoch (s.at t))

/-- JOURNAL_ACK_TIMEOUT: no acknowledgement within 20 us (R390). -/
def execJournalAckTimeout (t : Nat) (s : State) : Host.Outcome State Fault Refusal :=
  let s1 := s.at t
  let sh := other s1.bridle.holder
  done s (if s1.bridle.held && s1.bridle.reins[sh].role == .shadow then s1.loseShadow sh else s1)

/-! ## Heartbeats (R394) -/

/-- HEARTBEAT: a write counts as the Rein's heartbeat while its latch is set (R394). -/
def execHeartbeat (rein : Fin 2) (t : Nat) (s : State) : Host.Outcome State Fault Refusal :=
  let s1 := s.at t
  done s (if s1.bridle.health rein then s1.onRein rein fun x => { x with lastBeat := s1.now } else s1)

/-- A heartbeat lost 20 us after the last: the latch clears; when the Rein holds the Bridle, every node rejects Rein
commands. -/
def beatLostEffect (r : Fin 2) (s : State) : State :=
  let b := s.bridle
  let holds := b.held && b.holder == r
  if (!b.health r && !holds) ∨ s.now < b.reins[r].lastBeat + 20000 then s
  else
    let last := b.reins[r].lastBeat
    let shadow := b.reins[r].role == .shadow
    let s := s.onBridle fun x => x.loseBeat r
    let s := if holds then s.onBridle fun x => { x with held := false, nodesReject := true, lossTime := some last } else s
    if shadow then s.loseShadow r else if b.health r then s.loseLatch r else s.noteBothLost

/-- HEARTBEAT_LOST (R394). -/
def execHeartbeatLost (rein : Fin 2) (t : Nat) (s : State) : Host.Outcome State Fault Refusal :=
  done s (beatLostEffect rein (s.at t))

/-! ## Claims (R395) -/

/-- Why a claim is invalid in itself: 3 NO_HEALTH, 2 NOT_GREATER. -/
def Bridle.claimFault (b : Bridle) (r : Fin 2) (e : DWord) : Option Nat :=
  if !b.health r then some 3 else if e ≤ b.epoch then some 2 else none

/-- The claim that is granted in a cycle: the greater epoch, on a tie Rein A's. -/
def Bridle.winner (b : Bridle) (a c : Option DWord) : Option (Fin 2 × DWord) :=
  let ok (r : Fin 2) (x : Option DWord) : Option DWord := match x with
    | some e => if (b.claimFault r e).isNone then some e else none
    | none => none
  match ok 0 a, ok 1 c with
  | some x, some y => if x ≥ y then some (0, x) else some (1, y)
  | some x, none => some (0, x)
  | none, some y => some (1, y)
  | none, none => none

/-- A grant: HOLDER, HELD and BRIDLE_EPOCH; the distribution of the epoch starts. -/
def State.grant (s : State) (r : Fin 2) (e : DWord) : State :=
  let s := s.onBridle fun b => { b with holder := r, held := true, epoch := e, settled := false, bothLostAt := none }
  let s := s.onRein r fun x => { x with role := .holder, stopped := false }
  s.onRein (other r) fun x => { x with role := if s.bridle.health (other r) then .shadow else .off }

/-- A claim refused: its result and CLAIM_REJECTED. -/
def State.rejectClaim (s : State) (r : Fin 2) (code : Nat) : State :=
  (s.onBridle fun b => b.setResult r (BitVec.ofNat 3 code)).log 0x0601 (srcRein r) [BitVec.ofNat 8 code]

/-- The outcome of one Rein's claim, when it made one. -/
def State.judgeClaim (s : State) (b : Bridle) (win : Option (Fin 2 × DWord)) (r : Fin 2) (x : Option DWord) : State :=
  match x with
  | none => s
  | some e =>
    match b.claimFault r e, win with
    | some code, _ => s.rejectClaim r code
    | none, some (w, we) =>
      if w = r then s.onBridle fun y => y.setResult r 1 else s.rejectClaim r (if we = e then 4 else 2)
    | none, none => s

/-- The claims of one cycle evaluated. -/
def claimEffect (a c : Option DWord) (s : State) : State :=
  let b := s.bridle
  let win := b.winner a c
  let s := match win with
    | some (r, e) => s.grant r e
    | none => s
  (s.judgeClaim b win 0 a).judgeClaim b win 1 c

/-- BRIDLE_CLAIM: the claims of one CK_FAB cycle are evaluated (R395). -/
def execBridleClaim (claimA claimB : Option DWord) (t : Nat) (s : State) : Host.Outcome State Fault Refusal :=
  done s (claimEffect claimA claimB (s.at t))

/-- Every node holds the new epoch. -/
def State.settle (s : State) : State :=
  if s.bridle.held then s.onBridle fun b => { b with settled := true, nodeEpoch := b.epoch, nodesReject := false } else s

/-- EPOCH_SETTLED (R395). -/
def execEpochSettled (t : Nat) (s : State) : Host.Outcome State Fault Refusal := done s (s.at t).settle

/-! ## HEALTH_CTL (R392, R393) -/

/-- Whether a write of HEALTH_CTL takes effect: the holder's, with the current epoch. -/
def State.holderWrites (s : State) (w : Fin 2) (epoch : DWord) : Bool :=
  s.bridle.held && s.bridle.holder == w && epoch == s.bridle.epoch

/-- SET_OTHER (R393). -/
def execSetOther (writer : Fin 2) (epoch : DWord) (t : Nat) (s : State) : Host.Outcome State Fault Refusal :=
  let s1 := s.at t
  done s (if s1.holderWrites writer epoch then s1.makeShadow (other writer) else s1)

/-- CLEAR_OTHER (R393). -/
def execClearOther (writer : Fin 2) (epoch : DWord) (t : Nat) (s : State) : Host.Outcome State Fault Refusal :=
  let s1 := s.at t
  done s (if s1.holderWrites writer epoch && s1.bridle.health (other writer) then s1.loseLatch (other writer) else s1)

/-- REIN_INTERNAL_FAULT: a Rein's own report clears its latch (R393). -/
def State.reinFault (s : State) (r : Fin 2) : State :=
  if !s.bridle.health r then s
  else if s.bridle.reins[r].role = .shadow then s.loseShadow r
  else s.loseLatch r

/-- REIN_INTERNAL_FAULT (R393). -/
def execReinInternalFault (rein : Fin 2) (t : Nat) (s : State) : Host.Outcome State Fault Refusal :=
  done s ((s.at t).reinFault rein)

/-! ## STALE_EPOCH (R396) -/

/-- A Rein whose command is refused stops issuing and becomes SHADOW or OFF. -/
def staleEffect (r : Fin 2) (x y : Byte) (s : State) : State :=
  let b := s.bridle
  let refused := b.nodesReject || !b.held || b.holder != r || b.nodeEpoch != b.epoch
  if !refused then s
  else
    let away := !b.held || b.holder != r
    let s := s.onRein r fun q => { q with stopped := true, role := if away && b.health r then .shadow else .off }
    s.log 0x0602 (srcRein r) [x, y]

/-- STALE_EPOCH (R396). -/
def execStaleEpoch (rein : Fin 2) (nodeX nodeY : Byte) (t : Nat) (s : State) : Host.Outcome State Fault Refusal :=
  done s (staleEffect rein nodeX nodeY (s.at t))

/-! ## TAKEOVER (R398, R399) -/

/-- One recovery event for every side that has started and is not ready. -/
def State.recoveryAll (s : State) : State :=
  (List.finRange 6).foldl (fun (s : State) (p : Fin 6) => s.recoveryEvent p) s

/-- BRIDLE_TAKEOVER (R451), with the charge from a loss and that of the steps faulted, in ns (R413). -/
def State.logTakeover (s : State) (since steps : Nat) : State :=
  s.log 0x0606 (srcRein s.bridle.holder) (leBytes 8 s.bridle.epoch.toNat
    ++ leBytes 4 (min 0xFFFFFFFF (ceilDiv (s.now - since + steps) 1000)))

/-- The Rein that takes the Bridle: the holder of the new grant, or the shadow, which claims the next epoch. -/
def State.claimNext (s : State) : State :=
  if s.bridle.held then s
  else match (List.finRange 2).find? fun r => s.bridle.health r && s.bridle.reins[r].role == .shadow with
    | some r => claimEffect (if r = 0 then some (s.bridle.epoch + 1) else none) (if r = 1 then some (s.bridle.epoch + 1) else none) s
    | none => s

/-- Whether the lists of a step may not have reached every engine: on one of them no command has retired. -/
def StepRun.partlyPosted (r : StepRun) : Bool :=
  !r.waitRemount && r.members.any fun e => !r.retired.any fun x => x.1 == e

/-- A step whose lists did not reach every engine before the loss: faulted, restored and replayed (R399). -/
def State.repost (s : State) (p : Fin 6) : State :=
  match s.parts[p].step with
  | some r =>
    if r.partlyPosted then
      let mode := if r.mode = .managed then .managed else .replay
      (s.restoreStep p r).issueStep p { r with mode := mode, recovered := true, faultCount := r.faultCount + 1 }
    else s
  | none => s

/-- The STEP_BOUND of such steps, in ns. -/
def State.repostCharge (s : State) (l : List (Fin 6)) : Nat :=
  (l.map fun p => match s.parts[p].step with
    | some r => if r.partlyPosted then r.bound else 0
    | none => 0).sum

/-- The take-over: the new holder reconciles and issues. `unposted` names the partitions whose step's lists did not reach every engine.
A recovery stage in progress is repeated when its command comes. -/
def takeoverEffect (unposted : List (Fin 6)) (s : State) : State :=
  match s.bridle.lossTime with
  | none => s
  | some t0 =>
    let s := s.claimNext
    if !s.bridle.held then s
    else
      let s := s.settle.onBridle fun b => { b with lossTime := none }
      let l := unposted.eraseDups
      let s := (s.recoveryAll.logTakeover t0 (s.repostCharge l)).countLife 6 1
      (l.foldl State.repost s).admitAll

/-- TAKEOVER: on the loss of the holder's heartbeat the shadow takes the Bridle (R398). -/
def execTakeover (event : TakeoverEvent) (s : State) : Host.Outcome State Fault Refusal :=
  done s (takeoverEffect event.unposted (s.at event.t))

/-! ## Restart of a Rein (R400) -/

/-- A Rein that is OFF restarted: its domain cycled and its self-test run. -/
def restartEffect (r : Fin 2) (pass : Bool) (s : State) : State :=
  let x := s.bridle.reins[r]
  if !s.holderActs ∨ s.bridle.holder = r ∨ x.role ≠ .off ∨ x.lostForGood ∨ x.restarting then s
  else if pass then s.onRein r fun y => { y with restarting := true }
  else (s.onRein r fun y => { y with lostForGood := true }).log 0x0605 (srcRein r) []

/-- REIN_RESTART (R400). -/
def execReinRestart (rein : Fin 2) (selfTest : Bool) (t : Nat) (s : State) : Host.Outcome State Fault Refusal :=
  done s (restartEffect rein selfTest (s.at t))

/-- The state copy ended: SET_OTHER, SHADOW, REIN_RESTORED. A Rein that a stale epoch made SHADOW waits for the same copy. -/
def restoredEffect (r : Fin 2) (s : State) : State :=
  let x := s.bridle.reins[r]
  if s.holderActs ∧ s.bridle.holder ≠ r ∧ (x.restarting ∨ (x.role = .shadow ∧ x.stopped)) then
    (s.makeShadow r).log 0x0604 (srcRein r) []
  else s

/-- REIN_RESTORED (R400). -/
def execReinRestored (rein : Fin 2) (t : Nat) (s : State) : Host.Outcome State Fault Refusal :=
  done s (restoredEffect rein (s.at t))

/-! ## Reset of both Reins (R397, R401) -/

/-- Both Reins' self-tests end, and those that pass claim the epoch after the arbiter's in one cycle; the new epoch
settles. -/
def State.claimBoth (s : State) (passA passB : Bool) : State :=
  let set (s : State) (r : Fin 2) (pass : Bool) : State :=
    (s.onBridle fun b => b.setHealth r pass).onRein r fun x => { x with
      role := .off, stopped := false, restarting := false, lostForGood := !pass, lastBeat := s.now }
  let s := set (set s 0 passA) 1 passB
  let e := s.bridle.epoch + 1
  let s := claimEffect (if passA then some e else none) (if passB then some e else none) s
  let s := (List.finRange 2).foldl (fun (s : State) (r : Fin 2) =>
    if s.bridle.health r then s else s.log 0x0605 (srcRein r) []) s
  s.settle

/-- Virtual times, stretch factors and token buckets as at a binding (R401). -/
def State.rebuildTimes (s : State) (p : Fin 6) : State :=
  if s.parts[p].bound then
    (s.onPart p fun x => { x with vTime := Vector.replicate 4 0, readyMask := 0, spur := Vector.replicate 4 ⟨[]⟩ }).fillTokens p
  else s

/-- The step of a partition handled as a faulted one and replayed. -/
def State.replayStep (s : State) (p : Fin 6) : State :=
  match s.parts[p].step with
  | some r =>
    if r.waitRemount then s
    else (s.restoreStep p r).replay p { r with mode := if r.mode = .managed then .managed else .replay, faultCount := r.faultCount + 1 }
  | none => s

/-- The system block resets both Reins, 10 ms after both latches cleared with the Bridle not held. -/
def doubleLossEffect (passA passB : Bool) (s : State) : State :=
  match s.bridle.bothLostAt with
  | none => s
  | some t0 =>
    if s.now < t0 + 10000000 then s
    else
      let s := s.claimBoth passA passB
      if !s.bridle.held then s.noteBothLost
      else
        let s := s.onBridle fun b => { b with lossTime := none }
        let s := s.recoveryAll.logTakeover t0 0
        let s := (List.finRange 6).foldl State.rebuildTimes s
        ((List.finRange 6).foldl State.replayStep s).admitAll

/-- REIN_DOUBLE_LOSS (R401). -/
def execReinDoubleLoss (passA passB : Bool) (t : Nat) (s : State) : Host.Outcome State Fault Refusal :=
  done s (doubleLossEffect passA passB (s.at t))

end Sys2Proof.Machine
end

