-- ==== Sys2Proof/Machine/Binding.lean ====
section
/-!
DEFINITION. Recipe copies as they are verified, overlays as they are written, and the switch of a partition to what a verb or
a plan binds (08, R253 to R255; 14, R436 to R439).
-/
namespace Sys2Proof.Machine

/-! ## Verifying a recipe image (R428, R436) -/

/-- The bytes of ASCII text. -/
def ascii (t : String) : List Byte := t.toList.map fun c => BitVec.ofNat 8 c.toNat

/-- The public key of an owner slot, where it is known: the running bundle's own, or the one its KEY_ROTATE has fused
(log entry 23). A key that is not fused, or is revoked, gives none. -/
def State.ownerKey (s : State) (k : Nat) : Option (List Byte) :=
  let b := s.boot
  let fused (key : List Byte) : Bool := s.otp.ownerKeys.getD k [] == digest key
  if k = b.keyIndex && b.provision then some b.bundleKey
  else if s.otp.revoked.getLsbD k then none
  else if k = b.keyIndex && fused b.bundleKey then some b.bundleKey
  else match b.rotateKey with
    | some r => if fused r then some r else none
    | none => none

/-- The recipe digest: bytes 0 to LENGTH - 121, with byte 255 read as 0xFF (R428). -/
def recipeDigest (b : List Byte) : List Byte := digest (patchAt (b.take (recLength b - 120)) 255 [0xFF])

/-- Whether an image is a recipe whose signature verifies under a known key. -/
def State.recipeSigned (s : State) (b : List Byte) : Bool :=
  let len := recLength b
  b.take 4 == ascii "MOSL" && decide (376 ≤ len) && len % 8 == 0 && decide (len ≤ b.length)
    && (match s.ownerKey (leAt b 24 1) with
      | some k => Ed448.verify k (ascii "RT6-MOSAL-v1") (recipeDigest b) (sliceAt b (len - 120) 114)
      | none => false)

/-- A recipe as parsed from its image. -/
def recipeImage (b : List Byte) (copy : Nat) : Recipe :=
  let img := b.take (recLength b)
  parseRecipe img (recipeDigest img) copy

/-! ## Overlay entries (R439) -/

/-- Address of overlay entry `k`. -/
def overlayAddr (k : Nat) : Nat := overlayBase + 524288 * k

/-- SEQ of an overlay entry that is committed. -/
def State.overlaySeq (s : State) (k : Nat) : Option Nat :=
  if s.norBytes (overlayAddr k + 524287) 1 == [0x5A] && s.norBytes (overlayAddr k) 4 == ascii "RTOV" then
    some (leNat (s.norBytes (overlayAddr k + 16) 8))
  else none

/-- The entry of a recipe slot that is written next, and its SEQ. -/
def State.nextOverlay (s : State) (slot : Nat) : Nat × Nat :=
  match s.overlaySeq (2 * slot), s.overlaySeq (2 * slot + 1) with
  | none, none => (2 * slot, 1)
  | some a, none => (2 * slot + 1, a + 1)
  | none, some b => (2 * slot, b + 1)
  | some a, some b => if a ≤ b then (2 * slot, b + 1) else (2 * slot + 1, a + 1)

/-- The bytes of an overlay entry up to its digest, and the digest. -/
def overlayEntry (slot oslot : Nat) (active : Bool) (seq : Nat) (weights target : List Byte) : List Byte × List Byte :=
  let body := ascii "RTOV" ++ [1, 0, BitVec.ofNat 8 slot, BitVec.ofNat 8 oslot] ++ leBytes 1 (b2n active)
    ++ List.replicate 7 0 ++ leBytes 8 seq ++ leBytes 4 weights.length ++ List.replicate 36 0
    ++ sliceAt target 0 64 ++ weights
  (body, digest body)

/-- An overlay entry queued for NOR: erased, programmed, then committed. -/
def State.writeOverlay (s : State) (k : Nat) (entry : List Byte) : State :=
  ((s.queueNor (.erase true (overlayAddr k) 8)).queueNor (.overlay (overlayAddr k) entry)).queueNor
    (.overlay (overlayAddr k + 524287) [0x5A])

/-! ## The switch (R438, R253) -/

/-- The partitions that run a recipe slot. -/
def State.usersOf (s : State) (n : Nat) : List (Fin 6) :=
  (List.finRange 6).filter fun p => s.parts[p].bound && (match s.parts[p].desc with
    | some d => d.served.any fun x => x.2 == n
    | none => false)

/-- The verb in progress decided. -/
def State.decide_ (s : State) (code : Byte) (value : DWord) : State :=
  { s with host := { s.host with box := { s.host.box with outcome := some (code, value) } } }

/-- OVERLAY_ON or OVERLAY_OFF. -/
def State.logOverlay (s : State) (code : Half) (p : Fin 6) (slot oslot : Nat) (reason : Byte) (dig : List Byte) : State :=
  s.log code (srcPart p) ([BitVec.ofNat 8 slot, BitVec.ofNat 8 oslot, reason] ++ dig.take 8)

/-- A recipe slot that every partition has switched: what was staged or pending is in force, and the verb is decided. A new
recipe runs on its base weights. -/
def State.settleSlot (s : State) (n : Fin 16) : State :=
  let x := s.boot.recipes[n]
  if !x.pendPart.isEmpty then s
  else match x.staged, x.pending with
    | some r, _ => (s.onSlot n fun y => { y with bound := some r, staged := none, overlay := none }).decide_ 0 0
    | none, some v =>
      let s := s.onSlot n fun y => { y with overlay := v, pending := none }
      let part := match s.host.box.verb with
        | some (.activateOverlay _ q) => Fin.ofNat 6 q
        | _ => (s.usersOf n.val).headD 0
      match v with
      | some o =>
        ((s.logOverlay 0x010C part n.val o.slot 0 o.digest).countPart part Part.overlayActivations 1).decide_ 0
          (BitVec.ofNat 64 (leAt o.digest 0 8))
      | none =>
        let o := x.overlay.getD ⟨0, [], []⟩
        (s.logOverlay 0x010D part n.val o.slot 0 o.digest).decide_ 0 0
    | none, none => s

/-- Whether a side still runs on what bound before a partition's binding point. -/
def State.oldSides (s : State) (p : Fin 6) : Bool := s.sides.any fun x => x.part == p && !x.newRecipe && x.stage != .ready

/-- The switch of a partition to what waits for it. Its virtual times, means and token bucket start anew when it binds a
recipe, not when only an overlay binds (R30, R253). -/
def State.switchPart (s : State) (p : Fin 6) : State :=
  let changed := (List.finRange 16).filter fun n => s.boot.recipes[n].staged.isSome && s.boot.recipes[n].pendPart.contains p.val
  let before := match s.parts[p].desc with
    | some d => d.served
    | none => []
  let s := s.onPart p fun x => { x with
    binding := false, nextRecipes := none
    desc := x.desc.map fun d => { d with recipes := x.nextRecipes.getD d.recipes } }
  let s := (List.finRange 16).foldl (fun (s : State) (n : Fin 16) =>
    s.onSlot n fun y => { y with pendPart := y.pendPart.filter fun q => q != p.val }) s
  match s.parts[p].desc with
  | none => s
  | some d =>
    let plan := (s.planOf p).map fun x => match x with
      | some y => some (if y.part = p.val then d else y)
      | none => none
    let v := (s.evalPlan plan).2.find? fun v => v.desc.part == p.val
    let rs := s.recipesOf d
    let s := s.onPart p fun x => { x with
      images := x.images.filter fun i => rs.any fun r => r.1 == i.slot && r.2.digest == i.digest
      lWorst := match v with
        | some w => BitVec.ofNat 32 w.lw
        | none => x.lWorst
      shadow := match v with
        | some w => w.shadow
        | none => x.shadow }
    let s := rs.foldl (fun (s : State) (x : Nat × Recipe) =>
      if changed.any (fun n => n.val == x.1) || !(before.any fun y => y.2 == x.1) then s.bindRecipe p x.1 x.2 true
      else (s.placeRecipe p x.1 x.2).1) s
    let s := (s.members p).foldl State.loadResident s
    let s := { s with sides := s.sides.map fun (x : Side) =>
      if x.part = p ∧ x.newRecipe then { x with newRecipe := false, duringBind := x.tStart.isSome } else x }
    if changed.isEmpty && before == d.served then s else s.freshTimes p

/-- The engines of a partition switch once its last old side is ready. -/
def switchEffect (p : Fin 6) (s : State) : State :=
  if !s.parts[p].binding ∨ s.parts[p].step.isSome ∨ s.oldSides p ∨ !s.holderActs ∨ s.power.hold.isSome then s
  else ((List.finRange 16).foldl State.settleSlot (s.switchPart p)).admitAll

/-- RECIPE_BIND_SWITCH: the partition's engines switch to the new resident weights (R438). -/
def execRecipeBindSwitch (p : Fin 6) (t : Nat) (s : State) : Host.Outcome State Fault Refusal :=
  done s (switchEffect p (s.at t))

end Sys2Proof.Machine
end

