-- ==== Sys2Proof/Machine/FrontEnd.lean ====
section
/-!
DEFINITION. The scan front end: the port checks, the line-period cycle of a transport, calibration, assembly of side
images, deskew, covers, and the camera frames attached to sides (02_scan_front_end.md, R33 to R62, R73, R74, R476; 03, R96).
-/
namespace Sys2Proof.Machine

/-! ## The check of the ports (R38, R53) -/

/-- An edge of a timing table (R36). -/
structure Edge where
  time   : Nat
  output : Nat
  level  : Bool
  deriving DecidableEq, Repr

/-- OUTPUT of a STEP edge. -/
abbrev outStep := 16

/-- The entries in use of a port's timing table. -/
def Port.edges (p : Port) : List Edge :=
  (p.ttEdge.toList.map fun w => (⟨wbits w 0 18, wbits w 18 5, bit w.toNat 23⟩ : Edge)).filter fun e => e.output != 31

/-- START of SAMPLE_START. -/
def Port.start (p : Port) : Nat := wbits p.sampleStart 0 18
/-- DARK_LINES. -/
def Port.darkLines (p : Port) : Nat := wbits p.calCfg 0 9
/-- WHITE_LINES. -/
def Port.whiteLines (p : Port) : Nat := wbits p.calCfg 9 9
/-- LAMP_SETTLE. -/
def Port.lampSettle (p : Port) : Nat := wbits p.calCfg 18 5
/-- WHITE_TARGET. -/
def Port.whiteTarget (p : Port) : Nat := wbits p.calCfg 23 8

/-- MCLK_DIV. -/
def Port.mclkDiv (p : Port) : Nat := wbits p.ttPeriod 20 8

/-- SnMCLK as a port drives it, by the time in ns since CK_SCANn started: 100 MHz ÷ MCLK_DIV, high in the first half of each period
(R32, R34, R36; the phase is a DESIGN CHOICE, log entry 142). -/
def Port.mclk (p : Port) (ns : Nat) : Bool := decide (2 * (ns % (10 * p.mclkDiv)) < 10 * p.mclkDiv)

/-- TIMING_RANGE of a port's own fields. -/
def Port.rangeOk (p : Port) : Bool :=
  p.bitsCode != 3 && decide (p.samples ≥ 1) && within 1000 200000 p.period && within 2 100 p.mclkDiv
    && decide (p.start < p.period) && within 16 256 p.darkLines && within 16 256 p.whiteLines
    && decide (p.lampSettle ≤ 16) && decide (p.whiteTarget ≥ 1)
    && p.edges.all fun e => (decide (e.output ≤ 5) || within 8 11 e.output || e.output == outStep) && decide (e.time < p.period)

/-- Whether no two entries in use name the same output at the same TIME. -/
def Port.conflictFree (p : Port) : Bool :=
  pairwiseB (fun a b => a.output != b.output || a.time != b.time) p.edges

/-- The STEP edges of a port. -/
def Port.stepEdges (p : Port) : List Edge := p.edges.filter fun e => e.output == outStep

/-- Whether a lead port has exactly one rising and one falling STEP edge. -/
def Port.stepsOnce (p : Port) : Bool :=
  p.stepEdges.length == 2 && p.stepEdges.any (fun e => e.level) && p.stepEdges.any (fun e => !e.level)

/-- LANE_RATE: samples and bits of a line fit the time from START. -/
def Port.rateOk (p : Port) : Bool :=
  let n := p.samples * p.planes
  let window := p.period - p.start
  decide (n ≤ 8 * window) && decide (n * p.sampleBits ≤ 12 * window * p.lanes)

/-- The configured ports of a transport, ascending. -/
def State.tports (s : State) (t : Fin 4) : List (Fin 4) :=
  (List.finRange 4).filter fun n => s.ports[n].cfgEn && s.ports[n].transport == t

/-- The configured ports. -/
def State.cfgPorts (s : State) : List (Fin 4) := (List.finRange 4).filter fun n => s.ports[n].cfgEn

/-- Whether a side definition's fields lie in their ranges (R53). -/
def SideDef.rangeOk (d : SideDef) : Bool :=
  decide (d.lines ≥ 1) && decide (d.width ≥ 1) && within 5 50 d.maxAngle && decide (d.edgeDelta ≥ 1) && !d.backing

/-- Whether the ports of a side are bound to one partition in a plan. -/
def onePart (plan : List (Option PartDesc)) (ports : List (Fin 4)) : Bool :=
  pairwiseB (fun a b : Fin 6 => a == b) (ports.filterMap fun n => planPort plan n)

/-- Whether a plane is refused (R51, R53). -/
def State.planeBad (s : State) (p : PlaneDef) : Bool :=
  let d := s.sideDef (Fin.ofNat 8 p.side)
  decide (p.role ≥ 6) || !d.en || d.transport != s.ports[p.port].transport || decide (p.xOff + p.width > d.width)

/-- Whether the roles of a side's planes, or their partitions, are inconsistent (R53). -/
def State.sideMixed (s : State) (d : Fin 8) : Bool :=
  let roles := (s.sidePlanes d).map (·.role)
  let rgb := roles.any fun r => within 1 3 r
  (roles.contains 0 && rgb) || (rgb && !(roles.contains 1 && roles.contains 2 && roles.contains 3))
    || s.boot.plans.any fun plan => !onePart plan ((s.sidePlanes d).map (·.port))

/-- The ports that SIDE_MAP refuses. -/
def State.sideMapPorts (s : State) : List (Fin 4) :=
  let broken (d : Fin 8) : Bool := (s.sideDef d).en && ((s.sidePlanes d).isEmpty || !(s.sideDef d).rangeOk)
  let mixed (d : Fin 8) : Bool := (s.sideDef d).en && s.sideMixed d
  s.cfgPorts.filter fun n =>
    (s.portPlanes n).any s.planeBad
      || (List.finRange 8).any fun d => (broken d && (s.sideDef d).transport == s.ports[n].transport)
        || (mixed d && (s.sidePlanes d).any fun p => p.port == n)

/-- The ports that each reason of R38 refuses, in the order of its table. -/
def State.portFaults (s : State) : List (Nat × List (Fin 4)) :=
  let cfg := s.cfgPorts
  let lead (n : Fin 4) : Option (Fin 4) := s.leadPort s.ports[n].transport
  [ (1, cfg.filter fun n => !s.ports[n].rangeOk || wbits s.feCtrl 13 8 == 0)
  , (2, cfg.filter fun n => !s.ports[n].conflictFree)
  , (3, cfg.filter fun n => if lead n = some n then !s.ports[n].stepsOnce else !s.ports[n].stepEdges.isEmpty)
  , (4, cfg.filter fun n => match lead n with
      | some l => s.ports[n].period != s.ports[l].period
      | none => false)
  , (5, cfg.filter fun n => !s.ports[n].rateOk)
  , (6, s.sideMapPorts) ]

/-! ## HOLD_STATUS (R42) -/

namespace HoldBit
/-- SPOOL. -/ abbrev spool := 0
/-- PARTITION_UNBOUND. -/ abbrev unbound := 1
/-- COVER. -/ abbrev cover := 2
/-- CARTRIDGE. -/ abbrev cartridge := 3
/-- CAL. -/ abbrev cal := 4
/-- SUPPLY. -/ abbrev supply := 5
/-- CONFIG. -/ abbrev config := 6
/-- CAPTURE. -/ abbrev capture := 7
end HoldBit

/-- A bit of a byte set to a value. -/
def setBit (b : Byte) (i : Nat) (v : Bool) : Byte := if v then b ||| ((1 : Byte) <<< i) else b &&& ~~~((1 : Byte) <<< i)

/-- Whether a transport is held with a cause. -/
def Transport.held (x : Transport) (cause : Nat) : Bool := x.hold.getLsbD cause

/-- A cause of a transport set or cleared. -/
def State.setHold (s : State) (t : Fin 4) (cause : Nat) (v : Bool) : State :=
  s.onTransport t fun x => { x with hold := setBit x.hold cause v }

/-- Whether a cover that guards a transport is watched and not accepted closed (R59). -/
def State.coverOpen (s : State) (t : Fin 4) : Bool :=
  (List.finRange 4).any fun c => bit s.feCtrl.toNat c.val && wbits s.feCtrl (4 + 2 * c.val) 2 == t.val && !s.covers[c]

/-- CART_POLICY is REFUSE. -/
def State.cartRefuse (s : State) : Bool := bit s.feCtrl.toNat 12

/-- Whether the most recent authentication failed on a cartridge that is there. -/
def Cart.failed (c : Cart) : Bool := match c.result with
  | some .passed => false
  | some .absent => false
  | some _ => true
  | none => false

/-- Whether a port's cartridge holds its transport (R42, R67, R68). -/
def State.cartHolds (s : State) (n : Fin 4) : Bool :=
  let c := s.ports[n].cart
  !c.present || c.pending || c.result.isNone || c.result == some .absent || (c.failed && s.cartRefuse)

/-- Whether COVER, CARTRIDGE or CONFIG holds a transport. -/
def Transport.stopped (x : Transport) : Bool := x.held HoldBit.cover || x.held HoldBit.cartridge || x.held HoldBit.config

/-- FEED_HOLD and ENABLE of a configured transport (R40, R42). -/
def State.settlePins (s : State) (t : Fin 4) : State :=
  if (s.tports t).isEmpty then s
  else s.onTransport t fun x => { x with feedHold := x.hold != 0, enable := !x.stopped }

/-- The causes that take effect at any line boundary: COVER, CARTRIDGE but for a periodic result, CONFIG (R44). The removal
of an aborted sheet is seen here (R61). -/
def State.settleHolds (s : State) (t : Fin 4) : State :=
  let s := s.onTransport t fun x => match x.paperLowAt with
    | some t0 => if s.now ≥ t0 + 1000000 then { x with abortWait := false } else x
    | none => x
  let x := s.transports[t]
  let s := s.setHold t HoldBit.cover (s.coverOpen t || x.abortWait || x.pendCover)
  let s := s.setHold t HoldBit.cartridge ((s.tports t).any s.cartHolds || !x.pendCart.isEmpty)
  s.setHold t HoldBit.config ((s.tports t).any fun n => s.ports[n].refused)

/-! ## Life counters of the cartridge (R69 to R71) -/

/-- The entry of a serial in the persistent store. -/
def State.cartIndex (s : State) (serial : DWord) : Option Nat :=
  (List.range 16).find? fun i => match s.store.carts[i]? with
    | some c => c.used && c.serial == serial
    | none => false

/-- A cartridge entry updated; the change waits for the 60 s timer. -/
def State.onCart (s : State) (i : Nat) (f : StoreCart → StoreCart) : State :=
  { s with store := { s.store with carts := modAt s.store.carts i f, dirty := true } }

/-- Whether a count has reached `pct` percent of its rating. -/
def reached (count rated pct : Nat) : Bool := decide (100 * count ≥ pct * rated)

/-- Whether a life counter of a port's cartridge has reached `pct` percent of its rating. DESIGN CHOICE, log entry 138: nothing has
from the cartridge's removal on. -/
def Port.wear (p : Port) (pct : Nat) : Bool :=
  p.cart.known && (reached p.lines.toNat p.cart.ratedLines.toNat pct || reached p.illumS.toNat p.cart.ratedIllum.toNat pct)

/-- A port as a mask. -/
def portMask (n : Fin 4) : Nat := 2 ^ n.val

/-- The planes of a side that a port feeds. -/
def State.feeds (s : State) (n : Fin 4) (x : Side) : List PlaneDef := (s.sidePlanes x.sideDef).filter fun p => p.port == n

/-- A status added to every side of the committed sheet that is still being captured and satisfies a test. -/
def State.markSheet (s : State) (t : Fin 4) (code detail : Nat) (f : Side → Bool) : State :=
  (s.sides.filter fun x => s.transports[t].sheetSides.contains x.key && x.stage == .capturing && x.tStart.isNone && f x).foldl
    (fun s x => s.addStatus x.key code detail) s

/-- An update of the entry of a port's cartridge in the store, where there is one. -/
def State.onOwnCart (s : State) (n : Fin 4) (f : StoreCart → StoreCart) : State :=
  match s.cartIndex s.ports[n].cart.serial with
  | some i => s.onCart i f
  | none => s

/-- WEAR_NEAR and CART_WEAR after a port's counters have changed (R71). -/
def State.settleWear (s : State) (n : Fin 4) : State :=
  let p := s.ports[n]
  let s := if p.wear 90 && !p.cart.nearLogged then
      let s := (s.onPort n fun q => { q with cart := { q.cart with nearLogged := true } }).onOwnCart n fun c => { c with nearLogged := true }
      s.log 0x0204 (srcPort n) (leBytes 8 p.cart.serial.toNat)
    else s
  if p.wear 100 then
    let s := s.onOwnCart n fun c => { c with worn := true }
    match s.transports[p.transport].phase with
    | .capture _ => s.markSheet p.transport 0x0109 (portMask n) fun x => !(s.feeds n x).isEmpty
    | _ => s
  else s

/-- A line period in which a port read samples, with its illumination on or off (R69). -/
def State.countLine (s : State) (n : Fin 4) (illum : Bool) : State :=
  if !s.ports[n].cart.known then s
  else
    let s := s.onPort n fun p =>
      let ns := p.illumNs + (if illum then p.period * 10 else 0)
      { p with lines := p.lines + 1, illumS := p.illumS + BitVec.ofNat 64 (ns / second), illumNs := ns % second }
    s.settleWear n

/-- A port's counters entered in the persistent store (R70). -/
def State.saveCart (s : State) (n : Fin 4) : State :=
  let p := s.ports[n]
  if p.cart.known then s.onOwnCart n fun c => { c with lines := p.lines, illumS := BitVec.ofNat 32 p.illumS.toNat } else s

/-! ## Requests on the cartridge bus (R63, R64) -/

/-- A request: CMD, LEN, the payload and the check word. -/
def cartRequest (cmd : Byte) (payload : List Byte) : List Byte :=
  let body := cmd :: leBytes 2 payload.length ++ payload
  body ++ leBytes 2 (crc16 body)

/-- GET_DESCRIPTOR. -/
def getDescriptor : List Byte := cartRequest 1 []
/-- CHALLENGE with a nonce. -/
def challengeOf (nonce : List Byte) : List Byte := cartRequest 2 nonce
/-- GET_COUNTERS. -/
def getCounters : List Byte := cartRequest 3 []
/-- SET_COUNTERS with a port's counters. -/
def Port.setCounters (p : Port) : List Byte := cartRequest 4 (leBytes 8 p.lines.toNat ++ leBytes 4 p.illumS.toNat)

/-- A commit of a port's counters to its cartridge begun, where its descriptor has been read (R69, R70). -/
def State.sendCounters (s : State) (n : Fin 4) : State :=
  s.onPort n fun p =>
    if p.cart.present && p.cart.known then { p with cart := { p.cart with requests := p.cart.requests ++ [p.setCounters], setRun := true } }
    else p

/-- A SET_COUNTERS ended: where the chip answered OK, the cartridge holds what the request carried; otherwise what it held. -/
def Cart.setDone (c : Cart) (ok : Bool) : Cart :=
  let last := c.requests.getLast?.getD []
  if ok then { c with setRun := false, ownLines := BitVec.ofNat 64 (leAt last 3 8), ownIllum := BitVec.ofNat 32 (leAt last 11 4) }
  else { c with setRun := false }

/-! ## Samples and calibration (R39, R47 to R50) -/

/-- A sample normalised to 12 bits. -/
def Port.x12 (p : Port) (x : Nat) : Nat := x * 2 ^ (12 - p.sampleBits)

/-- The samples of a line, one list for each plane, missing samples 0 (R33, R39). -/
def Port.split (p : Port) (xs : List Nat) : List (List Nat) :=
  (List.range p.planes).map fun k => (List.range p.samples).map fun i =>
    xs.getD (if p.byLine then k * p.samples + i else i * p.planes + k) 0 % 2 ^ p.sampleBits

/-- Whether fewer samples arrived than the port's configuration needs (R39). -/
def Port.short (p : Port) (xs : List Nat) : Bool := decide (xs.length < p.samples * p.planes)

/-- Sums of two sets of planes, element by element. -/
def addPlanes (a b : List (List Nat)) : List (List Nat) :=
  if a.isEmpty then b else (a.zip b).map fun x => (x.1.zip x.2).map fun y => y.1 + y.2

/-- D, and G of a pixel that is not bad (R48). -/
def Port.calPixel (p : Port) (sd sw : Nat) : Option CalPix :=
  let d := divAway (16 * sd) p.darkLines
  let w := divAway (16 * sw) p.whiteLines
  let span := w - d
  let g := if span > 0 then divAway (p.whiteTarget * 65536) span else 0
  if span ≤ 0 ∨ span < 16 * (wbits p.calLimits 0 12 : Nat) ∨ d > 16 * (wbits p.calLimits 12 12 : Nat) ∨ g > 65535 then none
  else some ⟨d.toNat, g.toNat⟩

/-- Bad pixels given the nearest good pixel to their left, from `last` on. -/
def fillFrom (last : CalPix) : List (Option CalPix) → List CalPix
  | [] => []
  | some x :: rest => x :: fillFrom x rest
  | none :: rest => last :: fillFrom last rest

/-- The table of a plane: a bad pixel takes the nearest good one to its left, else to its right (R49); none when no pixel
is good. -/
def fillBad (l : List (Option CalPix)) : Option (List CalPix) := (l.findSome? id).map fun first => fillFrom first l

/-- Whether every element of a list has a value, and the values. -/
def allSome {α : Type} : List (Option α) → Option (List α)
  | [] => some []
  | some x :: rest => (allSome rest).map fun l => x :: l
  | none :: _ => none

/-- The default table of a port that has had no good tables (R50). -/
def Port.defaultPix (p : Port) : CalPix := ⟨0, (divAway (p.whiteTarget * 65536) 65520).toNat⟩

/-- A sample corrected to 8 bits (R48). -/
def Port.correct (p : Port) (c : CalPix) (x : Nat) : Nat :=
  (clampI 0 255 (divAway ((16 * (p.x12 x : Int) - c.d) * c.g) 65536)).toNat

/-- The corrected rows of a line. -/
def Port.correctLine (p : Port) (planes : List (List Nat)) : List (List Nat) :=
  if p.tables.isEmpty then planes.map fun l => l.map (p.correct p.defaultPix)
  else (planes.zip p.tables).map fun x => (x.1.zip x.2).map fun y => p.correct y.2 y.1

/-- CAL_FAIL_LIMIT. -/
def State.calLimit (s : State) : Nat := wbits s.feCtrl 13 8

/-- Whether a port has failed CAL_FAIL_LIMIT calibrations in a row. -/
def State.calOut (s : State) (t : Fin 4) : Bool := (s.tports t).any fun n => decide (s.ports[n].calFailRun.toNat ≥ s.calLimit)

/-- A port's calibration judged: its tables installed, or its failure counted (R50). CAL_FAIL_RUN past 255 is a free value
(log entry 25). -/
def State.judgeCal (s : State) (n : Fin 4) : State :=
  let p := s.ports[n]
  let pix := (p.sumDark.zip p.sumWhite).map fun x => (x.1.zip x.2).map fun y => p.calPixel y.1 y.2
  let bad := pix.map fun l => l.countP fun c => c.isNone
  let worst := bad.foldl max 0
  let s := s.onPort n fun q => { q with badPixLast := BitVec.ofNat 16 worst, sumDark := [], sumWhite := [] }
  match allSome (pix.map fillBad), p.calShort || decide (worst > wbits p.calLimits 24 8) with
  | some tables, false => s.onPort n fun q => { q with
      tables := tables, calValid := true, calLastFail := false, calFailRun := 0, usedOld := false, usedDefault := false }
  | _, _ =>
    let free := p.calFailRun == 255
    let run := if free then Config.freeByte s.freeCtr else p.calFailRun + 1
    let s := if free then { s with freeCtr := s.freeCtr + 1 } else s
    s.onPort n fun q => { q with
      calLastFail := true, calFailRun := run, calFails := q.calFails + 1, usedOld := true, usedDefault := q.tables.isEmpty }

/-! ## The sheet (R44, R263, R370) -/

/-- One image that a side needs: role, RGB8 or not, stride, bytes. -/
structure ImageNeed where
  role   : Nat
  rgb    : Bool
  stride : Nat
  bytes  : Nat
  deriving DecidableEq, Repr

/-- The images of a side definition. -/
def State.needs (s : State) (d : Fin 8) : List ImageNeed :=
  (s.sideImages d).map fun i => ⟨i.1, i.2.1, i.2.2, (s.sideDef d).lines * i.2.2⟩

/-- Whether frames are still held: a side's until they are freed, a picture's while its stream keeps it or a side refers to
it (R95). -/
def State.frameLive (s : State) (f : FrameAlloc) : Bool :=
  !f.pic || (s.streams.toList.any fun x => x.pictures.any fun q => q.key == f.owner)
    || s.sides.any fun x => x.images.any fun i => i.addr == f.base

/-- The lowest place in a capture region of a partition for `frames` frames one after another (log entry 26). -/
def State.framePlaceIn (s : State) (p : Fin 6) (base count frames : Nat) : Option Nat :=
  let held := s.frames.filter fun f => f.part == p && s.frameLive f
  let starts := base :: held.map fun f => f.base + f.count * 4096
  let free (a : Nat) : Bool := decide (base ≤ a) && decide (a + frames * 4096 ≤ base + count * 4096)
    && held.all fun f => decide (a + frames * 4096 ≤ f.base) || decide (f.base + f.count * 4096 ≤ a)
  (starts.filter free).foldl (fun (b : Option Nat) a => match b with
    | some m => some (min m a)
    | none => some a) none

/-- The lowest place in a partition's capture region. -/
def State.framePlace (s : State) (p : Fin 6) (frames : Nat) : Option Nat :=
  match s.parts[p].desc with
  | none => none
  | some d => s.framePlaceIn p d.captureBase d.captureFrames frames

/-- Frames for the images of a side taken one after another; none when one finds no place. -/
def State.takeFrames (s : State) (p : Fin 6) (owner width height : Nat) :
    List ImageNeed → Option (State × List ImageRef)
  | [] => some (s, [])
  | i :: rest =>
    let n := ceilDiv i.bytes 4096
    match s.framePlace p n with
    | none => none
    | some a =>
      let fr : FrameAlloc := ⟨p, a, n, owner, false⟩
      match ({ s with frames := s.frames.filter s.frameLive ++ [fr] }).takeFrames p owner width height rest with
      | some (s, l) => some (s, ⟨i.role, i.rgb, width, height, i.stride, a⟩ :: l)
      | none => none

/-- The partition of a side: the one its first plane's port is bound to now (R18, R45). -/
def State.sideHome (s : State) (d : Fin 8) : Option (Fin 6) :=
  match s.sidePlanes d with
  | [] => none
  | p :: _ => s.ports[p.port].boundPart

/-- The gait of a scanned side: the lowest code that its partition serves. -/
def State.homeGait (s : State) (p : Fin 6) : Fin 4 := match s.parts[p].desc with
  | some d => ((List.finRange 4).find? fun g => bit d.gaits g.val).getD 0
  | none => 0

/-- The frames of every side of a sheet taken, in ascending side definition: the sides' keys, partitions and images. -/
def State.takeSheet (s : State) : List (Fin 8) → Option (State × List (Fin 8 × Nat × Fin 6 × List ImageRef))
  | [] => some (s, [])
  | d :: rest =>
    match s.sideHome d with
    | none => none
    | some p =>
      let k := s.nextKey
      match ({ s with nextKey := k + 1 }).takeFrames p k (s.sideDef d).width (s.sideDef d).lines (s.needs d) with
      | none => none
      | some (s, imgs) =>
        match s.takeSheet rest with
        | some (s, l) => some (s, (d, k, p, imgs) :: l)
        | none => none

/-- SIDE_ID of a scanned side (R373). -/
def scanSideId (sheets : DWord) (t : Fin 4) (d : Fin 8) : DWord :=
  (sheets <<< 5) ||| BitVec.ofNat 64 (t.val * 8 + d.val)

/-- SHEET_ID of a scanned side (R373). -/
def scanSheetId (sheets : DWord) (t : Fin 4) : Word := BitVec.ofNat 32 (sheets.toNat % 2 ^ 30 * 4 + t.val)

/-- A side or sample with nothing captured yet. -/
def Side.fresh (key : Nat) (p : Fin 6) (g : Fin 4) (sideId : DWord) (sheetId : Word) (reserve : Nat) (imgs : List ImageRef) :
    Side where
  key := key
  host := false
  stream := 0
  sideDef := 0
  transport := 0
  sideId := sideId
  sheetId := sheetId
  part := p
  gait := g
  stage := .capturing
  tStart := none
  tArrive := 0
  arrived := false
  status := []
  images := imgs
  reserve := reserve
  conforming := false
  recoveries := 0
  holdSeen := false
  duringBind := false
  switched := false
  switchSp := 0
  switchFp := 0
  recipe := 0xFF
  newRecipe := false
  overlay := false
  statusOnly := false
  substitute := false
  aug := []
  truth := []
  stageAt := 0
  stageBytes := 0
  fuseStreams := []
  visRows := []
  irRows := []
  uvRows := []
  assembled := 0
  emitted := 0
  skew := none

/-- The side of a definition on a committed sheet. -/
def State.scanSide (s : State) (t : Fin 4) (sheets : DWord) (x : Fin 8 × Nat × Fin 6 × List ImageRef) : Side :=
  let (d, k, p, imgs) := x
  { Side.fresh k p (s.homeGait p) (scanSideId sheets t d) (scanSheetId sheets t) s.sideReserve imgs with
    sideDef := d, transport := t, newRecipe := s.parts[p].binding, fuseStreams := (s.fusesOf t).map (·.val) }

/-- The first calibration phase of a transport with lines in it. -/
def State.firstPhase (s : State) (t : Fin 4) : CalPhase :=
  if ((s.tports t).map fun n => s.ports[n].lampSettle).foldl max 0 = 0 then .dark else .darkSettle

/-- Calibration started on every port of a transport. -/
def State.beginCal (s : State) (t : Fin 4) (sheet : Bool) : State :=
  let s := (s.tports t).foldl (fun (s : State) (n : Fin 4) =>
    s.onPort n fun p => { p with sumDark := [], sumWhite := [], calShort := false }) s
  s.onTransport t fun x => { x with phase := .calib sheet (s.firstPhase t) 0, calNow := false }

/-- A sheet committed: its frames and reservations taken, its sides entered, SHEETS counted (R44, R74). -/
def State.commitSheet (s : State) (t : Fin 4) (l : List (Fin 8 × Nat × Fin 6 × List ImageRef)) : State :=
  let sheets := s.transports[t].sheets + 1
  let sides := l.map (s.scanSide t sheets)
  let s := { s with sides := s.sides ++ sides, boot := { s.boot with anySheet := true } }
  let s := (s.reserveSpool (s.sideReserve * l.length)).countLife 2 1
  let s := s.onTransport t fun x => { x with sheets := sheets, sheetSides := sides.map (·.key), capLines := [] }
  s.beginCal t true

/-- Whether every configured port of a transport has been aligned (R33). -/
def State.allTrained (s : State) (t : Fin 4) : Bool := (s.tports t).all fun n => s.ports[n].enabled

/-- Whether nothing but its own reservations keeps a transport from a sheet: no cause of step 2 of R44 holds it, and its ports have been
aligned. -/
def State.mayCommit (s : State) (t : Fin 4) : Bool :=
  let x := s.transports[t]
  !x.stopped && !x.held HoldBit.unbound && s.allTrained t

/-- A sheet at the entry with no sheet committed (step 2 of R44): committed when every condition holds; CAPTURE or SPOOL is set while
the frames of a partition that is bound, or the spool, cannot cover it (R263, R370). -/
def State.entrySheet (s : State) (t : Fin 4) : State :=
  let defs := s.sidesOf t
  let need := s.sideReserve * defs.length
  if defs.isEmpty then s
  else match s.takeSheet defs with
    | none => if s.transports[t].held HoldBit.unbound then s else s.setHold t HoldBit.capture true
    | some (s1, l) =>
      let may := s.mayCommit t
      let high (s : State) : State := if may && !s.grantOutright need then s.spoolEnterHigh else s
      if !s.grantSheet need then ((high s).setHold t HoldBit.capture false).setHold t HoldBit.spool true
      else if may then ((high s1).setHold t HoldBit.capture false).commitSheet t l
      else s.setHold t HoldBit.capture false

/-- CAPTURE cleared when the frames of a sheet are free again. -/
def State.recheckCapture (s : State) (t : Fin 4) : State :=
  if s.transports[t].held HoldBit.capture && (s.takeSheet (s.sidesOf t)).isSome then s.setHold t HoldBit.capture false else s

/-! ## Gap boundaries (R42, R44, R45, R476) -/

/-- A periodic result takes effect, and a periodic authentication that waits for a gap starts (R67). -/
def State.gapCart (s : State) (n : Fin 4) : State :=
  s.onPort n fun p =>
    let c := p.cart
    let c := match c.waiting with
      | some r => { c with result := some r, waiting := none }
      | none => c
    let c := if c.periodicDue && !c.pending then { c with periodicDue := false, periodicRun := c.present, failures := 0
                                                          busyMs := 0, exhausted := none
                                                          requests := if c.present then [getDescriptor] else [] } else c
    { p with cart := c }

/-- The port bindings of a newly selected plan, and the binding points of partitions that wait for a gap (R45, R438). DESIGN CHOICE, log
entry 135: a selection made inside a gap binds at the next boundary of that gap at which no sheet is committed. -/
def State.gapBind (s : State) (t : Fin 4) : State :=
  let s := if s.transports[t].pendBind then
      let plan := s.planOf 0
      let s := (s.tports t).foldl (fun (s : State) (n : Fin 4) => s.onPort n fun p => { p with boundPart := planPort plan n }) s
      s.onTransport t fun x => { x with pendBind := false }
    else s
  let here := (List.finRange 6).filter fun p => (s.tports t).any fun n => s.ports[n].boundPart == some p
  here.foldl State.bindPoint s

/-- Whether a partition served by a transport's ports is unbound. -/
def State.portUnbound (s : State) (t : Fin 4) : Bool :=
  (s.tports t).any fun n => match s.ports[n].boundPart with
    | some p => !s.parts[p].bound
    | none => true

/-- Whether a sheet is committed and not yet captured. -/
def TrPhase.committed : TrPhase → Bool
  | .gap => false
  | .calib sheet _ _ => sheet
  | .paused => true
  | .capture _ => true

/-- A boundary inside a sheet gap, which runs on through calibration: the causes that take effect there, then, with no sheet committed,
the sheet at the entry, then a calibration without a sheet. A sheet is committed during such a calibration too, and its own takes the
place of it (DEDUCED, log entry 140). -/
def State.gapBoundary (s : State) (t : Fin 4) : State :=
  let s := (s.tports t).foldl State.gapCart s
  let committed := s.transports[t].phase.committed
  let s := (if committed then s else s.gapBind t).settleHolds t
  let s := s.setHold t HoldBit.spool s.host.spoolHigh
  let s := s.setHold t HoldBit.unbound (s.portUnbound t)
  let s := s.setHold t HoldBit.cal (s.calOut t)
  let s := s.setHold t HoldBit.supply s.power.hold.isSome
  if committed then s
  else
    let x := s.transports[t]
    let s := if x.phase = .gap ∧ x.held HoldBit.cal ∧ x.calDue.isNone ∧ !x.calNow ∧ !x.held HoldBit.cover ∧ !x.held HoldBit.cartridge then
        s.onTransport t fun y => { y with calDue := some (s.now + second) }
      else s
    let s := if x.paperIn then s.entrySheet t else s.recheckCapture t
    let y := s.transports[t]
    if y.phase = .gap ∧ y.calNow ∧ y.held HoldBit.cal ∧ !y.stopped then s.beginCal t false else s

/-! ## The lines of a sheet (R41, R54, R55) -/

/-- The largest delay of a side's planes. -/
def State.maxDelay (s : State) (d : Fin 8) : Nat := ((s.sidePlanes d).map (·.dly)).foldl max 0

/-- L_SHEET of the committed sheet. -/
def State.sheetLines (s : State) (t : Fin 4) : Nat :=
  ((s.sidesOf t).map fun d => (s.sideDef d).lines + s.maxDelay d).foldl max 0

/-- The value of a plane's sample in a capture line. -/
def capValue (lines : List CapLine) (k : Nat) (p : PlaneDef) (i : Nat) : Nat :=
  match lines[k]? with
  | none => 255
  | some l => match l.rows.find? fun r => r.1 == p.port with
    | some r => (r.2.getD p.index []).getD i 255
    | none => 255

/-- Output line `v` of a role of a side, 255 where no plane of the role covers a column (R54). -/
def State.roleRow (s : State) (x : Side) (role v : Nat) : List Nat :=
  let lines := s.transports[x.transport].capLines
  let planes := (s.sidePlanes x.sideDef).filter fun p => p.role == role
  let d := s.sideDef x.sideDef
  let row := (List.range d.width).map fun c =>
    match planes.find? fun p => decide (p.xOff ≤ c) && decide (c < p.xOff + p.width) with
    | some p => capValue lines (v + p.dly) p (c - p.xOff)
    | none => 255
  if d.mirror then row.reverse else row

/-- Three rows interleaved. -/
def interleave (r g b : List Nat) : List Nat := (r.zip (g.zip b)).flatMap fun x => [x.1, x.2.1, x.2.2]

/-- The next output line of a side assembled. -/
def State.assembleLine (s : State) (x : Side) : State :=
  let v := x.assembled
  let vis := if s.sideRgb x.sideDef then interleave (s.roleRow x 1 v) (s.roleRow x 2 v) (s.roleRow x 3 v) else s.roleRow x 0 v
  let ir := if s.sideHas x.sideDef 4 then [s.roleRow x 4 v] else []
  let uv := if s.sideHas x.sideDef 5 then [s.roleRow x 5 v] else []
  s.onSide x.key fun y => { y with
    visRows := y.visRows ++ [vis], irRows := y.irRows ++ ir, uvRows := y.uvRows ++ uv, assembled := v + 1 }

/-! ## Deskew (R56 to R58) -/

/-- Integer parts of 65,536 × sin(k × 0.1°), k = 5 to 50. -/
def sinTable : List Nat :=
  [ 571, 686, 800, 915, 1029, 1143, 1258, 1372, 1486, 1601, 1715, 1829, 1944, 2058, 2172, 2287, 2401, 2515, 2630, 2744
  , 2858, 2972, 3087, 3201, 3315, 3429, 3544, 3658, 3772, 3886, 4000, 4115, 4229, 4343, 4457, 4571, 4685, 4799, 4913
  , 5027, 5141, 5255, 5369, 5483, 5597, 5711 ]

/-- The square root of a finite FP32 number that is not negative, rounded once. -/
def fsqrt (w : Word) : Word :=
  match fp32Val w with
  | .fin _ m e =>
    let k : Nat := 64 + (e % 2).toNat
    let r := isqrt (m * 2 ^ k)
    let sticky := if r * r = m * 2 ^ k then 0 else 1
    fp32Of (.fin false (2 * r + sticky) ((e - (k : Int)) / 2 - 1))
  | _ => w

/-- The rows that the skew search reads: G values, GRAY, else IR, else UV (R57). -/
def State.searchRows (s : State) (x : Side) : List (List Nat) :=
  if s.sideRgb x.sideDef then
    x.visRows.map fun r => (List.range (s.sideDef x.sideDef).width).map fun c => r.getD (3 * c + 1) 255
  else if s.sideHas x.sideDef 0 then x.visRows
  else if s.sideHas x.sideDef 4 then x.irRows
  else x.uvRows

/-- Whether two levels differ by more than the threshold. -/
def apart (a b delta : Nat) : Bool := decide (a > b + delta) || decide (b > a + delta)

/-- The edge of a column: the first line from 4 on where three lines in a row leave the backing level. -/
def columnEdge (rows : List (List Nat)) (col delta : Nat) : Option Nat :=
  let v (y : Nat) : Nat := (rows.getD y []).getD col 255
  let back := (divAway ((v 0 + v 1 + v 2 + v 3 : Nat) : Int) 4).toNat
  (List.range rows.length).find? fun y => decide (4 ≤ y) && decide (y + 2 < rows.length)
    && apart (v y) back delta && apart (v (y + 1)) back delta && apart (v (y + 2)) back delta

/-- The points (x, y) of the columns that have an edge, over the first 256 output lines. -/
def State.edgePoints (s : State) (x : Side) : List (Nat × Nat) :=
  let d := s.sideDef x.sideDef
  let rows := (s.searchRows x).take 256
  (List.range 32).filterMap fun i =>
    let c := (2 * i + 1) * d.width / 64
    (columnEdge rows c d.edgeDelta).map fun y => (c, y)

/-- The rotation that the points give: s, c in Q2.16 and the pivot in Q.16 (R57). -/
def fitSkew (pts : List (Nat × Nat)) : Skew :=
  let n : Int := pts.length
  let sum (f : Nat × Nat → Nat) : Int := ((pts.map f).sum : Nat)
  let sx := sum (·.1)
  let sy := sum (·.2)
  let sxy := sum fun p => p.1 * p.2
  let sxx := sum fun p => p.1 * p.1
  let b := fdiv (intToF32 (n * sxy - sx * sy)) (intToF32 (n * sxx - sx * sx))
  let a := fdiv (fsub (intToF32 sy) (fmul b (intToF32 sx))) (intToF32 n)
  let root := fsqrt (fadd fp32One (fmul b b))
  let q (w : Word) : Int := roundF32 (fmul w (natF32 65536))
  ⟨!(isNaN b), q (fdiv b root), q (fdiv fp32One root), q a⟩

/-- The rotation chosen for a side once its first 256 lines are assembled, with NO_EDGE or SKEW_LIMIT (R58). A slope that
is 0 ÷ 0 rotates nothing (log entry 27). -/
def State.chooseSkew (s : State) (x : Side) : State :=
  let d := s.sideDef x.sideDef
  let pts := s.edgePoints x
  let k := fitSkew pts
  let limit := sinTable.getD (d.maxAngle - 5) 0
  let ok := k.rotate && decide (k.s.natAbs ≤ limit) && decide (k.s.natAbs * d.width ≤ 224 * 65536)
  let plain : Skew := ⟨false, 0, 65536, 0⟩
  if pts.length < 16 then (s.addStatus x.key 0x0106 pts.length).onSide x.key fun y => { y with skew := some plain }
  else if ok then s.onSide x.key fun y => { y with skew := some k }
  else (s.addStatus x.key 0x0107 0).onSide x.key fun y => { y with skew := some plain }

/-- A row of an image with `m` values for each pixel, rotated (R58). -/
def rotateRow (k : Skew) (rows : List (List Nat)) (width m v : Nat) : List Nat :=
  let dy : Int := (v : Int) * 65536 - k.y0
  (List.range width).flatMap fun (u : Nat) =>
    let xs := k.c * u * 65536 - k.s * dy
    let ys := k.y0 * 65536 + k.s * u * 65536 + k.c * dy
    (List.range m).map fun (ch : Nat) =>
      let pix (x y : Int) : Nat := if x < 0 ∨ x ≥ width then 255 else pixelOf rows (x * m + ch) y
      bilinear pix (xs / 16777216) (ys / 16777216)

/-- The row of an image as it is written. -/
def outRow (k : Option Skew) (rows : List (List Nat)) (width m v : Nat) : List Nat :=
  match k with
  | some q => if q.rotate then rotateRow q rows width m v else rows.getD v []
  | none => rows.getD v []

/-- The rows of an image of a side. -/
def Side.rowsOf (x : Side) (role : Nat) : List (List Nat) :=
  if role = 0 then x.visRows else if role = 1 then x.irRows else x.uvRows

/-- Lines `from_` to `to_` - 1 of every image of a side written to main memory, padded with zeros (R55). -/
def State.writeBand (s : State) (x : Side) (from_ to_ : Nat) : State :=
  x.images.foldl (fun (s : State) (i : ImageRef) =>
    if i.role > 2 then s
    else
      let m := if i.rgb then 3 else 1
      let bytes := (List.range (to_ - from_)).flatMap fun k =>
        let row := outRow x.skew (x.rowsOf i.role) i.width m (from_ + k)
        row.map (BitVec.ofNat 8) ++ List.replicate (i.stride - row.length) (0 : Byte)
      s.mainPut (i.addr + from_ * i.stride) bytes) s

/-- A side whose image is complete: it waits for its camera pictures, or is ready for stage 5 (R17, R96). -/
def State.completeImage (s : State) (k : Nat) : State :=
  s.onSide k fun x => { x with
    stage := if x.fuseStreams.isEmpty then .arriving else .fusing, visRows := [], irRows := [], uvRows := [] }

/-- One more line of a side emitted; a band of 16 lines, or the last lines, are written, and the last completes the
image. -/
def State.emitLine (s : State) (k : Nat) : State :=
  match s.side? k with
  | none => s
  | some x =>
    let d := s.sideDef x.sideDef
    let n := x.emitted + 1
    let s := s.onSide k fun y => { y with emitted := n }
    let s := if n % 16 = 0 ∨ n = d.lines then s.writeBand x ((n - 1) / 16 * 16) n else s
    if n = d.lines then s.completeImage k else s

/-! ## Camera frames (R96) -/

/-- The distance of a time stamp from a reference time. -/
def fuseDist (ts : DWord) (ref : Int) : Nat := ((ts.toNat : Int) - ref).natAbs

/-- The nearest eligible picture within the window; of two as near, the earlier one. -/
def choosePicture (l : List Picture) (ref : Int) (window : Nat) : Option Picture :=
  (l.filter fun p => p.eligible && decide (fuseDist p.timestamp ref ≤ window)).foldl (fun (b : Option Picture) p => match b with
    | none => some p
    | some q =>
      if fuseDist p.timestamp ref < fuseDist q.timestamp ref
        ∨ (fuseDist p.timestamp ref = fuseDist q.timestamp ref ∧ p.timestamp < q.timestamp) then some p else some q) none

/-- The selection of a stream's picture for a side made now. -/
def State.selectPicture (s : State) (k : Nat) (n : Fin 64) : State :=
  match s.side? k with
  | none => s
  | some x =>
    let ref : Int := (x.tStart.getD 0 : Int) + s.fuseOffset n
    let st := s.streams[n]
    let s := match choosePicture st.pictures ref (s.fuseWindow n) with
      | none => s.addStatus k 0x020A n.val
      | some p =>
        let s := s.onSide k fun y => { y with images := y.images ++ [{ p.image with role := 3 }] }
        if st.entered.any fun e => e.2 != some true && decide (fuseDist e.1 ref < fuseDist p.timestamp ref) then
          (s.addStatus k 0x0208 n.val).countStream n Strm.framesHeld 1
        else s
    s.onSide k fun y =>
      let left := y.fuseStreams.filter fun m => m != n.val
      { y with fuseStreams := left, stage := if y.stage = .fusing ∧ left.isEmpty then .arriving else y.stage }

/-- Whether selection falls due: an access unit at or past the reference time is decoded or dropped, or the window has
closed. -/
def State.fuseDue (s : State) (x : Side) (n : Fin 64) : Bool :=
  match x.tStart with
  | none => false
  | some t0 =>
    let ref : Int := (t0 : Int) + s.fuseOffset n
    s.streams[n].entered.any (fun e => e.2.isSome && decide ((e.1.toNat : Int) ≥ ref))
      || decide ((s.now : Int) ≥ ref + s.fuseWindow n)

/-- Every selection of a side that is due made. -/
def State.fuseSide (s : State) (k : Nat) : State :=
  match s.side? k with
  | none => s
  | some x =>
    if x.statusOnly then s
    else (x.fuseStreams.map (Fin.ofNat 64)).foldl (fun (s : State) (n : Fin 64) => if s.fuseDue x n then s.selectPicture k n else s) s

/-! ## A line period ends (R39, R44) -/

/-- The line's samples taken by a port: its counters, and a shortfall. -/
def State.takeLine (s : State) (n : Fin 4) (illum : Bool) (xs : List Nat) : State :=
  let s := if s.ports[n].short xs then
      s.onPort n fun p => { p with underrun := true, underrunLines := p.underrunLines + 1 }
    else s
  s.countLine n illum

/-- The ports of a transport with their samples. -/
def State.lineInput (s : State) (t : Fin 4) (samples : List (List Nat)) : List (Fin 4 × List Nat) :=
  ((s.tports t).zipIdx).map fun x => (x.1, samples.getD x.2 [])

/-- A calibration line taken by a port (R44 step 3). -/
def State.calLine (s : State) (phase : CalPhase) (line : Nat) (x : Fin 4 × List Nat) : State :=
  let (n, xs) := x
  let illum := phase == .white || phase == .whiteSettle
  let s := s.takeLine n illum xs
  s.onPort n fun p =>
    let v := (p.split xs).map fun l => l.map p.x12
    let p := if p.short xs then { p with calShort := true } else p
    if phase = .dark ∧ line < p.darkLines then { p with sumDark := addPlanes p.sumDark v }
    else if phase = .white ∧ line < p.whiteLines then { p with sumWhite := addPlanes p.sumWhite v }
    else p

/-- Lines of a phase: the largest value of its field over the ports. -/
def State.phaseLines (s : State) (t : Fin 4) (phase : CalPhase) : Nat :=
  ((s.tports t).map fun n =>
    let p := s.ports[n]
    match phase with
    | .darkSettle => p.lampSettle
    | .dark => p.darkLines
    | .whiteSettle => p.lampSettle
    | .white => p.whiteLines).foldl max 0

/-- The phase after a phase, none when calibration has ended. -/
def State.nextPhase (s : State) (t : Fin 4) : CalPhase → Option CalPhase
  | .darkSettle => some .dark
  | .dark => if s.phaseLines t .whiteSettle = 0 then some .white else some .whiteSettle
  | .whiteSettle => some .white
  | .white => none

/-- The sides of a committed sheet dropped with their frames and reservations (R44 step 4). -/
def State.dropSheet (s : State) (t : Fin 4) : State :=
  let keys := s.transports[t].sheetSides
  let s := keys.foldl State.freeFrames s
  let s := { s with
    sides := s.sides.filter fun x => !keys.contains x.key
    host := { s.host with spoolResv := s.host.spoolResv - s.sideReserve * keys.length } }
  (s.onTransport t fun x => { x with phase := .gap, sheetSides := [], capLines := [] }).spoolSettle

/-- Capture started: the statuses that a port gives every side captured on it (R50, R68, R71). -/
def State.beginCapture (s : State) (t : Fin 4) : State :=
  let s := s.onTransport t fun x => { x with phase := .capture 0, capLines := [] }
  (s.tports t).foldl (fun (s : State) (n : Fin 4) =>
    let p := s.ports[n]
    let on (x : Side) : Bool := !(s.feeds n x).isEmpty
    let s := if p.usedOld then s.markSheet t 0x0103 (portMask n) on else s
    let s := if p.usedDefault then s.markSheet t 0x0104 (portMask n) on else s
    let s := if p.cart.failed && !s.cartRefuse then s.markSheet t 0x0108 (portMask n) on else s
    if p.wear 100 then s.markSheet t 0x0109 (portMask n) on else s) s

/-- The end of a calibration: every port judges its own; capture starts, or the sheet is not captured, or the calibration
had none. -/
def State.endCal (s : State) (t : Fin 4) (sheet : Bool) : State :=
  let s := (s.tports t).foldl State.judgeCal s
  let due := if s.calOut t then some (s.now + second) else none
  let s := s.onTransport t fun x => { x with calDue := due, calNow := false }
  if !sheet then s.onTransport t fun x => { x with phase := .gap }
  else if s.transports[t].paperIn then s.beginCapture t
  else s.dropSheet t

/-- A side of the sheet after capture line `k`: its next output line assembled, emitted when the buffer lets it, and
T_START at its last (R54, R56). -/
def State.sideLine (s : State) (k : Nat) (key : Nat) : State :=
  match s.side? key with
  | none => s
  | some x =>
    let d := s.sideDef x.sideDef
    let delay := s.maxDelay x.sideDef
    if x.stage ≠ .capturing ∨ x.tStart.isSome ∨ k < delay ∨ k - delay ≥ d.lines then s
    else
      let s := s.assembleLine x
      let s := if d.deskew && x.assembled + 1 == min 256 d.lines then
          (match s.side? key with
          | some y => s.chooseSkew y
          | none => s)
        else s
      let s := if x.assembled + 1 = d.lines then
          let s := s.onTransport x.transport fun y => { y with sides := y.sides + 1 }
          (s.onSide key fun y => { y with tStart := some s.now, holdSeen := s.power.hold.isSome }).fuseSide key
        else s
      if !d.deskew || decide (x.assembled + 1 - x.emitted > 256) then s.emitLine key else s

/-- A capture line taken (R39, R48, R54). -/
def State.captureLine (s : State) (t : Fin 4) (k : Nat) (input : List (Fin 4 × List Nat)) : State :=
  let s := input.foldl (fun (s : State) (x : Fin 4 × List Nat) => s.takeLine x.1 true x.2) s
  let rows := input.map fun x => (x.1, s.ports[x.1].correctLine (s.ports[x.1].split x.2))
  let s := s.onTransport t fun y => { y with capLines := y.capLines ++ [⟨rows⟩] }
  let s := (input.filter fun x => s.ports[x.1].short x.2).foldl (fun (s : State) (x : Fin 4 × List Nat) =>
    s.markSheet t 0x0105 (portMask x.1) fun y => (s.feeds x.1 y).any fun p =>
      decide (p.dly ≤ k) && decide (k < p.dly + (s.sideDef y.sideDef).lines)) s
  s.transports[t].sheetSides.foldl (fun (s : State) (key : Nat) => s.sideLine k key) s

/-! ## Covers and removals at a boundary (R60, R62) -/

/-- A side aborted: published with COVER_OPEN or CART_REMOVED; its capture time is the abort. -/
def State.abortSide (s : State) (t : Fin 4) (cover : Bool) (mask : Nat) (key : Nat) : State :=
  match s.side? key with
  | none => s
  | some x =>
    if x.tStart.isSome then s
    else
      let s := if cover then s.addStatus key 0x0101 t.val else s
      let s := if mask > 0 then s.addStatus key 0x0102 mask else s
      let s := s.onTransport t fun y => { y with sides := y.sides + 1 }
      (s.onSide key fun y => { y with
        stage := .arriving, statusOnly := true, tStart := some s.now, visRows := [], irRows := [], uvRows := [] }).freeFrames key

/-- An opening or a removal that takes effect: calibration stops, or the sides being captured are aborted. -/
def State.interrupt (s : State) (t : Fin 4) : State :=
  let x := s.transports[t]
  let mask := x.pendCart.foldl (fun m n => m ||| portMask n) 0
  if !x.pendCover && x.pendCart.isEmpty then s
  else match x.phase with
    | .gap => s
    | .paused => s
    | .calib sheet _ _ =>
      if sheet then s.onTransport t fun y => { y with phase := .paused }
      else s.onTransport t fun y => { y with phase := .gap, calDue := none, calNow := false }
    | .capture _ =>
      let s := x.sheetSides.foldl (fun (s : State) (key : Nat) => s.abortSide t x.pendCover mask key) s
      s.onTransport t fun y => { y with
        phase := .gap, sheetSides := [], capLines := [], abortWait := true, coverAborts := y.coverAborts + 1
        paperLowAt := if y.paperIn then none else some s.now }

/-! ## LINE_BOUNDARY -/

/-- The last level that an output's edges give in a line period. -/
def Port.lastLevel (p : Port) (output : Nat) : Option Bool :=
  ((p.edges.filter fun e => e.output == output).foldl (fun (b : Option Edge) e => match b with
    | none => some e
    | some f => if f.time ≤ e.time then some e else some f) none).map (·.level)

/-- Whether the line periods of a phase have illumination, and whether they are capture lines. -/
def TrPhase.lit : TrPhase → Bool
  | .gap => false
  | .paused => false
  | .calib _ .white _ => true
  | .calib _ .whiteSettle _ => true
  | .calib _ _ _ => false
  | .capture _ => true

/-- Whether a phase captures. -/
def TrPhase.captures : TrPhase → Bool
  | .capture _ => true
  | _ => false

/-- The levels of a port's timing and illumination outputs at the end of a line period (R37). DESIGN CHOICE, log entry 137: a refused
port follows its edges like any other. -/
def Port.settleOutputs (p : Port) (was next : Bool) : Port :=
  let level (o : Nat) (old : Bool) : Bool := (p.lastLevel o).getD old
  { p with
    outT := BitVec.ofNat 6 (((List.range 6).map fun i => b2n (level i (p.outT.getLsbD i)) * 2 ^ i).sum)
    outLed := if next then
        BitVec.ofNat 4 (((List.range 4).map fun i => b2n (was && level (8 + i) (p.outLed.getLsbD i)) * 2 ^ i).sum)
      else 0 }

/-- The outputs of a transport and its ports at the end of a line period; `was` is the phase that the period had. -/
def State.settleOutputs (s : State) (t : Fin 4) (was : TrPhase) : State :=
  let x := s.transports[t]
  let s := (s.tports t).foldl (fun (s : State) (n : Fin 4) => s.onPort n fun p => p.settleOutputs was.lit x.phase.lit) s
  let level := match s.leadPort t with
    | some n => (s.ports[n].lastLevel outStep).getD x.step
    | none => false
  s.onTransport t fun y => { y with step := was.captures && y.phase.captures && level }

/-- A line boundary of a transport that has configured ports. DESIGN CHOICE, log entries 134 and 136: samples outside calibration and
capture are not looked at, and a capture that starts at the end of a calibration ends the gap there. -/
def State.lineBoundary (s : State) (t : Fin 4) (paper : Bool) (samples : List (List Nat)) : State :=
  let s := s.onTransport t fun x => { x with
    paperIn := paper, paperLowAt := if paper then none else some (x.paperLowAt.getD s.now) }
  let was := s.transports[t].phase
  let input := s.lineInput t samples
  let s := match was with
    | .gap => s
    | .paused => s
    | .calib _ phase line => input.foldl (fun (s : State) (x : Fin 4 × List Nat) => s.calLine phase line x) s
    | .capture k =>
      let s := s.captureLine t k input
      if k + 1 ≥ s.sheetLines t then s.onTransport t fun x => { x with phase := .gap, sheetSides := [], capLines := [] }
      else s.onTransport t fun x => { x with phase := .capture (k + 1) }
  let s := ((s.settleHolds t).interrupt t).settleHolds t
  let s := match was, s.transports[t].phase with
    | .calib sheet phase line, .calib _ _ _ =>
      if line + 1 < s.phaseLines t phase then s.onTransport t fun x => { x with phase := .calib sheet phase (line + 1) }
      else match s.nextPhase t phase with
        | some q => s.onTransport t fun x => { x with phase := .calib sheet q 0 }
        | none => s.endCal t sheet
    | .paused, .paused => if s.transports[t].stopped then s else s.beginCal t true
    | _, _ => s
  let s := if s.transports[t].phase.captures then s else s.gapBoundary t
  let s := s.onTransport t fun x => { x with pendCover := false, pendCart := [] }
  (s.settleOutputs t was).settlePins t

/-- LINE_BOUNDARY: a line period of a transport ends. `paper` is PAPER_IN, `samples` what each configured port of the
transport framed in it, in ascending port (R39, R44). -/
def execLineBoundary (tr : Fin 4) (paperIn : Bool) (samples : List (List Nat)) (t : Nat) (s : State) :
    Host.Outcome State Fault Refusal :=
  let s1 := s.at t
  done s (if s1.up && !(s1.tports tr).isEmpty then s1.lineBoundary tr paperIn samples else s1)

/-- A line of the deskew buffer flushed, after the last line of a side. -/
def flushEffect (k : Nat) (s : State) : State :=
  match s.side? k with
  | none => s
  | some x =>
    if x.stage = .capturing ∧ x.tStart.isSome ∧ x.emitted < x.assembled then s.emitLine k else s

/-- DESKEW_FLUSH_LINE: after the last line of a side its deskew buffer emits one held line (R56). -/
def execDeskewFlushLine (side : Nat) (t : Nat) (s : State) : Host.Outcome State Fault Refusal :=
  done s (flushEffect side (s.at t))

/-! ## Lane alignment (R33) -/

/-- Whether a port that ROM has enabled is still aligning its lanes. -/
def State.aligning (s : State) (n : Fin 4) : Bool :=
  s.up && s.ports[n].cfgEn && !s.ports[n].refused && !s.ports[n].trained

/-- LANE_ALIGNMENT_DONE: every lane is aligned; TRAINED sets and the port may capture. -/
def execLaneAlignmentDone (port : Fin 4) (t : Nat) (s : State) : Host.Outcome State Fault Refusal :=
  let s1 := s.at t
  done s (if s1.aligning port then s1.onPort port fun p => { p with trained := true, enabled := true } else s1)

/-- A port refused: its transport is held with CONFIG from its next line boundary on (R44). -/
def State.refusePort (s : State) (n : Fin 4) : State := s.onPort n fun p => { p with refused := true, enabled := false }

/-- LANE_TRAIN_TIMEOUT: a lane has not aligned within 10 ms. -/
def execLaneTrainTimeout (port : Fin 4) (lane : Fin 8) (t : Nat) (s : State) : Host.Outcome State Fault Refusal :=
  let s1 := s.at t
  done s (if s1.aligning port && decide (lane.val < s1.ports[port].lanes) then
      (s1.refusePort port).log 0x0201 (srcPort port) [BitVec.ofNat 8 lane.val]
    else s1)

/-! ## Calibration without a sheet (R476) -/

/-- CAL_RETRY_TIMER: a calibration without a sheet falls due one second after a failure while CAL is set. -/
def execCalRetryTimer (tr : Fin 4) (t : Nat) (s : State) : Host.Outcome State Fault Refusal :=
  let s1 := s.at t
  let due := match s1.transports[tr].calDue with
    | some d => decide (s1.now ≥ d)
    | none => false
  done s (if due && s1.calOut tr then s1.onTransport tr fun x => { x with calDue := none, calNow := true } else s1)

end Sys2Proof.Machine
end

