-- ==== Sys2Proof/Machine/Cart.lean ====
section
/-!
DEFINITION. The scan cartridge: its bus, its authentication, its life counters, and the covers that hold it
(02_scan_front_end.md, R59 to R70).
-/
namespace Sys2Proof.Machine

/-- The cartridge of a port updated. -/
def State.onCartridge (s : State) (n : Fin 4) (f : Cart → Cart) : State := s.onPort n fun p => { p with cart := f p.cart }

/-- Code of a result in CART_AUTH (R451). -/
def CartResult.code : CartResult → Byte
  | .passed => 0
  | .noResponse => 1
  | .badCheck => 2
  | .version => 3
  | .badCert => 4
  | .badSignature => 5
  | .absent => 6
  | .chipError => 7

/-! ## Authentication (R65, R66) -/

/-- The result of a request's answer that is not OK; none when it is OK. -/
def answerFault : ChipAnswer → Option CartResult
  | .noResponse => some .noResponse
  | .badCheck => some .badCheck
  | .error => some .chipError
  | .ok _ => none

/-- The payload of an answer. -/
def answerBytes : ChipAnswer → List Byte
  | .ok b => b
  | _ => []

/-- What an authentication finds: its result, the descriptor when it could be read, and the cartridge's counters when it
got so far. -/
structure AuthFinding where
  result   : CartResult
  descr    : Option (List Byte)
  counters : Option (Nat × Nat)
  deriving DecidableEq, Repr

/-- The message that the identity chip signs (R66). -/
def cartMessage (descr nonce counters : List Byte) : List Byte :=
  ascii "RT6-CART-v1" ++ sliceAt descr 4 8 ++ nonce ++ sliceAt counters 0 12

/-- The last steps of an authentication: the challenge answered and its signature verified with PUBKEY. -/
def finishAuth (nonce : List Byte) (x : CartExchange) (descr counters : List Byte) : AuthFinding :=
  let found (r : CartResult) : AuthFinding := ⟨r, some descr, some (leAt counters 0 8, leAt counters 8 4)⟩
  match answerFault x.challenge with
  | some r => found r
  | none =>
    if Ed448.verify (sliceAt descr 32 57) [] (digest (cartMessage descr nonce counters)) (sliceAt (answerBytes x.challenge) 0 114) then
      found .passed
    else found .badSignature

/-- An authentication's exchanges judged, step by step (R66). -/
def judgeAuth (authority nonce : List Byte) (x : CartExchange) : AuthFinding :=
  match answerFault x.descr with
  | some r => ⟨r, none, none⟩
  | none =>
    let d := sliceAt (answerBytes x.descr) 0 216
    if byteAt d 0 ≠ 1 ∨ byteAt d 1 ≠ 0 then ⟨.version, none, none⟩
    else if !Ed448.verify authority [] (digest (d.take 96)) (sliceAt d 96 114) then ⟨.badCert, some d, none⟩
    else match answerFault x.counters with
      | some r => ⟨r, some d, none⟩
      | none => finishAuth nonce x d (answerBytes x.counters)

/-- The index of the store entry for a serial: its own, an unused one, or the one seen longest ago (R443). -/
def State.cartSlot (s : State) (serial : DWord) : Nat :=
  match s.cartIndex serial with
  | some i => i
  | none =>
    let entries := (s.store.carts.zipIdx).map fun x => (x.2, x.1)
    match entries.find? fun x => !x.2.used with
    | some x => x.1
    | none => (entries.foldl (fun (b : Option (Nat × Nat)) x => match b with
        | none => some (x.1, x.2.lastBoot.toNat)
        | some y => if x.2.lastBoot.toNat < y.2 then some (x.1, x.2.lastBoot.toNat) else some y) none).elim 0 (·.1)

/-- The requests of an authentication, up to the one at which it fails (R64, R66). -/
def authRequests (authority nonce : List Byte) (x : CartExchange) : List (List Byte) :=
  let d := sliceAt (answerBytes x.descr) 0 216
  if (answerFault x.descr).isSome ∨ byteAt d 0 ≠ 1 ∨ byteAt d 1 ≠ 0 ∨ !Ed448.verify authority [] (digest (d.take 96)) (sliceAt d 96 114) then
    [getDescriptor]
  else if (answerFault x.counters).isSome then [getDescriptor, getCounters]
  else [getDescriptor, getCounters, challengeOf nonce]

/-- A descriptor read: each counter starts at the larger of the cartridge's and the NOR record's value, and both copies are
brought up to it, the cartridge's by a SET_COUNTERS (R69). A new serial takes an entry, to be committed within 1 s (R444). -/
def State.readDescriptor (s : State) (n : Fin 4) (d : List Byte) (counters : Option (Nat × Nat)) : State :=
  let serial : DWord := BitVec.ofNat 64 (leAt d 4 8)
  let p := s.ports[n]
  let same := p.cart.known && p.cart.serial == serial
  let i := s.cartSlot serial
  let isNew := (s.cartIndex serial).isNone
  let e : StoreCart := if isNew then { StoreCart.unused with used := true, serial := serial } else s.store.carts.getD i StoreCart.unused
  let (cl, ci) := counters.getD (0, 0)
  let lines := max (max cl e.lines.toNat) (if same then p.lines.toNat else 0)
  let illum := max (max ci e.illumS.toNat) (if same then p.illumS.toNat else 0)
  let s := s.onCart i fun _ => { e with
    lines := BitVec.ofNat 64 lines, illumS := BitVec.ofNat 32 illum, model := BitVec.ofNat 16 (leAt d 2 2)
    lastBoot := BitVec.ofNat 32 (s.store.life[0]).toNat }
  let s := if isNew then { s with store := { s.store with urgent := true } } else s
  let s := s.onPort n fun q => { q with
    lines := BitVec.ofNat 64 lines, illumS := BitVec.ofNat 64 illum, illumNs := if same then q.illumNs else 0
    cart := { q.cart with
      known := true, nearLogged := e.nearLogged || (same && q.cart.nearLogged), serial := serial, model := BitVec.ofNat 16 (leAt d 2 2), ratedLines := BitVec.ofNat 64 (leAt d 16 8)
      ratedIllum := BitVec.ofNat 32 (leAt d 24 4), descriptor := d
      ownLines := counters.elim (if same then q.cart.ownLines else 0) fun c => BitVec.ofNat 64 c.1
      ownIllum := counters.elim (if same then q.cart.ownIllum else 0) fun c => BitVec.ofNat 32 c.2 } }
  let c := s.ports[n].cart
  let behind := decide (c.ownLines.toNat < lines) || decide (c.ownIllum.toNat < illum)
  (if behind then s.sendCounters n else s).settleWear n

/-- CART_AUTH (R66, R451): the result, and the serial of a descriptor that was read. -/
def State.logAuth (s : State) (n : Fin 4) (r : CartResult) (descr : Option (List Byte)) : State :=
  s.log 0x0203 (srcPort n) (r.code :: (match descr with
    | some d => sliceAt d 4 8
    | none => List.replicate 8 0))

/-- The result of an authentication taken: at once when it held the transport, otherwise at the next gap boundary (R67). -/
def State.takeResult (s : State) (n : Fin 4) (r : CartResult) : State :=
  s.onCartridge n fun c =>
    let c := { c with failures := 0, busyMs := 0, exhausted := none }
    if c.pending then { c with pending := false, result := some r, waiting := none, periodicRun := false }
    else { c with periodicRun := false, waiting := some r }

/-- A port's authentication run to its end. -/
def State.runAuth (s : State) (n : Fin 4) (x : CartExchange) : State :=
  let c := s.ports[n].cart
  if !c.present then (s.logAuth n .absent none).takeResult n .absent
  else
    let key := Config.cartAuthorityKey s.otp.stepping.toNat
    let nonce := sliceAt (Config.cartNonce s.freeCtr) 0 32
    let f := judgeAuth key nonce x
    let r := c.exhausted.getD f.result
    let s := s.onCartridge n fun y => { y with nonceCount := s.freeCtr, requests := authRequests key nonce x }
    let s := { s with freeCtr := s.freeCtr + 1 }
    let s := match f.descr with
      | some d => s.readDescriptor n d f.counters
      | none => s
    (s.logAuth n r f.descr).takeResult n r

/-- CARTRIDGE and ENABLE of a port's transport after a result that held it (R40, R61). -/
def State.releaseCart (s : State) (n : Fin 4) : State :=
  let t := s.ports[n].transport
  let hold := (s.tports t).any s.cartHolds || !s.transports[t].pendCart.isEmpty
  (s.setHold t HoldBit.cartridge hold).settlePins t

/-- CART_AUTH_DONE: the authentication in progress on a port completes (R66). -/
def execCartAuthDone (port : Fin 4) (exchange : CartExchange) (t : Nat) (s : State) : Host.Outcome State Fault Refusal :=
  let s1 := s.at t
  let c := s1.ports[port].cart
  done s (if s1.up && (c.pending || c.periodicRun) then
      let s2 := s1.runAuth port exchange
      if c.pending then s2.releaseCart port else s2
    else s1)

/-- An authentication that holds the transport started (R67). -/
def State.startAuth (s : State) (n : Fin 4) : State :=
  s.onCartridge n fun c => { c with
    pending := true, periodicDue := false, periodicRun := false, waiting := none, failures := 0, busyMs := 0, exhausted := none
    requests := if c.present then [getDescriptor] else [] }

/-- CART_REAUTH_TIMER: a periodic authentication falls due and waits for a sheet gap (R67). -/
def execCartReauthTimer (port : Fin 4) (t : Nat) (s : State) : Host.Outcome State Fault Refusal :=
  let s1 := s.at t
  let p := s1.ports[port]
  done s (if s1.up && p.cfgEn && p.cart.present && !p.cart.pending then
      s1.onCartridge port fun c => { c with periodicDue := true }
    else s1)

/-! ## The cartridge bus (R63) -/

/-- A transaction that failed: after the third failure of a request the exchange fails. -/
def Cart.failOnce (c : Cart) (r : CartResult) : Cart :=
  if c.failures ≥ 2 then { c with failures := 0, busyMs := 0, exhausted := some r }
  else { c with failures := c.failures + 1, busyMs := 0 }

/-- Whether a response carries its correct length and check word. -/
def responseOk (b : List Byte) : Bool :=
  decide (b.length ≥ 5) && leAt b 1 2 == b.length - 5 && leAt b (b.length - 2) 2 == crc16 (b.take (b.length - 2))

/-- A response read: BUSY is read again after 1 ms, for no longer than 100 ms in all. -/
def Cart.readResponse (c : Cart) (response : Option (List Byte)) : Cart :=
  match response with
  | none => c.failOnce .noResponse
  | some b =>
    if !responseOk b then c.failOnce .badCheck
    else if byteAt b 0 = 0 then
      if c.busyMs ≥ 100 then c.failOnce .noResponse else { c with busyMs := c.busyMs + 1 }
    else { c with failures := 0, busyMs := 0 }

/-- A response to a SET_COUNTERS read: OK and ERROR end it, and so does the third failure. -/
def Cart.readSet (c : Cart) (response : Option (List Byte)) : Cart :=
  let d := c.readResponse response
  if d.exhausted.isSome then { d with exhausted := none }.setDone false
  else match response with
    | some b => if responseOk b && byteAt b 0 != 0 then d.setDone (byteAt b 0 == 1) else d
    | none => d

/-- CART_I2C_RETRY: a response of the identity chip is read; a transaction that fails is retried twice (R63). An authentication goes
before a SET_COUNTERS. -/
def execCartI2cRetry (port : Fin 4) (response : Option (List Byte)) (t : Nat) (s : State) :
    Host.Outcome State Fault Refusal :=
  let s1 := s.at t
  let c := s1.ports[port].cart
  done s (if !s1.up then s1
    else if c.pending || c.periodicRun then
      (if c.exhausted.isNone then s1.onCartridge port fun c => c.readResponse response else s1)
    else if c.setRun then s1.onCartridge port fun c => c.readSet response
    else s1)

/-! ## Insertion, removal, covers (R59 to R62, R67, R70) -/

/-- CART_INSERT: CARTn_PRES_N falls; the cartridge is authenticated, and the transport held until the result (R67). -/
def execCartInsert (port : Fin 4) (t : Nat) (s : State) : Host.Outcome State Fault Refusal :=
  let s1 := (s.at t).onCartridge port fun c => { c with present := true }
  done s (if s1.up && s1.ports[port].cfgEn && !s.ports[port].cart.present then s1.startAuth port else s1)

/-- A cartridge taken away: its counters go to NOR only, and the transport acts at its next boundary (R62, R70). DESIGN CHOICE, log
entries 138 and 139: CART_WEAR reads 0 from then on, and LINES and ILLUM_S keep the values of the cartridge that has gone. -/
def removalEffect (n : Fin 4) (s : State) : State :=
  let p := s.ports[n]
  if !p.cart.present then s
  else
    let known := p.cart.known
    let s := (s.saveCart n).onCartridge n fun c => { c with present := false, known := false, periodicDue := false, setRun := false }
    let s := if p.cfgEn then s.onTransport p.transport fun x => { x with
        pendCart := if x.pendCart.contains n then x.pendCart else x.pendCart ++ [n] } else s
    if known && s.storeReady then s.commitStore else s

/-- CART_REMOVAL: CARTn_PRES_N rises (R62). -/
def execCartRemoval (port : Fin 4) (t : Nat) (s : State) : Host.Outcome State Fault Refusal :=
  done s (removalEffect port (s.at t))

/-- The life counters of a port committed to its cartridge and to its entry of the store. Whatever the cartridge answers,
the RT-6 keeps its own values and writes them again at the next commit (R63, R70). -/
def execCartCounterCommit (port : Fin 4) (answer : ChipAnswer) (t : Nat) (s : State) : Host.Outcome State Fault Refusal :=
  let s1 := s.at t
  done s (if s1.up then ((s1.saveCart port).sendCounters port).onCartridge port fun c =>
      if c.setRun then c.setDone (answerFault answer).isNone else c
    else s1)

/-- The transport that a cover guards (R43). -/
def State.coverHome (s : State) (c : Fin 4) : Fin 4 := Fin.ofNat 4 (wbits s.feCtrl (4 + 2 * c.val) 2)

/-- An opening accepted: the counters of the transport's cartridges are committed, and the transport acts at its next
boundary (R60, R70, R444). -/
def State.openCover (s : State) (c : Fin 4) : State :=
  let tr := s.coverHome c
  let s := (s.onTransport tr fun x => { x with pendCover := true })
  let s := (s.tports tr).foldl (fun (s : State) (n : Fin 4) => (s.saveCart n).sendCounters n) s
  if s.storeReady then s.commitStore else s

/-- A closed level accepted: the cartridges of the transport are authenticated (R61, R67). -/
def State.closeCover (s : State) (c : Fin 4) : State :=
  (s.tports (s.coverHome c)).foldl State.startAuth s

/-- A level that a cover input has held for 1 ms, when it is a change. -/
def coverEffect (c : Fin 4) (closed : Bool) (s : State) : State :=
  if s.covers[c] = closed ∨ !bit s.feCtrl.toNat c.val then s
  else
    let s := { s with covers := s.covers.set c closed }
    if !s.up then s else if closed then s.closeCover c else s.openCover c

/-- COVER_LEVEL_ACCEPT (R59, R60). -/
def execCoverLevelAccept (cover : Fin 4) (closed : Bool) (t : Nat) (s : State) : Host.Outcome State Fault Refusal :=
  done s (coverEffect cover closed (s.at t))

end Sys2Proof.Machine
end

