-- ==== Sys2Proof/Machine/Mem.lean ====
section
/-!
DEFINITION. The commands of main memory and of the integrity machinery: line reads, writes and recoveries, slots, refresh,
the Currycomb, SRAM faults, tags and bandwidth tokens (09, R283 to R285; 10, R305 to R308; 11, R316 to R348).
-/
namespace Sys2Proof.Machine

/-! ## Bandwidth tokens (R339, R340) -/

/-- One line, in the units of the token buckets. -/
def lineUnit : Nat := 1000000000

/-- The depth of a bucket: 256 lines. -/
def bucketDepth : Nat := 256 * lineUnit

/-- The index of a class's bucket: the front end, the partitions, recovery. -/
def bucketOf : MemClass → Option (Fin 8)
  | .frontEnd => some 0
  | .part p => some (Fin.ofNat 8 (1 + p.val))
  | .recovery => some 7
  | .slot _ _ => none
  | .other => none

/-- The rate of a class in MB/s. -/
def State.classRate (s : State) : MemClass → Nat
  | .frontEnd => s.feRate
  | .part p => match s.parts[p].desc with
    | some d => if s.parts[p].bound then d.bwMin else 0
    | none => 0
  | .recovery => 160000
  | .slot _ _ => 0
  | .other => 0

/-- The level of a class's bucket. -/
def Memory.tokens (m : Memory) : MemClass → Nat
  | .frontEnd => m.bwFront
  | .part p => m.bwPart[p]
  | .recovery => m.bwRecover
  | .slot _ _ => 0
  | .other => 0

/-- The level of a class's bucket set. -/
def Memory.setTokens (m : Memory) (n : Nat) : MemClass → Memory
  | .frontEnd => { m with bwFront := n }
  | .part p => { m with bwPart := m.bwPart.set p n }
  | .recovery => { m with bwRecover := n }
  | .slot _ _ => m
  | .other => m

/-- A class's bucket refilled up to now. -/
def State.refillBandwidth (s : State) (c : MemClass) : State :=
  match bucketOf c with
  | some i =>
    let m := s.mem.setTokens (min bucketDepth (s.mem.tokens c + (s.now - s.mem.bwTime[i]) * s.classRate c * 15625)) c
    { s with mem := { m with bwTime := m.bwTime.set i s.now } }
  | none => s

/-- BANDWIDTH_TOKEN_REFILL: the bucket of a class refills at its rate up to 256 lines (R340). -/
def execBandwidthTokenRefill (cls : MemClass) (t : Nat) (s : State) : Host.Outcome State Fault Refusal :=
  done s ((s.at t).refillBandwidth cls)

/-- A line carried for a class takes one token when it has one (R339, R340). -/
def State.takeToken (s : State) (c : MemClass) : State :=
  if s.mem.tokens c ≥ lineUnit then { s with mem := s.mem.setTokens (s.mem.tokens c - lineUnit) c } else s

/-- TAG_GRANT: a held request issues when a tag of its pool frees; the cycles it waited count (R284). A SCHEDULED partition never
waits for its own pool: there the hold faults the command that made the request with TAG_EXHAUSTED (R311), unless the step runs
under the MANAGED issue rules. The lending pool serves MANAGED partitions without GALLOP (R285). -/
def execTagGrant (pool : Fin 12) (who : Requester) (cycles : Nat) (t : Nat) (s : State) : Host.Outcome State Fault Refusal :=
  let s1 := s.at t
  let own := decide (5 ≤ pool.val) && decide (pool.val ≤ 10)
  let x := s1.parts[who.part]
  done s (
    if own && (s1.slotRules who.engine).isSome && s1.engines[who.engine].part == some (Fin.ofNat 6 (pool.val - 5)) then
      s1.faultCommand who.engine who.cmdIndex stTagExhausted
    else if pool.val ≠ 11 ∨ (x.bound ∧ !x.scheduled ∧ !x.gallop) then
      { s1 with mem := { s1.mem with tagWait := bumpAt s1.mem.tagWait pool.val cycles } }
    else s1)

/-! ## Line reads (R324, R325, R328, R329) -/

/-- The bytes of a line as its two subchannels return them, disturbed (R319). -/
def disturbed (data : List Byte) (d : Disturb) : List Byte :=
  let half (sub : Fin 2) : List Byte := (d.filter fun x => x.1 == sub).foldl (fun l x => modAt l x.2.1.val fun b => b ^^^ x.2.2)
    (sliceAt data (32 * sub.val) 32)
  joinHalves (half 0) (half 1)

/-- A line that failed its check: its recovery begins, and its requesters wait (R328). -/
def State.startRecovery (s : State) (l : Nat) : State :=
  let s := s.countChannel (s.mem.place l).channel Chan.lineMismatches 1
  { s with mem := { s.mem with recovering := l :: s.mem.recovering } }

/-- What a controller sees of a line, its bits disturbed on the way; a remap entry serves its own copy (R334). -/
def Memory.lineSeen (m : Memory) (l : Nat) (d : Disturb) : List Byte :=
  if m.remapped l then m.lineBytes l else disturbed (m.lineBytes l) d

/-- A line of main memory read by its controller: zeros for an invalid frame, a bus error for a poisoned line, otherwise the data
once its check passes. A line that fails enters recovery, and its requesters wait. -/
def State.readLine (s : State) (l : Nat) (d : Disturb) : State :=
  if !s.mem.frameValid l then s.answer (.line (List.replicate 64 0))
  else if s.mem.recovering.contains l then s.answer .none
  else
    let s := s.noteRead l
    if s.mem.poisoned l then s.answer .busError
    else
      let seen := s.mem.lineSeen l d
      if lineCheck l seen = s.mem.storedCheck l then s.answer (.line seen) else (s.startRecovery l).answer .none

/-! ## SRAM that fails (R332 to R336) -/

/-- What the bytes of an SRAM location hold (R333). -/
inductive SramContent where
  | weights (e : Fin 7)
  | scratch (e : Fin 7)
  | arenaScratch (p : Fin 6)
  | shadow (p : Fin 6)
  | context (id : Nat)
  | checkLine (ch : Fin 12) (k : Nat)
  | validByte (half : Fin 2)
  | remapEntry (r : MemRemap)
  | rein (r : Fin 2)
  | unused
  deriving DecidableEq, Repr

/-- The shadow copies in the arena's shadow area, in ascending partition (R343). -/
def State.shadowSpans (s : State) : List (Fin 6 × Nat × Nat) :=
  ((List.finRange 6).foldl (fun (a : List (Fin 6 × Nat × Nat) × Nat) p =>
    if s.parts[p].shadow || s.mem.reloading.contains p then
      let n := s.parts[p].engines * s.residentBytes p
      (a.1 ++ [(p, a.2, n)], a.2 + n)
    else a) ([], s.boot.limits.shadowBase)).1

/-- What an arena offset holds (R342). -/
def State.arenaContent (s : State) (o : Nat) : SramContent :=
  if o < 0x100000 then
    match s.mem.ctxCache.find? fun x => x.1 == o / 64 with
    | some x => .context x.2
    | none => .unused
  else match s.shadowSpans.find? fun x => inSpan o (x.2.1, x.2.2) with
    | some x => .shadow x.1
    | none => match (List.finRange 6).find? fun p => inSpan o (s.arenaArea p) with
      | some p => .arenaScratch p
      | none => .unused

/-- The check line at a place of a check cache. -/
def State.cachedAt (s : State) (ch : Fin 12) (place : Nat) : Option Nat :=
  s.mem.channels[ch].cache.find? fun k => cachePlace s.mem.channels[ch].cache k == place

/-- What a byte of an SRAM structure holds. -/
def State.sramContent (s : State) (u : SramUnit) (o : Nat) : SramContent :=
  match u with
  | .paddock e => if (s.weightByte e o).isSome then .weights e else .scratch e
  | .arena => s.arenaContent o
  | .windowStore ch => .checkLine ch (o / 64)
  | .checkCache ch => match s.cachedAt ch (o / 64) with
    | some k => .checkLine ch k
    | none => .unused
  | .validMap half => .validByte half
  | .remapEntries half => match (s.mem.remaps.filter fun r => r.half == half.val)[o / 128]? with
    | some r => .remapEntry r
    | none => .unused
  | .paddockRemaps e => match s.engines[e].remaps[o / 256]? with
    | some r => if (s.weightByte e (8192 * r.row + 128 * r.bank)).isSome then .weights e else .scratch e
    | none => .unused
  | .reinMemory r => .rein r

/-- The step in progress of a partition faulted because a location of its scratch failed; the fault names no command. -/
def State.faultScratch (s : State) (p : Fin 6) (e : Fin 7) : State :=
  s.onStep p fun r => { r with faults := r.faults ++ [⟨e, s.engines[e].logical, 0xFFFF, stOk, 0, false⟩] }

/-- An access of a paddock whose verify read fails, remapped. An engine that no partition holds has no step that could bring the
fault of a full table to its handler: it is fenced at once (R336). -/
def State.remapVerified (s : State) (e : Fin 7) (o : Nat) : State :=
  let s := s.remapAccess e o
  let g := s.engines[e]
  if g.needFence && g.part.isNone && g.role != .fenced then (s.fence e 0).askDomain e.val false else s

/-- The paddock access that a location of an engine's paddock or of its remap entries stands for. -/
def State.accessAt (s : State) (u : SramUnit) (o : Nat) : Nat :=
  match u with
  | .paddockRemaps e => match s.engines[e].remaps[o / 256]? with
    | some r => 8192 * r.row + 128 * r.bank
    | none => 0
  | _ => o / 128 * 128

/-- A persistent failure handled by its content (R333). `verify` says whether the verify read of the repaired location passes,
`copy` whether word 15 of the check line reread from DRAM does. A check line is never dirty: log entry 124. -/
def State.repairSram (s : State) (u : SramUnit) (o len : Nat) (content : SramContent) (verify copy : Bool) : State :=
  let fresh (s : State) : State := { s with mem := s.mem.rewritten u o len }
  match content with
  | .weights e =>
    let s := fresh (s.reloadAccess e (s.accessAt u o))
    if verify then s else s.remapVerified e (s.accessAt u o)
  | .scratch e =>
    let s := match s.engines[e].part with
      | some p => s.faultScratch p e
      | none => s
    if verify then s else s.remapVerified e (s.accessAt u o)
  | .arenaScratch p => s.faultScratch p ((s.member? p 0).getD 0)
  | .shadow p =>
    if s.parts[p].shadow then
      let s := s.onPart p fun x => { x with shadow := false }
      { s with mem := { s.mem with reloading := s.mem.reloading ++ [p] } }
    else s
  | .context id =>
    let clean := s.mem.bytes (s.boot.limits.ctxTableBase + 64 * id) 64 == s.descriptor id
    let s := fresh s
    match s.context? id with
    | some c => if clean then s else s.restartSide c.side 3
    | none => s
  | .checkLine _ _ => fresh (if copy then s else s.countChip Chip.checkRebuilds 1)
  | .validByte half =>
    if (List.range len).any fun i => s.mem.sramBad (.validMap (1 - half)) (o + i) then s else fresh s
  | .remapEntry r =>
    let a := s.mem.addrOf (Fin.ofNat 12 r.channel) (s.mem.rowOf r.rank r.bank r.dramRow) r.rowLine
    let s := fresh s
    if s.mem.recovering.contains a then s
    else { s with mem := { s.mem with recovering := a :: s.mem.recovering } }
  | .rein r => (fresh s).reinFault r
  | .unused => fresh s

/-! ## Device addresses (R3 to R5, R342) -/

/-- The bytes of an SRAM store at a device address: the arena's context cache holds descriptors, and what the tops of the free-list
stacks hold is not stated: free values (log entry 124). -/
def State.sramBytes (s : State) (st : Store) (o len : Nat) : State × List Byte :=
  if st = .arena ∧ o < 0x100000 then
    (s, match s.arenaContent o with
      | .context id => sliceAt (s.descriptor id) (o % 64) len
      | _ => List.replicate len 0)
  else if st = .arena ∧ o < 0x160000 then
    ({ s with freeCtr := s.freeCtr + len }, (List.range len).map fun i => Config.freeByte (s.freeCtr + i))
  else (s, s.peek st o len)

/-- Bytes of the paddock or of the arena read: a byte whose check fails is handled by its content, and scratch is not delivered. -/
def State.readSram (s : State) (st : Store) (u : SramUnit) (o : Nat) : State :=
  match (s.mem.flipped.filter fun x => x.1 == u && inSpan x.2 (o, 64)).map (·.2) with
  | [] =>
    let (s, b) := s.sramBytes st o 64
    s.answer (.line b)
  | bad =>
    let kinds := (bad.map (s.sramContent u)).eraseDups
    let s := kinds.foldl (fun s k => s.repairSram u o 64 k true true) (s.countChip Chip.sramFailures 1)
    let lost := kinds.any fun k => match k with
      | .scratch _ => true
      | .arenaScratch _ => true
      | _ => false
    if lost then s.answer .none
    else
      let (s, b) := s.sramBytes st o 64
      s.answer (.line b)

/-- The arena's own structures, which no requester of a write reaches (R342). -/
def State.arenaOwn (s : State) (o : Nat) : Bool :=
  decide (o < 0x200000) || inSpan o (s.boot.limits.shadowBase, s.boot.limits.shadowBytes)

/-- A read of the 64 bytes that hold a device address. An unmapped address, or one in the aperture of a fenced engine, gives a bus
error (R5), and so does the register space, which no such request reaches (R6). -/
def State.serveRead (s : State) (a : Nat) (d : Disturb) : State :=
  let l := lineOf a
  match s.deviceBytes l 64 with
  | none => s.answer .busError
  | some (.main, _) => s.readLine l d
  | some (.arena, o) => if 0x160000 ≤ o ∧ o < 0x200000 then s.answer .busError else s.readSram .arena .arena o
  | some (.paddock e, o) => s.readSram (.paddock e) (.paddock e) o

/-- A write that waits for a line in recovery. -/
def State.waitWrite (s : State) (a : Nat) (data : List Byte) : State :=
  { s with mem := { s.mem with waiting := s.mem.waiting ++ [(a, data)] } }

/-- The writes that waited for a line, in order; once it is poisoned, those that cover it whole alone (R324, R329, R337). -/
def State.settleWaiting (s : State) (l : Nat) : State :=
  let (mine, rest) := s.mem.waiting.partition fun w => lineOf w.1 == l
  let s := { s with mem := { s.mem with waiting := rest } }
  mine.foldl (fun s w => if w.2.length < 64 ∧ s.mem.lineBad l then s else s.mainPut w.1 w.2) s

/-- Bytes written at a device address (R324): a bus error where nothing is mapped and into a line that cannot be read. A partial write
reads its line; where that read fails its check, and where the line is in recovery, the write waits. -/
def State.serveWrite (s : State) (a : Nat) (data : List Byte) (d : Disturb) : State :=
  match s.deviceBytes a data.length with
  | none => s.answer .busError
  | some (.main, _) =>
    let l := lineOf a
    if s.mem.recovering.contains l then (s.waitWrite a data).answer .none
    else if data.length < 64 ∧ s.mem.frameValid l ∧ !s.mem.lineBad l ∧ lineCheck l (s.mem.lineSeen l d) ≠ s.mem.storedCheck l then
      ((s.startRecovery l).waitWrite a data).answer .none
    else match s.mainWrite a data with
      | (s, true) => s.answer .none
      | (s, false) => s.answer .busError
  | some (.arena, o) => if s.arenaOwn o then s.answer .busError else (s.arenaWrite o data).answer .none
  | some (.paddock e, o) => (s.paddockWrite e o data).answer .none

/-! ## Slots (R308) -/

/-- The slot plan that covers a channel. -/
def Memory.planOn (m : Memory) (c : Nat) : Option SlotPlan :=
  m.slotPlans.find? fun p => decide (p.chanBase ≤ c) && decide (c < p.chanBase + p.chanCount)

/-- The code of a grant: 0 NONE, 1 READ, 2 WRITE (R306). -/
def SlotPlan.code (p : SlotPlan) (c frame slot : Nat) : Nat :=
  bits (p.grants.getD (64 * (c - p.chanBase) + frame) 0).toNat (2 * slot) 2

/-- A request of an engine whose step runs under a slot plan: refused, with its command faulted, or placed in its FIFO. Under the
MANAGED issue rules it is served as another request is. -/
def State.slotRequest (s : State) (e : Fin 7) (i : Half) (a : Nat) (data : List Byte) (serve : State → State) : State :=
  match s.slotRules e with
  | none => serve s
  | some plan =>
    let faults := s.requestFaults plan (if data.isEmpty then 1 else 2) [lineOf a]
      ++ (if data.isEmpty || (a % 64 == 0 && data.length == 64) then [] else [stLinePartial])
    match lowest faults with
    | some st => (s.faultCommand e i st).answer (.refused st)
    | none =>
      (s.onChannel (s.mem.place a).channel fun x =>
        if data.isEmpty then { x with fifoRead := x.fifoRead ++ [⟨e, a, []⟩] }
        else { x with fifoWrite := x.fifoWrite ++ [⟨e, a, data⟩] }).answer .none

/-- MEM_READ: a memory controller serves a line read (R325). -/
def execMemRead (cls : MemClass) (addr : Nat) (disturb : Disturb) (t : Nat) (s : State) : Host.Outcome State Fault Refusal :=
  let s1 := s.at t
  done s (match cls with
    | .slot e i => s1.slotRequest e i addr [] fun s => s.serveRead addr disturb
    | c => (s1.takeToken c).serveRead addr disturb)

/-- MEM_WRITE: a memory controller writes a whole line, or merges a partial write (R324). -/
def execMemWrite (cls : MemClass) (addr : Nat) (data : WriteData) (t : Nat) (s : State) : Host.Outcome State Fault Refusal :=
  let s1 := s.at t
  done s (if data.bytes.isEmpty then s1 else match cls with
    | .slot e i => s1.slotRequest e i addr data.bytes fun s => s.serveWrite addr data.bytes data.disturb
    | c => (s1.takeToken c).serveWrite addr data.bytes data.disturb)

/-- A granted slot: the next request of its direction is carried. -/
def slotEffect (ch : Fin 12) (frame : Fin 64) (slot : Fin 14) (d : Disturb) (s : State) : State :=
  match s.mem.planOn ch.val with
  | none => s
  | some p =>
    let code := if refreshFrame frame.val then 0 else p.code ch.val frame.val slot.val
    if code = 1 then
      match s.mem.channels[ch].fifoRead with
      | r :: rest => (s.onChannel ch fun x => { x with fifoRead := rest }).serveRead r.addr d
      | [] => s
    else if code = 2 then
      match s.mem.channels[ch].fifoWrite with
      | r :: rest => (s.onChannel ch fun x => { x with fifoWrite := rest }).serveWrite r.addr r.data d
      | [] => s
    else s

/-- MEM_SLOT: at a granted slot's start the next request of the FIFO is carried (R308). -/
def execMemSlot (ch : Fin 12) (place : SlotTime) (disturb : Disturb) (t : Nat) (s : State) : Host.Outcome State Fault Refusal :=
  done s (slotEffect ch place.frame place.slot disturb (s.at t))

/-! ## LINE_RECOVERY (R328 to R330, R334, R335) -/

/-- The memory half of a channel: 0 for PD_MEM_A. -/
def halfOf (c : Fin 12) : Nat := c.val / 6

/-- Remap entries in use in a half. -/
def Memory.remapUsed (m : Memory) (half : Nat) : Nat := m.remaps.countP fun r => r.half == half

/-- A remap entry put in the persistent store, at the lowest unused index of its half; it is committed within 1 s. -/
def Store443.addRemap (x : Store443) (half : Nat) (r : StoreRemap) : Store443 :=
  match ((List.range 32).map fun i => 32 * half + i).find? fun i => !((x.remaps.getD i StoreRemap.unused).used) with
  | some i => { x with remaps := modAt x.remaps i fun _ => r, urgent := true }
  | none => x

/-- A line remapped. -/
def State.remapLine (s : State) (l : Nat) : State :=
  let p := s.mem.place l
  let (rank, bank, row) := s.mem.dramPlace p.row
  let half := halfOf p.channel
  let entry : StoreRemap := ⟨true, p.channel.val, rank, bank, row, p.line⟩
  let here : MemRemap := ⟨half, p.channel.val, rank, bank, row, p.line⟩
  let s := { s with
    mem := { s.mem with remaps := s.mem.remaps ++ [here] }
    store := s.store.addRemap half entry }
  (s.countChip Chip.remapInstalls 1).log 0x0503 (srcChannel p.channel)
    ([0, BitVec.ofNat 8 rank, BitVec.ofNat 8 bank] ++ leBytes 4 row ++ leBytes 1 p.line)

/-- Records of which a spool line holds bytes keep their header and become status-only with DATA_LOST (R371). -/
def State.loseSpool (s : State) (l : Nat) : State :=
  { s with host := { s.host with out := s.host.out.map fun o => { o with
    records := o.records.map fun r =>
      if decide (r.at_ < l + 64) && decide (l < r.at_ + r.used) then
        { r with status := insertStatus 0x0401 2 r.status, items := [], exports := [] }
      else r } } }

/-- Whether a line holds bytes of what a STEP wrote: a master, an optimiser state or a training record. -/
def State.masterIn (s : State) (l : Nat) (m : Master) : Bool :=
  (adaptDesc m.desc).outputs.any fun t => (s.dataFoot m.engine t).any fun f =>
    f.store == .main && decide (f.lo < l + 64) && decide (l < f.hi)

/-- Adapters of whose training data a line holds bytes start again from their initial values, each with ADAPTER_RESET (R330; log
entry 22). -/
def State.loseMasters (s : State) (p : Fin 6) (l : Nat) : State :=
  let lost := ((s.parts[p].masters.filter (s.masterIn l)).map (·.adapter)).eraseDups
  if lost.isEmpty then s
  else
    let s := s.onPart p fun x => { x with masters := x.masters.filter fun m => !lost.contains m.adapter }
    let s := match s.slotFor p 3, s.recipeFor p 3 with
      | some n, some r => s.startAdapters p n.val r lost.contains
      | _, _ => s
    lost.foldl (fun s n => s.log 0x0505 (srcPart p) (leBytes 1 n)) s

/-- A line poisoned (R329), with what R330 says of spool records and adapter masters. -/
def State.poisonLine (s : State) (l : Nat) : State :=
  let c := (s.mem.place l).channel
  let s := { s with mem := s.mem.poison l }
  let s := (s.countChannel c Chan.linesPoisoned 1).log 0x0502 (srcChannel c) (leBytes 6 l)
  (List.finRange 6).foldl (fun (s : State) (p : Fin 6) => s.loseMasters p l) (s.loseSpool l)

/-- A refetch or restore is a recovery event, but for one that belongs to a Remount's reload (R328). -/
def State.noteLineEvent (s : State) : State :=
  if (List.finRange 6).any fun p => (match s.parts[p].step with
    | some r => r.waitRemount
    | none => false) then s
  else s.recoveryAll

/-- The sequence of R328 for a line in recovery: refetches, then its source of truth with a verify, then poison. -/
def recoverLine (addr : Nat) (refetches : List Bool) (source : Option (List Byte)) (verifyOk : Bool) (s : State) : State :=
  let l := lineOf addr
  let c := (s.mem.place l).channel
  let s := { s with mem := { s.mem with recovering := s.mem.recovering.filter fun x => x != l } }
  if (refetches.take 2).any id then
    (s.countChannel c Chan.refetches 1).noteLineEvent.answer (.line (s.mem.lineBytes l))
  else match source with
    | some data =>
      let data := sliceAt data 0 64
      let s := { s with mem := s.mem.put l data }
      let s := ((s.countChannel c Chan.restores 1).countChip Chip.recoveryBytes 64).noteLineEvent
      if verifyOk then s.answer (.line data)
      else if s.mem.remapped l || decide (s.mem.remapUsed (halfOf c) < 32) then
        (if s.mem.remapped l then s else s.remapLine l).answer (.line data)
      else ((s.poisonLine l).log 0x0504 (srcChannel c) (leBytes 6 l)).answer .busError
    | none => (s.noteLineEvent.poisonLine l).answer .busError

/-- A line's recovery ended, and the writes that waited for it. -/
def recoveryEffect (addr : Nat) (refetches : List Bool) (source : Option (List Byte)) (verifyOk : Bool) (s : State) : State :=
  if s.mem.recovering.contains (lineOf addr) then
    (recoverLine addr refetches source verifyOk s).settleWaiting (lineOf addr)
  else s

/-- LINE_RECOVERY: a refetch or restore completes, delivering data or poisoning the line (R328). -/
def execLineRecovery (addr : Nat) (refetches : List Bool) (source : Option (List Byte)) (verifyOk : Bool) (t : Nat) (s : State) :
    Host.Outcome State Fault Refusal :=
  done s (recoveryEffect addr refetches source verifyOk (s.at t))

/-! ## Refresh, temperature and training (R305, R316, R317) -/

/-- Whether a channel at a refresh rate refreshes in window 0 to 3, the window that ends at frame 16 w + 15. -/
def refreshesIn (rate : BitVec 2) (w : Fin 4) : Bool :=
  w == 3 || (w == 1 && rate != 0) || rate == 2

/-- REFRESH_WINDOW: the controller issues all-bank refresh at the current rate (R305). -/
def execRefreshWindow (ch : Fin 12) (window : Fin 4) (s : State) : Host.Outcome State Fault Refusal :=
  let c := s.mem.channels[ch]
  done s (if c.trained && refreshesIn c.refresh window then s.onChannel ch fun x => { x with refreshes := x.refreshes + 1 }
    else s)

/-- The refresh rate for the worst of a channel's MR4 codes (R317). -/
def rateOf (worst : Nat) : BitVec 2 := if worst ≤ 3 then 0 else if worst = 4 then 1 else 2

/-- A channel's dies read. -/
def mr4Effect (ch : Fin 12) (codes : List (BitVec 3)) (s : State) : State :=
  let worst := (codes.map (·.toNat)).foldl max 0
  if codes.isEmpty ∨ !s.mem.channels[ch].trained then s
  else
    let s := s.onChannel ch fun x => { x with refresh := rateOf worst, hot := x.hot || decide (worst = 7) }
    if worst = 7 then s.log 0x0501 (srcChannel ch) [] else s

/-- MR4_POLL: every 16 ms a controller sets its channel's refresh rate (R317). -/
def execMr4Poll (ch : Fin 12) (codes : List (BitVec 3)) (t : Nat) (s : State) : Host.Outcome State Fault Refusal :=
  done s (mr4Effect ch codes (s.at t))

/-- DQS_RETRAIN: a controller retrains inside a refresh window, which touches nothing else (R316). -/
def execDqsRetrain (ch : Fin 12) (t : Nat) (s : State) : Host.Outcome State Fault Refusal :=
  let s1 := s.at t
  done s (if s1.mem.channels[ch].trained then s1.onChannel ch fun x => { x with retrains := x.retrains + 1 } else s1)

/-! ## The Currycomb (R337) -/

/-- Check lines of the installed memory: four for each sixty data lines. -/
def Memory.checkLines (m : Memory) : Nat := m.dataEnd / 960

/-- The first line of a valid frame at or after an address. -/
def Memory.nextLine (m : Memory) (a : Nat) : Option Nat :=
  if m.windowOn && decide (a < 12 * winBytes) then some a
  else
    let from_ (f : Nat) : Nat := max a (f * 4096)
    ((m.valid.filter fun f => decide (a < (f + 1) * 4096)).map from_).foldl (fun (b : Option Nat) x => match b with
      | some y => some (min x y)
      | none => some x) none

/-- A pass ended: the next starts at once. -/
def State.endPass (s : State) : State :=
  ({ s with mem := { s.mem with scrubNext := 0 } }).countChip Chip.scrubPasses 1

/-- Check line `k` of the walk read: one that is not valid is rebuilt from its data lines (R322, R333). It is line 60 + q of its row,
and the walk goes over the channels in turn. -/
def State.scrubCheck (s : State) (k : Nat) (d : Disturb) : State :=
  let c : Fin 12 := Fin.ofNat 12 k
  let seen := disturbed (s.mem.checkLineBytes c (k / 12 / 4) (k / 12 % 4)) d
  let s := s.countChannel c Chan.scrubLines 1
  let s := if checkLineValid seen then s else s.countChip Chip.checkRebuilds 1
  let s := { s with mem := { s.mem with scrubNext := s.mem.scrubNext + 1 } }
  if s.mem.scrubNext ≥ s.mem.dataEnd + s.mem.checkLines then s.endPass else s

/-- Whether a Remount's reload is in progress. -/
def State.reloadingWeights (s : State) : Bool := (List.finRange 6).any fun p => match s.parts[p].step with
  | some r => r.waitRemount
  | none => false

/-- The Currycomb's next line: the data lines of valid frames in ascending address, then the check lines. -/
def currycombEffect (d : Disturb) (s : State) : State :=
  let m := s.mem
  if !bit m.scrubCfg.toNat 20 ∨ !s.up ∨ s.reloadingWeights ∨ s.power.hold.isSome then s
  else if m.scrubNext ≥ m.dataEnd then s.scrubCheck (m.scrubNext - m.dataEnd) d
  else match m.nextLine m.scrubNext with
    | none => ({ s with mem := { s.mem with scrubNext := m.dataEnd } }).scrubCheck 0 d
    | some l =>
      if m.recovering.contains l then s
      else
        let r := s.reply
        let s := (s.countChannel (m.place l).channel Chan.scrubLines 1).readLine l d
        { s with reply := r, mem := { s.mem with scrubNext := l + 64 } }

/-- CURRYCOMB_LINE: the Currycomb reads its next line and handles any failure as a read does (R337). -/
def execCurrycombLine (disturb : Disturb) (t : Nat) (s : State) : Host.Outcome State Fault Refusal :=
  done s (currycombEffect disturb (s.at t))

/-! ## The walk of the SRAM structures (R338) -/

/-- The power domain of an SRAM structure, by its bit in DOMAIN_STATUS (R461). -/
def sramDomain : SramUnit → Nat
  | .paddock e => 7 + e.val
  | .paddockRemaps e => 7 + e.val
  | .arena => 14
  | .windowStore ch => 16 + halfOf ch
  | .checkCache ch => 16 + halfOf ch
  | .validMap half => 16 + half.val
  | .remapEntries half => 16 + half.val
  | .reinMemory r => 18 + r.val

/-- Bytes of an SRAM structure (R104, R323, R325, R342, R334; log entry 124). -/
def sramSize : SramUnit → Nat
  | .paddock _ => paddockBytes
  | .paddockRemaps _ => 8 * 256
  | .arena => arenaBytes
  | .windowStore _ => 2097152
  | .checkCache _ => 262144
  | .validMap _ => 2949120
  | .remapEntries _ => 32 * 128
  | .reinMemory _ => Config.reinBytes

/-- Bytes of one location of the walk: a paddock access, a remap entry, a line. -/
def sramLocation : SramUnit → Nat
  | .paddock _ => 128
  | .paddockRemaps _ => 256
  | .remapEntries _ => 128
  | _ => 64

/-- Where the walk of a structure stands. -/
def Memory.sramAt (m : Memory) (u : SramUnit) : Nat := ((m.sramNext.find? fun x => x.1 == u).map (·.2)).getD 0

/-- The walk of a structure moved to its next location; the next pass starts at once. -/
def Memory.sramStep (m : Memory) (u : SramUnit) : Memory :=
  let o := m.sramAt u + sramLocation u
  { m with sramNext := (u, if o < sramSize u then o else 0) :: m.sramNext.filter fun x => x.1 != u }

/-- The bits flipped in byte `i` of a read. -/
def flipAt (l : List (Nat × NineFlip)) (i : Nat) : NineFlip := l.foldl (fun f x => if x.1 = i then f ^^^ x.2 else f) 0

/-- The bytes of a location that fail their check in a read (R332). -/
def Memory.badBytes (m : Memory) (u : SramUnit) (o len : Nat) (read : List (Nat × NineFlip)) : List Nat :=
  (List.range len).filter fun i => m.sramBad u (o + i) != decide (onesOf (flipAt read i) % 2 = 1)

/-- The location read next, and once more where it fails (R333). -/
def sramEffect (u : SramUnit) (x : SramReads) (s : State) : State :=
  if !bit s.mem.scrubCfg.toNat 20 || s.power.hold.isSome || !s.power.domains.getLsbD (sramDomain u) then s
  else
    let o := s.mem.sramAt u
    let len := sramLocation u
    let s := x.stored.foldl (fun s f => if f.1 < len then s.flipSram u (o + f.1) f.2 else s) s
    let s := { s with mem := s.mem.sramStep u }
    if (s.mem.badBytes u o len x.first).isEmpty then s
    else match s.mem.badBytes u o len x.second with
      | [] => s.countChip Chip.sramTransients 1
      | bad =>
        let kinds := (bad.map fun i => s.sramContent u (o + i)).eraseDups
        let verify := (List.range len).all fun i => onesOf (flipAt x.verify i) % 2 == 0
        let copy : Bool := match u with
          | .windowStore _ => verify
          | .checkCache _ => verify
          | _ => true
        kinds.foldl (fun s k => s.repairSram u o len k verify copy) (s.countChip Chip.sramFailures 1)

/-- SRAM_SCRUB: the Currycomb reads the next location of an SRAM structure (R338). -/
def execSramScrub (unit : SramUnit) (reads : SramReads) (t : Nat) (s : State) : Host.Outcome State Fault Refusal :=
  done s (sramEffect unit reads (s.at t))

/-- A shadow's reload ended. -/
def shadowReloadEffect (p : Fin 6) (s : State) : State :=
  if s.mem.reloading.contains p then
    let m := match s.shadowSpans.find? fun x => x.1 == p with
      | some x => s.mem.rewritten .arena x.2.1 x.2.2
      | none => s.mem
    let s := { s with mem := { m with reloading := m.reloading.filter fun q => q != p } }
    if s.parts[p].bound then s.onPart p fun x => { x with shadow := true } else s
  else s

/-- SHADOW_RELOAD_DONE: SHADOW sets again (R333). -/
def execShadowReloadDone (p : Fin 6) (t : Nat) (s : State) : Host.Outcome State Fault Refusal :=
  done s (shadowReloadEffect p (s.at t))

end Sys2Proof.Machine
end

