-- ==== Sys2Proof/Machine/Streams.lean ====
section
/-!
DEFINITION. Input streams: their configuration, and the access units of video streams as they end, with the pictures and TIMESTAMPs
that selections still ask for (03_input_decode.md, R77, R78, R89, R95, R96).
-/
namespace Sys2Proof.Machine

/-! ## Stream configuration (R77, R78) -/

/-- EN. -/
def State.cfgStream (s : State) (n : Fin 64) : Bool := bit s.streamA[n].toNat 0
/-- GAIT. -/
def State.streamGait (s : State) (n : Fin 64) : Nat := wbits s.streamA[n] 11 2
/-- PARTITION. -/
def State.streamPart (s : State) (n : Fin 64) : Nat := wbits s.streamA[n] 8 3
/-- FUSE_EN. -/
def State.streamFuse (s : State) (n : Fin 64) : Bool := bit s.streamA[n].toNat 13
/-- SUBST is STATUS_ONLY. -/
def State.substStatus (s : State) (n : Fin 64) : Bool := bit s.streamA[n].toNat 16
/-- COLOUR is GRAY8. -/
def State.streamGray (s : State) (n : Fin 64) : Bool := bit s.streamA[n].toNat 17
/-- READ_EVERY. -/
def State.readEvery (s : State) (n : Fin 64) : Nat := wbits s.streamA[n] 24 8

/-- Whether a stream belongs to a video unit. -/
def isVideo (n : Fin 64) : Bool := decide (n.val ≥ 32)

/-- The FORMATS that a stream's unit accepts, as a mask (R75). -/
def unitFormats (n : Fin 64) : Nat := if isVideo n then 0b11000 else 0b00111

/-- Whether STREAM_CFG refuses a stream (R78). -/
def State.streamBad (s : State) (n : Fin 64) : Bool :=
  let formats := wbits s.streamA[n] 1 5
  let off := sext 16 (wbits s.streamB[n] 16 16)
  decide (formats ||| unitFormats n ≠ unitFormats n) || formats == 0 || decide (s.streamPart n > 5)
    || (s.streamFuse n && (!isVideo n || wbits s.streamB[n] 0 16 == 0 || decide (off < -10000) || decide (off > 10000)))
    || (s.streamGray n && !isVideo n)
    || (s.streamGait n == 0 && (List.finRange 64).any fun m =>
        m != n && s.cfgStream m && streamUnit m == streamUnit n && s.streamGait m == 0)

/-! ## Access units (R89, R95, R96) -/

/-- The oldest access unit of a stream with a TIMESTAMP and no outcome, marked decoded or dropped. -/
def markUnit (ts : DWord) (v : Bool) : List (DWord × Option Bool) → List (DWord × Option Bool)
  | [] => []
  | (x, none) :: rest => if x = ts then (x, some v) :: rest else (x, none) :: markUnit ts v rest
  | e :: rest => e :: markUnit ts v rest

/-- An access unit decoded or dropped; only formats H264 and H265 have one. -/
def State.endUnit (s : State) (e : Entry) (v : Bool) : State :=
  if e.format < 3 then s
  else s.onStream (Fin.ofNat 64 e.stream) fun x => { x with entered := markUnit e.timestamp v x.entered }

/-- An access unit's TIMESTAMP entered in its stream (R96). -/
def State.enterUnit (s : State) (e : Entry) : State :=
  if e.format < 3 then s
  else s.onStream (Fin.ofNat 64 e.stream) fun x => { x with entered := x.entered ++ [(e.timestamp, none)] }

/-- The selections that an access unit's end makes due (R96). -/
def State.fuseStream (s : State) (n : Fin 64) : State :=
  ((s.sides.filter fun x => x.fuseStreams.contains n.val).map (·.key)).foldl State.fuseSide s

/-- The earliest reference time that a selection from a stream may still have: that of a side that waits, or of one that starts
now, if its frames are attached to sides at all. -/
def State.earliestRef (s : State) (n : Fin 64) : Option Int :=
  let waiting := (s.sides.filter fun x => x.fuseStreams.contains n.val).filterMap fun x => x.tStart.map fun t0 => (t0 : Int) + s.fuseOffset n
  let coming := if s.streamFuse n then [(s.now : Int) + s.fuseOffset n] else []
  (waiting ++ coming).foldl (fun (b : Option Int) x => match b with
    | some m => some (min m x)
    | none => some x) none

/-- Whether a selection from a stream may still look at a TIMESTAMP. -/
def State.wanted (s : State) (n : Fin 64) (ts : DWord) : Bool := match s.earliestRef n with
  | some ref => decide (ref ≤ (ts.toNat : Int) + s.fuseWindow n)
  | none => false

/-- The most recent decoded picture since the stream's start (R95). -/
def Stream.latest (x : Stream) : Option Picture := (x.pictures.filter fun p => !p.past).getLast?

/-- The pictures of a stream that are no longer wanted released, and the TIMESTAMPs with an outcome that no selection asks for. -/
def State.prunePictures (s : State) (n : Fin 64) : State :=
  let last := s.streams[n].latest
  s.onStream n fun x => { x with
    pictures := x.pictures.filter fun p => last == some p || s.wanted n p.timestamp
    entered := x.entered.filter fun e => e.2.isNone || s.wanted n e.1 }

/-- The end of a stream's access units: its decoder state released, but for the pictures that a selection may still choose. -/
def Stream.ended (x : Stream) : Stream := { x with
  started := false, dropping := false, unitCount := 0, lastTs := 0, sets := ⟨[], []⟩, head := none
  pictures := x.pictures.map fun p => { p with past := true } }

/-- The end of an access unit in its stream: the selections that it makes due, its TIMESTAMP, its number, and the decoder state at
END_OF_STREAM (R89, R95, R96). -/
def State.closeUnit (s : State) (n : Fin 64) (e : Entry) (decoded : Bool) : State :=
  let s := (s.endUnit e decoded).fuseStream n
  let s := s.onStream n fun x =>
    let x := { x with lastTs := e.timestamp, format := if x.unitCount = 0 then e.format else x.format, unitCount := x.unitCount + 1 }
    if e.eos then x.ended else x
  s.prunePictures n

/-- An access unit that is not decoded: counted, and every later one up to the next random access point goes with it (R95). -/
def State.loseUnit (s : State) (n : Fin 64) (e : Entry) : State :=
  ((s.countStream n Strm.framesDropped 1).onStream n fun y => { y with dropping := true }).closeUnit n e false

/-- Whether a unit decodes a sample of a stream. -/
def State.decoding (s : State) (n : Fin 64) : Bool := match s.decoders[streamUnit n].run with
  | some run => run.stream == n.val
  | none => false

/-- The access units at the head of a stream's queue whose data was lost, dropped in their place. `fuel` bounds them. -/
def State.passLost (s : State) (n : Fin 64) : Nat → State
  | 0 => s
  | fuel + 1 => match s.streams[n].queue with
    | [] => s
    | x :: rest =>
      if x.lost && !s.decoding n then
        ((s.onStream n fun y => { y with queue := rest }).loseUnit n x.entry).passLost n fuel
      else s

/-- Every such access unit dropped. -/
def State.settleLost (s : State) (n : Fin 64) : State :=
  if isVideo n then s.passLost n s.streams[n].queue.length else s

end Sys2Proof.Machine
end

