-- ==== Sys2Proof/Machine/Verbs.lean ====
section
/-!
DEFINITION. The control verbs, their mailbox, and the boundaries of a step at which one may wait (12, R382 to R385; 08, R253 to R255; 14, R437 to R440).
-/
namespace Sys2Proof.Machine

/-! ## Result codes (R385) -/

/-- VERB_UNKNOWN. -/ abbrev rvUnknown : Byte := 0x30
/-- VERB_RANGE. -/ abbrev rvRange : Byte := 0x31
/-- PAUSE_GALLOP. -/ abbrev rvPauseGallop : Byte := 0x32
/-- STAGE_FETCH. -/ abbrev rvStageFetch : Byte := 0x33
/-- STAGE_SIZE. -/ abbrev rvStageSize : Byte := 0x34
/-- STAGE_SIGNATURE. -/ abbrev rvStageSignature : Byte := 0x35
/-- STAGE_ROLLBACK. -/ abbrev rvStageRollback : Byte := 0x36
/-- STAGE_SLOT. -/ abbrev rvStageSlot : Byte := 0x37
/-- OVERLAY_TARGET. -/ abbrev rvOverlayTarget : Byte := 0x38
/-- OVERLAY_SHAPE. -/ abbrev rvOverlayShape : Byte := 0x39
/-- OVERLAY_EMPTY. -/ abbrev rvOverlayEmpty : Byte := 0x3A
/-- OVERLAY_NAN. -/ abbrev rvOverlayNan : Byte := 0x3B
/-- ATTEST_BUFFER. -/ abbrev rvAttestBuffer : Byte := 0x3C

/-! ## The mailbox (R382) -/

/-- The mailbox updated. -/
def State.onBox (s : State) (f : Mailbox → Mailbox) : State := { s with host := { s.host with box := f s.host.box } }

/-- Argument `i` of the mailbox. -/
def State.arg (s : State) (i : Fin 8) : Nat := s.host.box.arg[i].toNat

/-- Whether every argument from `i` on is zero. -/
def State.argsZero (s : State) (i : Nat) : Bool := ((List.finRange 8).drop i).all fun k => s.host.box.arg[k] == 0

/-- Whether BAR0 takes writes: the link is up and the boot has not stopped (R353, R426). -/
def State.hostWrites (s : State) : Bool := s.host.linkUp && !s.boot.stopped && !s.boot.inReset

/-- A write of VERB_CMD: discarded with VERB_OVERRUN while a verb runs, otherwise the verb starts and `run` judges it. -/
def State.startVerb (s : State) (seq : Half) (run : State → State) : State :=
  if !s.hostWrites then s
  else if s.host.box.busy then { s with host := { s.host with verbOverrun := true } }
  else run (s.onBox fun b => { b with
    busy := true, done := false, seq := seq, verb := none, waitFor := [], overlayWait := none, outcome := none, silent := false })

/-- A verb that fails: the state in force stays. -/
def State.failVerb (s : State) (code : Byte) : State := s.decide_ code 0

/-- VERB_OVERRUN: a write of VERB_CMD while a verb is busy is discarded (R382). With no verb running the write is one of
another row. -/
def execVerbOverrun (_code : Byte) (_seq : Half) (t : Nat) (s : State) : Host.Outcome State Fault Refusal :=
  let s1 := s.at t
  done s (if s1.hostWrites && s1.host.box.busy then { s1 with host := { s1.host with verbOverrun := true } } else s1)

/-- VERB_UNKNOWN: an unassigned code completes with VERB_UNKNOWN (R385). -/
def execVerbUnknown (code : Byte) (seq : Half) (t : Nat) (s : State) : Host.Outcome State Fault Refusal :=
  done s (if 1 ≤ code.toNat ∧ code.toNat ≤ 7 then s.at t else (s.at t).startVerb seq fun s => s.failVerb rvUnknown)

/-- Whether a verb waits only for step boundaries. -/
def Verb.pauses : Verb → Bool
  | .pauseGait _ _ => true
  | .resumeGait _ _ => true
  | _ => false

/-- The outcome of the verb in progress, once it is known. -/
def Mailbox.ready (b : Mailbox) : Option (Byte × DWord) :=
  match b.outcome, b.verb with
  | some o, _ => some o
  | none, some v => if v.pauses && b.waitFor.isEmpty then some (0, 0) else none
  | none, none => none

/-! ## PAUSE_GAIT and RESUME_GAIT (R383) -/

/-- The pauses of the named partitions changed; the verb waits for the boundary of every named bound one. -/
def State.setPauses (s : State) (v : Verb) (parts : Nat) (f : BitVec 4 → BitVec 4) : State :=
  let named := (List.finRange 6).filter fun p => bit parts p.val
  let s := named.foldl (fun (s : State) (p : Fin 6) => s.onPart p fun x => { x with paused := f x.paused }) s
  s.onBox fun b => { b with
    verb := some v
    waitFor := (named.filter fun p => s.parts[p].bound && s.parts[p].step.isSome).map (·.val) }

/-- Whether the argument of a pause or a resume has a reserved bit set. -/
def State.pauseReserved (s : State) : Bool :=
  bits (s.arg 0) 6 2 != 0 || bits (s.arg 0) 12 52 != 0 || !s.argsZero 1

/-- A pause judged. -/
def pauseVerb (s : State) : State :=
  let parts := bits (s.arg 0) 0 6
  let gaits := bits (s.arg 0) 8 4
  if s.pauseReserved then s.failVerb reReserved
  else if bit gaits 0 then s.failVerb rvPauseGallop
  else s.setPauses (.pauseGait (BitVec.ofNat 6 parts) (BitVec.ofNat 4 gaits)) parts fun x => x ||| BitVec.ofNat 4 gaits

/-- PAUSE_GAIT (R383). -/
def execPauseGait (seq : Half) (t : Nat) (s : State) : Host.Outcome State Fault Refusal :=
  done s ((s.at t).startVerb seq pauseVerb)

/-- A resume judged. -/
def resumeVerb (s : State) : State :=
  let parts := bits (s.arg 0) 0 6
  let gaits := bits (s.arg 0) 8 4
  if s.pauseReserved then s.failVerb reReserved
  else s.setPauses (.resumeGait (BitVec.ofNat 6 parts) (BitVec.ofNat 4 gaits)) parts fun x => x &&& ~~~(BitVec.ofNat 4 gaits)

/-- RESUME_GAIT (R383). -/
def execResumeGait (seq : Half) (t : Nat) (s : State) : Host.Outcome State Fault Refusal :=
  done s ((s.at t).startVerb seq resumeVerb)

/-! ## SELECT_PLAN (R383, R280) -/

/-- A selection judged: the plan in force completes at once, an undeclared plan with VERB_RANGE. -/
def selectVerb (s : State) : State :=
  let n := bits (s.arg 0) 0 3
  if s.arg 0 ≥ 8 ∨ !s.argsZero 1 then s.failVerb reReserved
  else if n ≥ s.boot.planCount then s.failVerb rvRange
  else if s.rebind.stage = .idle ∧ s.parts[(0 : Fin 6)].plan = n then s.decide_ 0 0
  else match s.selectPlan n with
    | (s, some r) => s.failVerb r
    | (s, none) => s.onBox fun b => { b with verb := some (.selectPlan n) }

/-- SELECT_PLAN (R383). -/
def execSelectPlan (seq : Half) (t : Nat) (s : State) : Host.Outcome State Fault Refusal :=
  done s ((s.at t).startVerb seq selectVerb)

/-! ## STAGE_RECIPE (R384, R437) -/

/-- A staging that fails: STAGE_FAILED and the result. -/
def State.failStage (s : State) (slot : Nat) (code : Byte) : State :=
  (s.log 0x010B srcHost [BitVec.ofNat 8 slot, code]).failVerb code

/-- The NOR copy of a slot that a staging writes: the one that is not bound; with neither bound, the one of the lower
SEQ. -/
def State.copyToWrite (s : State) (slot : Fin 16) : Nat :=
  let x := s.boot.recipes[slot]
  let e := s.boot.extents.getD slot.val ⟨false, 0, 0, 0⟩
  match x.bound with
  | some r => if r.copy = 0 then 1 else if r.copy = 1 then 0
      else if leNat (s.norBytes (e.copy0 + 16) 8) ≤ leNat (s.norBytes (e.copy1 + 16) 8) then 0 else 1
  | none => 0

/-- Whether a copy still serves sides of an earlier binding. -/
def State.copyBusy (s : State) (slot : Fin 16) (r : Option Recipe) : Bool :=
  (List.finRange 6).any fun p => s.oldSides p && s.parts[p].images.any fun i =>
    i.slot == slot.val && (match r with
      | some x => i.digest != x.digest
      | none => true)

/-- A recipe programmed into its extent: erased, programmed with COMMIT left erased, then committed. -/
def State.writeRecipe (s : State) (slot : Fin 16) (copy : Nat) (image : List Byte) : State :=
  let e := s.boot.extents.getD slot.val ⟨false, 0, 0, 0⟩
  let a := if copy = 0 then e.copy0 else e.copy1
  ((s.queueNor (.erase false a (e.bytes / sectorBytes))).queueNor (.recipe a (patchAt image 255 [0xFF]))).queueNor
    (.recipe (a + 255) [0x5A])

/-- Step 3 of R437: the checks of every partition bound to the slot under the plan in force. The reason of the first failure,
and every partition that the check rejects with its own. -/
def State.stageFault (s : State) (slot : Fin 16) (r : Recipe) : Option (Byte × List (Fin 6 × Byte)) :=
  let users := s.usersOf slot.val
  match users with
  | [] => (r.fault [] false).map fun c => (c, [])
  | p :: _ =>
    let e := (s.onSlot slot fun x => { x with staged := some r }).evalPlan (s.planOf p)
    let own := (e.2.filter fun v => users.any fun u => u.val == v.desc.part).filterMap fun v =>
      (v.reason.or e.1).map fun c => (Fin.ofNat 6 v.desc.part, c)
    (e.1.or (own.head?.map (·.2))).map fun c => (c, own)

/-- A staging whose recipe the check rejects: every rejected partition's REASON and PLAN_REJECT (R29), then STAGE_FAILED and
the result. -/
def State.rejectStage (s : State) (slot : Nat) (code : Byte) (parts : List (Fin 6 × Byte)) : State :=
  (parts.foldl (fun s x => s.rejectPart x.1 x.2 s.parts[x.1].plan) s).failStage slot code

/-- Steps 4 and 5 of R437: the image placed in every such partition, and the binding begun. A partition whose work region has no
room for it is rejected with PLAN_REGIONS. -/
def State.stageBind (s : State) (slot : Fin 16) (r : Recipe) : State :=
  let users := s.usersOf slot.val
  let place (acc : State × List (Fin 6 × Byte)) (p : Fin 6) : State × List (Fin 6 × Byte) :=
    match acc.1.placeRecipe p slot.val r with
    | (s, true) => (s, acc.2)
    | (s, false) => (s, acc.2 ++ [(p, rePlanRegions)])
  match users.foldl place (s, []) with
  | (_, x :: rest) => s.rejectStage slot.val rePlanRegions (x :: rest)
  | (s, []) =>
    let s := s.onSlot slot fun x => { x with staged := some r, pendPart := users.map (·.val) }
    if users.isEmpty then s.settleSlot slot
    else users.foldl State.askBind s

/-- A fetched image judged and bound. -/
def State.stageImage (s : State) (slot : Fin 16) (nor : Bool) (image : List Byte) : State :=
  let x := s.boot.recipes[slot]
  let copy := if nor then s.copyToWrite slot else 2
  if !s.recipeSigned image then s.failStage slot.val rvStageSignature
  else
    let r := recipeImage image copy
    let old : Bool := match x.bound with
      | some b => decide (r.seq ≤ b.seq)
      | none => false
    if decide (r.svn < s.otp.recipeSvn) || old then s.failStage slot.val rvStageRollback
    else if nor && s.copyBusy slot x.bound then s.failStage slot.val rvStageSlot
    else
      let s := if nor then s.writeRecipe slot copy r.bytes else s.mainPut s.boot.limits.stageBase image
      match s.stageFault slot r with
      | some (code, parts) => s.rejectStage slot.val code parts
      | none => s.stageBind slot r

/-- A staging judged. -/
def stageVerb (image : Option (List Byte)) (s : State) : State :=
  let bytes := bits (s.arg 1) 0 32
  let slot : Fin 16 := Fin.ofNat 16 (bits (s.arg 2) 0 4)
  let nor := bit (s.arg 2) 4
  let room := if nor then (s.boot.extents.getD slot.val ⟨false, 0, 0, 0⟩).bytes else s.boot.limits.stageBytes
  let s := s.onBox fun b => { b with verb := some (.stageRecipe slot.val) }
  if bits (s.arg 1) 32 32 != 0 ∨ s.arg 2 ≥ 32 ∨ !s.argsZero 3 then s.failStage slot.val reReserved
  else if bytes = 0 ∨ s.arg 0 % 4096 ≠ 0 then s.failStage slot.val rvRange
  else if bytes > room then s.failStage slot.val rvStageSize
  else match image with
    | none => s.failStage slot.val rvStageFetch
    | some b => s.stageImage slot nor (sliceAt b 0 bytes)

/-- STAGE_RECIPE (R437). -/
def execStageRecipe (seq : Half) (image : Option (List Byte)) (t : Nat) (s : State) : Host.Outcome State Fault Refusal :=
  done s ((s.at t).startVerb seq (stageVerb image))

/-! ## Overlays (R253 to R255) -/

/-- The bytes of a master as its STEP wrote it. -/
def State.masterBytes (s : State) (m : Master) : List Byte := (s.tensorBytes m.engine (adaptDesc m.desc).out0).getD []

/-- The newest master of a tensor of an adapter that a retired STEP has written (R253). -/
def State.newestMaster (s : State) (p : Fin 6) (adapter tensor : Nat) : Option Master :=
  s.parts[p].masters.find? fun m => m.adapter == adapter && m.tensor == tensor

/-- The weights of an adapter as its declaration orders them, A before B; none while a tensor has no retired STEP. -/
def State.adapterWeights (s : State) (p : Fin 6) (adapter : Nat) : Option (List Byte) :=
  match s.newestMaster p adapter 0, s.newestMaster p adapter 1 with
  | some a, some b => some (s.masterBytes a ++ s.masterBytes b)
  | _, _ => none

/-- Whether a BF16 element is NaN or infinite. -/
def badMaster : List Byte → Bool
  | lo :: hi :: rest => decide (leNat [lo, hi] / 128 % 256 = 255) || badMaster rest
  | _ => false

/-- The overlay entry that an activation writes: its place, its bytes before the digest, and the overlay. The adapter header that
precedes the weights is bytes 0 to 31 of the declaration (log entry 24). -/
def State.overlayOf (s : State) (p : Fin 6) (train : Recipe) (a : Adapter) (slot oslot : Nat) : Nat × List Byte × Overlay :=
  let sec := section_ train.bytes secAdapters
  let head := match (List.range train.adapters.length).find? fun k => leAt sec (8 + 96 * k) 1 == a.number with
    | some k => sliceAt sec (8 + 96 * k) 32
    | none => List.replicate 32 0
  let body := head ++ sliceAt ((s.adapterWeights p a.number).getD []) 0 (a.overlayBytes - 32)
  let (k, seq) := s.nextOverlay slot
  let (entry, dig) := overlayEntry slot oslot true seq body a.target
  (k, entry, ⟨oslot, dig, body⟩)

/-- An activation refused: OVERLAY_REJECT, with the digest of the entry that was not written, and the result. -/
def State.rejectOverlay (s : State) (p : Fin 6) (slot : Nat) (o : Overlay) (code : Byte) : State :=
  (s.logOverlay 0x010E p slot o.slot code o.digest).failVerb code

/-- An overlay change put before every partition that runs its recipe. -/
def State.bindOverlay (s : State) (slot : Fin 16) (v : Option Overlay) : State :=
  let users := s.usersOf slot.val
  let s := s.onSlot slot fun x => { x with pending := some v, pendPart := users.map (·.val) }
  if users.isEmpty then s.settleSlot slot else users.foldl State.askBind s

/-- The recipe slot that an adapter's TARGET names, with the recipe bound there. -/
def State.targetSlot (s : State) (target : List Byte) : Option (Fin 16 × Recipe) :=
  (List.finRange 16).findSome? fun n => match s.boot.recipes[n].bound with
    | some r => if r.digest = target then some (n, r) else none
    | none => none

/-- An adapter activated between two steps: its newest retired master becomes the overlay of its target (R253, R254). -/
def State.activate (s : State) (p : Fin 6) (train : Recipe) (a : Adapter) (oslot : Nat) : State :=
  match s.targetSlot a.target with
  | none => s.rejectOverlay p 0xFF (s.overlayOf p train a 0xFF oslot).2.2 rvOverlayTarget
  | some (slot, r) =>
    let (k, entry, o) := s.overlayOf p train a slot.val oslot
    let same := match r.adapter a.number with
      | some b => b.rank == a.rank && b.n == a.n && b.k == a.k && b.layer == a.layer
      | none => false
    if !same then s.rejectOverlay p slot.val o rvOverlayShape
    else match s.adapterWeights p a.number with
      | none => s.rejectOverlay p slot.val o rvOverlayEmpty
      | some w =>
        if badMaster w then s.rejectOverlay p slot.val o rvOverlayNan
        else
          let s := s.onBox fun b => { b with verb := some (.activateOverlay slot.val p.val) }
          (s.writeOverlay k (entry ++ o.digest)).bindOverlay slot (some o)

/-- The adapter of a training partition's recipe. -/
def State.trained (s : State) (p : Fin 6) (n : Nat) : Option (Recipe × Adapter) :=
  (if s.parts[p].bound then s.recipeFor p 3 else none).bind fun r => (r.adapter n).map fun a => (r, a)

/-- An activation at a step boundary of the training partition. -/
def State.activateNow (s : State) (p : Fin 6) (n oslot : Nat) : State :=
  match s.trained p n with
  | some (r, a) => s.activate p r a oslot
  | none => s.failVerb rvRange

/-- An activation judged; while the training partition runs a step it waits for the boundary (R253). -/
def activateVerb (s : State) : State :=
  let part := bits (s.arg 0) 12 3
  let n := bits (s.arg 0) 0 8
  let p := Fin.ofNat 6 part
  if s.arg 0 ≥ 32768 ∨ !s.argsZero 1 then s.failVerb reReserved
  else if part ≥ 6 ∨ (s.trained p n).isNone then s.failVerb rvRange
  else if s.parts[p].step.isSome then s.onBox fun b => { b with overlayWait := some (p, n, bits (s.arg 0) 8 4) }
  else s.activateNow p n (bits (s.arg 0) 8 4)

/-- The activation that waits for a step boundary, once the training partition is between two steps. -/
def State.settleOverlay (s : State) : State :=
  match s.host.box.overlayWait with
  | some (p, n, o) =>
    if s.parts[p].step.isSome then s
    else (s.onBox fun b => { b with overlayWait := none }).activateNow p n o
  | none => s

/-- A verb completes: DONE, RESULT and vector 0; one that a reset of the interface cut off reports nothing (R350). -/
def verbCompleteEffect (s : State) : State :=
  let s := s.settleOverlay
  match s.host.box.busy, s.host.box.ready with
  | true, some (code, value) =>
    if s.host.box.silent then s.onBox fun b => { b with busy := false, verb := none, outcome := none, silent := false }
    else (s.onBox fun b => { b with
      busy := false, done := true, result := code, value := value, verb := none, outcome := none }).signal 0
  | _, _ => s

/-- VERB_COMPLETE (R382). -/
def execVerbComplete (t : Nat) (s : State) : Host.Outcome State Fault Refusal := done s (verbCompleteEffect (s.at t))

/-- ACTIVATE_OVERLAY (R253). -/
def execActivateOverlay (seq : Half) (t : Nat) (s : State) : Host.Outcome State Fault Refusal :=
  done s ((s.at t).startVerb seq activateVerb)

/-- A deactivation judged. -/
def deactivateVerb (s : State) : State :=
  let slot : Fin 16 := Fin.ofNat 16 (bits (s.arg 0) 0 4)
  if s.arg 0 ≥ 16 ∨ !s.argsZero 1 then s.failVerb reReserved
  else match s.boot.recipes[slot].overlay, s.boot.recipes[slot].bound with
    | some o, some r =>
      let (k, seq) := s.nextOverlay slot.val
      let (body, dig) := overlayEntry slot.val o.slot false seq [] r.digest
      let s := s.onBox fun b => { b with verb := some (.deactivateOverlay slot.val) }
      (s.writeOverlay k (body ++ dig)).bindOverlay slot none
    | _, _ => s.decide_ 0 0

/-- DEACTIVATE_OVERLAY (R253). -/
def execDeactivateOverlay (seq : Half) (t : Nat) (s : State) : Host.Outcome State Fault Refusal :=
  done s ((s.at t).startVerb seq deactivateVerb)

/-! ## The boundaries of a step (R253, R264) -/

/-- STEP_ISSUE: the Rein forms, patches and posts the next batch step (R264, R266 to R268). `order.scratch` is what steps of
its template need, for one context, two, and so on. -/
def execStepIssue (order : StepOrder) (t : Nat) (s : State) : Host.Outcome State Fault Refusal :=
  let s1 := (s.at t).settleOverlay
  done s (if s1.mayStep order.part then s1.formStep order.part order.scratch else s1)

/-- STEP_RETIRE: every engine has retired its last command and applied its score log (R264). -/
def execStepRetire (p : Fin 6) (reports : List CtxReport) (t : Nat) (s : State) : Host.Outcome State Fault Refusal :=
  done s (retireEffect p reports (s.at t)).settleOverlay

/-! ## REQUEST_ATTESTATION (R440) -/

/-- A measurement entry. -/
def measure (kind index copy cart svn : Nat) (seq : Nat) (dig : List Byte) : List Byte :=
  leBytes 1 kind ++ leBytes 1 index ++ leBytes 1 copy ++ leBytes 1 cart ++ leBytes 4 svn ++ leBytes 8 seq ++ sliceAt dig 0 64

/-- The entry of a recipe copy. -/
def recipeEntry (slot : Nat) (r : Recipe) : List Byte := measure 3 slot r.copy 0 r.svn r.seq r.digest

/-- The entry of a cartridge. -/
def cartEntry (n : Nat) (c : Cart) : List Byte :=
  let passed := c.result == some .passed
  measure 5 n 0 (if !c.present then 0 else if passed then 1 else 2) 0 (if c.present then c.serial.toNat else 0)
    (if c.present && c.known then digest c.descriptor else [])

/-- The measurement entries of a report. -/
def State.measurements (s : State) : List (List Byte) :=
  [ measure 1 0 0 0 0 0 (digest (Config.romImage s.otp.stepping.toNat))
  , measure 2 0 0 0 s.boot.svn s.boot.bundleSeq.toNat s.boot.bundleDigest ]
  ++ (List.finRange 16).flatMap (fun n =>
    let x := s.boot.recipes[n]
    (x.bound.toList.map (recipeEntry n.val)) ++ x.staged.toList.map (recipeEntry n.val))
  ++ (List.finRange 16).flatMap (fun n => match s.boot.recipes[n].overlay with
    | some o => [measure 4 n.val o.slot 0 0 0 o.digest]
    | none => [])
  ++ (List.finRange 4).map fun n => cartEntry n.val s.ports[n].cart

/-- A length and DER bytes. -/
def derBlock (b : List Byte) : List Byte := leBytes 4 b.length ++ b

/-- The bouquet report for a nonce. -/
def State.bouquet (s : State) (nonce : List Byte) : List Byte :=
  let entries := s.measurements
  let certs := derBlock s.otp.deviceCert ++ derBlock (Config.makerCert s.otp.stepping.toNat)
  let body := entries.flatMap id ++ s.store.lifeBytes ++ certs ++ List.replicate (roundUp certs.length 8 - certs.length) 0
  let binding := (List.finRange 6).any fun p => s.parts[p].binding
  let head := ascii "RTBQ" ++ [1, 0] ++ leBytes 2 entries.length ++ leBytes 4 (80 + body.length + 120) ++ [0, 0, 0, 0]
    ++ sliceAt nonce 0 32 ++ leBytes 8 s.now ++ leBytes 8 s.otp.serial.toNat
    ++ leBytes 1 (b2n s.boot.bundleSlot) ++ leBytes 1 s.boot.timeSource.toNat ++ leBytes 1 (b2n binding)
    ++ List.replicate 13 0
  let msg := head ++ body
  msg ++ Ed448.sign s.otp.identityKey (ascii "RT6-BOUQUET-v1") (digest msg) ++ List.replicate 6 0

/-- An attestation judged and written. -/
def attestVerb (s : State) : State :=
  let bytes := bits (s.arg 5) 0 32
  if bits (s.arg 5) 32 32 != 0 ∨ !s.argsZero 6 then s.failVerb reReserved
  else if bytes = 0 ∨ s.arg 4 % 8 ≠ 0 then s.failVerb rvRange
  else
    let s := s.notePower
    let nonce := leBytes 8 (s.arg 0) ++ leBytes 8 (s.arg 1) ++ leBytes 8 (s.arg 2) ++ leBytes 8 (s.arg 3)
    let b := s.bouquet nonce
    if bytes < b.length then s.failVerb rvAttestBuffer
    else
      let s := s.onBox fun x => { x with verb := some .attestation }
      ((s.hostWrite (s.arg 4) b).log 0x010F srcHost (nonce.take 8)).decide_ 0 (BitVec.ofNat 64 b.length)

/-- REQUEST_ATTESTATION (R440). -/
def execRequestAttestation (seq : Half) (t : Nat) (s : State) : Host.Outcome State Fault Refusal :=
  done s ((s.at t).startVerb seq attestVerb)

end Sys2Proof.Machine
end

