-- ==== Sys2Proof/Machine/Rings.lean ====
section
/-!
DEFINITION. The host rings: enabling, the input ring from poll to staged payload, resets of the link, the events window
and HOST_TIME (12_host_interface, R349 to R368, R386; 03, R80, R81, R98; 14, R442).
-/
namespace Sys2Proof.Machine

/-! ## Enabling a ring (R355, R357, R363) -/

/-- The input ring updated. -/
def State.onIn (s : State) (f : InRing → InRing) : State := { s with host := { s.host with inRing := f s.host.inRing } }

/-- The record version that HOST_CAPS and the RT-6 have in common, 0 when there is none. -/
def commonVersion (hostVer : Half) : Half := if hostVer.extractLsb' 8 8 = 1 then 0x0100 else 0

/-- The record version settled. -/
def State.settleVersion (s : State) : State :=
  { s with host := { s.host with recVersion := commonVersion s.host.recVer } }

/-- Whether a number is a power of two in a range. -/
def powerIn (lo hi n : Nat) : Bool := decide (lo ≤ n) && decide (n ≤ hi) && n == 2 ^ n.log2

/-- The error of an input ring: 3 NO_CAPS, 1 RING_SIZE, 2 ALIGN. -/
def State.inFault (s : State) : Option Byte :=
  let r := s.host.inRing
  if commonVersion s.host.recVer = 0 then some 3
  else if !powerIn 16 65536 r.entries.toNat then some 1
  else if r.base.toNat % 4096 ≠ 0 ∨ r.prodAddr.toNat % 8 ≠ 0 ∨ r.consAddr.toNat % 8 ≠ 0 then some 2
  else none

/-- EN of the input ring set. -/
def inEnableEffect (s : State) : State :=
  if !s.hostWrites then s
  else
    let s := s.settleVersion
    match s.inFault with
    | some e => s.onIn fun r => { r with en := false, error := e }
    | none =>
      let s := s.onIn fun r => { r with en := true, error := 0, failures := 0 }
      { s with host := { s.host with inStopped := false } }

/-- IN_RING_ENABLE (R357). -/
def execInRingEnable (t : Nat) (s : State) : Host.Outcome State Fault Refusal := done s (inEnableEffect (s.at t))

/-- EN of the input ring cleared: no new entry is fetched. -/
def inDisableEffect (s : State) : State := if s.hostWrites then s.onIn fun r => { r with en := false } else s

/-- IN_RING_DISABLE (R357). -/
def execInRingDisable (s : State) : Host.Outcome State Fault Refusal := done s (inDisableEffect s)

/-- The error of an output ring: 3 NO_CAPS, 1 RING_SIZE, 2 ALIGN, 4 RANGE. -/
def State.outFault (s : State) (r : OutRing) : Option Byte :=
  if commonVersion s.host.recVer = 0 then some 3
  else if !powerIn 64 1048576 r.size.toNat then some 1
  else if r.base.toNat % 4096 ≠ 0 ∨ r.prodAddr.toNat % 8 ≠ 0 ∨ r.consAddr.toNat % 8 ≠ 0 ∨ r.imgBase.toNat % 4096 ≠ 0 then some 2
  else if r.coalRecords = 0 ∨ r.coalUs = 0 then some 4
  else none

/-- EN of an output ring set together with its coalescing fields. -/
def outEnableEffect (p : Fin 6) (coalRecords : Byte) (coalUs : Half) (s : State) : State :=
  if !s.hostWrites then s
  else
    let s := (s.onOut p fun r => { r with coalRecords := coalRecords, coalUs := coalUs }).settleVersion
    let fault := s.outFault s.host.out[p]
    (s.onOut p fun r => { r with en := fault.isNone, error := fault.getD 0 }).settleRing p

/-- OUT_RING_ENABLE (R363). -/
def execOutRingEnable (p : Fin 6) (coalRecords : Byte) (coalUs : Half) (t : Nat) (s : State) :
    Host.Outcome State Fault Refusal :=
  done s (outEnableEffect p coalRecords coalUs (s.at t))

/-- EN of an output ring cleared: publication stops at a record boundary. -/
def outDisableEffect (p : Fin 6) (s : State) : State :=
  if s.hostWrites then (s.onOut p fun r => { r with en := false }).settleRing p else s

/-- OUT_RING_DISABLE (R363). -/
def execOutRingDisable (p : Fin 6) (t : Nat) (s : State) : Host.Outcome State Fault Refusal :=
  done s (outDisableEffect p (s.at t))

/-! ## Polling (R358) -/

/-- Whether entries of the input ring are still being fetched, or their data is (RUNNING of IN_STATUS). -/
def InRing.busy (r : InRing) : Bool := r.en || decide (r.fetching > 0) || !r.fetched.isEmpty || !r.staging.isEmpty

/-- The next read of entries started: up to 16, from the index after the last one asked for. -/
def State.fetchMore (s : State) : State :=
  let r := s.host.inRing
  let n := (r.prodSeen - r.fetchTo).toNat
  let room := decide (queueMax - s.queueUsed ≥ s.boot.limits.hostAdmitMin)
  if r.en && s.host.linkUp && room && r.fetching == 0 && decide (0 < n) && decide (n ≤ r.entries.toNat) then
    s.onIn fun r => { r with fetching := min 16 n, fetchTo := r.fetchTo + BitVec.ofNat 32 (min 16 n) }
  else s

/-- IN_CONS written to host memory, with vector 3. -/
def State.writeCons (s : State) : State :=
  let r := s.host.inRing
  if r.consWrite && s.host.linkUp then
    ((s.hostWrite r.consAddr.toNat (leBytes 4 r.cons.toNat)).onIn fun r => { r with consWrite := false }).signal 3
  else s

/-- The producer word read at a poll. -/
def pollEffect (producer : Word) (s : State) : State :=
  let s := s.writeCons
  let r := s.host.inRing
  if !r.en || !s.host.linkUp || decide (queueMax - s.queueUsed < s.boot.limits.hostAdmitMin) then s
  else if (producer - r.cons).toNat > r.entries.toNat then s.countChip Chip.ringErrors 1
  else (s.onIn fun r => { r with prodSeen := producer }).fetchMore

/-- IN_POLL: the producer word is read at the poll interval, and new entries are asked for. -/
def execInPoll (producer : Word) (t : Nat) (s : State) : Host.Outcome State Fault Refusal :=
  done s (pollEffect producer (s.at t))

/-! ## Entries (R359, R81, R98, R360) -/

/-- An entry as its 64 bytes give it. -/
def ringEntry (b : List Byte) (index : Word) : Entry where
  index := some index
  stream := bits (leAt b 2 1) 0 6
  format := bits (leAt b 3 1) 0 3
  eos := bit (leAt b 3 1) 3
  augPresent := bit (leAt b 3 1) 4
  part := bits (leAt b 4 1) 0 3
  gait := bits (leAt b 4 1) 3 2
  tag := BitVec.ofNat 64 (leAt b 8 8)
  timestamp := BitVec.ofNat 64 (leAt b 16 8)
  width := leAt b 24 2
  height := leAt b 26 2
  truthLen := leAt b 28 4
  payload := BitVec.ofNat 64 (leAt b 32 8)
  length := leAt b 40 4
  aug := sliceAt b 48 16

/-- Whether every reserved field of an entry is zero, those of its augmentation block included. -/
def entryReservedOk (b : List Byte) : Bool :=
  bits (leAt b 2 1) 6 2 == 0 && bits (leAt b 3 1) 5 3 == 0 && bits (leAt b 4 1) 5 3 == 0 && zeroAt b 5 3 && zeroAt b 44 4
    && (if bit (leAt b 3 1) 4 then zeroAt b 55 1 && zeroAt b 60 4 else zeroAt b 48 16)

/-- Whether the fields of an augmentation block lie in their ranges (R98). -/
def augOk (a : List Byte) : Bool :=
  let rot := sext 16 (leAt a 0 2)
  decide (-1000 ≤ rot) && decide (rot ≤ 1000) && within 2048 8192 (leAt a 2 2) && within 1024 16384 (leAt a 4 2)
    && decide (leAt a 6 1 ≤ 64)

/-- Whether bytes are TEXT_LINE and FIELD items that fill them exactly. `fuel` bounds the items. -/
def truthOk : Nat → List Byte → Bool
  | 0, b => b.isEmpty
  | fuel + 1, b =>
    b.isEmpty || (within 1 2 (leAt b 0 1) && decide (leAt b 1 3 ≥ 8) && leAt b 1 3 % 8 == 0 && decide (leAt b 1 3 ≤ b.length)
      && truthOk fuel (b.drop (leAt b 1 3)))

/-- Whether a partition serves a gait in the plan in force. -/
def State.serves (s : State) (p g : Nat) : Bool :=
  match descIn (s.planOf (Fin.ofNat 6 p)) (Fin.ofNat 6 p) with
  | some d => bit d.gaits g
  | none => false

/-- The reason for which an entry is rejected, by the checks of R81 and R360 in order. -/
def State.entryFault (s : State) (b truth : List Byte) (e : Entry) : Option Byte :=
  let st : Fin 64 := Fin.ofNat 64 e.stream
  let cfg := s.streamA[st].toNat
  if !entryReservedOk b then some 1
  else if !s.streams[st].enabled then some 2
  else if e.part ≠ bits cfg 8 3 ∨ e.gait ≠ bits cfg 11 2 ∨ !s.serves e.part e.gait then some 3
  else if !bit (bits cfg 1 5) e.format then some 4
  else if e.augPresent && e.gait != 3 then some 5
  else if e.augPresent && !augOk e.aug then some 6
  else if e.truthLen ≠ 0 ∧ e.gait ≠ 3 then some 7
  else if e.truthLen % 8 ≠ 0 ∨ e.truthLen > 1048576 ∨ !truthOk 131072 (sliceAt truth 0 e.truthLen) then some 8
  else none

/-- The consumer index brought up to the oldest entry that is neither rejected nor staged. -/
def State.advanceCons (s : State) : State :=
  let r := s.host.inRing
  let waiting := (r.staging.map fun x => x.entry.index) ++ r.fetched.map fun x => x.1.index
  let next := (waiting.findSome? id).getD (r.fetchTo - BitVec.ofNat 32 r.fetching)
  if next = r.cons then s else s.onIn fun r => { r with cons := next, consWrite := true }

/-- An entry rejected: counted and logged. -/
def State.rejectEntry (s : State) (stream : Nat) (reason : Byte) (index : Word) : State :=
  (s.countChip Chip.rejectedEntries 1).log 0x0302 (srcStream stream) (reason :: leBytes 4 index.toNat)

/-- A fetched entry checked. A version that R13 does not accept is rejected; its reason is a free value (log entry 28). -/
def State.checkEntry (s : State) (index : Word) (x : List Byte × List Byte) : State :=
  let b := sliceAt x.1 0 64
  let e := ringEntry b index
  let s := (s.countChip Chip.inputEntries 1)
  if byteAt b 0 ≠ 1 ∨ byteAt b 1 ≠ 0 then
    ({ s with freeCtr := s.freeCtr + 1 }).rejectEntry e.stream (Config.freeByte s.freeCtr) index
  else match s.entryFault b x.2 e with
    | some reason => s.rejectEntry e.stream reason index
    | none => s.onIn fun r => { r with fetched := r.fetched ++ [(e, x.2)] }

/-- A read of entries that failed: it is retried at the next poll, and the third failure in a row stops the ring. -/
def State.fetchFailed (s : State) : State :=
  let s := s.onIn fun r => { r with fetchTo := r.fetchTo - BitVec.ofNat 32 r.fetching, fetching := 0, failures := r.failures + 1 }
  if s.host.inRing.failures < 3 then s
  else
    let s := s.onIn fun r => { r with en := false, error := 4, failures := 0 }
    { s with host := { s.host with inStopped := true } }

/-- Entries that arrive, each with the truth block that its check reads. -/
def fetchDoneEffect (entries : Option (List (List Byte × List Byte))) (s : State) : State :=
  let r := s.host.inRing
  if r.fetching = 0 then s
  else match entries with
    | none => s.fetchFailed
    | some l =>
      let first := r.fetchTo - BitVec.ofNat 32 r.fetching
      let s := { s with boot := { s.boot with anyEntry := true } }
      let s := (s.onIn fun r => { r with failures := 0, fetching := 0 })
      let s := (List.range r.fetching).foldl (fun (s : State) (i : Nat) =>
        s.checkEntry (first + BitVec.ofNat 32 i) (l.getD i ([], []))) s
      s.advanceCons.fetchMore

/-- ENTRY_FETCH_DONE: entries arrive and are checked, or their read fails (R358). -/
def execEntryFetchDone (entries : Option (List (List Byte × List Byte))) (t : Nat) (s : State) :
    Host.Outcome State Fault Refusal :=
  done s (fetchDoneEffect entries (s.at t))

/-! ## Observation and staging (R358, R361) -/

/-- Whether an entry's data cannot be staged at all. -/
def State.oversized (s : State) (e : Entry) : Bool := decide (e.length + e.truthLen > s.boot.limits.inputStageBytes)

/-- Staging bytes that an entry needs. -/
def State.stageNeed (s : State) (e : Entry) : Nat :=
  if s.oversized e then 0 else roundUp e.length 64 + roundUp e.truthLen 64

/-- A place for staged data: the lowest in the area that no other sample's data overlaps. -/
def State.stagePlace (s : State) (len : Nat) : Nat :=
  let l := s.boot.limits
  let held := s.sides.filter fun x => decide (x.stageBytes > 0)
  let starts := l.inputStageBase :: held.map fun x => x.stageAt + x.stageBytes
  let free (a : Nat) : Bool := decide (a + len ≤ l.inputStageBase + l.inputStageBytes)
    && held.all fun x => decide (a + len ≤ x.stageAt) || decide (x.stageAt + x.stageBytes ≤ a)
  ((starts.filter free).foldl (fun (b : Option Nat) a => match b with
    | some m => some (min m a)
    | none => some a) none).getD l.inputStageBase

/-- The oldest entry observed: its reservations taken, its side entered, its payload fetch started. -/
def State.observe (s : State) (e : Entry) (rest : List (Entry × List Byte)) : State :=
  let need := s.stageNeed e
  let k := s.nextKey
  let p : Fin 6 := Fin.ofNat 6 e.part
  let x := { Side.fresh k p (Fin.ofNat 4 e.gait) e.tag (BitVec.ofNat 32 e.stream) s.sideReserve [] with
    host := true, stream := e.stream, tStart := some s.now, holdSeen := s.power.hold.isSome
    newRecipe := s.parts[p].binding, aug := if e.augPresent then e.aug else []
    stageAt := s.stagePlace need, stageBytes := need }
  let st : Staged := ⟨e, [], [], s.now, k, false⟩
  let s := (s.reserveSpool s.sideReserve).onIn fun r => { r with
    fetched := rest, staging := r.staging ++ [st], stageUsed := r.stageUsed + need }
  ({ s with sides := s.sides ++ [x], nextKey := k + 1 }).enterUnit e

/-- Part of the staging of a side given back: the first `n` bytes. -/
def State.releaseStage (s : State) (k n : Nat) : State :=
  match s.side? k with
  | none => s
  | some x =>
    let m := min n x.stageBytes
    (s.freeStage m).onSide k fun y => { y with stageAt := y.stageAt + m, stageBytes := y.stageBytes - m }

/-- A sample whose data could not be fetched: a status-only record with HOST_FETCH. -/
def State.hostFetchLost (s : State) (k detail : Nat) : State :=
  let s := (s.releaseStage k ((s.side? k).elim 0 (·.stageBytes))).addStatus k 0x0402 detail
  (s.onSide k fun x => { x with statusOnly := true, stage := .arriving }).countChip Chip.hostFetchErrors 1

/-- The oldest sample in staging complete: its data is in main memory, and it waits for its unit. -/
def State.stageDone (s : State) (x : Staged) (rest : List Staged) (payload truth : List Byte) : State :=
  let y := { x with payload := payload, truth := truth }
  let a := (s.side? x.side).elim 0 (·.stageAt)
  let s := s.mainPut a payload
  let s := s.mainPut (a + roundUp x.entry.length 64) truth
  let s := (s.onIn fun r => { r with staging := rest }).onSide x.side fun z => { z with truth := truth }
  let s := s.onStream (Fin.ofNat 64 x.entry.stream) fun z => { z with queue := z.queue ++ [y] }
  s.advanceCons

/-- The oldest sample in staging lost. A video access unit keeps its place in its stream, where it is dropped (R95; DESIGN CHOICE,
log entry 130). -/
def State.stageLost (s : State) (x : Staged) (rest : List Staged) (detail : Nat) : State :=
  let n : Fin 64 := Fin.ofNat 64 x.entry.stream
  let s := (s.onIn fun r => { r with staging := rest }).hostFetchLost x.side detail
  let s := if isVideo n then
      (s.onStream n fun y => { y with queue := y.queue ++ [{ x with lost := true }] }).settleLost n
    else s
  s.advanceCons

/-- Samples at the head of staging that have nothing to fetch: those too large, and empty ones. `fuel` bounds them. -/
def State.flushStaging (s : State) : Nat → State
  | 0 => s
  | fuel + 1 => match s.host.inRing.staging with
    | [] => s
    | x :: rest =>
      if s.oversized x.entry then (s.stageLost x rest 2).flushStaging fuel
      else if x.entry.length = 0 ∧ x.entry.truthLen = 0 then (s.stageDone x rest [] []).flushStaging fuel
      else s

/-- Every such sample completed. -/
def State.settleStaging (s : State) : State := s.flushStaging (s.host.inRing.staging.length + 1)

/-- The oldest fetched entry observed when its reservations are granted; an entry never draws on the spool's reserve
(R370). -/
def observeEffect (s : State) : State :=
  match s.host.inRing.fetched with
  | [] => s
  | (e, _) :: rest =>
    if !s.grantOutright s.sideReserve then s.spoolEnterHigh
    else if s.host.inRing.stageUsed + s.stageNeed e > s.boot.limits.inputStageBytes then s
    else (s.observe e rest).settleStaging

/-- ENTRY_OBSERVE: stage H1 (R358). -/
def execEntryObserve (t : Nat) (s : State) : Host.Outcome State Fault Refusal := done s (observeEffect (s.at t))

/-- The payload and truth block of the oldest sample in staging arrive, or their fetch fails. -/
def stagedEffect (payload truth : Option (List Byte)) (s : State) : State :=
  match s.host.inRing.staging with
  | [] => s
  | x :: rest =>
    let e := x.entry
    let p := if e.length = 0 then some [] else payload.map fun b => sliceAt b 0 e.length
    let q := if e.truthLen = 0 then some [] else truth.map fun b => sliceAt b 0 e.truthLen
    (match p, q with
    | some b, some c => s.stageDone x rest b c
    | none, _ => s.stageLost x rest 0
    | _, none => s.stageLost x rest 1).settleStaging

/-- PAYLOAD_STAGED: a payload and truth fetch completes or fails (R358, R361). -/
def execPayloadStaged (payload truth : Option (List Byte)) (t : Nat) (s : State) : Host.Outcome State Fault Refusal :=
  done s (stagedEffect payload truth (s.at t))

/-! ## Resets of the interface (R350, R372, R455) -/

/-- An output ring after a reset of the interface; its waiting records stay. -/
def OutRing.cleared (r : OutRing) : OutRing :=
  { OutRing.reset with records := r.records, stallStart := r.stallStart, stalledOut := r.stalledOut, error := r.error }

/-- The input ring after a reset of the interface: entries already fetched complete, without an index. -/
def InRing.cleared (r : InRing) : InRing :=
  { InRing.reset with
    error := r.error, stageUsed := r.stageUsed
    fetched := r.fetched.map fun x => ({ x.1 with index := none }, x.2)
    staging := r.staging.map fun x => { x with entry := { x.entry with index := none } } }

/-- What a Function Level Reset, a hot reset and a link-down clear: every RW register of BAR0, the MSI-X table and PBA,
IN_CONS and every OUT_PROD. A verb in progress has its effect and is not reported. -/
def State.clearInterface (s : State) : State :=
  let h := s.host
  let h : HostIf := { h with
    recVer := 0, imageExport := false, pollUs := 10, stallMs := 100, inRing := h.inRing.cleared, out := h.out.map OutRing.cleared
    box := { h.box with arg := Vector.replicate 8 0, silent := h.box.busy }
    evtSelect := 0, msix := HostIf.reset.msix, pba := 0 }
  ({ s with host := h }).settleRings

/-- FUNCTION_LEVEL_RESET (R350). -/
def execFunctionLevelReset (t : Nat) (s : State) : Host.Outcome State Fault Refusal :=
  let s1 := s.at t
  done s (if s1.host.linkUp then s1.clearInterface else s1)

/-- The link lost: counted, and the rings stall. -/
def linkDownEffect (s : State) : State :=
  if !s.host.linkUp then s
  else (({ s with host := { s.host with linkUp := false } }).countChip Chip.linkDowns 1).clearInterface

/-- LINK_DOWN: a hot reset or a link-down (R350). -/
def execLinkDown (t : Nat) (s : State) : Host.Outcome State Fault Refusal := done s (linkDownEffect (s.at t))

/-- PERST_ASSERT: PERST_N resets only the link and is treated as a link-down (R455). -/
def execPerstAssert (t : Nat) (s : State) : Host.Outcome State Fault Refusal := done s (linkDownEffect (s.at t))

/-- LINK_UP: the link has trained (R372, R425). -/
def execLinkUp (t : Nat) (s : State) : Host.Outcome State Fault Refusal :=
  let s1 := s.at t
  done s (if s1.boot.running ∨ s1.boot.stopped then
      ({ s1 with host := { s1.host with linkUp := true } }).settleRings
    else s1)

/-! ## The events window and HOST_TIME (R386, R442) -/

/-- A record latched by its number. -/
def evtSelectEffect (number : DWord) (s : State) : State :=
  if !s.hostWrites then s
  else
    let n := number.toNat
    let p := s.stud.produced
    let h := { s.host with evtSelect := number }
    if n < p ∧ p ≤ n + ringMax then
      match s.stud.ring[p - 1 - n]? with
      | some r => { s with host := { h with evtValid := true, evtGone := false, evtData := r.encode 0 } }
      | none => { s with host := { h with evtValid := false, evtGone := true } }
    else { s with host := { h with evtValid := false, evtGone := decide (n < p) } }

/-- EVT_SELECT (R386). -/
def execEvtSelect (number : DWord) (s : State) : Host.Outcome State Fault Refusal := done s (evtSelectEffect number s)

/-- The instants from which intervals are measured moved by a step of device time, so that a step of the calendar ends no
interval. -/
def State.shiftTimes (s : State) (d : Nat) : State :=
  let mv (x : Option Nat) : Option Nat := x.map (· + d)
  { s with
    now := s.now + d
    boot := { s.boot with poweredAt := s.boot.poweredAt + d }
    parts := s.parts.map fun (x : Partition) => { x with tokenTime := x.tokenTime + d }
    mem := { s.mem with bwTime := s.mem.bwTime.map (· + d) }
    transports := s.transports.map fun (x : Transport) => { x with paperLowAt := mv x.paperLowAt, calDue := mv x.calDue }
    host := { s.host with evtSignalAt := mv s.host.evtSignalAt }
    bridle := { s.bridle with
      bothLostAt := mv s.bridle.bothLostAt, lossTime := mv s.bridle.lossTime
      reins := s.bridle.reins.map fun (x : Rein) => { x with lastBeat := x.lastBeat + d, losses := x.losses.map (· + d) } }
    power := { s.power with
      lastStep := mv s.power.lastStep, hold := s.power.hold.map fun h => { h with start := h.start + d } } }

/-- HOST_TIME written: device time steps forward once. -/
def hostTimeEffect (value : DWord) (s : State) : State :=
  let b := s.boot
  if !s.hostWrites ∨ b.timeSource ≠ 0 ∨ b.anySheet ∨ b.anyEntry ∨ value.toNat ≤ s.now ∨ b.hostTimed then s
  else
    let step := value.toNat - s.now
    let s := { s with boot := { b with timeSource := 2, hostTimed := true } }
    (s.shiftTimes step).log 0x0104 srcHost (leBytes 8 step)

/-- HOST_TIME (R442). -/
def execHostTime (value : DWord) (t : Nat) (s : State) : Host.Outcome State Fault Refusal :=
  done s (hostTimeEffect value (s.at t))

end Sys2Proof.Machine
end

