-- ==== Sys2Proof/Machine/Regs.lean ====
section
/-!
DEFINITION. The register space and BAR0 as registers: where each lies, which bits it takes, what a write does and what a
read gives (00, R5 to R12; 12, R351 to R363, R382, R386, R387; 14, R426, R427).
-/
namespace Sys2Proof.Machine

/-! ## Which bits a register takes -/

/-- The bits of a register that a write replaces, those that a 1 clears, and those that are read-only. -/
structure RegRule where
  rw  : Nat
  w1c : Nat
  ro  : Nat
  deriving DecidableEq, Repr

/-- Registers of a unit window, by kind: engine (R106), sensor port (R35, R36, R47, R51, R72), channel (R347); a decoder
unit has none. -/
def unitRule (kind : Fin 4) (off : Nat) : Option RegRule :=
  match kind.val with
  | 0 => if off = 0 then some ⟨0, 0, 0x7F3B⟩ else if off = 4 then some ⟨0, 0, 0xFFFF⟩ else none
  | 1 =>
    if off % 4 ≠ 0 then none
    else if off = 0 then some ⟨0x3FFF03FF, 0, 0⟩
    else if off = 4 then some ⟨0x0FF3FFFF, 0, 0⟩
    else if off = 8 then some ⟨0x3FFFF, 0, 0⟩
    else if 0x10 ≤ off ∧ off < 0x20 then some ⟨0x3FFFFFF7, 0, 0⟩
    else if 0x100 ≤ off ∧ off < 0x180 then some ⟨0xFFFFFF, 0, 0⟩
    else if off = 0x200 then some ⟨0x7FFFFFFF, 0, 0⟩
    else if off = 0x204 then some ⟨0xFFFFFFFF, 0, 0⟩
    else if off = 0x300 then some ⟨0, 8, 0xFFFFFF77⟩
    else none
  | 2 => if off = 0 then some ⟨0, 0, 0x3F1F⟩ else none
  | _ => none

/-- Registers of the front-end common window (R42, R43, R52). -/
def frontRule (off : Nat) : Option RegRule :=
  if off % 4 ≠ 0 then none
  else if off = 0 then some ⟨0x0F1FFFFF, 0, 0⟩
  else if 0x10 ≤ off ∧ off < 0x20 then some ⟨0, 0, 0xFF⟩
  else if 0x100 ≤ off ∧ off < 0x140 then some ⟨if off % 8 = 0 then 0xFFFF003F else 0x0FFFFFFF, 0, 0⟩
  else none

/-- Registers of the decode common window (R76, R77); the last two words of a stream are reserved. -/
def decodeRule (off : Nat) : Option RegRule :=
  if off % 4 ≠ 0 ∨ off < 0x100 ∨ 0x500 ≤ off then none
  else if off % 16 = 0 then some ⟨0xFF03FF3F, 0, 0⟩
  else if off % 16 = 4 then some ⟨0xFFFFFFFF, 0, 0⟩
  else some ⟨0, 0, 0⟩

/-- Registers of the memory common window (R346). -/
def memoryRule (off : Nat) : Option RegRule :=
  if off = 0 then some ⟨3, 0, 0⟩ else if off = 4 then some ⟨0x1FFFFF, 0, 0⟩ else none

/-- Registers of the fabric window, read-only to the register script (R392). -/
def fabricRule (off : Nat) : Option RegRule :=
  if off = 0 then some ⟨0, 0, 0x7F⟩
  else if off = 8 ∨ off = 0xC ∨ off = 0x10 ∨ off = 0x14 ∨ off = 0x20 then some ⟨0, 0, 0xFFFFFFFF⟩
  else if off = 0x18 ∨ off = 0x1C then some ⟨0, 0, 7⟩
  else if off = 0x24 then some ⟨0, 0, 3⟩
  else none

/-! ## Where an address lies (R7) -/

/-- Units built of a kind: engines, ports, channels, decoder units. -/
def built (kind : Fin 4) : Nat := match kind.val with
  | 0 => 7
  | 1 => 4
  | 2 => 12
  | _ => 8

/-- The windows of the register space. -/
inductive RegWindow where
  | unit (kind : Fin 4) (u : Nat)
  | broadcast (kind : Fin 4)
  | group (kind : Fin 4) (g : Fin 8)
  | groupMask (kind : Fin 4) (g : Fin 8)
  | kindStatus (kind : Fin 4)
  | frontEnd
  | decode
  | memory
  | fabric
  deriving DecidableEq, Repr

/-- The window of an offset in a kind block, and the offset in the window. -/
def locateKind (k : Fin 4) (o : Nat) : Option (RegWindow × Nat) :=
  if o < 0x200000 then if o / 0x10000 < built k then some (.unit k (o / 0x10000), o % 0x10000) else none
  else if 0x800000 ≤ o ∧ o < 0x810000 then some (.broadcast k, o - 0x800000)
  else if 0x900000 ≤ o ∧ o < 0x980000 then some (.group k (Fin.ofNat 8 ((o - 0x900000) / 0x10000)), o % 0x10000)
  else if 0xA00000 ≤ o ∧ o < 0xA00020 then some (.groupMask k (Fin.ofNat 8 ((o - 0xA00000) / 4)), o % 4)
  else if o = 0xA00040 then some (.kindStatus k, 0)
  else none

/-- The window of a register-space address that holds registers, and the offset in it. -/
def locateReg (a : Nat) : Option (RegWindow × Nat) :=
  if 0xF0000000000 ≤ a ∧ a < 0xF0004000000 then
    locateKind (Fin.ofNat 4 ((a - 0xF0000000000) / 0x1000000)) (a % 0x1000000)
  else if 0xF0040010000 ≤ a ∧ a < 0xF0040020000 then some (.frontEnd, a % 0x10000)
  else if 0xF0040020000 ≤ a ∧ a < 0xF0040030000 then some (.decode, a % 0x10000)
  else if 0xF0040030000 ≤ a ∧ a < 0xF0040040000 then some (.memory, a % 0x10000)
  else if 0xF0040040000 ≤ a ∧ a < 0xF0040050000 then some (.fabric, a % 0x10000)
  else none

/-- The rule of the register at an offset of a window; none where no register is. -/
def RegWindow.rule : RegWindow → Nat → Option RegRule
  | .unit k _, off => unitRule k off
  | .broadcast k, off => unitRule k off
  | .group k _, off => unitRule k off
  | .groupMask k _, off => if off = 0 then some ⟨2 ^ built k - 1, 0, 0⟩ else none
  | .kindStatus _, _ => some ⟨0, 7, 0x1F00⟩
  | .frontEnd, off => frontRule off
  | .decode, off => decodeRule off
  | .memory, off => memoryRule off
  | .fabric, off => fabricRule off

/-! ## Values -/

/-- A register's new value: the masked bits that it takes, from the value written. -/
def RegRule.mix (r : RegRule) (old value mask : Word) : Word :=
  let m := mask &&& BitVec.ofNat 32 r.rw
  (old &&& ~~~m) ||| (value &&& m)

/-- ENG_STATUS (R106). -/
def Engine.status (e : Engine) (logicOn paddockOn : Bool) : Word :=
  let role := match e.role with
    | .inService => 0
    | .spare => 1
    | .fenced => 2
  let part := match e.part with
    | some p => p.val
    | none => 7
  BitVec.ofNat 32 (role + part * 8 + (if e.part.isSome then e.logical % 16 else 0) * 256 + b2n logicOn * 4096
    + b2n paddockOn * 8192 + b2n e.busy * 16384)

/-- PORT_STATUS (R72). -/
def Port.status (p : Port) : Word :=
  BitVec.ofNat 32 (b2n p.trained + b2n p.calValid * 2 + b2n p.calLastFail * 4 + b2n p.underrun * 8 + b2n p.cart.present * 16
    + b2n (p.cart.result == some .passed) * 32 + b2n (p.wear 100) * 64 + p.calFailRun.toNat * 256 + p.badPixLast.toNat * 65536)

/-- Whether a channel belongs to the group of a slot plan in force (R318). -/
def Memory.grouped (m : Memory) (c : Fin 12) : Bool :=
  m.slotPlans.any fun p => decide (p.chanBase ≤ c.val) && decide (c.val < p.chanBase + p.chanCount)

/-- CHAN_STATUS (R347). -/
def State.chanStatus (s : State) (c : Fin 12) : Word :=
  let x := s.mem.channels[c]
  BitVec.ofNat 32 (b2n x.trained + x.refresh.toNat * 2 + b2n x.hot * 8 + b2n (s.mem.grouped c) * 16
    + s.mem.remapUsed (halfOf c) % 64 * 256)

/-- The value of a register of a unit; 0 where there is none. -/
def State.unitReg (s : State) (kind : Fin 4) (u off : Nat) : Word :=
  match kind.val with
  | 0 =>
    let e : Fin 7 := Fin.ofNat 7 u
    let x := s.engines[e]
    if off = 0 then x.status (s.power.domains.getLsbD e.val) (s.power.domains.getLsbD (7 + e.val))
    else if off = 4 then x.lastFault.setWidth 32
    else 0
  | 1 =>
    let p := s.ports[Fin.ofNat 4 u]
    if off = 0 then p.portCfg
    else if off = 4 then p.ttPeriod
    else if off = 8 then p.sampleStart
    else if 0x10 ≤ off ∧ off < 0x20 then p.plane[Fin.ofNat 4 ((off - 0x10) / 4)]
    else if 0x100 ≤ off ∧ off < 0x180 then p.ttEdge[Fin.ofNat 32 ((off - 0x100) / 4)]
    else if off = 0x200 then p.calCfg
    else if off = 0x204 then p.calLimits
    else if off = 0x300 then p.status
    else 0
  | 2 => if off = 0 then s.chanStatus (Fin.ofNat 12 u) else 0
  | _ => 0

/-- A configuration register of a port set. -/
def Port.setReg (p : Port) (off : Nat) (v : Word) : Port :=
  if off = 0 then { p with portCfg := v }
  else if off = 4 then { p with ttPeriod := v }
  else if off = 8 then { p with sampleStart := v }
  else if 0x10 ≤ off ∧ off < 0x20 then { p with plane := p.plane.set (Fin.ofNat 4 ((off - 0x10) / 4)) v }
  else if 0x100 ≤ off ∧ off < 0x180 then { p with ttEdge := p.ttEdge.set (Fin.ofNat 32 ((off - 0x100) / 4)) v }
  else if off = 0x200 then { p with calCfg := v }
  else if off = 0x204 then { p with calLimits := v }
  else p

/-- The fields of one unit's register written: RW bits replaced unless the configuration is frozen, W1C bits cleared. -/
def State.writeUnit (s : State) (kind : Fin 4) (u off : Nat) (value mask : Word) : State :=
  match unitRule kind off with
  | none => s
  | some r =>
    if kind = 1 then
      let n : Fin 4 := Fin.ofNat 4 u
      if r.rw ≠ 0 then
        if s.boot.frozen then s else s.onPort n fun p => p.setReg off (r.mix (s.unitReg kind u off) value mask)
      else if (value &&& mask).getLsbD 3 then s.onPort n fun p => { p with underrun := false }
      else s
    else s

/-! ## Broadcast and group windows (R8 to R12) -/

/-- KIND_STATUS of a kind updated. -/
def State.onKind (s : State) (k : Fin 4) (f : KindStatus → KindStatus) : State :=
  { s with kindStatus := vmod s.kindStatus k f }

/-- Whether a unit is fenced: an engine whose ROLE is FENCED. -/
def State.unitFenced (s : State) (kind : Fin 4) (u : Nat) : Bool :=
  kind == 0 && s.engines[Fin.ofNat 7 u].role == .fenced

/-- The members of a group window, ascending. -/
def State.groupMembers (s : State) (kind : Fin 4) (g : Fin 8) : List Nat :=
  (List.range (built kind)).filter fun u => (s.groupMask[kind])[g].getLsbD u

/-- A write applied to members in ascending unit index; a fenced one is skipped. -/
def State.writeMembers (s : State) (kind : Fin 4) (us : List Nat) (off : Nat) (value mask : Word) : State :=
  us.foldl (fun (s : State) (u : Nat) =>
    if s.unitFenced kind u then s.onKind kind fun k => { k with fencedSkip := true }
    else s.writeUnit kind u off value mask) s

/-- The value that members give: the lowest one's that is not fenced; a difference sets MISMATCH and FIRST_DIFFER. With
every member fenced there is no value: a bus error (R5). -/
def State.readMembers (s : State) (kind : Fin 4) (us : List Nat) (off : Nat) : State :=
  match us.filter fun u => !s.unitFenced kind u with
  | [] => s.answer .busError
  | u :: rest =>
    let v := s.unitReg kind u off
    let s := match rest.find? fun w => s.unitReg kind w off != v with
      | some w => s.onKind kind fun k => { k with mismatch := true, firstDiffer := BitVec.ofNat 5 w }
      | none => s
    s.answer (.value (v.setWidth 64))

/-- A group access that reached an empty mask. -/
def State.emptyGroup (s : State) (kind : Fin 4) : State := s.onKind kind fun k => { k with groupEmpty := true }

/-! ## A write to the register space (R5, R8, R10, R427) -/

/-- KIND_STATUS (R12). -/
def KindStatus.word (k : KindStatus) : Word :=
  BitVec.ofNat 32 (b2n k.mismatch + b2n k.groupEmpty * 2 + b2n k.fencedSkip * 4 + k.firstDiffer.toNat * 256)

/-- The value of a register of the front-end common window. -/
def State.frontReg (s : State) (off : Nat) : Word :=
  if off = 0 then s.feCtrl
  else if 0x10 ≤ off ∧ off < 0x20 then s.transports[Fin.ofNat 4 ((off - 0x10) / 4)].hold.setWidth 32
  else if off % 8 = 0 then s.sideDefA[Fin.ofNat 8 ((off - 0x100) / 8)]
  else s.sideDefB[Fin.ofNat 8 ((off - 0x100) / 8)]

/-- A register of the front-end common window set; DIR_T drives the DIR pins (R43). -/
def State.setFront (s : State) (off : Nat) (v : Word) : State :=
  if off = 0 then
    { s with
      feCtrl := v
      transports := Vector.ofFn fun t : Fin 4 => { s.transports[t] with dir := v.getLsbD (24 + t.val) } }
  else if off < 0x100 then s
  else if off % 8 = 0 then { s with sideDefA := s.sideDefA.set (Fin.ofNat 8 ((off - 0x100) / 8)) v }
  else { s with sideDefB := s.sideDefB.set (Fin.ofNat 8 ((off - 0x100) / 8)) v }

/-- The value of a register of the decode common window. -/
def State.decodeReg (s : State) (off : Nat) : Word :=
  let n : Fin 64 := Fin.ofNat 64 ((off - 0x100) / 16)
  if off % 16 = 0 then s.streamA[n] else if off % 16 = 4 then s.streamB[n] else 0

/-- A register of the decode common window set. -/
def State.setDecode (s : State) (off : Nat) (v : Word) : State :=
  let n : Fin 64 := Fin.ofNat 64 ((off - 0x100) / 16)
  if off % 16 = 0 then { s with streamA := s.streamA.set n v }
  else if off % 16 = 4 then { s with streamB := s.streamB.set n v }
  else s

/-- The value of a register of the memory common window. -/
def State.memoryReg (s : State) (off : Nat) : Word := if off = 0 then s.mem.memCfg else s.mem.scrubCfg

/-- A register of the memory common window set. -/
def State.setMemory (s : State) (off : Nat) (v : Word) : State :=
  if off = 0 then { s with mem := { s.mem with memCfg := v } } else { s with mem := { s.mem with scrubCfg := v } }

/-- FROZEN_WRITE: an attempted write of a field that the register script sets, once the configuration is frozen. -/
def State.logFrozen (s : State) (a : Nat) : State := s.log 0x0106 (srcRein s.bridle.holder) (leBytes 6 a)

/-- A write applied to a window, whatever is frozen seen to by each register. -/
def State.applyReg (s : State) (w : RegWindow) (off : Nat) (r : RegRule) (value mask : Word) : State :=
  match w with
  | .unit k u => s.writeUnit k u off value mask
  | .broadcast k => s.writeMembers k (List.range (built k)) off value mask
  | .group k g => s.writeMembers k (s.groupMembers k g) off value mask
  | .groupMask k g =>
    if s.boot.frozen then s
    else { s with groupMask := vmod s.groupMask k fun v => v.set g (r.mix v[g] value mask) }
  | .kindStatus k =>
    let c := value &&& mask
    s.onKind k fun x => { x with
      mismatch := x.mismatch && !c.getLsbD 0, groupEmpty := x.groupEmpty && !c.getLsbD 1
      fencedSkip := x.fencedSkip && !c.getLsbD 2 }
  | .frontEnd => if s.boot.frozen then s else s.setFront off (r.mix (s.frontReg off) value mask)
  | .decode => if s.boot.frozen then s else s.setDecode off (r.mix (s.decodeReg off) value mask)
  | .memory => if s.boot.frozen then s else s.setMemory off (r.mix (s.memoryReg off) value mask)
  | .fabric => s

/-- The kind of a group window whose mask is zero; none for any other window. -/
def State.emptyWindow (s : State) : RegWindow → Option (Fin 4)
  | .group k g => if (s.groupMask[k])[g] = 0 then some k else none
  | _ => none

/-- Whether an access can reach the register space: that of the ROM register script, until it freezes the configuration, and that of
the Rein holding the Bridle (R6, R394, R427). Any other access gives a bus error (log entry 125). -/
def State.reachesRegs (s : State) : Bool := !s.boot.frozen || s.holderActs

/-- A masked write to a register-space address: one to a group window with an empty mask writes nothing, whatever its offset
(R10); another is a bus error where no register is. -/
def State.writeReg (s : State) (a : Nat) (value mask : Word) : State :=
  if !s.reachesRegs then s.answer .busError
  else match locateReg a with
  | none => s.answer .busError
  | some (w, off) => match s.emptyWindow w with
    | some k => (s.emptyGroup k).answer .none
    | none => match w.rule off with
      | none => s.answer .busError
      | some r =>
        let s := (s.applyReg w off r value mask).answer .none
        if s.boot.frozen && r.rw != 0 then s.logFrozen a else s

/-- The address of an offset in the broadcast window of a kind. -/
def broadcastAddr (kind : Fin 4) (off : Nat) : Nat := 0xF0000000000 + kind.val * 0x1000000 + 0x800000 + off % 0x10000

/-- The address of an offset in group window `g` of a kind. -/
def groupAddr (kind : Fin 4) (g : Fin 8) (off : Nat) : Nat :=
  0xF0000000000 + kind.val * 0x1000000 + 0x900000 + g.val * 0x10000 + off % 0x10000

/-- BROADCAST_WRITE (R8). -/
def execBroadcastWrite (kind : Fin 4) (offset : Nat) (value : Word) (t : Nat) (s : State) : Host.Outcome State Fault Refusal :=
  done s ((s.at t).writeReg (broadcastAddr kind offset) value 0xFFFFFFFF)

/-- GROUP_WRITE (R8, R10). -/
def execGroupWrite (kind : Fin 4) (g : Fin 8) (offset : Nat) (value : Word) (t : Nat) (s : State) :
    Host.Outcome State Fault Refusal :=
  done s ((s.at t).writeReg (groupAddr kind g offset) value 0xFFFFFFFF)

/-- BROADCAST_READ (R9). -/
def execBroadcastRead (kind : Fin 4) (offset : Nat) (s : State) : Host.Outcome State Fault Refusal :=
  done s (match s.reachesRegs, unitRule kind offset with
    | true, some _ => s.readMembers kind (List.range (built kind)) offset
    | _, _ => s.answer .busError)

/-- GROUP_READ (R9, R10). -/
def execGroupRead (kind : Fin 4) (g : Fin 8) (offset : Nat) (s : State) : Host.Outcome State Fault Refusal :=
  done s (if !s.reachesRegs then s.answer .busError
    else if (s.groupMask[kind])[g] = 0 then (s.emptyGroup kind).answer (.value 0)
    else match unitRule kind offset with
      | some _ => s.readMembers kind (s.groupMembers kind g) offset
      | none => s.answer .busError)

/-! ## BAR0: reads (R351 to R354, R356, R362, R382, R386, R387, R426, R441, R469) -/

/-- CAPS0. -/
def State.caps0 (s : State) : Nat :=
  7 + ((List.finRange 7).countP fun e => s.engines[e].role == .inService) * 16 + 12 * 256 + 4 * 8192 + 8 * 131072 + 20 * 4194304

/-- BOOT_INFO (R426). -/
def Boot.info (b : Boot) : Nat :=
  b.stopReason.toNat + b.slotA.toNat * 256 + b.slotB.toNat * 4096 + b.timeSource.toNat * 65536

/-- DEV_STATUS (R354). -/
def State.devStatus (s : State) : Nat :=
  let h := s.host
  ((List.finRange 6).map fun p => b2n h.out[p].stalledOut * 2 ^ p.val).sum + b2n h.inStopped * 64 + b2n h.verbOverrun * 128
    + b2n h.partChanged * 256 + b2n h.spoolHigh * 512 + b2n s.power.hold.isSome * 1024 + b2n h.evtNew * 2048

/-- PWR_STATUS (R469). -/
def Power.status (p : Power) : Nat := p.vid.toNat + b2n p.stepping * 32 + p.belowWarn.toNat * 64

/-- THERM_STATUS (R469). -/
def Power.therm (p : Power) : Nat :=
  toCode 8 p.tjMax + p.hottest % 16 * 256 + p.throttle.toNat * 4096 + b2n p.tripSeen * 16384

/-- PAUSE_STATUS (R382). -/
def State.pauseStatus (s : State) : Nat := ((List.finRange 6).map fun p => s.parts[p].paused.toNat * 16 ^ p.val).sum

/-- One half of a 64-bit register: the low word at its offset, the high word 4 above. -/
def word64 (n off : Nat) : Nat := if off % 8 < 4 then n % 4294967296 else n / 4294967296 % 4294967296

/-- The identity area (R353, R426). -/
def State.identWord (s : State) (o : Nat) : Nat :=
  if o = 0 then 0x00365452
  else if o = 4 then 1 + s.otp.stepping.toNat * 16 + b2n s.otp.order * 4096
  else if o = 8 then s.caps0
  else if o = 0xC then 3 + 32 * 65536
  else if o = 0x10 then 0x01000100
  else if o = 0x14 then 0x0100
  else if o = 0x18 then if s.boot.running then s.mem.dataEnd / 1048576 else 0
  else if o = 0x20 ∨ o = 0x24 then word64 s.now o
  else if o = 0x28 ∨ o = 0x2C then word64 s.otp.serial.toNat o
  else if o = 0x30 then b2n s.boot.running + b2n s.boot.bundleSlot * 2
  else if o = 0x34 then s.boot.info
  else 0

/-- The host control area (R354, R469). -/
def State.controlWord (s : State) (o : Nat) : Nat :=
  let h := s.host
  if o = 0x100 then h.recVer.toNat + b2n h.imageExport * 65536
  else if o = 0x104 then h.recVersion.toNat
  else if o = 0x108 then h.pollUs.toNat
  else if o = 0x10C then h.stallMs.toNat
  else if o = 0x110 then s.devStatus
  else if o = 0x118 then ceilDiv h.spoolUsed 1024
  else if o = 0x11C then h.spoolResv / 1024
  else if o = 0x120 then s.boot.limits.spoolBytes / 1024
  else if o = 0x130 then s.power.status
  else if o = 0x134 then s.power.therm
  else if o = 0x138 then s.power.domains.toNat
  else 0

/-- The input ring's area (R356). -/
def InRing.word (r : InRing) (o : Nat) : Nat :=
  if o < 0x208 then word64 r.base.toNat o
  else if o < 0x210 then word64 r.prodAddr.toNat o
  else if o < 0x218 then word64 r.consAddr.toNat o
  else if o = 0x218 then b2n r.en
  else if o = 0x21C then r.entries.toNat
  else if o = 0x220 then b2n r.busy + r.error.toNat * 256
  else if o = 0x224 then r.cons.toNat
  else 0

/-- An output ring's area, at an offset within it (R362). -/
def OutRing.word (r : OutRing) (o : Nat) : Nat :=
  if o < 0x08 then word64 r.base.toNat o
  else if o < 0x10 then word64 r.prodAddr.toNat o
  else if o < 0x18 then word64 r.consAddr.toNat o
  else if o < 0x20 then word64 r.imgBase.toNat o
  else if o = 0x20 then b2n r.en + r.coalRecords.toNat * 256 + r.coalUs.toNat * 65536
  else if o = 0x24 then r.size.toNat
  else if o = 0x28 then r.imgSize.toNat
  else if o = 0x2C then b2n r.en + b2n r.stallStart.isSome * 2 + r.error.toNat * 256
  else if o < 0x38 then word64 r.prod.toNat o
  else word64 r.consSeen.toNat o

/-- The events window (R386). -/
def State.eventWord (s : State) (o : Nat) : Nat :=
  let h := s.host
  if o < 0x1008 then word64 s.stud.produced o
  else if o < 0x1010 then word64 h.evtSelect.toNat o
  else if o = 0x1010 then b2n h.evtValid + b2n h.evtGone * 2
  else if 0x1020 ≤ o ∧ o < 0x1040 then leNat (sliceAt h.evtData (o - 0x1020) 4)
  else 0

/-- The mailbox (R382). -/
def Mailbox.word (b : Mailbox) (o : Nat) : Nat :=
  if o < 0x940 then word64 b.arg[Fin.ofNat 8 ((o - 0x900) / 8)].toNat o
  else if o = 0x944 then b2n b.busy + b2n b.done * 2 + b.result.toNat * 256 + b.seq.toNat * 65536
  else if o = 0x948 ∨ o = 0x94C then word64 b.value.toNat o
  else 0

/-- Counter `c` of unit `u` of the block that begins at a base (R387). -/
def State.counter (s : State) (base u c : Nat) : DWord :=
  match base with
  | 0x2000 => s.host.chip.toList.getD c 0
  | 0x2100 =>
    let x := s.transports[Fin.ofNat 4 u]
    [x.sheets, x.sides, x.coverAborts].getD c 0
  | 0x2180 =>
    let x := s.ports[Fin.ofNat 4 u]
    [x.calFails, x.underrunLines, x.lines, x.illumS].getD c 0
  | 0x2200 =>
    let x := s.decoders[Fin.ofNat 8 u]
    [x.pixels, x.busyNs].getD c 0
  | 0x2280 => s.mem.tagWait.toList.getD u 0
  | 0x2300 => s.mem.channels[Fin.ofNat 12 u].counters.toList.getD c 0
  | 0x2900 => s.engines[Fin.ofNat 7 u].counters.toList.getD c 0
  | 0x3000 => s.streams[Fin.ofNat 64 u].counters.toList.getD c 0
  | _ =>
    let x := s.parts[Fin.ofNat 6 u]
    if c < 16 then x.counters.toList.getD c 0
    else if c < 80 then x.clipSeen.toList.getD (c - 16) 0
    else if c < 144 then x.clipSat.toList.getD (c - 80) 0
    else x.expertLoad.toList.getD (c - 144) 0

/-- The counter blocks: base, units, stride (R387). -/
def counterBlocks : List (Nat × Nat × Nat) :=
  [(0x2000, 1, 32), (0x2100, 4, 4), (0x2180, 4, 4), (0x2200, 8, 2), (0x2280, 12, 1), (0x2300, 12, 16), (0x2900, 7, 32)
  , (0x3000, 64, 16), (0x5000, 6, 256)]

/-- The counter area. -/
def State.counterWord (s : State) (o : Nat) : Nat :=
  match counterBlocks.find? fun b => decide (b.1 ≤ o) && decide (o < b.1 + 8 * b.2.1 * b.2.2) with
  | some (base, _, stride) =>
    let i := (o - base) / 8
    word64 (s.counter base (i / stride) (i % stride)).toNat o
  | none => 0

/-- The MSI-X table (R351). -/
def State.msixWord (s : State) (o : Nat) : Nat :=
  let e := s.host.msix[Fin.ofNat 32 ((o - 0xE000) / 16)]
  if o % 16 < 8 then word64 e.addr.toNat o else if o % 16 = 8 then e.data.toNat else e.ctrl.toNat

/-- The 32-bit word at an aligned offset of BAR0; a reserved offset reads 0. After a boot stop only the identity area and
the events window give data (R426). -/
def State.bar0Word (s : State) (o : Nat) : Nat :=
  if o < 0x100 then s.identWord o
  else if 0x1000 ≤ o ∧ o < 0x1040 then s.eventWord o
  else if s.boot.stopped then 0
  else if o < 0x200 then s.controlWord o
  else if o < 0x240 then s.host.inRing.word o
  else if 0x400 ≤ o ∧ o < 0x580 then s.host.out[Fin.ofNat 6 ((o - 0x400) / 64)].word (o % 64)
  else if 0x800 ≤ o ∧ o < 0x830 then
    let p : Fin 6 := Fin.ofNat 6 ((o - 0x800) / 8)
    if o % 8 = 0 then (s.partStatus p).toNat else s.parts[p].lWorst.toNat
  else if o = 0x830 then s.pauseStatus
  else if 0x900 ≤ o ∧ o < 0x950 then s.host.box.word o
  else if 0x2000 ≤ o ∧ o < 0x8000 then s.counterWord o
  else if 0xE000 ≤ o ∧ o < 0xE200 then s.msixWord o
  else if o = 0xF000 then s.host.pba.toNat
  else 0

/-- Whether BAR0 accepts an access: 4 bytes at 4-byte alignment, 8 bytes at 8-byte alignment (R352). -/
def accessOk (offset size : Nat) : Bool :=
  ((size == 4 && offset % 4 == 0) || (size == 8 && offset % 8 == 0)) && decide (offset < 0x10000)

/-- What a read of BAR0 gives. -/
def State.bar0Read (s : State) (offset size : Nat) : BusReply :=
  if !accessOk offset size then .unsupported
  else if size = 4 then .value (BitVec.ofNat 64 (s.bar0Word offset))
  else .value (BitVec.ofNat 64 (s.bar0Word offset + s.bar0Word (offset + 4) * 4294967296))

/-! ## BAR0: writes (R352) -/

/-- One half of a 64-bit register replaced. -/
def setHalf (old : DWord) (off : Nat) (v : Word) : DWord :=
  if off % 8 < 4 then BitVec.ofNat 64 (old.toNat / 4294967296 * 4294967296 + v.toNat)
  else BitVec.ofNat 64 (old.toNat % 4294967296 + v.toNat * 4294967296)

/-- Whether any ring is enabled. -/
def State.ringOn (s : State) : Bool := s.host.inRing.en || (List.finRange 6).any fun p => s.host.out[p].en

/-- A write of the host control area (R354): out of range, or of HOST_CAPS while a ring is enabled, is ignored. -/
def State.writeControl (s : State) (o : Nat) (v : Word) : State :=
  let h := s.host
  if o = 0x100 then
    if s.ringOn then s else { s with host := { h with recVer := v.setWidth 16, imageExport := v.getLsbD 16 } }
  else if o = 0x108 then
    let us := v.toNat % 1024
    if 1 ≤ us ∧ us ≤ 1000 then { s with host := { h with pollUs := BitVec.ofNat 10 us } } else s
  else if o = 0x10C then
    let ms := v.toNat % 65536
    if 1 ≤ ms ∧ ms ≤ 60000 then { s with host := { h with stallMs := BitVec.ofNat 16 ms } } else s
  else if o = 0x110 then
    { s with host := { h with
      verbOverrun := h.verbOverrun && !v.getLsbD 7, partChanged := h.partChanged && !v.getLsbD 8
      evtNew := h.evtNew && !v.getLsbD 11 } }
  else if o = 0x128 then hostTimeEffect (v.setWidth 64) s
  else if o = 0x12C then hostTimeEffect (v.setWidth 64 <<< 32) s
  else s

/-- A write of the input ring's area (R356). -/
def State.writeIn (s : State) (o : Nat) (v : Word) : State :=
  if o < 0x208 then s.onIn fun r => { r with base := setHalf r.base o v }
  else if o < 0x210 then s.onIn fun r => { r with prodAddr := setHalf r.prodAddr o v }
  else if o < 0x218 then s.onIn fun r => { r with consAddr := setHalf r.consAddr o v }
  else if o = 0x218 then if v.getLsbD 0 then inEnableEffect s else inDisableEffect s
  else if o = 0x21C then s.onIn fun r => { r with entries := v.setWidth 17 }
  else s

/-- A write of an output ring's area, at an offset within it (R362, R363). -/
def State.writeOut (s : State) (p : Fin 6) (o : Nat) (v : Word) : State :=
  if o < 0x08 then s.onOut p fun r => { r with base := setHalf r.base o v }
  else if o < 0x10 then s.onOut p fun r => { r with prodAddr := setHalf r.prodAddr o v }
  else if o < 0x18 then s.onOut p fun r => { r with consAddr := setHalf r.consAddr o v }
  else if o < 0x20 then s.onOut p fun r => { r with imgBase := setHalf r.imgBase o v }
  else if o = 0x20 then
    let recs : Byte := v.extractLsb' 8 8
    let us : Half := v.extractLsb' 16 16
    if v.getLsbD 0 then outEnableEffect p recs us s
    else outDisableEffect p (s.onOut p fun r => { r with coalRecords := recs, coalUs := us })
  else if o = 0x24 then s.onOut p fun r => { r with size := v.setWidth 21 }
  else if o = 0x28 then s.onOut p fun r => { r with imgSize := v.setWidth 16 }
  else s

/-- A write of VERB_CMD. One that starts STAGE_RECIPE carries the image that the verb
fetches from host memory and is the row of that name; here it starts nothing. -/
def State.writeVerb (s : State) (v : Word) : State :=
  let seq : Half := v.extractLsb' 16 16
  match v.toNat % 256 with
  | 1 => s.startVerb seq pauseVerb
  | 2 => s.startVerb seq resumeVerb
  | 3 => s.startVerb seq selectVerb
  | 4 => if s.host.box.busy then s.startVerb seq id else s
  | 5 => s.startVerb seq activateVerb
  | 6 => s.startVerb seq deactivateVerb
  | 7 => s.startVerb seq attestVerb
  | _ => s.startVerb seq fun s => s.failVerb rvUnknown

/-- A write of an MSI-X entry. Only the mask bit of its control word is kept, and an entry unmasked while it pends is
signalled and its pending bit cleared, as PCI Express has it (PRESUMED, log entry 10). -/
def State.writeMsix (s : State) (o : Nat) (v : Word) : State :=
  let n : Fin 32 := Fin.ofNat 32 ((o - 0xE000) / 16)
  let set (f : MsixEntry → MsixEntry) : State := { s with host := { s.host with msix := vmod s.host.msix n f } }
  if o % 16 < 8 then set fun e => { e with addr := setHalf e.addr o v }
  else if o % 16 = 8 then set fun e => { e with data := v }
  else
    let s := set fun e => { e with ctrl := v &&& 1 }
    if !v.getLsbD 0 && s.host.pba.getLsbD n.val then
      ({ s with host := { s.host with pba := s.host.pba &&& ~~~((1 : Word) <<< n.val) } }).signal n
    else s

/-- A 4-byte write of BAR0; reserved and read-only offsets ignore it. -/
def State.writeBar (s : State) (o : Nat) (v : Word) : State :=
  if 0x100 ≤ o ∧ o < 0x200 then s.writeControl o v
  else if 0x200 ≤ o ∧ o < 0x240 then s.writeIn o v
  else if 0x400 ≤ o ∧ o < 0x580 then s.writeOut (Fin.ofNat 6 ((o - 0x400) / 64)) (o % 64) v
  else if 0x900 ≤ o ∧ o < 0x940 then
    s.onBox fun b => { b with arg := vmod b.arg (Fin.ofNat 8 ((o - 0x900) / 8)) fun a => setHalf a o v }
  else if o = 0x940 then s.writeVerb v
  else if o = 0x1008 ∨ o = 0x100C then evtSelectEffect (setHalf s.host.evtSelect o v) s
  else if 0xE000 ≤ o ∧ o < 0xE200 then s.writeMsix o v
  else s

/-- An access of BAR0 that writes: an unaccepted access completes with Unsupported Request; an 8-byte write of a 64-bit
register with an effect has it once, and any other 8-byte write is that of its two words. -/
def State.bar0Write (s : State) (offset size : Nat) (v : DWord) : State :=
  if !s.host.linkUp then s
  else if !accessOk offset size then s.answer .unsupported
  else
    let s := s.answer .none
    if !s.hostWrites then s
    else if size = 4 then s.writeBar offset (v.setWidth 32)
    else if offset = 0x128 then hostTimeEffect v s
    else if offset = 0x1008 then evtSelectEffect v s
    else (s.writeBar offset (v.setWidth 32)).writeBar (offset + 4) (v.extractLsb' 32 32)

/-- REGISTER_WRITE: a write of the ROM script or the Rein to a device address (R6), or of the host to BAR0 (R352). -/
def execRegisterWrite (path : RegPath) (value : DWord) (t : Nat) (s : State) : Host.Outcome State Fault Refusal :=
  done s (match path with
    | .dev a => (s.at t).writeReg a (value.setWidth 32) 0xFFFFFFFF
    | .bar0 o size => (s.at t).bar0Write o size value)

/-! ## Entries of the register script (R427) -/

/-- Whether a script entry with these fields can be run: an address where a register is, no 1 in a reserved bit, and no
write to a read-only field. A WRITE names every field of its register. -/
def scriptWriteOk (a : Nat) (value mask : Word) : Bool :=
  a % 4 == 0 && (match locateReg a with
    | none => false
    | some (w, off) => match w.rule off with
      | none => false
      | some r => (value &&& mask) &&& ~~~(BitVec.ofNat 32 (r.rw ||| r.w1c ||| r.ro)) == 0
        && mask &&& BitVec.ofNat 32 r.ro == 0)

/-- A script write: once the configuration is frozen an attempt is ignored. -/
def scriptEffect (a : Nat) (value mask : Word) (s : State) : State :=
  if scriptWriteOk a value mask then s.writeReg a value mask else s

/-- SCRIPT_WRITE (R427). -/
def execScriptWrite (addr : Nat) (value : Word) (t : Nat) (s : State) : Host.Outcome State Fault Refusal :=
  done s (scriptEffect addr value 0xFFFFFFFF (s.at t))

/-- SCRIPT_WRITE_MASKED (R427). -/
def execScriptWriteMasked (addr : Nat) (value mask : Word) (t : Nat) (s : State) : Host.Outcome State Fault Refusal :=
  done s (scriptEffect addr value mask (s.at t))

/-- The script held for a delay. -/
def delayEffect (micros : Nat) (s : State) : State :=
  if 1 ≤ micros ∧ micros ≤ 10000 then
    { s with now := s.now + micros * 1000, boot := { s.boot with scriptWait := s.boot.scriptWait + micros * 1000 } }
  else s

/-- SCRIPT_DELAY (R427): the boot lengthens by the delay. -/
def execScriptDelay (micros : Nat) (t : Nat) (s : State) : Host.Outcome State Fault Refusal :=
  done s (delayEffect micros (s.at t))

end Sys2Proof.Machine
end

