-- ==== Sys2Proof/Machine/Bundle.lean ====
section
/-!
DEFINITION. The boot bundle: its sections as read, the checks of R423, and the choice of a slot (14, R420 to R424, R427).
-/
namespace Sys2Proof.Machine

/-! ## Sections (R421, R422) -/

/-- Where bundle slot `n` begins in NOR (R417). -/
def slotBase (n : Nat) : Nat := n * 0x400000

/-- Offset of section `k` of a bundle. -/
def bundleOff (b : List Byte) (k : Nat) : Nat := leAt b (96 + 8 * k) 4

/-- Length of section `k`; 0 when it is absent. -/
def bundleLen (b : List Byte) (k : Nat) : Nat := leAt b (100 + 8 * k) 4

/-- The bytes of section `k`. -/
def bundleSec (b : List Byte) (k : Nat) : List Byte := (b.drop (bundleOff b k)).take (bundleLen b k)

/-- Sections by number. -/
abbrev secScript := 0
/-- PLANS. -/ abbrev secPlans := 1
/-- LIMITS. -/ abbrev secLimits := 2
/-- RECIPE_TABLE. -/ abbrev secTable := 3
/-- SLOT_PLANS. -/ abbrev secSlotPlans := 4
/-- KEY_ROTATE. -/ abbrev secRotate := 5

/-- An entry of the register script: operation, address, value, mask (R427). -/
structure ScriptEntry where
  op    : Nat
  addr  : Nat
  high  : Nat
  value : Word
  mask  : Word
  deriving DecidableEq, Repr

/-- The entries of a script section. `n` counts those left. -/
def scriptEntries : Nat → List Byte → List ScriptEntry
  | 0, _ => []
  | n + 1, b =>
    let w := leAt b 0 8
    ⟨bits w 0 8, bits w 8 44, bits w 52 12, BitVec.ofNat 32 (leAt b 8 4), BitVec.ofNat 32 (leAt b 12 4)⟩ ::
      scriptEntries n (b.drop 16)

/-- Whether an entry passes the checks of R427. -/
def ScriptEntry.ok (e : ScriptEntry) : Bool :=
  e.high == 0 && (match e.op with
    | 1 => e.mask == 0 && scriptWriteOk e.addr e.value 0xFFFFFFFF
    | 2 => scriptWriteOk e.addr e.value e.mask
    | 3 => e.addr == 0 && e.mask == 0 && within 1 10000 e.value.toNat
    | _ => false)

/-- The script of a bundle. -/
def bundleScript (b : List Byte) : List ScriptEntry :=
  let sec := bundleSec b secScript
  scriptEntries (leAt sec 0 4) (sec.drop 8)

/-- Whether the script section keeps its layout and every entry passes. -/
def scriptOk (b : List Byte) : Bool :=
  let sec := bundleSec b secScript
  let n := leAt sec 0 4
  within 1 16384 n && sec.length == 8 + 16 * n && zeroAt sec 4 4 && (bundleScript b).all ScriptEntry.ok

/-- A partition descriptor as its 128 bytes give it (R257). -/
def partDescOf (b : List Byte) : PartDesc where
  verMajor := leAt b 0 1
  verMinor := leAt b 1 1
  part := leAt b 2 1
  engines := leAt b 3 1
  mode := leAt b 4 1
  gaits := bits (leAt b 5 1) 0 4
  shadow := leAt b 6 1
  ports := bits (leAt b 7 1) 0 4
  wCanter := leAt b 8 1
  wTrot := leAt b 9 1
  wWalk := leAt b 10 1
  tagQuota := leAt b 11 1
  maxBatch := leAt b 12 2
  maxContexts := leAt b 16 4
  bwMin := leAt b 20 4
  recipes := (List.range 4).map fun g => leAt b (24 + g) 1
  captureBase := bits (leAt b 32 8) 0 44
  captureFrames := leAt b 40 4
  kvBase := bits (leAt b 48 8) 0 44
  kvFrames := leAt b 56 4
  workBase := bits (leAt b 64 8) 0 44
  workFrames := leAt b 72 4
  paddockDyn := leAt b 80 4
  arenaDyn := leAt b 84 4
  slotPlan := leAt b 88 8
  reservedZero := bits (leAt b 5 1) 4 4 == 0 && bits (leAt b 7 1) 4 4 == 0 && zeroAt b 14 2 && zeroAt b 28 4
    && bits (leAt b 32 8) 44 20 == 0 && zeroAt b 44 4 && bits (leAt b 48 8) 44 20 == 0 && zeroAt b 60 4
    && bits (leAt b 64 8) 44 20 == 0 && zeroAt b 76 4 && zeroAt b 96 32

/-- The plans of a bundle: descriptor `p` of plan `i` at 8 + 768 i + 128 p; 128 zero bytes name no partition. -/
def bundlePlans (b : List Byte) : List (List (Option PartDesc)) :=
  let sec := bundleSec b secPlans
  (List.range (leAt sec 0 1)).map fun i => (List.range 6).map fun p =>
    let d := sliceAt sec (8 + 768 * i + 128 * p) 128
    if d.all (· == 0) then none else some (partDescOf d)

/-- The slot plan at an offset of a bundle, when it lies in the SLOT_PLANS section, 8-byte aligned (R306). -/
def slotPlanAt (b : List Byte) (off : Nat) : Option SlotPlan :=
  let lo := bundleOff b secSlotPlans
  let hi := lo + bundleLen b secSlotPlans
  let n := leAt b (off + 5) 1
  if off % 8 = 0 ∧ lo ≤ off ∧ off + 16 + 256 * n ≤ hi then
    some ⟨off, leAt b off 1, leAt b (off + 1) 1, leAt b (off + 2) 1, leAt b (off + 3) 1, leAt b (off + 4) 1, n
    , zeroAt b (off + 6) 10, (List.range (64 * n)).map fun i => BitVec.ofNat 32 (leAt b (off + 16 + 4 * i) 4)⟩
  else none

/-- The slot plans that the descriptors of a bundle name. -/
def bundleSlotPlans (b : List Byte) : List SlotPlan :=
  let named := ((bundlePlans b).flatMap fun p => p.filterMap fun d => d.map (·.slotPlan)).eraseDups
  (named.filter fun n => n != 0).filterMap (slotPlanAt b)

/-- The limits block (R422). -/
def limitsOf (l : List Byte) : Limits where
  ctxTableBase := leAt l 8 8
  gallopReserve := leAt l 16 4
  hostAdmitMin := leAt l 20 2
  spoolBase := leAt l 24 8
  spoolBytes := leAt l 32 8
  sideReserve := leAt l 40 4
  inputStageBase := leAt l 48 8
  inputStageBytes := leAt l 56 4
  stageBase := leAt l 64 8
  stageBytes := leAt l 72 4
  shadowBase := leAt l 80 4
  shadowBytes := leAt l 84 4
  arenaBase := (List.range 6).map fun p => leAt l (88 + 4 * p) 4
  arenaBytes := (List.range 6).map fun p => leAt l (112 + 4 * p) 4
  rtcKind := leAt l 136 1
  rtcAddr := leAt l 137 1
  rtcReg := leAt l 138 1

/-- Whether an arena area that is not empty lies where R342 has it. -/
def arenaAreaOk (base size : Nat) : Bool :=
  size % 65536 == 0 && (size == 0 || (base % 65536 == 0 && decide (0x200000 ≤ base) && decide (base + size ≤ 0x4000000)))

/-- One MiB. -/
def mib : Nat := 1048576

/-- Whether the fields of the limits block lie in their ranges (R269, R369, R342, R422). -/
def Limits.ok (l : Limits) : Bool :=
  l.ctxTableBase % (64 * mib) == 0 && decide (l.gallopReserve ≤ 1048576) && within 1 1024 l.hostAdmitMin
    && l.spoolBase % 65536 == 0 && l.spoolBytes % (64 * mib) == 0 && within (64 * mib) (4096 * mib) l.spoolBytes
    && l.sideReserve % 65536 == 0 && within 65536 (16 * mib) l.sideReserve
    && l.inputStageBase % 65536 == 0 && within (16 * mib) (1024 * mib) l.inputStageBytes
    && l.stageBase % 65536 == 0 && decide (l.stageBytes ≤ 1024 * mib)
    && arenaAreaOk l.shadowBase l.shadowBytes && ((l.arenaBase.zip l.arenaBytes).all fun x => arenaAreaOk x.1 x.2)
    && decide (l.rtcKind ≤ 1) && decide (l.rtcAddr ≤ 127)

/-- Whether the LIMITS section keeps its layout. -/
def limitsOk (b : List Byte) : Bool :=
  let l := bundleSec b secLimits
  l.length == 256 && leAt l 0 1 == 1 && leAt l 1 1 == 0 && zeroAt l 2 6 && zeroAt l 22 2 && zeroAt l 44 4 && zeroAt l 60 4
    && zeroAt l 76 4 && zeroAt l 139 117 && (limitsOf l).ok

/-- The recipe table of a bundle. -/
def bundleExtents (b : List Byte) : List RecipeExtent :=
  let t := bundleSec b secTable
  (List.range 16).map fun i => ⟨leAt t (32 * i) 1 == 1, leAt t (32 * i + 4) 4, leAt t (32 * i + 8) 8, leAt t (32 * i + 16) 8⟩

/-- Whether the RECIPE_TABLE keeps its layout and its extents lie apart in the recipe store of a device of `size` bytes. -/
def tableOk (b : List Byte) (size : Nat) : Bool :=
  let t := bundleSec b secTable
  let used := (bundleExtents b).filter (·.used)
  let spans : List Span := used.flatMap fun e => [(e.copy0, e.bytes), (e.copy1, e.bytes)]
  t.length == 512
    && ((List.range 16).all fun i => decide (leAt t (32 * i) 1 ≤ 1) && zeroAt t (32 * i + 1) 3 && zeroAt t (32 * i + 24) 8
      && leAt t (32 * i + 4) 4 % 65536 == 0)
    && (spans.all fun x => x.1 % 65536 == 0 && decide (recipeStore ≤ x.1) && decide (x.1 + x.2 ≤ size))
    && spansApart spans

/-- Whether the KEY_ROTATE section, when present, keeps its layout. -/
def rotateOk (b : List Byte) : Bool :=
  let k := bundleSec b secRotate
  bundleLen b secRotate == 0 || (k.length == 64 && zeroAt k 57 7)

/-- Whether the PLANS section keeps its layout. -/
def plansOk (b : List Byte) : Bool :=
  let p := bundleSec b secPlans
  within 1 8 (leAt p 0 1) && p.length == 8 + 768 * leAt p 0 1 && zeroAt p 1 7

/-! ## The checks of a slot (R423) -/

/-- LENGTH of a bundle. -/
def bundleLength (b : List Byte) : Nat := leAt b 8 4

/-- Whether the sections lie apart, and clear of the header and the signature block. -/
def bundleSpansOk (b : List Byte) : Bool :=
  let present := (List.range 6).filter fun k => bundleLen b k != 0
  let spans : List Span := present.map fun k => (bundleOff b k, bundleLen b k)
  (spans.all fun x => decide (192 ≤ x.1) && decide (x.1 + x.2 ≤ bundleLength b - 120)) && spansApart spans

/-- Whether a bundle's header keeps its layout and ranges. -/
def bundleHeaderOk (b : List Byte) : Bool :=
  b.take 4 == ascii "DNNO" && bundleLength b % 8 == 0 && within 512 4194304 (bundleLength b)
    && zeroAt b 6 2 && decide (leAt b 12 4 ≤ 64) && decide (leAt b 24 1 ≤ 3) && bits (leAt b 25 1) 2 6 == 0
    && bits (leAt b 26 1) 4 4 == 0 && zeroAt b 27 5 && zeroAt b 89 7 && zeroAt b 144 48

/-- Whether the whole of a bundle keeps its format. -/
def bundleFormatOk (b : List Byte) (size : Nat) : Bool :=
  bundleHeaderOk b && zeroAt b (bundleLength b - 6) 6 && bundleSpansOk b
    && bundleLen b secScript != 0 && bundleLen b secPlans != 0 && bundleLen b secLimits != 0 && bundleLen b secTable != 0
    && plansOk b && limitsOk b && tableOk b size && rotateOk b && bundleOff b secSlotPlans % 8 == 0 && scriptOk b

/-- OWNER_KEY of a bundle. -/
def bundleKeyOf (b : List Byte) : List Byte := sliceAt b 32 57

/-- Whether a bundle provisions the part: OWNER_KEY_HASH0 is blank and PROVISION is set (R420). -/
def State.provisions (s : State) (b : List Byte) : Bool := s.otp.ownerKeys.getD 0 [] == [] && bit (leAt b 25 1) 1

/-- Whether a bundle's key is fused and unrevoked, or is being provisioned. -/
def State.bundleKeyOk (s : State) (b : List Byte) : Bool :=
  s.provisions b || (s.otp.ownerKeys.getD (leAt b 24 1) [] == digest (bundleKeyOf b) && !s.otp.revoked.getLsbD (leAt b 24 1))

/-- Whether a bundle's signature verifies. -/
def bundleSigned (b : List Byte) : Bool :=
  let n := bundleLength b
  Ed448.verify (bundleKeyOf b) (ascii "RT6-DUNENO-v1") (digest (b.take (n - 120))) (sliceAt b (n - 120) 114)

/-- The bytes of a bundle slot: its header, then the whole of it when the LENGTH is one that a bundle can have. -/
def State.slotBundle (s : State) (n : Nat) : List Byte :=
  let head := s.norBytes (slotBase n) 192
  let len := bundleLength head
  if within 512 4194304 len then s.norBytes (slotBase n) len else head

/-- The result of a slot: 0 when it is valid, otherwise the code of R423. -/
def State.slotResult (s : State) (n : Nat) : Nat :=
  if s.norBytes (slotBase n) 4 == [0xFF, 0xFF, 0xFF, 0xFF] then 1
  else
    let b := s.slotBundle n
    if !bundleFormatOk b (s.norMiB * mib) then 2
    else if leAt b 4 1 ≠ 1 ∨ leAt b 5 1 ≠ 0 then 3
    else if !s.bundleKeyOk b then 4
    else if !bundleSigned b then 5
    else if leAt b 12 4 < s.otp.bundleSvn then 6
    else 0

/-- The slot chosen of the valid ones: the higher SVN, then the higher SEQ, on a tie slot A. -/
def State.chooseSlot (s : State) (a b : Nat) : Option Nat :=
  if a = 0 ∧ b = 0 then
    let x := s.slotBundle 0
    let y := s.slotBundle 1
    let less := leAt x 12 4 < leAt y 12 4 ∨ (leAt x 12 4 = leAt y 12 4 ∧ leAt x 16 8 < leAt y 16 8)
    some (if less then 1 else 0)
  else if a = 0 then some 0
  else if b = 0 then some 1
  else none

/-- What a chosen bundle sets: its identity, keys, plans, limits and recipe extents. A bundle that is provisioned counts its
key in slot 0 (R420). -/
def State.applyBundle (s : State) (n : Nat) : State :=
  let b := s.slotBundle n
  let provision := s.provisions b
  { s with boot := { s.boot with
    bundleSlot := n == 1
    svn := leAt b 12 4
    advance := bit (leAt b 25 1) 0
    provision := provision
    bundleKey := bundleKeyOf b
    keyIndex := if provision then 0 else leAt b 24 1
    rotateKey := if bundleLen b secRotate = 0 ∨ provision then none else some (sliceAt (bundleSec b secRotate) 0 57)
    revokeMask := BitVec.ofNat 4 (leAt b 26 1)
    bundleDigest := digest b
    bundleSeq := BitVec.ofNat 64 (leAt b 16 8)
    planCount := leAt (bundleSec b secPlans) 0 1
    plans := bundlePlans b
    slotPlans := bundleSlotPlans b
    limits := limitsOf (bundleSec b secLimits)
    extents := bundleExtents b } }

/-- The register script run, and the configuration frozen (R427). -/
def State.runScript (s : State) (l : List ScriptEntry) : State :=
  let s := l.foldl (fun (s : State) (e : ScriptEntry) => match e.op with
    | 1 => s.writeReg e.addr e.value 0xFFFFFFFF
    | 2 => s.writeReg e.addr e.value e.mask
    | _ => delayEffect e.value.toNat s) s
  { s with boot := { s.boot with frozen := true } }

end Sys2Proof.Machine
end

