-- ==== Sys2Proof/Machine/Codes.lean ====
section
/-!
DEFINITION. Reading coded bits: the streams that the decoders take apart bit by bit, prefix codes given by the lengths of their code
words, and the raw DEFLATE of the raster wrapper (03_input_decode.md, R82, R84, R85, R92).
-/
namespace Sys2Proof.Machine

/-! ## Streams of bits -/

/-- Why a payload cannot be decoded (R91, R92). -/
inductive StreamFault where
  | short          -- the payload, or an end marker, comes before the declared extent is filled
  | bad            -- a syntax violation
  | unsupported    -- a feature that the decoder refuses
  deriving DecidableEq, Repr

/-- A reader of bits. -/
abbrev BitReader := StateT (List Bool) (Except StreamFault)

/-- The bits of bytes, the least significant of each first. -/
def bitsLsb (b : List Byte) : List Bool := b.flatMap fun x => (List.range 8).map fun i => x.getLsbD i

/-- The bits of bytes, the most significant of each first. -/
def bitsMsb (b : List Byte) : List Bool := b.flatMap fun x => (List.range 8).map fun i => x.getLsbD (7 - i)

/-- The next bit. -/
def oneBit : BitReader Bool := fun l => match l with
  | [] => .error .short
  | b :: rest => .ok (b, rest)

/-- A number of `n` bits, the least significant first. -/
def lowFirst : Nat → BitReader Nat
  | 0 => pure 0
  | n + 1 => do
    let b ← oneBit
    let v ← lowFirst n
    return b2n b + 2 * v

/-- A number of `n` bits, the most significant first, put after those of `v`. -/
def highFirst (v : Nat) : Nat → BitReader Nat
  | 0 => pure v
  | n + 1 => do
    let b ← oneBit
    highFirst (2 * v + b2n b) n

/-- Bits passed over. -/
def skipBits : Nat → BitReader Unit
  | 0 => pure ()
  | n + 1 => do
    let _ ← oneBit
    skipBits n

/-! ## Prefix codes -/

/-- A prefix code: how many code words each length from 1 on has, and the symbols in the order of their code words. Code words of a
length follow one another, and a longer one begins where the shorter ones end. -/
structure PrefixCode where
  counts  : List Nat
  symbols : List Nat
  deriving DecidableEq, Repr

/-- The code in which symbol `i` has a code word of the `i`-th length, none for 0; symbols of one length in ascending order. -/
def codeOfLengths (most : Nat) (lengths : List Nat) : PrefixCode where
  counts := (List.range most).map fun n => lengths.countP (· == n + 1)
  symbols := (List.range most).flatMap fun n => (lengths.zipIdx.filter fun x => x.1 == n + 1).map (·.2)

/-- Code words left after those of each length are taken; none where there are more than the length has room for. -/
def codeRoom : List Nat → Nat → Option Nat
  | [], room => some room
  | c :: rest, room => if c ≤ 2 * room then codeRoom rest (2 * room - c) else none

/-- Whether no length has more code words than fit. -/
def PrefixCode.fits (c : PrefixCode) : Bool := (codeRoom c.counts 1).isSome

/-- The symbol of the code word that comes next: `code` are its bits so far, `first` the first code word of the length, `index` the
symbols of shorter ones. -/
def symbolFrom (symbols : List Nat) : List Nat → Nat → Nat → Nat → BitReader Nat
  | [], _, _, _ => throw .bad
  | c :: rest, code, first, index => do
    let b ← oneBit
    let code := 2 * code + b2n b
    if code < 2 * first + c then return symbols.getD (index + (code - 2 * first)) 0
    else symbolFrom symbols rest code (2 * first + c) (index + c)

/-- The next symbol of a code. -/
def PrefixCode.next (c : PrefixCode) : BitReader Nat := symbolFrom c.symbols c.counts 0 0 0

/-! ## DEFLATE (R85; RFC 1951, log entry 109) -/

/-- The base length and the extra bits of length code 257 + `i`. -/
def lengthCode (i : Nat) : Nat × Nat :=
  if i < 8 then (3 + i, 0) else if i = 28 then (258, 0)
  else (3 + (4 + i % 4) * 2 ^ (i / 4 - 1), i / 4 - 1)

/-- The base distance and the extra bits of a distance code. -/
def distanceCode (i : Nat) : Nat × Nat :=
  if i < 4 then (1 + i, 0) else (1 + (2 + i % 2) * 2 ^ (i / 2 - 1), i / 2 - 1)

/-- `n` bytes copied from `d` bytes back; the output is held with its last byte first. -/
def copyBack (d : Nat) : Nat → List Byte → List Byte
  | 0, out => out
  | n + 1, out => copyBack d n (out.getD (d - 1) 0 :: out)

/-- The symbols of a compressed block, until its end or until `want` bytes are out. `fuel` bounds them. -/
def inflateSymbols (lit dist : PrefixCode) (want : Nat) : Nat → List Byte → BitReader (List Byte)
  | 0, out => pure out
  | fuel + 1, out =>
    if out.length ≥ want then pure out
    else do
      let v ← lit.next
      if v < 256 then inflateSymbols lit dist want fuel (BitVec.ofNat 8 v :: out)
      else if v = 256 then pure out
      else if v > 285 then throw .bad
      else
        let (base, extra) := lengthCode (v - 257)
        let more ← lowFirst extra
        let c ← dist.next
        if c > 29 then throw .bad
        else
          let (dbase, dextra) := distanceCode c
          let dmore ← lowFirst dextra
          let d := dbase + dmore
          if d > out.length then throw .bad
          else inflateSymbols lit dist want fuel (copyBack d (base + more) out)

/-- The bytes of a stored block. -/
def storedBytes : Nat → List Byte → BitReader (List Byte)
  | 0, out => pure out
  | n + 1, out => do
    let v ← lowFirst 8
    storedBytes n (BitVec.ofNat 8 v :: out)

/-- A stored block: from the next byte boundary LEN, its complement, and LEN bytes, of which no more are taken than `want` needs. -/
def inflateStored (want : Nat) (out : List Byte) : BitReader (List Byte) := do
  let l ← get
  skipBits (l.length % 8)
  let n ← lowFirst 16
  let inv ← lowFirst 16
  if n + inv ≠ 65535 then throw .bad
  else storedBytes (min n (want - out.length)) out

/-- The code lengths of a dynamic block, `n` of them, by the code of code lengths. `fuel` bounds the symbols. -/
def codeLengths (c : PrefixCode) (n : Nat) : Nat → List Nat → BitReader (List Nat)
  | 0, l => pure l
  | fuel + 1, l =>
    if l.length ≥ n then (if l.length = n then pure l else throw .bad)
    else do
      let v ← c.next
      if v < 16 then codeLengths c n fuel (l ++ [v])
      else if v = 16 then
        let k ← lowFirst 2
        match l.getLast? with
        | some x => codeLengths c n fuel (l ++ List.replicate (3 + k) x)
        | none => throw .bad
      else
        let k ← lowFirst (if v = 17 then 3 else 7)
        codeLengths c n fuel (l ++ List.replicate ((if v = 17 then 3 else 11) + k) 0)

/-- The order in which the lengths of the code-length code come. -/
def lengthOrder : List Nat := [16, 17, 18, 0, 8, 7, 9, 6, 10, 5, 11, 4, 12, 3, 13, 2, 14, 1, 15]

/-- Numbers of three bits. -/
def triples : Nat → BitReader (List Nat)
  | 0 => pure []
  | n + 1 => do
    let v ← lowFirst 3
    let rest ← triples n
    return v :: rest

/-- The codes of a dynamic block. -/
def dynamicCodes : BitReader (PrefixCode × PrefixCode) := do
  let hlit ← lowFirst 5
  let hdist ← lowFirst 5
  let hclen ← lowFirst 4
  let raw ← triples (hclen + 4)
  let lens := (List.range 19).map fun i => ((lengthOrder.zip raw).find? fun x => x.1 == i).elim 0 (·.2)
  let c := codeOfLengths 7 lens
  if hlit > 29 ∨ hdist > 29 ∨ !c.fits then throw .bad
  else
    let all ← codeLengths c (hlit + hdist + 258) 320 []
    let lit := codeOfLengths 15 (all.take (hlit + 257))
    let dist := codeOfLengths 15 (all.drop (hlit + 257))
    if all.getD 256 0 = 0 ∨ !lit.fits ∨ !dist.fits then throw .bad else return (lit, dist)

/-- The codes of a fixed block. -/
def fixedCodes : PrefixCode × PrefixCode :=
  (codeOfLengths 15 (List.replicate 144 8 ++ List.replicate 112 9 ++ List.replicate 24 7 ++ List.replicate 8 8)
  , codeOfLengths 15 (List.replicate 32 5))

/-- One block of a kind: 0 stored, 1 with the fixed codes, 2 with codes of its own. -/
def inflateBlock (want kind : Nat) (out : List Byte) : BitReader (List Byte) := do
  let l ← get
  match kind with
  | 0 => inflateStored want out
  | 1 => inflateSymbols fixedCodes.1 fixedCodes.2 want l.length out
  | 2 =>
    let (lit, dist) ← dynamicCodes
    inflateSymbols lit dist want l.length out
  | _ => throw .bad

/-- Blocks until `want` bytes are out; the final block before that leaves the extent unfilled. `fuel` bounds the blocks. -/
def inflateBlocks (want : Nat) : Nat → List Byte → BitReader (List Byte)
  | 0, _ => throw .short
  | fuel + 1, out =>
    if out.length ≥ want then pure out
    else do
      let final ← oneBit
      let kind ← lowFirst 2
      let out ← inflateBlock want kind out
      if final && decide (out.length < want) then throw .short else inflateBlocks want fuel out

/-- The first `want` bytes that a raw DEFLATE stream decompresses to. -/
def inflate (b : List Byte) (want : Nat) : Except StreamFault (List Byte) :=
  match (inflateBlocks want (8 * b.length + 1) []).run (bitsLsb b) with
  | .ok (out, _) => .ok (out.reverse.take want)
  | .error e => .error e

end Sys2Proof.Machine
end

