-- ==== Sys2Proof/Machine/Fax.lean ====
section
/-!
DEFINITION. The two-dimensional coding of ITU-T T.6, without its uncompressed mode (03_input_decode.md, R84; log entry 109).
-/
namespace Sys2Proof.Machine

/-! ## Code words of run lengths -/

/-- Code words of white runs of 0 to 63 pixels, each with its length. -/
def whiteShort : List (Nat × Nat) :=
  [
    (8, 53), (6, 7), (4, 7), (4, 8), (4, 11), (4, 12), (4, 14), (4, 15), (5, 19), (5, 20), (5, 7), (5, 8), (6, 8), (6, 3), (6, 52), (6, 53),
    (6, 42), (6, 43), (7, 39), (7, 12), (7, 8), (7, 23), (7, 3), (7, 4), (7, 40), (7, 43), (7, 19), (7, 36), (7, 24), (8, 2), (8, 3), (8, 26),
    (8, 27), (8, 18), (8, 19), (8, 20), (8, 21), (8, 22), (8, 23), (8, 40), (8, 41), (8, 42), (8, 43), (8, 44), (8, 45), (8, 4), (8, 5),
    (8, 10), (8, 11), (8, 82), (8, 83), (8, 84), (8, 85), (8, 36), (8, 37), (8, 88), (8, 89), (8, 90), (8, 91), (8, 74), (8, 75), (8, 50),
    (8, 51), (8, 52)
  ]

/-- Code words of white runs of 64 to 1,728 pixels, in steps of 64. -/
def whiteLong : List (Nat × Nat) :=
  [
    (5, 27), (5, 18), (6, 23), (7, 55), (8, 54), (8, 55), (8, 100), (8, 101), (8, 104), (8, 103), (9, 204), (9, 205), (9, 210), (9, 211),
    (9, 212), (9, 213), (9, 214), (9, 215), (9, 216), (9, 217), (9, 218), (9, 219), (9, 152), (9, 153), (9, 154), (6, 24), (9, 155)
  ]

/-- Code words of black runs of 0 to 63 pixels. -/
def blackShort : List (Nat × Nat) :=
  [
    (10, 55), (3, 2), (2, 3), (2, 2), (3, 3), (4, 3), (4, 2), (5, 3), (6, 5), (6, 4), (7, 4), (7, 5), (7, 7), (8, 4), (8, 7), (9, 24), (10, 23),
    (10, 24), (10, 8), (11, 103), (11, 104), (11, 108), (11, 55), (11, 40), (11, 23), (11, 24), (12, 202), (12, 203), (12, 204), (12, 205),
    (12, 104), (12, 105), (12, 106), (12, 107), (12, 210), (12, 211), (12, 212), (12, 213), (12, 214), (12, 215), (12, 108), (12, 109),
    (12, 218), (12, 219), (12, 84), (12, 85), (12, 86), (12, 87), (12, 100), (12, 101), (12, 82), (12, 83), (12, 36), (12, 55), (12, 56),
    (12, 39), (12, 40), (12, 88), (12, 89), (12, 43), (12, 44), (12, 90), (12, 102), (12, 103)
  ]

/-- Code words of black runs of 64 to 1,728 pixels, in steps of 64. -/
def blackLong : List (Nat × Nat) :=
  [
    (10, 15), (12, 200), (12, 201), (12, 91), (12, 51), (12, 52), (12, 53), (13, 108), (13, 109), (13, 74), (13, 75), (13, 76), (13, 77),
    (13, 114), (13, 115), (13, 116), (13, 117), (13, 118), (13, 119), (13, 82), (13, 83), (13, 84), (13, 85), (13, 90), (13, 91), (13, 100),
    (13, 101)
  ]

/-- Code words of runs of 1,792 to 2,560 pixels of either colour, in steps of 64. -/
def commonLong : List (Nat × Nat) :=
  [
    (11, 8), (11, 12), (11, 13), (12, 18), (12, 19), (12, 20), (12, 21), (12, 22), (12, 23), (12, 28), (12, 29), (12, 30), (12, 31)
  ]

/-- The run lengths of a colour with their code words. -/
def runTable (black : Bool) : List ((Nat × Nat) × Nat) :=
  (if black then blackShort else whiteShort).zipIdx
    ++ ((if black then blackLong else whiteLong).zipIdx.map fun x => (x.1, 64 * (x.2 + 1)))
    ++ commonLong.zipIdx.map fun x => (x.1, 1792 + 64 * x.2)

/-- The value of the code word that comes next in a table; `len` and `code` are the bits read so far, `fuel` those it may still
have. -/
def wordFrom (table : List ((Nat × Nat) × Nat)) : Nat → Nat → Nat → BitReader Nat
  | 0, _, _ => throw .bad
  | fuel + 1, len, code => do
    let b ← oneBit
    let code := 2 * code + b2n b
    match table.find? fun x => x.1 == (len + 1, code) with
    | some x => return x.2
    | none => wordFrom table fuel (len + 1) code

/-- A run of a colour: code words for multiples of 64 pixels, then one for fewer than 64. `fuel` bounds them. -/
def runLength (black : Bool) : Nat → BitReader Nat
  | 0 => throw .bad
  | fuel + 1 => do
    let n ← wordFrom (runTable black) 13 0 0
    if n < 64 then return n
    else
      let rest ← runLength black fuel
      return n + rest

/-! ## Modes -/

/-- A mode of the two-dimensional coding. -/
inductive FaxMode where
  | pass
  | horizontal
  | vertical (d : Int)
  | extension
  | endOfLine
  deriving DecidableEq, Repr

/-- The modes with their code words. -/
def faxModes : List ((Nat × Nat) × FaxMode) :=
  [ ((1, 1), .vertical 0), ((3, 3), .vertical 1), ((3, 2), .vertical (-1)), ((3, 1), .horizontal), ((4, 1), .pass)
  , ((6, 3), .vertical 2), ((6, 2), .vertical (-2)), ((7, 3), .vertical 3), ((7, 2), .vertical (-3)), ((7, 1), .extension)
  , ((12, 1), .endOfLine) ]

/-- The mode that comes next. -/
def modeFrom : Nat → Nat → Nat → BitReader FaxMode
  | 0, _, _ => throw .bad
  | fuel + 1, len, code => do
    let b ← oneBit
    let code := 2 * code + b2n b
    match faxModes.find? fun x => x.1 == (len + 1, code) with
    | some x => return x.2
    | none => modeFrom fuel (len + 1) code

/-! ## Lines -/

/-- The first changing element of a line from a position on, where the line turns to the colour named; the width when there is none.
Before the line lies a white pixel. -/
def changeFrom (line : List Bool) (black : Bool) (start : Nat) : Nat :=
  let w := line.length
  ((List.range w).find? fun x => decide (start ≤ x) && line.getD x false == black
    && (if x = 0 then false else line.getD (x - 1) false) != black).getD w

/-- A line of `w` pixels decoded against its reference line. `cur` holds the pixels so far, so that a0 is its length; `started` is
false while a0 stands before the first pixel. `fuel` bounds the modes. -/
def faxLine (w : Nat) (ref : List Bool) : Nat → Bool → Bool → List Bool → BitReader (List Bool)
  | 0, _, _, _ => throw .bad
  | fuel + 1, started, black, cur =>
    let a0 := cur.length
    if a0 ≥ w then pure cur
    else do
      let b1 := changeFrom ref (!black) (if started then a0 + 1 else 0)
      match ← modeFrom 12 0 0 with
      | .pass => faxLine w ref fuel true black (cur ++ List.replicate (changeFrom ref black (b1 + 1) - a0) black)
      | .horizontal =>
        let r1 ← runLength black 2048
        let r2 ← runLength (!black) 2048
        if a0 + r1 + r2 > w then throw .bad
        else faxLine w ref fuel true black (cur ++ List.replicate r1 black ++ List.replicate r2 (!black))
      | .vertical d =>
        let a1 : Int := b1 + d
        if a1 > w ∨ a1 < a0 ∨ (started ∧ a1 = a0) then throw .bad
        else faxLine w ref fuel true (!black) (cur ++ List.replicate (a1.toNat - a0) black)
      | .extension =>
        let k ← highFirst 0 3
        if k = 7 then throw .unsupported else throw .bad
      | .endOfLine =>
        if started then throw .bad
        else match ← modeFrom 12 0 0 with
          | .endOfLine => throw .short
          | _ => throw .bad

/-- `n` lines after a reference line. -/
def faxLines (w : Nat) : Nat → List Bool → BitReader (List (List Bool))
  | 0, _ => pure []
  | n + 1, ref => do
    let l ← get
    let line ← faxLine w ref (l.length + 1) false false []
    let rest ← faxLines w n line
    return line :: rest

/-- The lines of a page of an extent; true is black. The first is coded against a white line, and what follows the last is
ignored. -/
def faxPage (b : List Byte) (width height : Nat) : Except StreamFault (List (List Bool)) :=
  match (faxLines width height (List.replicate width false)).run (bitsMsb b) with
  | .ok (lines, _) => .ok lines
  | .error e => .error e

end Sys2Proof.Machine
end

