-- ==== Sys2Proof/Machine/Pixels.lean ====
section
/-!
DEFINITION. The pixel arithmetic of the decoders: JPEG, G4, the raster wrapper and video (03_input_decode.md, R82 to R90).
-/
namespace Sys2Proof.Machine

/-! ## JPEG (R82, R83) -/

/-- One component of a JPEG frame after entropy decoding and dequantisation: sampling factors, blocks per line, and
the 8 x 8 blocks of coefficients F(u,v) in raster order, coefficient (u, v) at index 8v + u (R82, R83). -/
structure JpegComp where
  h      : Nat
  v      : Nat
  blocksPerLine : Nat
  blocks : List (List Int)
  deriving DecidableEq, Repr

/-- cos(k π / 16) for k = 0 to 8, each rounded to FP32. -/
def cosTable : List Word :=
  [0x3F800000, 0x3F7B14BE, 0x3F6C835E, 0x3F54DB31, 0x3F3504F3, 0x3F0E39DA, 0x3EC3EF15, 0x3E47C5C2, 0]

/-- cos(k π / 16) in FP32. -/
def cos16 (k : Nat) : Word :=
  let m := k % 32
  let m := if m > 16 then 32 - m else m
  if m > 8 then fneg (cosTable.getD (16 - m) 0) else cosTable.getD m 0

/-- C(u). -/
def dctScale (u : Nat) (f : Word) : Word := if u = 0 then fmul 0x3F3504F3 f else f

/-- One point of a one-dimensional IDCT of 8 values: the terms summed in ascending u. -/
def idctPoint (f : List Word) (x : Nat) : Word :=
  let sum := (List.range 8).foldl (fun acc u => fadd acc (fmul (dctScale u (f.getD u 0)) (cos16 ((2 * x + 1) * u)))) 0
  fmul sum 0x3F000000

/-- Row `r` of a block of 64 values. -/
def blockRow (b : List Word) (r : Nat) : List Word := (List.range 8).map fun u => b.getD (8 * r + u) 0

/-- A block of coefficients turned into samples: rows, then columns, then the level shift (R83). -/
def idctBlock (coef : List Int) : List Nat :=
  let f := coef.map intToF32
  let rows := (List.range 8).flatMap fun v => (List.range 8).map fun x => idctPoint (blockRow f v) x
  (List.range 8).flatMap fun y => (List.range 8).map fun x =>
    let col := (List.range 8).map fun v => rows.getD (8 * v + x) 0
    (clampI 0 255 (roundF32 (fadd (idctPoint col y) 0x43000000))).toNat

/-- The sample of a component at its own position. -/
def compSample (blocks : List (List Nat)) (perLine x y : Nat) : Nat :=
  (blocks.getD (y / 8 * perLine + x / 8) []).getD (y % 8 * 8 + x % 8) 0

/-- A value held to 0 to 255. -/
def clamp8 (x : Int) : Nat := (clampI 0 255 x).toNat

/-- The RGB of a YCbCr pixel (R83). -/
def ycbcr (y cb cr : Nat) : List Nat :=
  let b : Int := (cb : Int) - 128
  let r : Int := (cr : Int) - 128
  [clamp8 (y + divAway (91881 * r) 65536), clamp8 (y - divAway (22554 * b + 46802 * r) 65536)
  , clamp8 (y + divAway (116130 * b) 65536)]

/-- The rows of a decoded JPEG: GRAY8 of one component, RGB8 of three, chroma replicated. -/
def jpegRows (comps : List JpegComp) (width height : Nat) : List (List Nat) :=
  let hm := (comps.map fun c => c.h).foldl max 1
  let vm := (comps.map fun c => c.v).foldl max 1
  let planes := comps.map fun c => (c, c.blocks.map idctBlock)
  let at_ (k x y : Nat) : Nat := match planes[k]? with
    | some (c, b) => compSample b c.blocksPerLine (x * c.h / hm) (y * c.v / vm)
    | none => 0
  (List.range height).map fun y =>
    if comps.length = 1 then (List.range width).map fun x => at_ 0 x y
    else (List.range width).flatMap fun x => ycbcr (at_ 0 x y) (at_ 1 x y) (at_ 2 x y)

/-! ## G4 (R84) -/

/-- The rows of a decoded G4 page: black 0, white 255. -/
def g4Rows (rows : List (List Bool)) (width height : Nat) : List (List Nat) :=
  (List.range height).map fun y => (List.range width).map fun x => if (rows.getD y []).getD x false then 0 else 255

/-! ## The raster wrapper (R85, R86) -/

/-- The fields of a raster header. -/
structure RasterHead where
  pixfmt   : Nat
  filter   : Nat
  width    : Nat
  height   : Nat
  rowBytes : Nat
  crc      : Nat
  deriving DecidableEq, Repr

/-- The header of a raster payload. -/
def rasterHead (b : List Byte) : RasterHead := ⟨leAt b 6 1, leAt b 7 1, leAt b 8 4, leAt b 12 4, leAt b 16 4, leAt b 20 4⟩

/-- Bits of a pixel. -/
def RasterHead.bpp (h : RasterHead) : Nat := if h.pixfmt = 1 then 24 else if h.pixfmt = 2 then 1 else 8

/-- Whether every reserved field of a raster header is zero. -/
def rasterReservedOk (b : List Byte) : Bool := zeroAt b 24 8

/-- Whether a raster header passes R86. -/
def rasterOk (b : List Byte) : Bool :=
  let h := rasterHead b
  b.take 4 == [0x52, 0x54, 0x52, 0x57] && byteAt b 4 == 1 && byteAt b 5 == 0 && decide (h.pixfmt ≤ 2) && decide (h.filter ≤ 1)
    && h.rowBytes == ceilDiv (h.width * h.bpp) 8 && rasterReservedOk b && !(h.filter == 1 && h.pixfmt == 2)

/-- A row with the SUB filter undone: each byte added to the byte `bpp` before it. -/
def unfilter (bpp : Nat) (row : List Byte) : List Byte :=
  row.foldl (fun acc b => acc ++ [b + (if acc.length < bpp then 0 else acc.getD (acc.length - bpp) 0)]) []

/-- The rows of a raster of decompressed bytes. -/
def rasterRows (h : RasterHead) (raw : List Byte) : List (List Nat) :=
  (List.range h.height).map fun y =>
    let row := sliceAt raw (y * h.rowBytes) h.rowBytes
    let row := if h.filter = 1 then unfilter (if h.pixfmt = 1 then 3 else 1) row else row
    if h.pixfmt = 2 then
      (List.range h.width).map fun x => if (byteAt row (x / 8)).getLsbD (7 - x % 8) then 0 else 255
    else row.map (·.toNat)

/-! ## Video (R90) -/

/-- A sample of a plane of `bits` bits, reduced to 8. DESIGN CHOICE, log entry 128: a Main 10 sample of fewer than 10 bits is first
brought to 10, which leaves one of 8 bits as it is. -/
def videoSample (bits : Nat) (rows : List (List Nat)) (x y : Nat) : Nat :=
  min (((rows.getD y []).getD x 0 * 2 ^ (10 - bits) + 2) / 4) 255

/-- The RGB of a limited-range pixel: one division for each output (log entry 32). -/
def videoRgb (bt601 : Bool) (y cb cr : Nat) : List Nat :=
  let l : Int := 76309 * ((y : Int) - 16)
  let b : Int := (cb : Int) - 128
  let r : Int := (cr : Int) - 128
  let k : Int × Int × Int × Int := if bt601 then (104597, -25675, -53279, 132201) else (117489, -13975, -34925, 138438)
  [clamp8 (divAway (l + k.1 * r) 65536), clamp8 (divAway (l + k.2.1 * b + k.2.2.1 * r) 65536)
  , clamp8 (divAway (l + k.2.2.2 * b) 65536)]

/-- The rows of a decoded picture in the colour of its stream. -/
def videoRows (gray : Bool) (h : VideoHead) (yp cbp crp : List (List Nat)) (width height : Nat) : List (List Nat) :=
  (List.range height).map fun y =>
    if gray then (List.range width).map fun x => clamp8 (divAway (((videoSample h.lumaBits yp x y : Int) - 16) * 255) 219)
    else (List.range width).flatMap fun x =>
      videoRgb (h.matrix == 5 || h.matrix == 6) (videoSample h.lumaBits yp x y) (videoSample h.chromaBits cbp (x / 2) (y / 2))
        (videoSample h.chromaBits crp (x / 2) (y / 2))

end Sys2Proof.Machine
end

