-- ==== Sys2Proof/Machine/Jpeg.lean ====
section
/-!
DEFINITION. The baseline and progressive processes of ITU-T T.81 with Huffman coding: markers, tables, scans, and the coefficients of
every block (03_input_decode.md, R82, R91, R92; log entry 109).
-/
namespace Sys2Proof.Machine

/-! ## Markers -/

/-- The next marker and what follows it: 0xFF, then a code that is neither 0 nor 0xFF. `fuel` bounds the fill bytes. -/
def nextMarker : Nat → List Byte → Except StreamFault (Nat × List Byte)
  | 0, _ => .error .short
  | fuel + 1, 0xFF :: x :: rest =>
    if x = 0xFF then nextMarker fuel (x :: rest) else if x = 0 then .error .bad else .ok (x.toNat, rest)
  | _ + 1, [0xFF] => .error .short
  | _ + 1, [] => .error .short
  | _ + 1, _ => .error .bad

/-- The parameters of a marker segment, and what follows it. -/
def segment (b : List Byte) : Except StreamFault (List Byte × List Byte) :=
  let n := (byteAt b 0).toNat * 256 + (byteAt b 1).toNat
  if b.length < 2 then .error .short
  else if n < 2 then .error .bad
  else if b.length < n then .error .short
  else .ok ((b.take n).drop 2, b.drop n)

/-- Two bytes, the first the more significant. -/
def be16 (b : List Byte) (o : Nat) : Nat := (byteAt b o).toNat * 256 + (byteAt b (o + 1)).toNat

/-- Whether a marker begins a frame: SOF0 to SOF15, without DHT, JPG and DAC. -/
def isFrame (m : Nat) : Bool := decide (0xC0 ≤ m) && decide (m ≤ 0xCF) && m != 0xC4 && m != 0xC8 && m != 0xCC

/-! ## The frame header -/

/-- A component of a frame: its number, sampling factors and quantisation table. -/
structure JpegPart where
  id : Nat
  h  : Nat
  v  : Nat
  tq : Nat
  deriving DecidableEq, Repr

/-- A frame header. -/
structure JpegFrame where
  sof       : Nat
  precision : Nat
  width     : Nat
  height    : Nat
  parts     : List JpegPart
  deriving DecidableEq, Repr

/-- The frame header in the parameters of a marker. -/
def frameOf (sof : Nat) (b : List Byte) : Except StreamFault JpegFrame :=
  let n := (byteAt b 5).toNat
  if b.length < 6 ∨ b.length ≠ 6 + 3 * n ∨ n = 0 then .error .bad
  else
    let parts := (List.range n).map fun i => ⟨(byteAt b (6 + 3 * i)).toNat, (byteAt b (7 + 3 * i)).toNat / 16,
      (byteAt b (7 + 3 * i)).toNat % 16, (byteAt b (8 + 3 * i)).toNat⟩
    .ok ⟨sof, (byteAt b 0).toNat, be16 b 3, be16 b 1, parts⟩

/-- Whether the decoder accepts a frame (R82): baseline or progressive, 8 bits, one component or three in one of the four samplings. -/
def JpegFrame.accepted (f : JpegFrame) : Bool :=
  (f.sof == 0xC0 || f.sof == 0xC2) && f.precision == 8
    && (match f.parts with
      | [y] => within 1 2 y.h && within 1 2 y.v
      | [y, cb, cr] => within 1 2 y.h && within 1 2 y.v && cb.h == 1 && cb.v == 1 && cr.h == 1 && cr.v == 1
      | _ => false)

/-- The frame header of a stream; a hierarchical or an arithmetic stream is refused where it says what it is. `fuel` bounds the
markers. -/
def findFrame : Nat → List Byte → Except StreamFault JpegFrame
  | 0, _ => .error .short
  | fuel + 1, b => do
    let (m, rest) ← nextMarker (b.length + 1) b
    if m = 0xD9 then .error .short
    else if m = 0x01 then findFrame fuel rest
    else if m = 0xDE ∨ m = 0xCC then .error .unsupported
    else if isFrame m then do
      let (p, _) ← segment rest
      frameOf m p
    else if m = 0xC4 ∨ m = 0xDB ∨ m = 0xDD ∨ m = 0xFE ∨ (0xE0 ≤ m ∧ m ≤ 0xEF) then do
      let (_, rest) ← segment rest
      findFrame fuel rest
    else .error .bad

/-- What follows the SOI marker with which a stream begins. -/
def afterSoi (b : List Byte) : Except StreamFault (List Byte) :=
  match b with
  | 0xFF :: 0xD8 :: rest => .ok rest
  | [] => .error .short
  | [0xFF] => .error .short
  | _ => .error .bad

/-- The frame header of a payload. -/
def jpegFrame (b : List Byte) : Except StreamFault JpegFrame := do
  let rest ← afterSoi b
  findFrame (b.length + 1) rest

/-! ## Tables -/

/-- The natural place of the coefficients in zig-zag order. -/
def zigzag : List Nat :=
  [ 0, 1, 8, 16, 9, 2, 3, 10, 17, 24, 32, 25, 18, 11, 4, 5, 12, 19, 26, 33, 40, 48, 41, 34, 27, 20, 13, 6, 7, 14, 21, 28
  , 35, 42, 49, 56, 57, 50, 43, 36, 29, 22, 15, 23, 30, 37, 44, 51, 58, 59, 52, 45, 38, 31, 39, 46, 53, 60, 61, 54, 47, 55
  , 62, 63 ]

/-- A component as its scans are decoded: blocks to a line, its blocks with their coefficients in zig-zag order, and the table by which
they are multiplied, once a scan has carried its DC coefficients. -/
structure JpegPlane where
  perLine : Nat
  blocks  : List (List Int)
  quant   : Option (List Nat)
  deriving DecidableEq, Repr

/-- What a decoder of T.81 holds between two markers. -/
structure JpegState where
  quants  : List (Nat × List Nat)
  codes   : List (Nat × PrefixCode)     -- DC tables 0 to 3, AC tables 16 to 19
  restart : Nat
  frame   : Option (JpegFrame × List JpegPlane)
  deriving DecidableEq, Repr

/-- An entry of a table replaced. -/
def putTable {α : Type} (l : List (Nat × α)) (k : Nat) (v : α) : List (Nat × α) := (k, v) :: l.filter fun x => x.1 != k

/-- The tables of a DQT segment; an 8-bit process has 8-bit tables. `fuel` bounds them. -/
def readQuants : Nat → List Byte → List (Nat × List Nat) → Except StreamFault (List (Nat × List Nat))
  | 0, _, l => .ok l
  | _ + 1, [], l => .ok l
  | fuel + 1, x :: b, l =>
    if x.toNat > 3 ∨ b.length < 64 then .error .bad
    else readQuants fuel (b.drop 64) (putTable l x.toNat ((b.take 64).map (·.toNat)))

/-- The tables of a DHT segment. `fuel` bounds them. -/
def readCodes : Nat → List Byte → List (Nat × PrefixCode) → Except StreamFault (List (Nat × PrefixCode))
  | 0, _, l => .ok l
  | _ + 1, [], l => .ok l
  | fuel + 1, x :: b, l =>
    let counts := (b.take 16).map (·.toNat)
    let n := counts.sum
    let c : PrefixCode := ⟨counts, ((b.drop 16).take n).map (·.toNat)⟩
    if b.length < 16 + n ∨ x.toNat / 16 > 1 ∨ x.toNat % 16 > 3 ∨ !c.fits then .error .bad
    else readCodes fuel (b.drop (16 + n)) (putTable l x.toNat c)

/-! ## Coefficients -/

/-- A number of `n` bits with the sign that T.81 gives it: with its first bit 0 it is negative. -/
def signedBits (n : Nat) : BitReader Int := do
  let v ← highFirst 0 n
  return if n = 0 then 0 else if v < 2 ^ (n - 1) then (v : Int) - (2 ^ n - 1) else v

/-- One component of a scan: its place in the frame and its tables. -/
structure ScanPart where
  index : Nat
  dc    : Option PrefixCode
  ac    : Option PrefixCode
  deriving DecidableEq, Repr

/-- A scan header. -/
structure Scan where
  parts : List ScanPart
  first : Nat           -- Ss
  last  : Nat           -- Se
  high  : Nat           -- Ah
  low   : Nat           -- Al
  deriving DecidableEq, Repr

/-- What runs through the blocks of a restart interval: the DC prediction of each component and the blocks left of an end-of-band
run. -/
structure ScanRun where
  preds : List Int
  eob   : Nat
  deriving DecidableEq, Repr

/-- A table that the scan needs. -/
def needCode : Option PrefixCode → BitReader PrefixCode
  | some c => pure c
  | none => throw .bad

/-- The AC coefficients of a block from `k` to `last`, each scaled by 2^low: the block, and the end-of-band run that begins in it.
`run` says whether there are such runs. `fuel` bounds the code words. -/
def acFirst (code : PrefixCode) (last low : Nat) (run : Bool) : Nat → Nat → List Int → BitReader (List Int × Nat)
  | 0, _, b => pure (b, 0)
  | fuel + 1, k, b =>
    if k > last then pure (b, 0)
    else do
      let rs ← code.next
      let (r, n) := (rs / 16, rs % 16)
      if n = 0 then
        if r = 15 then acFirst code last low run fuel (k + 16) b
        else if r = 0 ∨ !run then pure (b, 0)
        else
          let more ← highFirst 0 r
          pure (b, 2 ^ r - 1 + more)
      else
        let v ← signedBits n
        if k + r > last then throw .bad
        else acFirst code last low run fuel (k + r + 1) (modAt b (k + r) fun _ => v * 2 ^ low)

/-- One coefficient that is not zero refined by a bit. -/
def refineOne (low : Nat) (v : Int) : BitReader Int := do
  let b ← oneBit
  return if b then (if v < 0 then v - 2 ^ low else v + 2 ^ low) else v

/-- Coefficients from `k` on refined, passing over `zeros` that are zero; where the next zero one stands, or past the band. -/
def refineUpTo (last low : Nat) : Nat → Nat → Nat → List Int → BitReader (Nat × List Int)
  | 0, k, _, b => pure (k, b)
  | fuel + 1, k, zeros, b =>
    if k > last then pure (k, b)
    else
      let v := b.getD k 0
      if v = 0 then (if zeros = 0 then pure (k, b) else refineUpTo last low fuel (k + 1) (zeros - 1) b)
      else do
        let v ← refineOne low v
        refineUpTo last low fuel (k + 1) zeros (modAt b k fun _ => v)

/-- The rest of a band in which only coefficients that are not zero are refined. -/
def refineRest (last low k : Nat) (b : List Int) : BitReader (List Int) := do
  let (_, b) ← refineUpTo last low 65 k 64 b
  return b

/-- The AC coefficients of a block refined. `fuel` bounds the code words. -/
def acRefine (code : PrefixCode) (last low : Nat) : Nat → Nat → List Int → BitReader (List Int × Nat)
  | 0, _, b => pure (b, 0)
  | fuel + 1, k, b =>
    if k > last then pure (b, 0)
    else do
      let rs ← code.next
      let (r, n) := (rs / 16, rs % 16)
      if n > 1 then throw .bad
      else if n = 0 ∧ r < 15 then
        let more ← highFirst 0 r
        let b ← refineRest last low k b
        pure (b, 2 ^ r - 1 + more)
      else if n = 0 then
        let (k, b) ← refineUpTo last low 65 k 15 b
        acRefine code last low fuel (k + 1) b
      else
        let s ← oneBit
        let (k, b) ← refineUpTo last low 65 k r b
        if k > last then throw .bad
        else acRefine code last low fuel (k + 1) (modAt b k fun _ => if s then 2 ^ low else -(2 ^ low : Int))

/-- The DC coefficient of a block: a difference to the prediction of its component, or one more bit. -/
def dcOne (c : Scan) (p : ScanPart) (run : ScanRun) (b : List Int) : BitReader (List Int × ScanRun) :=
  if c.high ≠ 0 then do
    let s ← oneBit
    return (if s then modAt b 0 fun v => v + 2 ^ c.low else b, run)
  else do
    let code ← needCode p.dc
    let n ← code.next
    if n > 11 then throw .bad
    else
      let d ← signedBits n
      let v := run.preds.getD p.index 0 + d
      return (modAt b 0 fun _ => v * 2 ^ c.low, { run with preds := modAt run.preds p.index fun _ => v })

/-- The AC coefficients of a block. -/
def acAll (c : Scan) (progressive : Bool) (p : ScanPart) (run : ScanRun) (b : List Int) : BitReader (List Int × ScanRun) := do
  let k := max 1 c.first
  if run.eob > 0 then
    let b ← if c.high ≠ 0 then refineRest c.last c.low k b else pure b
    return (b, { run with eob := run.eob - 1 })
  else
    let code ← needCode p.ac
    let (b, eob) ← if c.high ≠ 0 then acRefine code c.last c.low 64 k b else acFirst code c.last c.low progressive 64 k b
    return (b, { run with eob := eob })

/-- A block of a component decoded as its scan says. -/
def scanBlock (c : Scan) (progressive : Bool) (p : ScanPart) (run : ScanRun) (b : List Int) : BitReader (List Int × ScanRun) := do
  let (b, run) ← if c.first = 0 then dcOne c p run b else pure (b, run)
  if c.last = 0 then return (b, run) else acAll c progressive p run b

/-! ## Scans -/

/-- The blocks of minimum coded unit `m` of a scan, each with its place in the scan's components and in its component. -/
def unitBlocks (f : JpegFrame) (c : Scan) (planes : List JpegPlane) (m : Nat) : List (ScanPart × Nat) :=
  match c.parts with
  | [p] => match f.parts[p.index]?, planes[p.index]? with
    | some x, some y =>
      let hm := (f.parts.map (·.h)).foldl max 1
      let perRow := ceilDiv (ceilDiv (f.width * x.h) hm) 8
      [(p, m / perRow * y.perLine + m % perRow)]
    | _, _ => []
  | ps => ps.flatMap fun p => match f.parts[p.index]?, planes[p.index]? with
    | some x, some y =>
      let across := y.perLine / x.h
      (List.range x.v).flatMap fun j => (List.range x.h).map fun i => (p, (m / across * x.v + j) * y.perLine + m % across * x.h + i)
    | _, _ => []

/-- The minimum coded units of a scan. -/
def unitCount (f : JpegFrame) (c : Scan) : Nat :=
  let hm := (f.parts.map (·.h)).foldl max 1
  let vm := (f.parts.map (·.v)).foldl max 1
  match c.parts with
  | [p] => match f.parts[p.index]? with
    | some x => ceilDiv (ceilDiv (f.width * x.h) hm) 8 * ceilDiv (ceilDiv (f.height * x.v) vm) 8
    | none => 0
  | _ => ceilDiv f.width (8 * hm) * ceilDiv f.height (8 * vm)

/-- The blocks of a unit decoded. -/
def scanBlocks (c : Scan) (progressive : Bool) : List (ScanPart × Nat) → ScanRun → List JpegPlane → BitReader (ScanRun × List JpegPlane)
  | [], run, ps => pure (run, ps)
  | (p, k) :: rest, run, ps => do
    let old := ((ps[p.index]?).elim [] (·.blocks)).getD k []
    let (b, run) ← scanBlock c progressive p run old
    scanBlocks c progressive rest run (modAt ps p.index fun y => { y with blocks := modAt y.blocks k fun _ => b })

/-- `n` units from unit `m` on decoded. -/
def scanUnits (f : JpegFrame) (c : Scan) : Nat → Nat → ScanRun → List JpegPlane → BitReader (List JpegPlane)
  | 0, _, _, ps => pure ps
  | n + 1, m, run, ps => do
    let (run, ps) ← scanBlocks c (f.sof == 0xC2) (unitBlocks f c ps m) run ps
    scanUnits f c n (m + 1) run ps

/-- The entropy-coded bytes up to the next marker, without their stuffing, and what begins at that marker. -/
def entropyBytes : Nat → List Byte → List Byte × List Byte
  | 0, b => ([], b)
  | _ + 1, [] => ([], [])
  | fuel + 1, 0xFF :: 0 :: rest =>
    let (x, y) := entropyBytes fuel rest
    (0xFF :: x, y)
  | fuel + 1, 0xFF :: 0xFF :: rest => entropyBytes fuel (0xFF :: rest)
  | _ + 1, 0xFF :: rest => ([], 0xFF :: rest)
  | fuel + 1, a :: rest =>
    let (x, y) := entropyBytes fuel rest
    (a :: x, y)

/-- Whether nothing more can come: the payload is consumed, or EOI is met. -/
def atEnd (b : List Byte) : Bool := b.length < 2 || b.take 2 == [0xFF, 0xD9]

/-- The units of a scan from unit `m` on, one restart interval after another, in the bytes `b`. `k` counts the intervals, `fuel`
bounds them. -/
def scanIntervals (f : JpegFrame) (c : Scan) (every : Nat) : Nat → Nat → Nat → List Byte → List JpegPlane →
    Except StreamFault (List JpegPlane × List Byte)
  | 0, _, _, b, ps => .ok (ps, b)
  | fuel + 1, k, m, b, ps =>
    let left := unitCount f c - m
    let n := if every = 0 then left else min every left
    let (data, rest) := entropyBytes (b.length + 1) b
    match (scanUnits f c n m ⟨List.replicate f.parts.length 0, 0⟩ ps).run (bitsMsb data) with
    | .error .short => .error (if atEnd rest then .short else .bad)
    | .error e => .error e
    | .ok (ps, _) =>
      if n = left then .ok (ps, rest)
      else if atEnd rest then .error .short
      else if rest.take 2 == [0xFF, BitVec.ofNat 8 (0xD0 + k % 8)] then
        scanIntervals f c every fuel (k + 1) (m + n) (rest.drop 2) ps
      else .error .bad

/-- The header of a scan. -/
def scanOf (f : JpegFrame) (codes : List (Nat × PrefixCode)) (b : List Byte) : Except StreamFault Scan :=
  let n := (byteAt b 0).toNat
  let code (k : Nat) : Option PrefixCode := (codes.find? fun x => x.1 == k).map (·.2)
  let parts := (List.range n).filterMap fun i =>
    let t := (byteAt b (2 + 2 * i)).toNat
    (f.parts.findIdx? fun x => x.id == (byteAt b (1 + 2 * i)).toNat).map fun j => ⟨j, code (t / 16), code (16 + t % 16)⟩
  let at_ (i : Nat) : Nat := (byteAt b (1 + 2 * n + i)).toNat
  let c : Scan := ⟨parts, at_ 0, at_ 1, at_ 2 / 16, at_ 2 % 16⟩
  let ordered := pairwiseB (fun (a b : ScanPart) => decide (a.index < b.index)) parts
  let ok := if f.sof = 0xC0 then c.first == 0 && c.last == 63 && c.high == 0 && c.low == 0
    else decide (c.last ≤ 63) && decide (c.low ≤ 13) && (c.high == 0 || c.high == c.low + 1)
      && (if c.first = 0 then c.last == 0 else decide (c.first ≤ c.last) && n == 1)
  if n = 0 ∨ b.length ≠ 4 + 2 * n ∨ parts.length ≠ n ∨ !ordered ∨ !ok then .error .bad else .ok c

/-- A frame begun: every coefficient zero. -/
def JpegFrame.planes (f : JpegFrame) : List JpegPlane :=
  let hm := (f.parts.map (·.h)).foldl max 1
  let vm := (f.parts.map (·.v)).foldl max 1
  f.parts.map fun x =>
    let across := ceilDiv f.width (8 * hm) * x.h
    ⟨across, List.replicate (across * (ceilDiv f.height (8 * vm) * x.v)) (List.replicate 64 0), none⟩

/-- A scan decoded into its frame; the components whose DC coefficients it carries take their quantisation tables. -/
def JpegState.scan (s : JpegState) (params b : List Byte) : Except StreamFault (JpegState × List Byte) :=
  match s.frame with
  | none => .error .bad
  | some (f, ps) => do
    let c ← scanOf f s.codes params
    let tables := c.parts.map fun p => (p.index, (f.parts[p.index]?).bind fun x => (s.quants.find? fun q => q.1 == x.tq).map (·.2))
    if tables.any fun x => x.2.isNone then .error .bad
    else
      let (ps, rest) ← scanIntervals f c s.restart (unitCount f c + 1) 0 0 b ps
      let ps := if c.first ≠ 0 then ps
        else tables.foldl (fun l x => modAt l x.1 fun (y : JpegPlane) => { y with quant := y.quant.or x.2 }) ps
      .ok ({ s with frame := some (f, ps) }, rest)

/-- Whether every component of the frame has been carried, so that the extent is filled. -/
def JpegState.filled (s : JpegState) : Bool := match s.frame with
  | some (_, ps) => ps.all fun p => p.quant.isSome
  | none => false

/-- The markers of a stream taken in turn. A baseline stream ends with its last component, a progressive one with EOI or with its last
byte. `fuel` bounds the markers. -/
def jpegMarkers : Nat → JpegState → List Byte → Except StreamFault JpegState
  | 0, _, _ => .error .short
  | fuel + 1, s, b =>
    if s.filled && (atEnd b || (s.frame.any fun x => x.1.sof == 0xC0)) then .ok s
    else do
      let (m, rest) ← nextMarker (b.length + 1) b
      if m = 0xD9 then .error .short
      else if m = 0x01 then jpegMarkers fuel s rest
      else do
        let (p, rest) ← segment rest
        if m = 0xDB then do
          let q ← readQuants (p.length + 1) p s.quants
          jpegMarkers fuel { s with quants := q } rest
        else if m = 0xC4 then do
          let c ← readCodes (p.length + 1) p s.codes
          jpegMarkers fuel { s with codes := c } rest
        else if m = 0xDD then jpegMarkers fuel { s with restart := be16 p 0 } rest
        else if isFrame m then do
          let f ← frameOf m p
          if s.frame.isSome then .error .bad else jpegMarkers fuel { s with frame := some (f, f.planes) } rest
        else if m = 0xDA then do
          let (s, rest) ← s.scan p rest
          jpegMarkers fuel s rest
        else if m = 0xFE ∨ m = 0xDC ∨ (0xE0 ≤ m ∧ m ≤ 0xEF) then jpegMarkers fuel s rest
        else .error .bad

/-- The coefficients of a block multiplied by their table, in natural order. -/
def dequantise (quant : List Nat) (b : List Int) : List Int :=
  (List.range 64).map fun n => match zigzag.findIdx? (· == n) with
    | some k => b.getD k 0 * (quant.getD k 0 : Int)
    | none => 0

/-- The components of a stream with the coefficients of their blocks. -/
def jpegDecode (b : List Byte) : Except StreamFault (List JpegComp) := do
  let rest ← afterSoi b
  let s ← jpegMarkers (b.length + 1) ⟨[], [], 0, none⟩ rest
  match s.frame with
  | none => .error .bad
  | some (f, ps) => .ok ((f.parts.zip ps).map fun x =>
      ⟨x.1.h, x.1.v, x.2.perLine, x.2.blocks.map (dequantise (x.2.quant.getD []))⟩)

end Sys2Proof.Machine
end

