-- ==== Sys2Proof/Machine/VideoHead.lean ====
section
/-!
DEFINITION. What a video unit reads of an access unit before it decodes it: its NAL units, its parameter sets, whether it is a random
access point, and what its sequence parameter set declares (03_input_decode.md, R88, R89, R91). The syntax is that of ITU-T H.264 and
H.265, which the spec names; PRESUMED, log entry 129.
-/
namespace Sys2Proof.Machine

/-! ## NAL units -/

/-- A NAL unit, of bytes held with the last first, without the zeros before the next start code. -/
def nalOf (rev : List Byte) : List Byte := (rev.dropWhile (· == 0)).reverse

/-- The NAL units of a byte stream: what lies between the start codes 00 00 01. -/
def nalUnits : List Byte → Option (List Byte) → List (List Byte)
  | 0 :: 0 :: 1 :: rest, none => nalUnits rest (some [])
  | 0 :: 0 :: 1 :: rest, some cur => nalOf cur :: nalUnits rest (some [])
  | _ :: rest, none => nalUnits rest none
  | b :: rest, some cur => nalUnits rest (some (b :: cur))
  | [], none => []
  | [], some cur => [nalOf cur]

/-- The bytes of a NAL unit without the 03 that follows two zeros. -/
def unescape : List Byte → List Byte
  | 0 :: 0 :: 3 :: rest => 0 :: 0 :: unescape rest
  | b :: rest => b :: unescape rest
  | [] => []

/-! ## Codes -/

/-- The zeros before the next one, at most as many as allowed. -/
def leadingZeros : Nat → BitReader Nat
  | 0 => throw .bad
  | n + 1 => do
    if ← oneBit then return 0
    let z ← leadingZeros n
    return z + 1

/-- ue(v): an unsigned Exp-Golomb code. -/
def golomb : BitReader Nat := do
  let z ← leadingZeros 33
  let v ← highFirst 1 z
  return v - 1

/-- se(v): a signed Exp-Golomb code. -/
def signedGolomb : BitReader Int := do
  let k ← golomb
  return if k % 2 = 1 then ((k + 1) / 2 : Nat) else -((k / 2 : Nat) : Int)

/-- u(n). -/
def fixedBits (n : Nat) : BitReader Nat := highFirst 0 n

/-- Codes read `n` times. -/
def times (r : BitReader Unit) : Nat → BitReader Unit
  | 0 => pure ()
  | n + 1 => do
    r
    times r n

/-- A code read for its length alone. -/
def passGolomb : BitReader Unit := do
  let _ ← golomb

/-- matrix_coefficients of the VUI parameters that may follow; 2 where they name none. -/
def vuiMatrix : BitReader Nat := do
  if ← oneBit then
    if ← oneBit then
      if (← fixedBits 8) = 255 then skipBits 32
    if ← oneBit then skipBits 1
    if ← oneBit then
      skipBits 4
      if ← oneBit then
        skipBits 16
        return ← fixedBits 8
  return 2

/-- Luma samples left of a coded extent by an offset on either side, in units of `unit`. -/
def cropped (coded unit : Nat) (a b : Nat) : Nat := coded - unit * (a + b)

/-- The four offsets of a cropping rectangle that may follow: left, right, top, bottom. -/
def cropOffsets : BitReader (Nat × Nat × Nat × Nat) := do
  if ← oneBit then
    let l ← golomb
    let r ← golomb
    let t ← golomb
    let b ← golomb
    return (l, r, t, b)
  else return (0, 0, 0, 0)

/-! ## H.264 -/

/-- A scaling list of `n` entries passed over. -/
def passList264 : Nat → Int → Int → BitReader Unit
  | 0, _, _ => pure ()
  | n + 1, last, next => do
    let next ← if next = 0 then pure 0 else do
      let d ← signedGolomb
      pure ((last + d + 256) % 256)
    passList264 n (if next = 0 then last else next) next

/-- The scaling lists of a sequence parameter set, from the `i`-th. -/
def passLists264 : Nat → Nat → BitReader Unit
  | 0, _ => pure ()
  | n + 1, i => do
    if ← oneBit then passList264 (if i < 6 then 16 else 64) 8 8
    passLists264 n (i + 1)

/-- The profiles whose sequence parameter sets hold a chroma format. -/
def highProfiles : List Nat := [100, 110, 122, 244, 44, 83, 86, 118, 128, 138, 139, 134, 135]

/-- Frames that the decoded picture buffer of level 5.1 holds of pictures of `mbs` macroblocks. -/
def dpb264 (mbs : Nat) : Nat := min (184320 / mbs) 16

/-- A sequence parameter set, after its NAL header. -/
def sps264 : BitReader (Nat × VideoHead) := do
  let profile ← fixedBits 8
  let flags ← fixedBits 8
  let level ← fixedBits 8
  let id ← golomb
  let high := highProfiles.contains profile
  let (chroma, luma8, chroma8) ← if !high then pure (1, 0, 0) else do
    let chroma ← golomb
    if chroma = 3 then skipBits 1
    let l ← golomb
    let c ← golomb
    skipBits 1
    if ← oneBit then passLists264 (if chroma = 3 then 12 else 8) 0
    pure (chroma, l, c)
  let idBits ← golomb
  let order ← golomb
  if order = 0 then passGolomb
  else if order = 1 then do
    skipBits 1
    passGolomb
    passGolomb
    let n ← golomb
    if n > 255 then throw .bad
    times passGolomb n
  let refs ← golomb
  skipBits 1
  let w ← golomb
  let h ← golomb
  let framesOnly ← oneBit
  let mbaff ← if framesOnly then pure false else oneBit
  skipBits 1
  let (cl, cr, ct, cb) ← cropOffsets
  let matrix ← vuiMatrix
  let wide := w + 1
  let tall := (h + 1) * (if framesOnly then 1 else 2)
  let accepted := (profile == 100 || profile == 77 || (profile == 66 && bit flags 6)) && decide (level ≤ 51) && chroma == 1
    && luma8 == 0 && chroma8 == 0 && !mbaff && decide (wide * tall ≤ 36864) && decide (wide * wide ≤ 8 * 36864)
    && decide (tall * tall ≤ 8 * 36864) && decide (refs ≤ dpb264 (wide * tall))
  return (id, ⟨cropped (16 * wide) 2 cl cr, cropped (16 * tall) (if framesOnly then 2 else 4) ct cb, 8 + luma8, 8 + chroma8, matrix
    , accepted, idBits + 4, framesOnly⟩)

/-- A picture parameter set after its NAL header: its number, and the sequence parameter set it names. -/
def pps264 : BitReader (Nat × Nat) := do
  let id ← golomb
  let sps ← golomb
  return (id, sps)

/-- What the header of a slice says: its sequence parameter set, where the stream holds it, and whether it is a field. -/
def slice264 (p : ParamSets) : BitReader (Option VideoHead × Bool) := do
  passGolomb
  passGolomb
  let id ← golomb
  match (p.pps.lookup id).bind fun k => p.sps.lookup k with
  | none => return (none, false)
  | some h =>
    skipBits h.idBits
    let field ← if h.framesOnly then pure false else oneBit
    return (some h, field)

/-! ## H.265 -/

/-- A profile, tier and level of up to `sub` + 1 sub-layers: whether the decoder accepts them, and its profile. -/
def profile265 (sub : Nat) : BitReader (Bool × Nat) := do
  let space ← fixedBits 2
  skipBits 1
  let profile ← fixedBits 5
  skipBits 80
  let level ← fixedBits 8
  let present ← (List.range sub).mapM fun _ => do
    let a ← oneBit
    let b ← oneBit
    pure (a, b)
  if sub > 0 then skipBits (2 * (8 - sub))
  for x in present do
    if x.1 then skipBits 88
    if x.2 then skipBits 8
  return (space == 0 && (profile == 1 || profile == 2) && decide (level ≤ 153), profile)

/-- The scaling list of a size and a matrix passed over. -/
def passList265 (size : Nat) : BitReader Unit := do
  if ← oneBit then
    if size > 1 then passGolomb
    times passGolomb (min 64 (2 ^ (4 + 2 * size)))
  else passGolomb

/-- The pictures that a short-term reference picture set names, by their distance: those before, nearest first, and those after. -/
structure RefSet where
  before : List Int
  after  : List Int
  deriving DecidableEq, Repr

/-- Distances given one by one, each counted from the one before it. -/
def distances (sign : Int) : Nat → Int → BitReader (List Int)
  | 0, _ => pure []
  | n + 1, from_ => do
    let d ← golomb
    skipBits 1
    let x := from_ + sign * (d + 1)
    let rest ← distances sign n x
    return x :: rest

/-- Which of the distances of the set before are kept: used, or marked as delta. -/
def keptMarks : Nat → BitReader (List Bool)
  | 0 => pure []
  | n + 1 => do
    let used ← oneBit
    let keep ← if used then pure true else oneBit
    let rest ← keptMarks n
    return keep :: rest

/-- A set predicted from another by a distance and the marks of its pictures. -/
def RefSet.predicted (r : RefSet) (d : Int) (marks : List Bool) : RefSet :=
  let nb := r.before.length
  let b := (r.before.zipIdx).map fun x => (x.1 + d, marks.getD x.2 false)
  let a := (r.after.zipIdx).map fun x => (x.1 + d, marks.getD (nb + x.2) false)
  let self := [(d, marks.getD (nb + r.after.length) false)]
  let pick (l : List (Int × Bool)) (p : Int → Bool) : List Int := (l.filter fun x => x.2 && p x.1).map (·.1)
  ⟨pick (a.reverse ++ self ++ b) fun x => decide (x < 0), pick (b.reverse ++ self ++ a) fun x => decide (x > 0)⟩

/-- The short-term reference picture sets of a sequence parameter set, from the one after `prev`. -/
def refSets : Nat → Option RefSet → BitReader Unit
  | 0, _ => pure ()
  | n + 1, prev => do
    let inter ← match prev with
      | none => pure false
      | some _ => oneBit
    let r ← match inter, prev with
      | true, some p => do
        let sign ← oneBit
        let d ← golomb
        let marks ← keptMarks (p.before.length + p.after.length + 1)
        pure (p.predicted ((if sign then -1 else 1) * ((d : Int) + 1)) marks)
      | _, _ => do
        let nb ← golomb
        let na ← golomb
        if nb > 16 ∨ na > 16 then throw .bad
        let b ← distances (-1) nb 0
        let a ← distances 1 na 0
        pure ⟨b, a⟩
    refSets n (some r)

/-- Pictures that the decoded picture buffer of level 5.1 holds, of `size` luma samples each. -/
def dpb265 (size : Nat) : Nat :=
  if size ≤ 2228224 then 16 else if size ≤ 4456448 then 12 else if size ≤ 6684672 then 8 else 6

/-- The parts of a sequence parameter set between its buffering and its VUI, passed over. -/
def passTools265 (pocBits : Nat) : BitReader Unit := do
  times passGolomb 6
  if ← oneBit then
    if ← oneBit then
      times (passList265 0) 6
      times (passList265 1) 6
      times (passList265 2) 6
      times (passList265 3) 2
  skipBits 2
  if ← oneBit then
    skipBits 8
    passGolomb
    passGolomb
    skipBits 1
  let sets ← golomb
  if sets > 64 then throw .bad
  refSets sets none
  if ← oneBit then
    let n ← golomb
    if n > 32 then throw .bad
    skipBits (n * (pocBits + 1))
  skipBits 2

/-- field_seq_flag of the VUI parameters, which stand where `vuiMatrix` reads too. -/
def vuiFields : BitReader Bool := do
  if ← oneBit then
    if ← oneBit then
      if (← fixedBits 8) = 255 then skipBits 32
    if ← oneBit then skipBits 1
    if ← oneBit then
      skipBits 4
      if ← oneBit then skipBits 24
    if ← oneBit then
      passGolomb
      passGolomb
    skipBits 1
    return ← oneBit
  return false

/-- A sequence parameter set, after its NAL header. -/
def sps265 : BitReader (Nat × VideoHead) := do
  skipBits 4
  let sub ← fixedBits 3
  skipBits 1
  let (ok, profile) ← profile265 sub
  let id ← golomb
  let chroma ← golomb
  if chroma = 3 then skipBits 1
  let w ← golomb
  let h ← golomb
  let (cl, cr, ct, cb) ← cropOffsets
  let luma8 ← golomb
  let chroma8 ← golomb
  let poc ← golomb
  let all ← oneBit
  let pics ← (List.range (if all then sub + 1 else 1)).mapM fun _ => do
    let n ← golomb
    passGolomb
    passGolomb
    pure (n + 1)
  passTools265 (poc + 4)
  let vui ← get
  let matrix ← vuiMatrix
  set vui
  let fields ← vuiFields
  let most := if profile = 2 then 2 else 0
  let accepted := ok && chroma == 1 && decide (luma8 ≤ most) && decide (chroma8 ≤ most) && !fields && decide (w * h ≤ 8912896)
    && decide (w * w ≤ 8 * 8912896) && decide (h * h ≤ 8 * 8912896) && pics.all fun n => decide (n ≤ dpb265 (w * h))
  return (id, ⟨cropped w 2 cl cr, cropped h 2 ct cb, 8 + luma8, 8 + chroma8, matrix, accepted, 0, true⟩)

/-- The sequence parameter set of a slice segment of a NAL type, where the stream holds it. -/
def slice265 (p : ParamSets) (type : Nat) : BitReader (Option VideoHead × Bool) := do
  skipBits 1
  if 16 ≤ type ∧ type ≤ 23 then skipBits 1
  let id ← golomb
  return ((p.pps.lookup id).bind fun k => p.sps.lookup k, false)

/-! ## Access units -/

/-- An access unit as its headers give it: the stream's parameter sets after it, the sequence parameter set that its first slice
names, whether it is a random access point, and whether it is coded as a field. -/
structure AccessUnit where
  sets   : ParamSets
  head   : Option VideoHead
  random : Bool
  field  : Bool
  deriving DecidableEq, Repr

/-- What a reader finds in bits, none where it fails. -/
def readBits {α : Type} (r : BitReader α) (b : List Byte) : Option α := match r.run (bitsMsb b) with
  | .ok (x, _) => some x
  | .error _ => none

/-- A parameter set entered in the place of its number. -/
def putSet {α : Type} (x : Option (Nat × α)) (l : List (Nat × α)) : List (Nat × α) := match x with
  | some (k, v) => (k, v) :: l.filter fun y => y.1 != k
  | none => l

/-- A slice entered: the first one of an access unit decides. -/
def AccessUnit.slice (a : AccessUnit) (random : Bool) (x : Option (Option VideoHead × Bool)) : AccessUnit :=
  match a.head, x with
  | none, some (h, field) => { a with head := h, random := random, field := field }
  | _, _ => a

/-- One NAL unit of H.264. -/
def AccessUnit.nal264 (a : AccessUnit) (n : List Byte) : AccessUnit :=
  let body := unescape (n.drop 1)
  let type := (byteAt n 0).toNat % 32
  if type = 7 then { a with sets := { a.sets with sps := putSet (readBits sps264 body) a.sets.sps } }
  else if type = 8 then { a with sets := { a.sets with pps := putSet (readBits pps264 body) a.sets.pps } }
  else if type = 1 ∨ type = 5 then a.slice (type == 5) (readBits (slice264 a.sets) body)
  else a

/-- One NAL unit of H.265; those of a layer above the base are passed over. -/
def AccessUnit.nal265 (a : AccessUnit) (n : List Byte) : AccessUnit :=
  let body := unescape (n.drop 2)
  let h := (byteAt n 0).toNat * 256 + (byteAt n 1).toNat
  let type := h / 512 % 64
  if h / 8 % 64 ≠ 0 then a
  else if type = 33 then { a with sets := { a.sets with sps := putSet (readBits sps265 body) a.sets.sps } }
  else if type = 34 then { a with sets := { a.sets with pps := putSet (readBits pps264 body) a.sets.pps } }
  else if type ≤ 23 then a.slice (decide (16 ≤ type)) (readBits (slice265 a.sets type) body)
  else a

/-- An access unit of a format, in a stream that holds parameter sets. One whose first slice names a set that the stream does not
hold is no random access point. -/
def accessUnit (format : Nat) (sets : ParamSets) (b : List Byte) : AccessUnit :=
  let start : AccessUnit := ⟨sets, none, false, false⟩
  let a := (nalUnits b none).foldl (fun (a : AccessUnit) n => if format = 3 then a.nal264 n else a.nal265 n) start
  { a with random := a.random && a.head.isSome }

end Sys2Proof.Machine
end

