-- ==== Sys2Proof/Machine/InputDecode.lean ====
section
/-!
DEFINITION. The decoder units: which sample starts, its limits and budget, how it ends, what replaces it, and the
pictures of video streams (03_input_decode.md, R75, R76, R91 to R96, R101).
-/
namespace Sys2Proof.Machine

/-! ## Which sample starts (R76) -/

/-- Whether the head of stream `a`'s queue goes before that of stream `b`'s. -/
def State.streamBefore (s : State) (a b : Fin 64) : Bool :=
  let t (n : Fin 64) : Nat := (s.streams[n].queue.head?.map (·.tObserve)).getD 0
  decide (s.streamGait a < s.streamGait b)
    || (s.streamGait a == s.streamGait b && (decide (t a < t b) || (t a == t b && decide (a.val < b.val))))

/-- The stream that a unit picks. -/
def State.pickStream (s : State) (u : Fin 8) : Option (Fin 64) :=
  ((List.finRange 64).filter fun n => streamUnit n == u && !s.streams[n].queue.isEmpty).foldl
    (fun (b : Option (Fin 64)) n => match b with
    | none => some n
    | some m => if s.streamBefore n m then some n else some m) none

/-! ## Extents and limits (R91) -/

/-- The extent of a sample, and whether its image is RGB8. -/
structure Extent where
  width  : Nat
  height : Nat
  rgb    : Bool
  deriving DecidableEq, Repr

/-- What a unit reads of a sample before any allocation (R91). -/
structure Look where
  extent      : Extent
  unreadable  : Option Nat   -- the fault of a header that gives no extent: 3 UNSUPPORTED, 4 SHORT_STREAM, 5 BAD_STREAM
  unsupported : Bool         -- a feature outside R82, R84, R88 or R89
  deriving DecidableEq, Repr

/-- The fault of a payload: 3 UNSUPPORTED, 4 SHORT_STREAM, 5 BAD_STREAM. -/
def StreamFault.code : StreamFault → Nat
  | .unsupported => 3
  | .short => 4
  | .bad => 5

/-- A payload that does not give its extent. -/
def Look.unread (fault : Nat) : Look := ⟨⟨0, 0, false⟩, some fault, false⟩

/-- What a unit reads of a still: the frame header of a JPEG, the entry's own fields for G4, the wrapper's for RASTER. An
uncompressed-mode code is found by going through the page (log entry 109). -/
def lookStill (e : Entry) (b : List Byte) : Look :=
  if e.format = 1 then
    ⟨⟨e.width, e.height, false⟩, none, match faxPage b e.width e.height with
      | .error .unsupported => true
      | _ => false⟩
  else if e.format = 2 then
    if e.length < 32 then Look.unread 4
    else ⟨⟨(rasterHead b).width, (rasterHead b).height, (rasterHead b).pixfmt == 1⟩, none, false⟩
  else match jpegFrame b with
    | .ok f => ⟨⟨f.width, f.height, f.parts.length == 3⟩, none, !f.accepted⟩
    | .error x => Look.unread x.code

/-- What a unit reads of an access unit in which a sequence parameter set is active. A format other than the one of the stream's
start is outside R89. -/
def lookVideo (h : VideoHead) (gray field change : Bool) : Look :=
  ⟨⟨h.width, h.height, !gray⟩, none, !h.accepted || field || change⟩

/-- Whether an extent is within the pixel budget of its format. -/
def Extent.fits (x : Extent) (budget : Nat) : Bool :=
  decide (x.width ≤ 32768) && decide (x.height ≤ 32768) && decide (x.width * x.height ≤ budget)

/-- The fault that a sample has before any allocation: 0 EMPTY, a header that cannot be read, 1 ZERO_SIZE, 2 OVERSIZE, 3
UNSUPPORTED. -/
def limitFault (e : Entry) (x : Look) (budget : Nat) : Option Nat :=
  if e.length = 0 then some 0
  else if x.unreadable.isSome then x.unreadable
  else if x.extent.width = 0 ∨ x.extent.height = 0 then some 1
  else if !x.extent.fits budget then some 2
  else if x.unsupported then some 3
  else none

/-- The extent of a substitute: the declared one when it passes steps 2 and 3 of R91, otherwise 64 × 64 (R94). -/
def Extent.blank (x : Extent) (budget : Nat) : Extent :=
  if x.width ≠ 0 ∧ x.height ≠ 0 ∧ x.fits budget then { x with rgb := false } else ⟨64, 64, false⟩

/-- The stride of an image of an extent. -/
def Extent.stride (x : Extent) : Nat := strideOf x.width (if x.rgb then 3 else 1)

/-- Frames for an image of an extent, in the capture region that its stream is bound to, with its reference. -/
def State.takeImage (s : State) (n : Fin 64) (owner : Nat) (pic : Bool) (x : Extent) : Option (State × ImageRef) :=
  let st := s.streams[n]
  let count := ceilDiv (x.height * x.stride) 4096
  (st.binding.bind fun b => s.framePlaceIn st.boundPart b.base b.frames count).map fun a =>
    let fr : FrameAlloc := ⟨st.boundPart, a, count, owner, pic⟩
    ({ s with frames := s.frames.filter s.frameLive ++ [fr] }, ⟨0, x.rgb, x.width, x.height, x.stride, a⟩)

/-- An image written whole, its lines padded with zeros (R87). -/
def State.writeImage (s : State) (i : ImageRef) (rows : List (List Nat)) : State :=
  s.mainPut i.addr ((rows.take i.height).flatMap fun row =>
    row.map (BitVec.ofNat 8) ++ List.replicate (i.stride - row.length) (0 : Byte))

/-- A blank image of an extent: every pixel 255. -/
def State.writeBlank (s : State) (i : ImageRef) : State :=
  s.writeImage i (List.replicate i.height (List.replicate i.width 255))

/-! ## How a sample ends (R94 to R96, R100) -/

/-- The status code of a fault of R91 or R92: EMPTY 0x0201 to BUDGET_EXCEEDED 0x0207. -/
def statusOf (fault : Nat) : Nat := 0x0201 + fault

/-- The payload consumed: its staging given back. -/
def State.consumed (s : State) (x : Staged) : State := s.releaseStage x.side (roundUp x.entry.length 64)

/-- A side given its image, ready for stage 5. -/
def State.giveImage (s : State) (k : Nat) (i : ImageRef) (substitute : Bool) : State :=
  s.onSide k fun x => { x with images := [i], stage := .arriving, substitute := substitute }

/-- A side published with its statuses alone. -/
def State.statusRecord (s : State) (k : Nat) : State :=
  s.onSide k fun x => { x with statusOnly := true, stage := .arriving, substitute := true }

/-- A failed sample replaced: by STATUS_ONLY, or by a blank image where one is given. -/
def State.substituteSide (s : State) (k code : Nat) (stream : Nat) (image : Option ImageRef) : State :=
  let s := s.addStatus k code stream
  match image with
  | none => s.statusRecord k
  | some i => (s.writeBlank i).giveImage k i true

/-- A side that produces no record: its reservations released (R95). -/
def State.dropSide (s : State) (k : Nat) : State :=
  match s.side? k with
  | none => s
  | some x =>
    let s := (s.freeStage x.stageBytes).freeFrames k
    ({ s with
      sides := s.sides.filter fun y => y.key != k
      host := { s.host with spoolResv := s.host.spoolResv - x.reserve } }).spoolSettle

/-- A video access unit dropped; when it was to be read, the most recent picture is read in its place, or the substitute is
published (R95). -/
def State.dropUnit (s : State) (n : Fin 64) (x : Staged) (read : Bool) (image : Option ImageRef) : State :=
  let s := s.consumed x
  let s := if !read then s.dropSide x.side
    else match s.streams[n].latest with
      | some p => ((s.addStatus x.side 0x0208 n.val).countStream n Strm.framesHeld 1).giveImage x.side { p.image with role := 0 } false
      | none => s.substituteSide x.side 0x0209 n.val image
  s.loseUnit n x.entry

/-- A still that failed: counted, replaced, published with its status. -/
def State.failStill (s : State) (n : Fin 64) (x : Staged) (fault : Nat) (image : Option ImageRef) : State :=
  ((s.countStream n (Strm.firstStatus + fault) 1).consumed x).substituteSide x.side (statusOf fault) n.val image

/-! ## DECODE_START -/

/-- The budget of a sample in ns (R93). -/
def Stream.budget (x : Stream) (decodeUs pixels : Nat) : Nat :=
  if x.completed < 16 then decodeUs * 1000
  else min (decodeUs * 1000) (max 1000000 (roundF32 (fmul (fmul 0x42C80000 x.mean) (natF32 pixels))).toNat)

/-- Whether an access unit is to be read (R95), counted from 0 (log entry 34). -/
def State.toRead (s : State) (n : Fin 64) : Bool :=
  !isVideo n || (s.readEvery n != 0 && s.streams[n].unitCount % s.readEvery n == 0)

/-- A sample taken from its stream's queue. -/
def State.popSample (s : State) (n : Fin 64) : State := s.onStream n fun x => { x with queue := x.queue.drop 1 }

/-- The failure of a sample that did not start its decode entered. -/
def State.finishFailed (s : State) (n : Fin 64) (x : Staged) (fault : Nat) (read : Bool) (image : Option ImageRef) : State :=
  let s := s.countStream n Strm.samples 1
  if isVideo n then (s.countStream n (Strm.firstStatus + fault) 1).dropUnit n x read image else s.failStill n x fault image

/-- A sample that is dropped or fails before its decode: `fault` is none for an access unit that waits for a random access point (R89,
R95). A blank substitute needs frames, without which the sample does not start. -/
def State.startFailed (s : State) (n : Fin 64) (x : Staged) (fault : Option Nat) (ext : Extent) (budget : Nat) : State :=
  let read := s.toRead n
  let held := isVideo n && s.streams[n].latest.isSome
  let blank := read && !held && !s.substStatus n && fault != some 0
  let finish (s : State) (i : Option ImageRef) : State :=
    let s := s.popSample n
    (match fault with
    | some f => s.finishFailed n x f read i
    | none => (s.countStream n Strm.samples 1).dropUnit n x read i).settleLost n
  match blank, s.takeImage n x.side false (ext.blank budget) with
  | true, none => s
  | true, some (s1, i) => finish s1 (some i)
  | false, _ => finish s none

/-- A sample whose decode starts: its frames taken, its budget fixed. -/
def State.startRun (s : State) (u : Fin 8) (n : Fin 64) (x : Staged) (ext : Extent) (head : Option VideoHead) (decodeUs : Nat) : State :=
  let video := isVideo n
  let key := if video then s.nextKey else x.side
  match s.takeImage n key video ext with
  | none => s
  | some (s1, i) =>
    let run : DecodeRun :=
      { stream := n.val, staged := x, width := ext.width, height := ext.height, started := s.now
        budget := s.streams[n].budget decodeUs (ext.width * ext.height), paused := 0, image := i, head := head, key := key
        read := s.toRead n }
    let s1 := if video then { s1 with nextKey := s1.nextKey + 1 } else s1
    let s1 := (s1.popSample n).onDecoder u fun d => { d with run := some run }
    s1.onStream n fun y => { y with started := true, dropping := false, head := head }

/-- The binding of a stream taken from its partition. -/
def State.takeBinding (s : State) (n : Fin 64) (r : Recipe) : State :=
  match s.parts[s.streams[n].boundPart].desc with
  | some d => s.onStream n fun y => { y with binding := some ⟨d.captureBase, d.captureFrames, r.budgets⟩ }
  | none => s

/-- The budgets of a sample's format in the binding of its stream: pixels, fetch, decode in us. -/
def Stream.budgets (x : Stream) (format : Nat) : Nat × Nat × Nat := match x.binding with
  | some b => b.budgets.getD format (0, 0, 0)
  | none => (0, 0, 0)

/-- A still: refused under R91, or started, under the binding of its partition now (R101). -/
def State.startStill (s : State) (u : Fin 8) (n : Fin 64) (x : Staged) (r : Recipe) : State :=
  let s := s.takeBinding n r
  let (pixels, _, decodeUs) := s.streams[n].budgets x.entry.format
  let look := lookStill x.entry x.payload
  match limitFault x.entry look pixels with
  | some f => s.startFailed n x (some f) look.extent pixels
  | none => s.startRun u n x look.extent none decodeUs

/-- An access unit: dropped while it waits for a random access point (R89, R95), refused under R91, or started. The binding of the
partition is taken at a random access point (R101), and its sequence parameter set becomes the active one there. -/
def State.startUnit (s : State) (u : Fin 8) (n : Fin 64) (x : Staged) (r : Recipe) : State :=
  let st := s.streams[n]
  let change := st.unitCount ≠ 0 && st.format != x.entry.format
  let unit := accessUnit x.entry.format (if change then ⟨[], []⟩ else st.sets) x.payload
  let s := if unit.random ∨ st.binding.isNone then s.takeBinding n r else s
  let s := if change then s else s.onStream n fun y => { y with sets := unit.sets }
  let (pixels, _, decodeUs) := s.streams[n].budgets x.entry.format
  let wait := (!st.started || st.dropping) && !unit.random
  match (if unit.random then unit.head else st.head) with
  | some h =>
    let look := lookVideo h (s.streamGray n) unit.field change
    if wait ∧ x.entry.length ≠ 0 then s.startFailed n x none look.extent pixels
    else match limitFault x.entry look pixels with
      | some f => s.startFailed n x (some f) look.extent pixels
      | none => s.startRun u n x look.extent (some h) decodeUs
  | none => s.startFailed n x (if x.entry.length = 0 then some 0 else none) ⟨0, 0, false⟩ pixels

/-- A sample of a stream whose partition is unbound: published with PARTITION_UNBOUND alone; an access unit is dropped. -/
def State.startUnbound (s : State) (n : Fin 64) (x : Staged) : State :=
  let s := ((s.popSample n).abandonSide x.side 0x0303 4).onSide x.side fun y => { y with stage := .arriving }
  if isVideo n then (s.loseUnit n x.entry).settleLost n else s

/-- The sample that a unit picked. -/
def State.startSample (s : State) (u : Fin 8) (n : Fin 64) (x : Staged) : State :=
  let p := s.streams[n].boundPart
  match s.recipeFor p (s.streamGait n) with
  | none => if s.parts[p].bound || s.parts[p].rebinding then s else s.startUnbound n x
  | some r => if isVideo n then s.startUnit u n x r else s.startStill u n x r

/-- A free unit picks a sample; during a supply hold it starts none (R93). -/
def decodeStartEffect (u : Fin 8) (s : State) : State :=
  if !s.up ∨ s.decoders[u].run.isSome ∨ s.power.hold.isSome then s
  else match s.pickStream u with
    | none => s
    | some n => match s.streams[n].queue with
      | [] => s
      | x :: _ =>
        let s := s.onStream n fun y => { y with boundPart := Fin.ofNat 6 (s.streamPart n) }
        s.startSample u n x

/-- DECODE_START (R76, R91). -/
def execDecodeStart (kind : DecoderKind) (unit : Fin 4) (t : Nat) (s : State) : Host.Outcome State Fault Refusal :=
  done s (decodeStartEffect (decoderUnit kind unit) (s.at t))

/-! ## DECODE_DONE -/

/-- The rows of a decoded still, or its fault (R82 to R86, R92). -/
def stillRows (run : DecodeRun) : Except Nat (List (List Nat)) :=
  let b := run.staged.payload
  if run.staged.entry.format = 0 then
    match jpegDecode b with
    | .ok comps => .ok (jpegRows comps run.width run.height)
    | .error f => .error f.code
  else if run.staged.entry.format = 1 then
    match faxPage b run.width run.height with
    | .ok rows => .ok (g4Rows rows run.width run.height)
    | .error f => .error f.code
  else
    let head := rasterHead b
    if !rasterOk b then .error 5
    else match inflate (b.drop 32) (head.height * head.rowBytes) with
      | .ok raw => if head.crc ≠ 0 ∧ (crc32c raw).toNat ≠ head.crc then .error 5 else .ok (rasterRows head raw)
      | .error f => .error f.code

/-- Whether a plane fills an extent. -/
def planeFills (rows : List (List Nat)) (width height : Nat) : Bool :=
  decide (height ≤ rows.length) && (rows.take height).all fun row => decide (width ≤ row.length)

/-- The rows of a decoded access unit, or its fault (R90, R92). -/
def videoDone (gray : Bool) (h : VideoHead) (width height : Nat) : Decoded → Except Nat (List (List Nat))
  | .fail short => .error (if short then 4 else 5)
  | .planes y cb cr =>
    if planeFills y width height && planeFills cb (ceilDiv width 2) (ceilDiv height 2) && planeFills cr (ceilDiv width 2) (ceilDiv height 2)
    then .ok (videoRows gray h y cb cr width height)
    else .error 4

/-- The rows of a decoded sample, or its fault: 3 UNSUPPORTED, 4 SHORT_STREAM, 5 BAD_STREAM. -/
def decodeRows (gray : Bool) (run : DecodeRun) (d : Decoded) : Except Nat (List (List Nat)) := match run.head with
  | some h => videoDone gray h run.width run.height d
  | none => stillRows run

/-- The time that a run has taken on its budget clock, which stops during a supply hold. -/
def State.runTime (s : State) (run : DecodeRun) : Nat :=
  let upTo := match s.power.hold with
    | some h => max run.started h.start
    | none => s.now
  upTo - run.started - run.paused

/-- A unit freed, its busy time counted. -/
def State.freeUnit (s : State) (u : Fin 8) (run : DecodeRun) : State :=
  s.onDecoder u fun d => { d with run := none, busyNs := bump d.busyNs (s.now - run.started) }

/-- A completed sample counted and entered in its stream's mean. DESIGN CHOICE, log entry 132: PIXELS counts the samples that
complete, and BUSY_NS the whole time of a unit's samples, supply holds included. -/
def State.countDecoded (s : State) (u : Fin 8) (n : Fin 64) (run : DecodeRun) : State :=
  let px := run.width * run.height
  let m := fdiv (natF32 (s.runTime run)) (natF32 px)
  let s := s.onDecoder u fun d => { d with pixels := bump d.pixels px }
  (s.onStream n fun x =>
    let (sum, mean) := meanNext x.completed x.meanSum x.mean m
    { x with meanSum := sum, mean := mean, completed := x.completed + 1 }).countStream n Strm.samples 1

/-- The frames of a run that failed: released, or kept for the substitute of its side. -/
def State.reuseFrames (s : State) (run : DecodeRun) (keep : Bool) : State :=
  { s with frames := s.frames.filterMap fun f =>
      if f.owner = run.key ∧ f.base = run.image.addr then (if keep then some { f with owner := run.staged.side, pic := false } else none)
      else some f }

/-- A run that failed with a fault. -/
def State.runFailed (s : State) (u : Fin 8) (n : Fin 64) (run : DecodeRun) (fault : Nat) : State :=
  let x := run.staged
  let s := (s.freeUnit u run).countStream n Strm.samples 1
  let blank := run.read && !s.substStatus n && (!isVideo n || s.streams[n].latest.isNone)
  let s := s.reuseFrames run blank
  let i : ImageRef := { run.image with rgb := false, stride := strideOf run.width 1 }
  let image := if blank then some i else none
  if isVideo n then ((s.countStream n (Strm.firstStatus + fault) 1).dropUnit n x run.read image).settleLost n
  else s.failStill n x fault image

/-- A decoded still given to its side. -/
def State.finishStill (s : State) (run : DecodeRun) : State :=
  (s.consumed run.staged).giveImage run.staged.side run.image false

/-- A decoded picture entered in its stream, and read when it is to be. -/
def State.finishPicture (s : State) (n : Fin 64) (run : DecodeRun) : State :=
  let x := run.staged
  let late := s.streams[n].unitCount > 0 ∧ x.entry.timestamp < s.streams[n].lastTs
  let s := if late then s.countStream n Strm.tsBackward 1 else s
  let pic : Picture := ⟨run.key, x.entry.timestamp, !decide late, run.image, false⟩
  let s := (s.onStream n fun y => { y with pictures := y.pictures ++ [pic] }).countStream n Strm.framesDecoded 1
  let s := s.consumed x
  let s := if run.read then s.giveImage x.side run.image false else s.dropSide x.side
  (s.closeUnit n x.entry true).settleLost n

/-- A decode that ends with its pixels or a fault. DESIGN CHOICE, log entry 131: the record of a non-zero reserved field of a raster
wrapper is INPUT_REJECT, with its reason and the index of the entry. -/
def decodeDoneEffect (u : Fin 8) (result : Decoded) (s : State) : State :=
  match s.decoders[u].run with
  | none => s
  | some run =>
    let n : Fin 64 := Fin.ofNat 64 run.stream
    let b := run.staged.payload
    let s := if run.staged.entry.format = 2 ∧ !rasterReservedOk b then
        s.log 0x0302 (srcStream n.val) (1 :: leBytes 4 (run.staged.entry.index.getD 0).toNat)
      else s
    match decodeRows (s.streamGray n) run result with
    | .error f => s.runFailed u n run f
    | .ok rows =>
      let s := ((s.countDecoded u n run).freeUnit u run).writeImage run.image rows
      if isVideo n then s.finishPicture n run else s.finishStill run

/-- DECODE_DONE (R92). -/
def execDecodeDone (unit : Fin 8) (result : Decoded) (t : Nat) (s : State) : Host.Outcome State Fault Refusal :=
  done s (decodeDoneEffect unit result (s.at t))

/-- A sample whose budget has run out. -/
def budgetExpireEffect (u : Fin 8) (s : State) : State :=
  match s.decoders[u].run with
  | none => s
  | some run => if s.runTime run ≥ run.budget then s.runFailed u (Fin.ofNat 64 run.stream) run 6 else s

/-- DECODE_BUDGET_EXPIRE (R93). -/
def execDecodeBudgetExpire (unit : Fin 8) (t : Nat) (s : State) : Host.Outcome State Fault Refusal :=
  done s (budgetExpireEffect unit (s.at t))

/-- FUSE_WINDOW_EXPIRE: device time reaches t_ref + FUSE_WINDOW (R96). -/
def execFuseWindowExpire (side : Nat) (t : Nat) (s : State) : Host.Outcome State Fault Refusal :=
  done s ((s.at t).fuseSide side)

end Sys2Proof.Machine
end

