-- ==== Sys2Proof/Machine/Boot.lean ====
section
/-!
DEFINITION. Full resets, the boot sequence and what follows it: the self-test, the persistent store, device time, recipes,
overlays, streams and plan 0, and the fuses (14, R416, R420, R424 to R426, R436, R439, R441, R446; 11, R345; 13, R397;
15, R455).
-/
namespace Sys2Proof.Machine

/-! ## Full reset (R455) -/

/-- The chip in reset: every register at its reset value. What lies outside the chip or in fuses and NOR stays: pending
commands, the cartridges that are plugged in, host memory, the NOR device, and TRIP_SEEN, which clears only at power-up. -/
def State.fullReset (s : State) : State :=
  let r := State.reset
  { r with
    pending := s.pending
    freeCtr := s.freeCtr
    nextKey := s.nextKey
    ports := Vector.ofFn fun n : Fin 4 => { Port.reset with cart := { Cart.reset with present := s.ports[n].cart.present } }
    host := { r.host with mem := s.host.mem }
    boot := { r.boot with inReset := true }
    otp := s.otp
    nor := s.nor
    norMiB := s.norMiB
    power := { r.power with tripSeen := s.power.tripSeen, tripped := s.power.tripped } }

/-- RESET_N_ASSERT: RESET_N low holds the chip in a full reset (R455). -/
def execResetNAssert (_t : Nat) (s : State) : Host.Outcome State Fault Refusal := done s.fullReset s.fullReset

/-! ## Stops (R426) -/

/-- Record 0 of the boot committed, then every record held before it, in order (R446). -/
def Studbook.start (b : Studbook) (now : Nat) (code : Half) (p : List Byte) : Studbook :=
  let r : StudRec := ⟨now, now, code, 1, srcChip, payload13 p⟩
  let held := b.held
  let c : Studbook := { b with
    ring := (held ++ [r]).take ringMax, produced := b.produced + 1 + held.length, openRec := held.isEmpty, held := [], booted := true }
  if held.isEmpty then c else (r :: held.reverse).foldl (fun (x : Studbook) (y : StudRec) => x.enqueue now y) c

/-- Record 0 of the boot. -/
def State.startStudbook (s : State) (code : Half) (p : List Byte) : State :=
  ({ s with stud := s.stud.start s.now code p }).startNor

/-- The boot stopped for a reason: engines idle, RUNNING 0, BOOT_STOP. Its record goes to NOR when the device answers. -/
def State.stopBoot (s : State) (reason : Byte) : State :=
  let s := { s with
    boot := { s.boot with stopped := true, running := false, stopReason := reason }
    power := { s.power with domains := s.power.domains ||| 0x400000 } }
  let s := if s.norAnswers then s.locateWritePoint else s
  s.startStudbook 0x0102 [reason, s.boot.slotA.setWidth 8, s.boot.slotB.setWidth 8]

/-! ## Self-test and memory initialisation (R345, R327, R406) -/

/-- Whether every channel has the dies that MEM_CFG declares and the pass period is in range (R315, R346). -/
def State.memConfigOk (s : State) (dies : List (Bool × Bool)) : Bool :=
  let c := s.mem.memCfg
  dies.length == 12 && (dies.all fun d => d == (c.getLsbD 0, c.getLsbD 1))
    && within 600 604800 (bits s.mem.scrubCfg.toNat 0 20)

/-- The stop reason of the self-test, by its steps in order: 6 SELFTEST_SRAM, 7 SELFTEST_MEM, 5 MEM_TRAIN, 4 MEM_CONFIG. -/
def State.selfTestStop (s : State) (e : BootEnv) : Option Byte :=
  if e.sramFail then some 6
  else if e.crcFail then some 7
  else if e.trainFail then some 5
  else if !s.memConfigOk e.dies then some 4
  else if e.poisonFail || e.remapFail || e.zeroFail then some 7
  else none

/-- The steps of R345 that failed, up to the one that stopped the boot: bit n - 1 for step n. -/
def selfTestMask (e : BootEnv) (stop : Option Byte) : Nat :=
  let head := b2n (!e.engineFail.isEmpty) + b2n (e.sramFail || !e.paddockFail.isEmpty) * 2
  if e.sramFail then head
  else if e.crcFail then head + 4
  else if e.trainFail then head + 8
  else if stop = some 4 then head
  else if e.poisonFail then head + 16
  else if e.remapFail then head + 32
  else if e.zeroFail then head + 64
  else head

/-- The engines that the self-test fences. -/
def bootFenced (e : BootEnv) : List (Fin 7) :=
  (List.finRange 7).filter fun g => e.engineFail.contains g || e.paddockFail.contains g

/-- The roles after the self-test: failing engines fenced, the highest passing one spare, the others in service. -/
def State.setRoles (s : State) (fenced : List (Fin 7)) : State :=
  let spare := ((List.finRange 7).filter fun g => !fenced.contains g).getLast?
  { s with engines := Vector.ofFn fun g : Fin 7 => { s.engines[g] with
      role := if fenced.contains g then .fenced else if spare = some g then .spare else .inService } }

/-- The self-test's record, and one for each engine that it fences. -/
def State.logSelfTest (s : State) (e : BootEnv) (stop : Option Byte) : State :=
  let mask := ((bootFenced e).map fun g => 2 ^ g.val).sum
  let s := s.log 0x0103 srcChip [BitVec.ofNat 8 (selfTestMask e stop), BitVec.ofNat 8 mask, stop.getD 0]
  (bootFenced e).foldl (fun (s : State) (g : Fin 7) => s.log 0x0408 (srcEngine g) [3]) s

/-- Main memory after training and initialisation: the window frames valid and zero, every channel trained. -/
def State.initMemory (s : State) : State :=
  { s with mem := { s.mem with
      cells := [], valid := [], checks := [], windowOn := true
      channels := s.mem.channels.map fun (c : Channel) => { c with trained := true } } }

/-! ## The persistent store, remaps and device time (R335, R441, R444) -/

/-- The remap entries of the persistent store reinstalled, with zero data. -/
def State.restoreRemaps (s : State) : State :=
  { s with mem := { s.mem with remaps := (s.store.remaps.zipIdx.filter fun x => x.1.used).map fun x =>
      ⟨x.2 / 32, x.1.channel, x.1.rank, x.1.bank, x.1.dramRow, x.1.line⟩ } }

/-- A BCD byte's value, when both digits are decimal. -/
def bcd (b : Byte) : Option Nat :=
  let n := b.toNat
  if n % 16 < 10 ∧ n / 16 < 10 then some (n / 16 * 10 + n % 16) else none

/-- Days of the months of a year from 2000 to 2099. -/
def monthDays (year : Nat) : List Nat := [31, if year % 4 = 0 then 29 else 28, 31, 30, 31, 30, 31, 31, 30, 31, 30, 31]

/-- The calendar value of seven RTC bytes in ns from 2000-01-01; none for an invalid BCD value. The oscillator bit of the
seconds is not judged. -/
def rtcTime (b : List Byte) : Option Nat :=
  match (List.range 7).map fun i => bcd (if i = 0 then byteAt b 0 &&& 0x7F else byteAt b i) with
  | [some sec, some min, some hour, some _, some date, some month, some year] =>
    let days := monthDays year
    if sec < 60 ∧ min < 60 ∧ hour < 24 ∧ 1 ≤ month ∧ month ≤ 12 ∧ 1 ≤ date ∧ date ≤ days.getD (month - 1) 0 then
      let day := 365 * year + (year + 3) / 4 + (days.take (month - 1)).sum + (date - 1)
      some ((((day * 24 + hour) * 60 + min) * 60 + sec) * second)
    else none
  | _ => none

/-- The RTC read until two consecutive reads agree, at most three times: the bytes, or the code of RTC_INVALID. -/
def readRtc (l : List RtcRead) : Except Byte (List Byte) :=
  match l.getD 0 none, l.getD 1 none with
  | none, _ => .error 0
  | _, none => .error 0
  | some a, some b =>
    if a = b then .ok b
    else match l.getD 2 none with
      | none => .error 0
      | some c => if b = c then .ok c else .error 3

/-- The step that anchors device time, from the count so far: the calendar value, or the code of RTC_INVALID. -/
def rtcAnchor (l : List RtcRead) (now : Nat) : Except Byte Nat :=
  match readRtc l with
  | .error e => .error e
  | .ok b => match rtcTime b with
    | none => .error 1
    | some v => if (byteAt b 0).getLsbD 7 then .error 2 else if v ≤ now then .error 4 else .ok v

/-- Device time anchored. -/
def State.anchorTime (s : State) (l : List RtcRead) : State :=
  if s.boot.limits.rtcKind ≠ 1 then s
  else match rtcAnchor l s.now with
    | .error e => s.log 0x0105 srcChip [e]
    | .ok v => { s.shiftTimes (v - s.now) with boot := { (s.shiftTimes (v - s.now)).boot with timeSource := 1 } }

/-- The step of the boot that reads the store: BOOTS counts this boot, and is committed within 1 s. -/
def State.openStore (s : State) (fences : Nat) (rtc : List RtcRead) : State :=
  let s := ((s.readStore.countLife 0 1).countLife 5 fences)
  let s := { s with store := { s.store with urgent := true } }
  (s.restoreRemaps.locateWritePoint).anchorTime rtc

/-! ## Recipes and overlays (R436, R439) -/

/-- The recipe in a NOR copy, when it qualifies. -/
def State.copyRecipe (s : State) (e : RecipeExtent) (copy : Nat) : Option Recipe :=
  let a := if copy = 0 then e.copy0 else e.copy1
  let len := recLength (s.norBytes a 12)
  if s.norBytes a 4 != ascii "MOSL" ∨ len > e.bytes ∨ len < 376 then none
  else
    let b := s.norBytes a len
    let r := recipeImage b copy
    if leAt b 255 1 == 0x5A && s.recipeSigned b && (r.fault [] false).isNone && decide (s.otp.recipeSvn ≤ r.svn) then some r
    else none

/-- The copy of a used slot that binds: the higher SEQ, on a tie copy 0. -/
def State.bootRecipe (s : State) (e : RecipeExtent) : Option Recipe :=
  if !e.used then none
  else match s.copyRecipe e 0, s.copyRecipe e 1 with
    | some a, some b => some (if a.seq < b.seq then b else a)
    | some a, none => some a
    | none, x => x

/-- An overlay entry that is committed and whose digest verifies: its SEQ, whether it activates, its target and its overlay. -/
def State.overlayAt (s : State) (k : Nat) : Option (Nat × Bool × List Byte × Overlay) :=
  match s.overlaySeq k with
  | none => none
  | some seq =>
    let n := 128 + leNat (s.norBytes (overlayAddr k + 24) 4)
    if n + 64 > 524287 then none
    else
      let b := s.norBytes (overlayAddr k) (n + 64)
      let dig := digest (b.take n)
      if b.drop n == dig then some (seq, leAt b 8 1 == 1, sliceAt b 64 64, ⟨leAt b 7 1, dig, sliceAt b 128 (n - 128)⟩) else none

/-- The overlay that a bound recipe is reapplied with: of the slot's entries the one of the higher SEQ, when it is an
activation for that recipe. -/
def State.bootOverlay (s : State) (slot : Nat) (r : Recipe) : Option Overlay :=
  let pick := match s.overlayAt (2 * slot), s.overlayAt (2 * slot + 1) with
    | some a, some b => some (if a.1 < b.1 then b else a)
    | some a, none => some a
    | none, x => x
  match pick with
  | some (_, true, target, o) => if target = r.digest then some o else none
  | _ => none

/-- Every used recipe slot bound to its qualifying copy and overlay. -/
def State.bindRecipes (s : State) : State :=
  let slots := Vector.ofFn fun n : Fin 16 =>
    match s.bootRecipe (s.boot.extents.getD n.val ⟨false, 0, 0, 0⟩) with
    | some r => { RecipeSlot.empty with bound := some r, overlay := s.bootOverlay n.val r }
    | none => RecipeSlot.empty
  { s with boot := { s.boot with recipes := slots } }

/-! ## Ports, streams, plan 0 and cartridges (R38, R67, R78, R258) -/

/-- The ports as ROM enables them after the script: each check's refusals reported in the order of R38. -/
def State.enablePorts (s : State) : State :=
  let faults := s.portFaults
  faults.foldl (fun (s : State) (f : Nat × List (Fin 4)) =>
    f.2.foldl (fun (s : State) (n : Fin 4) => (s.refusePort n).log 0x0202 (srcPort n) [BitVec.ofNat 8 f.1]) s) s

/-- The streams as ROM enables them. -/
def State.enableStreams (s : State) : State :=
  (List.finRange 64).foldl (fun (s : State) (n : Fin 64) =>
    if !s.cfgStream n then s
    else if s.streamBad n then s.log 0x0301 (srcStream n.val) []
    else s.onStream n fun x => { x with enabled := true, boundPart := Fin.ofNat 6 (s.streamPart n) }) s

/-- Plan 0 applied: a failing plan check leaves every partition unbound. -/
def State.applyPlan0 (s : State) : State :=
  let plan := s.planAt 0
  let (fault, vs) := s.evalPlan plan
  let s := s.reportRejects 0 fault vs
  let kept := if fault.isSome then [] else keptVerdicts vs
  let s := (s.growEngines (bindCounts kept plan)).countEngines
  let s := (List.finRange 6).foldl (fun (s : State) (p : Fin 6) => match kept.find? (fun v => v.1 == p.val), descIn plan p with
    | some v, some d => s.bindPart p d v.2.1 v.2.2
    | _, d => s.unbindPart p d) s
  let s := s.settleSlotPlans
  (List.finRange 4).foldl (fun (s : State) (n : Fin 4) => s.onPort n fun x => { x with boundPart := planPort plan n }) s

/-- The cartridges of the configured ports authenticated. -/
def State.bootCarts (s : State) (l : List CartExchange) : State :=
  s.cfgPorts.foldl (fun (s : State) (n : Fin 4) =>
    (s.startAuth n).runAuth n (l.getD n.val ⟨.noResponse, .noResponse, .noResponse⟩)) s

/-- The causes at any line boundary, and the outputs they set, of every transport once its ports are enabled and its cartridges
authenticated (R40, R42). -/
def State.bootTransports (s : State) : State :=
  (List.finRange 4).foldl (fun (s : State) (t : Fin 4) => if (s.tports t).isEmpty then s else (s.settleHolds t).settlePins t) s

/-- The domains that are on once the boot has ended (R461). -/
def State.bootDomains (s : State) : BitVec 24 :=
  let engine := ((List.finRange 7).map fun e =>
    if s.engines[e].part.isSome || s.engines[e].role == .spare then 2 ^ e.val + 2 ^ (7 + e.val) else 0).sum
  let scan := b2n (!s.cfgPorts.isEmpty)
  let dec := b2n ((List.finRange 64).any fun n => s.cfgStream n)
  BitVec.ofNat 24 (engine + 0xC000 + 0x10000 + 0x20000 + 0x40000 + 0x80000 + scan * 0x100000 + dec * 0x200000 + 0xC00000)

/-- KEY_ROTATE's result: 0 none, 1 fused, 2 full. -/
def State.rotateResult (s : State) : Byte :=
  if s.boot.rotateKey.isNone then 0 else if s.otp.ownerKeys.any fun k => k == [] then 1 else 2

/-! ## BOOT (R425) -/

/-- The first step: CORE_VID moves to the fused code, and the Reins claim epoch 1 (R397, R456). -/
def State.bootReins (s : State) (e : BootEnv) : State :=
  let code := if s.otp.vidFuse = 31 then 30 else s.otp.vidFuse
  let s := { s with
    now := 0
    boot := { s.boot with inReset := false, poweredAt := 0 }
    power := { s.power with vid := code, warnCode := code, target := code } }
  s.claimBoth e.reinPassA e.reinPassB

/-- The last steps, once every check has passed: RUNNING, and the record BOOT. -/
def State.bootFinish (s : State) (e : BootEnv) (delay : Nat) : State :=
  let s := (((s.bindRecipes.enableStreams).applyPlan0).bootCarts e.carts).bootTransports
  let s := { s with
    now := s.now + (e.readyAt - delay)
    boot := { s.boot with running := true }
    power := { s.power with domains := s.bootDomains, requests := [] } }
  s.startStudbook 0x0101 (leBytes 4 s.store.life[(0 : Fin 8)].toNat ++
    [BitVec.ofNat 8 (b2n s.boot.bundleSlot), s.boot.timeSource.setWidth 8, s.rotateResult])

/-- The chosen bundle applied: its register script run, the configuration frozen and the ports enabled. -/
def State.bootScript (s : State) (slot : Nat) : State :=
  let s := s.applyBundle slot
  (s.runScript (bundleScript (s.slotBundle slot))).enablePorts

/-- From the register script on. -/
def State.bootBundle (s : State) (e : BootEnv) (slot : Nat) : State :=
  let s := s.bootScript slot
  let delay := s.now
  let stop := s.selfTestStop e
  let s := s.logSelfTest e stop
  match stop with
  | some r => (s.setRoles (bootFenced e)).stopBoot r
  | none => (((s.setRoles (bootFenced e)).initMemory).openStore (bootFenced e).length e.rtc).bootFinish e delay

/-- The slot that the boot chooses. -/
def State.chosenSlot (s : State) : Option Nat := s.chooseSlot (s.slotResult 0) (s.slotResult 1)

/-- The results of both slots in BOOT_INFO. -/
def State.markSlots (s : State) : State :=
  let mark (r n : Nat) : BitVec 4 := BitVec.ofNat 4 (if r = 0 ∧ s.chosenSlot ≠ some n then 7 else r)
  { s with boot := { s.boot with slotA := mark (s.slotResult 0) 0, slotB := mark (s.slotResult 1) 1 } }

/-- The whole sequence. -/
def State.bootSequence (s : State) (e : BootEnv) : State :=
  let s := s.bootReins e
  if !s.bridle.held then s
  else if !e.sfdp then s.stopBoot 2
  else
    let s := { s with norMiB := e.norMiB }
    if !within 256 2048 e.norMiB then s.stopBoot 3
    else
      match s.chosenSlot with
      | none => s.markSlots.stopBoot 1
      | some n => s.markSlots.bootBundle e n

/-- Whether a boot can start: the chip is not running and has not stopped, and no trip holds it in reset (R426, R467). -/
def State.canBoot (s : State) : Bool := !s.boot.running && !s.boot.stopped && !s.power.tripped

/-- What a boot does. -/
def bootEffect (e : BootEnv) (s : State) : State := if s.canBoot then s.bootSequence e else s

/-- BOOT (R425). -/
def execBoot (env : BootEnv) (s : State) : Host.Outcome State Fault Refusal := done s (bootEffect env s)

/-! ## Fuses (R420, R424) -/

/-- SVN_ADVANCED. -/
def State.logSvn (s : State) (recipe : Bool) (v : Nat) : State :=
  s.log 0x0109 srcChip [BitVec.ofNat 8 (b2n recipe), BitVec.ofNat 8 v]

/-- The SVN fuses blown up to the running bundle's, and to each bound recipe's, where they ask for it. -/
def svnEffect (s : State) : State :=
  if !s.up then s
  else
    let s := if s.boot.advance && decide (s.otp.bundleSvn < s.boot.svn) then
        ({ s with otp := { s.otp with bundleSvn := s.boot.svn } }).logSvn false s.boot.svn
      else s
    (List.finRange 16).foldl (fun (s : State) (n : Fin 16) => match s.boot.recipes[n].bound with
      | some r =>
        if bit r.rflags 0 && decide (s.otp.recipeSvn < r.svn) then
          ({ s with otp := { s.otp with recipeSvn := r.svn } }).logSvn true r.svn
        else s
      | none => s) s

/-- SVN_ADVANCE (R424, R437). -/
def execSvnAdvance (t : Nat) (s : State) : Host.Outcome State Fault Refusal := done s (svnEffect (s.at t))

/-- A digest fused into the lowest blank owner slot; a full list changes nothing. -/
def fuseKey (keys : List (List Byte)) (d : List Byte) : List (List Byte) :=
  match keys.findIdx? fun k => k == [] with
  | some i => modAt keys i fun _ => d
  | none => keys

/-- The owner keys and revocations that the running bundle names, fused once per boot. -/
def keyEffect (s : State) : State :=
  let b := s.boot
  if !s.up ∨ b.keysFused then s
  else
    let keys := if b.provision then modAt s.otp.ownerKeys 0 fun _ => digest b.bundleKey else s.otp.ownerKeys
    let keys := match b.rotateKey with
      | some k => fuseKey keys (digest k)
      | none => keys
    let own : BitVec 4 := 1 <<< b.keyIndex
    { s with
      otp := { s.otp with ownerKeys := keys, revoked := s.otp.revoked ||| (b.revokeMask &&& ~~~own) }
      boot := { b with keysFused := true } }

/-- KEY_FUSE (R420). -/
def execKeyFuse (t : Nat) (s : State) : Host.Outcome State Fault Refusal := done s (keyEffect (s.at t))

end Sys2Proof.Machine
end

