-- ==== Sys2Proof/Machine/Power.lean ====
section
/-!
DEFINITION. Power, clocks and temperature: supply holds, resets, the core voltage, thermal throttle and trip, and the power
domains (15, R455 to R467; 13, R411, R413).
-/
namespace Sys2Proof.Machine

/-- Power updated. -/
def State.onPower (s : State) (f : Power → Power) : State := { s with power := f s.power }

/-! ## Supply holds (R458, R459) -/

/-- The sides that have started and are not ready marked as touched by a hold (condition (e) of R25). -/
def State.markHold (s : State) : State :=
  { s with sides := s.sides.map fun (x : Side) =>
      if x.tStart.isSome ∧ x.stage ≠ .ready then { x with holdSeen := true } else x }

/-- HOLD_START: the open record closes, HOLD_START follows it and is queued for NOR at once. -/
def State.logHold (s : State) (rails : BitVec 3) : State :=
  let s := { s with stud := s.stud.close s.now }
  let s := s.log 0x0110 srcChip [rails.setWidth 8]
  ({ s with stud := s.stud.close s.now }).startNor

/-- A WARN crossing of monitored rails: the first begins a hold, a later one extends it. -/
def holdStartEffect (rails : BitVec 3) (s : State) : State :=
  if !s.up ∨ rails = 0 then s
  else match s.power.hold with
    | some h => s.onPower fun p => { p with belowWarn := p.belowWarn ||| rails, hold := some { h with rails := h.rails ||| rails } }
    | none =>
      let s := s.onPower fun p => { p with belowWarn := p.belowWarn ||| rails, hold := some ⟨s.now, rails⟩ }
      let s := (s.markHold.logHold rails).countLife 4 1
      let s := (List.finRange 4).foldl State.saveCart s
      s.commitStore

/-- SUPPLY_HOLD_START (R458). -/
def execSupplyHoldStart (rails : BitVec 3) (t : Nat) (s : State) : Host.Outcome State Fault Refusal :=
  done s (holdStartEffect rails (s.at t))

/-- The clocks that a hold stopped set forward by it: a step's watchdog (R265) and a decode's budget (R93). -/
def State.resumeClocks (s : State) (h : Hold) : State :=
  let stopped (t0 : Nat) : Nat := s.now - max t0 h.start
  { s with
    parts := s.parts.map fun (p : Partition) => { p with step := p.step.map fun r => { r with started := r.started + stopped r.started } }
    decoders := s.decoders.map fun (d : Decoder) => { d with run := d.run.map fun r => { r with paused := r.paused + stopped r.started } } }

/-- The end of a hold, at the resumption: 50 us above the resume level at the least. HOLD_END carries the charge. -/
def holdEndEffect (s : State) : State :=
  match s.power.hold with
  | none => s
  | some h =>
    if s.now < h.start + 50000 then s
    else
      let s := (s.resumeClocks h).onPower fun p => { p with hold := none, belowWarn := 0 }
      s.log 0x0111 srcChip (leBytes 4 (min 0xFFFFFFFF (ceilDiv (s.now - h.start) 1000)))

/-- SUPPLY_HOLD_END (R459). -/
def execSupplyHoldEnd (t : Nat) (s : State) : Host.Outcome State Fault Refusal := done s (holdEndEffect (s.at t))

/-! ## Full resets (R455, R460) -/

/-- SUPPLY_RESET: a RESET crossing is a full reset (R460). -/
def execSupplyReset (_t : Nat) (s : State) : Host.Outcome State Fault Refusal := done s.fullReset s.fullReset

/-- PLL_UNLOCK: loss of lock on a PLL is a full reset (R455). -/
def execPllUnlock (_t : Nat) (s : State) : Host.Outcome State Fault Refusal := done s.fullReset s.fullReset

/-! ## The core voltage (R456) -/

/-- The codes added to VID_FUSE at a temperature, with 5 degrees of hysteresis on the way up. -/
def vidBump (was : Nat) (tj : Int) : Nat :=
  if tj < 0 then 2
  else if was = 2 ∧ tj < 5 then 2
  else if tj < 25 then 1
  else if was ≥ 1 ∧ tj < 30 then 1
  else 0

/-- The target code recomputed, clamped to 0 to 30. -/
def vidAdjustEffect (s : State) : State :=
  if !s.up ∨ !s.holderActs then s
  else
    let b := vidBump s.power.bump s.power.tjMax
    s.onPower fun p => { p with bump := b, target := BitVec.ofNat 5 (min 30 (s.otp.vidFuse.toNat + b)) }

/-- VID_ADJUST (R456). -/
def execVidAdjust (t : Nat) (s : State) : Host.Outcome State Fault Refusal := done s (vidAdjustEffect (s.at t))

/-- Whether a voltage step may begin: none is in progress, no hold is, and 100 us have passed since the last. -/
def State.vidReady (s : State) : Bool :=
  s.up && s.holderActs && s.power.hold.isNone && !s.power.stepping && (match s.power.lastStep with
    | some t0 => decide (s.now ≥ t0 + 100000)
    | none => true)

/-- One step towards the target. Raising moves CORE_VID, and the threshold follows at VID_WARN_TRACK; lowering moves the
threshold, and CORE_VID 1 us later. -/
def vidStepEffect (s : State) : State :=
  if !s.vidReady then s
  else if s.power.vid < s.power.target then
    s.onPower fun p => { p with vid := p.vid + 1, stepping := true, lastStep := some s.now }
  else if s.power.target < s.power.vid then
    ({ s with now := s.now + 1000 }).onPower fun p => { p with warnCode := p.vid - 1, vid := p.vid - 1, lastStep := some (s.now + 1000) }
  else s

/-- VID_STEP (R456). -/
def execVidStep (t : Nat) (s : State) : Host.Outcome State Fault Refusal := done s (vidStepEffect (s.at t))

/-- The VDD_CORE threshold raised 50 us after a raising step, a hold notwithstanding. -/
def warnTrackEffect (s : State) : State :=
  match s.power.lastStep with
  | some t0 =>
    if s.power.stepping && decide (s.now ≥ t0 + 50000) then s.onPower fun p => { p with warnCode := p.vid, stepping := false } else s
  | none => s

/-- VID_WARN_TRACK (R456). -/
def execVidWarnTrack (t : Nat) (s : State) : Host.Outcome State Fault Refusal := done s (warnTrackEffect (s.at t))

/-! ## Temperature (R465 to R467) -/

/-- The highest of the readings and the lowest index that gives it. -/
def hottestOf (l : List Int) : Option (Int × Nat) :=
  (l.zipIdx).foldl (fun (b : Option (Int × Nat)) x => match b with
    | none => some x
    | some y => if y.1 < x.1 then some x else some y) none

/-- The throttle level entered or kept at a temperature. -/
def throttleLevel (was : Nat) (tj : Int) : Nat :=
  let entered := if tj ≥ 105 then 3 else if tj ≥ 103 then 2 else if tj ≥ 100 then 1 else 0
  let kept := if was ≥ 3 ∧ tj ≥ 100 then 3 else if was ≥ 2 ∧ tj ≥ 98 then 2 else if was ≥ 1 ∧ tj ≥ 95 then 1 else 0
  max entered kept

/-- The sixteen sensors read: TJ_MAX, HOTTEST, and the throttle that the holder derives. -/
def thermalEffect (temps : List Int) (s : State) : State :=
  match hottestOf (temps.take 16) with
  | none => s
  | some (tj, i) => s.onPower fun p => { p with
      tjMax := tj, hottest := i
      throttle := if s.up && s.holderActs then BitVec.ofNat 2 (throttleLevel p.throttle.toNat tj) else p.throttle }

/-- THERMAL_SAMPLE (R465, R466). -/
def execThermalSample (temps : List Int) (t : Nat) (s : State) : Host.Outcome State Fault Refusal :=
  done s (thermalEffect temps (s.at t))

/-- THERMTRIP: a sensor at 115 degrees drives THERMTRIP_N low and resets the chip (R467). -/
def execThermtrip (_sensor : Fin 16) (_t : Nat) (s : State) : Host.Outcome State Fault Refusal :=
  let r := s.fullReset.onPower fun p => { p with tripSeen := true, tripped := true }
  done r r

/-- Every sensor below 100 degrees after a trip: THERMTRIP_N is released, and the boot can start. -/
def tripReleaseEffect (temps : List Int) (s : State) : State :=
  if temps.length == 16 && temps.all (fun x => decide (x < 100)) then s.onPower fun p => { p with tripped := false } else s

/-- THERMTRIP_RELEASE (R467). -/
def execThermtripRelease (temps : List Int) (t : Nat) (s : State) : Host.Outcome State Fault Refusal :=
  done s (tripReleaseEffect temps (s.at t))

/-! ## Power domains (R461, R462) -/

/-- Whether a requested switch may start: a switch-off at any time, a switch-on when no other is in progress and no supply
hold is. -/
def State.mayStart (s : State) (r : Nat × Bool) : Bool :=
  !r.2 || ((s.power.switching.all fun x => !x.2) && s.power.hold.isNone)

/-- The first requested switch that may start is started. -/
def switchStartEffect (s : State) : State :=
  if !s.up ∨ !s.holderActs then s
  else match s.power.requests.find? s.mayStart with
    | some r => s.onPower fun p => { p with requests := p.requests.erase r, switching := p.switching ++ [r] }
    | none => s

/-- DOMAIN_SWITCH (R462). -/
def execDomainSwitch (t : Nat) (s : State) : Host.Outcome State Fault Refusal := done s (switchStartEffect (s.at t))

/-- What an engine loses with its domains: its state, its paddock and the paddock's remap entries. -/
def Engine.powerOff (e : Engine) : Engine :=
  { e with
    paddock := [], held := none, clips := Vector.replicate 64 ⟨0, 0⟩, scoreLog := [], logUsed := [], lab := [], published := []
    remaps := [], lastFault := 0, busy := false, routeMaps := [] }

/-- The oldest switch in progress ended: DOMAIN_STATUS follows. PD_En and PD_Pn switch together. -/
def switchDoneEffect (s : State) : State :=
  match s.power.switching with
  | [] => s
  | (d, on) :: rest =>
    let mask : BitVec 24 := BitVec.ofNat 24 (2 ^ d + (if d < 7 then 2 ^ (d + 7) else 0))
    let s := s.onPower fun p => { p with
      switching := rest, domains := if on then p.domains ||| mask else p.domains &&& ~~~mask }
    if !on && decide (d < 7) then
      let e := Fin.ofNat 7 d
      { (s.onEngine e Engine.powerOff) with mem := s.mem.forgetFlips [.paddock e, .paddockRemaps e] }
    else s

/-- DOMAIN_SWITCH_DONE (R462). -/
def execDomainSwitchDone (t : Nat) (s : State) : Host.Outcome State Fault Refusal := done s (switchDoneEffect (s.at t))

end Sys2Proof.Machine
end

