-- ==== Sys2Proof/Machine/Dispatch.lean ====
section
/-!
DEFINITION. The dispatch: one arm per command, each one direct call of that command's meaning.
-/
namespace Sys2Proof.Machine

/-- The effect of a command on everything but the queue. -/
def exec (i : Instr) (s : State) : Host.Outcome State Fault Refusal :=
  match i with
  | .broadcastWrite kind offset value t => Sys2Proof.Machine.execBroadcastWrite kind offset value t s
  | .groupWrite kind g offset value t => Sys2Proof.Machine.execGroupWrite kind g offset value t s
  | .broadcastRead kind offset => Sys2Proof.Machine.execBroadcastRead kind offset s
  | .groupRead kind g offset => Sys2Proof.Machine.execGroupRead kind g offset s
  | .registerWrite path value t => Sys2Proof.Machine.execRegisterWrite path value t s
  | .gallopTokenRefill p t => Sys2Proof.Machine.execGallopTokenRefill p t s
  | .sideArrival side t => Sys2Proof.Machine.execSideArrival side t s
  | .admitFromQueue t => Sys2Proof.Machine.execAdmitFromQueue t s
  | .recordReady side items t => Sys2Proof.Machine.execRecordReady side items t s
  | .recordPublish p t => Sys2Proof.Machine.execRecordPublish p t s
  | .laneTrainTimeout port lane t => Sys2Proof.Machine.execLaneTrainTimeout port lane t s
  | .lineBoundary tr paperIn samples t => Sys2Proof.Machine.execLineBoundary tr paperIn samples t s
  | .deskewFlushLine side t => Sys2Proof.Machine.execDeskewFlushLine side t s
  | .coverLevelAccept cover closed t => Sys2Proof.Machine.execCoverLevelAccept cover closed t s
  | .cartRemoval port t => Sys2Proof.Machine.execCartRemoval port t s
  | .cartInsert port t => Sys2Proof.Machine.execCartInsert port t s
  | .cartI2cRetry port response t => Sys2Proof.Machine.execCartI2cRetry port response t s
  | .cartAuthDone port exchange t => Sys2Proof.Machine.execCartAuthDone port exchange t s
  | .cartReauthTimer port t => Sys2Proof.Machine.execCartReauthTimer port t s
  | .calRetryTimer tr t => Sys2Proof.Machine.execCalRetryTimer tr t s
  | .cartCounterCommit port answer t => Sys2Proof.Machine.execCartCounterCommit port answer t s
  | .decodeStart kind unit t => Sys2Proof.Machine.execDecodeStart kind unit t s
  | .decodeDone unit result t => Sys2Proof.Machine.execDecodeDone unit result t s
  | .decodeBudgetExpire unit t => Sys2Proof.Machine.execDecodeBudgetExpire unit t s
  | .fuseWindowExpire side t => Sys2Proof.Machine.execFuseWindowExpire side t s
  | .matmul c => Sys2Proof.Machine.execMatmul c s
  | .vector c => Sys2Proof.Machine.execVector c s
  | .move c => Sys2Proof.Machine.execMove c s
  | .conv c => Sys2Proof.Machine.execConv c s
  | .pool c => Sys2Proof.Machine.execPool c s
  | .argmax c => Sys2Proof.Machine.execArgmax c s
  | .boxnms c => Sys2Proof.Machine.execBoxnms c s
  | .quantize c => Sys2Proof.Machine.execQuantize c s
  | .attend c => Sys2Proof.Machine.execAttend c s
  | .attendMerge c => Sys2Proof.Machine.execAttendMerge c s
  | .kvAppend c => Sys2Proof.Machine.execKvAppend c s
  | .kvEditPin c => Sys2Proof.Machine.execKvEditPin c s
  | .kvEditUnpin c => Sys2Proof.Machine.execKvEditUnpin c s
  | .kvEditDrop c => Sys2Proof.Machine.execKvEditDrop c s
  | .kvEditConvert c => Sys2Proof.Machine.execKvEditConvert c s
  | .kvEditReset c => Sys2Proof.Machine.execKvEditReset c s
  | .kvEditSetGlobals c => Sys2Proof.Machine.execKvEditSetGlobals c s
  | .route c => Sys2Proof.Machine.execRoute c s
  | .exchangeDispatch c => Sys2Proof.Machine.execExchangeDispatch c s
  | .exchangeCombine c => Sys2Proof.Machine.execExchangeCombine c s
  | .exchangeRendezvous p exchId phase => Sys2Proof.Machine.execExchangeRendezvous p exchId phase s
  | .adaptAugment c => Sys2Proof.Machine.execAdaptAugment c s
  | .adaptGrad c => Sys2Proof.Machine.execAdaptGrad c s
  | .adaptStep c => Sys2Proof.Machine.execAdaptStep c s
  | .stepIssue order t => Sys2Proof.Machine.execStepIssue order t s
  | .stepRetire p reports t => Sys2Proof.Machine.execStepRetire p reports t s
  | .stepWatchdog p t => Sys2Proof.Machine.execStepWatchdog p t s
  | .stepFault p t => Sys2Proof.Machine.execStepFault p t s
  | .remount p copyOk t => Sys2Proof.Machine.execRemount p copyOk t s
  | .cmdOverrun engine cmdIndex t => Sys2Proof.Machine.execCmdOverrun engine cmdIndex t s
  | .tagGrant pool who cycles t => Sys2Proof.Machine.execTagGrant pool who cycles t s
  | .memRead cls addr disturb t => Sys2Proof.Machine.execMemRead cls addr disturb t s
  | .memWrite cls addr data t => Sys2Proof.Machine.execMemWrite cls addr data t s
  | .lineRecovery addr refetches source verifyOk t => Sys2Proof.Machine.execLineRecovery addr refetches source verifyOk t s
  | .memSlot ch place disturb t => Sys2Proof.Machine.execMemSlot ch place disturb t s
  | .refreshWindow ch window => Sys2Proof.Machine.execRefreshWindow ch window s
  | .mr4Poll ch codes t => Sys2Proof.Machine.execMr4Poll ch codes t s
  | .dqsRetrain ch t => Sys2Proof.Machine.execDqsRetrain ch t s
  | .currycombLine disturb t => Sys2Proof.Machine.execCurrycombLine disturb t s
  | .sramScrub unit reads t => Sys2Proof.Machine.execSramScrub unit reads t s
  | .shadowReloadDone p t => Sys2Proof.Machine.execShadowReloadDone p t s
  | .rebindDrained t => Sys2Proof.Machine.execRebindDrained t s
  | .rebindComplete t => Sys2Proof.Machine.execRebindComplete t s
  | .inRingEnable t => Sys2Proof.Machine.execInRingEnable t s
  | .inRingDisable => Sys2Proof.Machine.execInRingDisable s
  | .outRingEnable p coalRecords coalUs t => Sys2Proof.Machine.execOutRingEnable p coalRecords coalUs t s
  | .outRingDisable p t => Sys2Proof.Machine.execOutRingDisable p t s
  | .inPoll producer t => Sys2Proof.Machine.execInPoll producer t s
  | .entryFetchDone entries t => Sys2Proof.Machine.execEntryFetchDone entries t s
  | .entryObserve t => Sys2Proof.Machine.execEntryObserve t s
  | .payloadStaged payload truth t => Sys2Proof.Machine.execPayloadStaged payload truth t s
  | .outConsPoll p count t => Sys2Proof.Machine.execOutConsPoll p count t s
  | .coalesceTimeout p t => Sys2Proof.Machine.execCoalesceTimeout p t s
  | .hostStallTimeout p t => Sys2Proof.Machine.execHostStallTimeout p t s
  | .functionLevelReset t => Sys2Proof.Machine.execFunctionLevelReset t s
  | .linkDown t => Sys2Proof.Machine.execLinkDown t s
  | .perstAssert t => Sys2Proof.Machine.execPerstAssert t s
  | .pauseGait seq t => Sys2Proof.Machine.execPauseGait seq t s
  | .resumeGait seq t => Sys2Proof.Machine.execResumeGait seq t s
  | .selectPlan seq t => Sys2Proof.Machine.execSelectPlan seq t s
  | .stageRecipe seq image t => Sys2Proof.Machine.execStageRecipe seq image t s
  | .activateOverlay seq t => Sys2Proof.Machine.execActivateOverlay seq t s
  | .deactivateOverlay seq t => Sys2Proof.Machine.execDeactivateOverlay seq t s
  | .requestAttestation seq t => Sys2Proof.Machine.execRequestAttestation seq t s
  | .verbUnknown code seq t => Sys2Proof.Machine.execVerbUnknown code seq t s
  | .verbOverrun code seq t => Sys2Proof.Machine.execVerbOverrun code seq t s
  | .verbComplete t => Sys2Proof.Machine.execVerbComplete t s
  | .evtSelect number => Sys2Proof.Machine.execEvtSelect number s
  | .hostTime value t => Sys2Proof.Machine.execHostTime value t s
  | .recipeBindSwitch p t => Sys2Proof.Machine.execRecipeBindSwitch p t s
  | .journalEntry seq epoch t => Sys2Proof.Machine.execJournalEntry seq epoch t s
  | .journalAckTimeout t => Sys2Proof.Machine.execJournalAckTimeout t s
  | .heartbeat rein t => Sys2Proof.Machine.execHeartbeat rein t s
  | .heartbeatLost rein t => Sys2Proof.Machine.execHeartbeatLost rein t s
  | .bridleClaim claimA claimB t => Sys2Proof.Machine.execBridleClaim claimA claimB t s
  | .epochSettled t => Sys2Proof.Machine.execEpochSettled t s
  | .setOther writer epoch t => Sys2Proof.Machine.execSetOther writer epoch t s
  | .clearOther writer epoch t => Sys2Proof.Machine.execClearOther writer epoch t s
  | .staleEpoch rein nodeX nodeY t => Sys2Proof.Machine.execStaleEpoch rein nodeX nodeY t s
  | .takeover event => Sys2Proof.Machine.execTakeover event s
  | .reinRestart rein selfTest t => Sys2Proof.Machine.execReinRestart rein selfTest t s
  | .reinRestored rein t => Sys2Proof.Machine.execReinRestored rein t s
  | .reinDoubleLoss passA passB t => Sys2Proof.Machine.execReinDoubleLoss passA passB t s
  | .spareCheck pass t => Sys2Proof.Machine.execSpareCheck pass t s
  | .resetNAssert t => Sys2Proof.Machine.execResetNAssert t s
  | .boot env => Sys2Proof.Machine.execBoot env s
  | .scriptWrite addr value t => Sys2Proof.Machine.execScriptWrite addr value t s
  | .scriptWriteMasked addr value mask t => Sys2Proof.Machine.execScriptWriteMasked addr value mask t s
  | .scriptDelay micros t => Sys2Proof.Machine.execScriptDelay micros t s
  | .svnAdvance t => Sys2Proof.Machine.execSvnAdvance t s
  | .keyFuse t => Sys2Proof.Machine.execKeyFuse t s
  | .storeCommitTimer fast t => Sys2Proof.Machine.execStoreCommitTimer fast t s
  | .studbookRecordClose t => Sys2Proof.Machine.execStudbookRecordClose t s
  | .norOpDone t => Sys2Proof.Machine.execNorOpDone t s
  | .supplyHoldStart rails t => Sys2Proof.Machine.execSupplyHoldStart rails t s
  | .supplyHoldEnd t => Sys2Proof.Machine.execSupplyHoldEnd t s
  | .supplyReset t => Sys2Proof.Machine.execSupplyReset t s
  | .vidAdjust t => Sys2Proof.Machine.execVidAdjust t s
  | .vidStep t => Sys2Proof.Machine.execVidStep t s
  | .vidWarnTrack t => Sys2Proof.Machine.execVidWarnTrack t s
  | .thermalSample temps t => Sys2Proof.Machine.execThermalSample temps t s
  | .thermtrip sensor t => Sys2Proof.Machine.execThermtrip sensor t s
  | .thermtripRelease temps t => Sys2Proof.Machine.execThermtripRelease temps t s
  | .pllUnlock t => Sys2Proof.Machine.execPllUnlock t s
  | .domainSwitch t => Sys2Proof.Machine.execDomainSwitch t s
  | .domainSwitchDone t => Sys2Proof.Machine.execDomainSwitchDone t s
  | .laneAlignmentDone port t => Sys2Proof.Machine.execLaneAlignmentDone port t s
  | .linkUp t => Sys2Proof.Machine.execLinkUp t s
  | .reinInternalFault rein t => Sys2Proof.Machine.execReinInternalFault rein t s
  | .bandwidthTokenRefill cls t => Sys2Proof.Machine.execBandwidthTokenRefill cls t s

end Sys2Proof.Machine
end

