-- ==== Sys2Proof/Safety.lean ====
section
/-!
DEFINITION. The terms in which claims are made: canonical stores, the configuration registers, what the end of any command
may change, and what a command leaves as it was.
-/
namespace Sys2Proof.Machine

/-! ## Canonical stores -/

/-- Every sparse store in its canonical form: main memory and the arena, the paddocks, NOR and the written host memory. -/
def State.storesOk (s : State) : Bool :=
  s.mem.wf && ((List.finRange 7).all fun e => cellsOk 0 s.engines[e].paddock) && cellsOk 0xFF s.nor && cellsOk 0 s.host.mem

/-! ## Configuration (R427) -/

/-- The registers of a port that the register script sets. -/
structure PortConfig where
  portCfg     : Word
  ttPeriod    : Word
  sampleStart : Word
  calCfg      : Word
  calLimits   : Word
  ttEdge      : Vector Word 32
  plane       : Vector Word 4
  deriving DecidableEq, Repr

/-- The configuration registers of a port. -/
def Port.config (p : Port) : PortConfig :=
  ⟨p.portCfg, p.ttPeriod, p.sampleStart, p.calCfg, p.calLimits, p.ttEdge, p.plane⟩

/-- A port without its configuration registers. -/
def Port.bare (p : Port) : Port :=
  { p with
    portCfg := 0, ttPeriod := 0, sampleStart := 0, calCfg := 0, calLimits := 0
    ttEdge := Vector.replicate 32 0, plane := Vector.replicate 4 0 }

/-- The registers that the register script sets and that are frozen after it. -/
structure ConfigRegs where
  feCtrl    : Word
  sideDefA  : Vector Word 8
  sideDefB  : Vector Word 8
  streamA   : Vector Word 64
  streamB   : Vector Word 64
  groupMask : Vector (Vector Word 8) 4
  memCfg    : Word
  scrubCfg  : Word
  ports     : List PortConfig
  deriving DecidableEq, Repr

/-- The configuration registers of the chip. -/
def State.config (s : State) : ConfigRegs :=
  ⟨s.feCtrl, s.sideDefA, s.sideDefB, s.streamA, s.streamB, s.groupMask, s.mem.memCfg, s.mem.scrubCfg
  , (List.finRange 4).map fun n => s.ports[n].config⟩

/-! ## What a command leaves as it was -/

/-- Main memory without its data and without what a read or a write of data touches: the valid-bit map, the check words, the
check bits of SRAM, and each channel's counters and check cache. -/
def Memory.bare (m : Memory) : Memory :=
  { m with
    cells := [], valid := [], checks := [], flipped := []
    channels := m.channels.map fun c => { c with counters := Vector.replicate 9 0, cache := [] } }

/-- A state without what a read or a write of main memory touches: memory's own part, and SRAM_FAILURES, which counts a check line
that a read finds corrupt (R333). -/
def State.unread (s : State) : State :=
  { s with mem := s.mem.bare, host := { s.host with chip := s.host.chip.set Chip.sramFailures 0 } }

/-- One byte of main memory. -/
def Memory.byte (m : Memory) (a : Nat) : Byte := cellsRead 0 m.cells a

/-- The host interface without what the end of any command may change (R354, R367): EVT_NEW and PART_CHANGED, the MSI-X
messages sent or pending, and the partitions that a verb still waits for. -/
def HostIf.quiet (h : HostIf) : HostIf :=
  { h with partChanged := false, evtNew := false, evtSignalAt := none, pba := 0, mem := [], box := { h.box with waitFor := [] } }

/-- A state without device time and without what the end of any command may change. -/
def State.quiet (s : State) : State := { s with now := 0, host := s.host.quiet }

/-- Whether everything that `erase` does not blank is in `t` as it is in `s`. -/
def Kept (erase : State → State) (s t : State) : Prop := erase t.quiet = erase s.quiet

/-- Whether a command answers a next state that satisfies `P`. -/
def Answers (c : Instr) (s : State) (P : State → Prop) : Prop := ∃ t, exec c s = .next t ∧ P t

/-! ## Engine commands (R132 to R139) -/

/-- An engine command as its row runs it: the call, whether the descriptor spells the command of another row, the status of
checks 1 to 7, the footprints it reads and writes, the bytes that are read before its effect, and its effect. -/
structure CmdRun where
  call   : EngCall
  other  : Bool
  judged : Option Half
  reads  : List Foot
  writes : List Foot
  touch  : List Foot
  eff    : State → Effect

/-- The engine commands that complete when they are issued: every row of 04 to 08 but EXCHANGE. -/
def engineCmd (c : Instr) (s : State) : Option CmdRun :=
  match c with
  | .matmul c => some ⟨c, otherOpcode c.desc 0x01, s.judgeMatmul c.engine c.desc, s.matmulReads c.engine c.desc
    , s.matmulWrites c.engine c.desc, s.matmulTouch c.engine (matDesc c.desc)
    , matmulEffect c.engine c.desc (matDesc c.desc) c.upsets⟩
  | .vector c => some ⟨c, otherOpcode c.desc 0x02, s.judgeVector c.engine c.desc, s.vectorReads c.engine c.desc
    , s.vectorWrites c.engine c.desc
    , if (vecDesc c.desc).out0.empty then [] else (vecDesc c.desc).inputs.flatMap fun t => s.tensorTouch c.engine t
    , vectorEffect c.engine c.desc (vecDesc c.desc) c.upsets⟩
  | .move c => some ⟨c, otherOpcode c.desc 0x03, s.judgeMove c.engine c.desc, s.dataFoot c.engine (trefAt c.desc 32)
    , s.dataFoot c.engine (trefAt c.desc 80), s.tensorTouch c.engine (trefAt c.desc 32), moveEffect c.engine c.desc⟩
  | .conv c => some ⟨c, otherOpcode c.desc 0x10, s.judgeConv c.engine c.desc, s.convReads c.engine c.desc
    , s.convWrites c.engine c.desc, s.convTouch c.engine (convDesc c.desc)
    , convEffect c.engine c.desc (convDesc c.desc) c.upsets⟩
  | .pool c => some ⟨c, otherOpcode c.desc 0x11, s.judgePool c.engine c.desc, s.poolReads c.engine c.desc
    , s.poolWrites c.engine c.desc, s.poolTouch c.engine (poolDesc c.desc), poolEffect c.engine c.desc (poolDesc c.desc)⟩
  | .argmax c => some ⟨c, otherOpcode c.desc 0x12, s.judgeArgmax c.engine c.desc, s.dataFoot c.engine (trefAt c.desc 32)
    , s.dataFoot c.engine (trefAt c.desc 80)
      ++ (if bit (leAt c.desc 176 1) 0 then s.dataFoot c.engine (trefAt c.desc 128) else [])
    , s.tensorTouch c.engine (trefAt c.desc 32), argmaxEffect c.engine c.desc⟩
  | .boxnms c => some ⟨c, otherOpcode c.desc 0x13, s.judgeNms c.engine c.desc, s.nmsReads c.engine c.desc
    , s.nmsWrites c.engine c.desc, (nmsDesc c.desc).ins.flatMap fun t => s.tensorTouch c.engine t
    , nmsEffect c.engine (nmsDesc c.desc)⟩
  | .quantize c => some ⟨c, otherOpcode c.desc 0x20, s.judgeQuant c.engine c.desc
    , s.dataFoot c.engine (quantDesc c.desc).inp, s.trefFeet c.engine (quantDesc c.desc).out
    , s.tensorTouch c.engine (quantDesc c.desc).inp, quantEffect c.engine c.desc (quantDesc c.desc)⟩
  | .attend c => some ⟨c, otherOpcode c.desc 0x30 || (dOpcode c.desc == 0x30 && (attDesc c.desc).merges)
    , s.judgeAttend c.engine c.desc, s.attendReads c.engine c.desc, s.attendWrites c.engine c.desc
    , s.attendTouch c.engine (attDesc c.desc), attendEffect c.engine c.desc (attDesc c.desc)⟩
  | .attendMerge c => some ⟨c, otherOpcode c.desc 0x30 || (dOpcode c.desc == 0x30 && !(attDesc c.desc).merges)
    , s.judgeAttend c.engine c.desc, s.attendReads c.engine c.desc, s.attendWrites c.engine c.desc
    , s.attendTouch c.engine (attDesc c.desc), mergeEffect c.engine c.desc (attDesc c.desc)⟩
  | .kvAppend c => some ⟨c, otherOpcode c.desc 0x31, s.judgeAppend c.engine c.desc
    , (appDesc c.desc).tensors.flatMap fun t => s.dataFoot c.engine t, []
    , if (appDesc c.desc).count = 0 then [] else
        ((appDesc c.desc).tensors.flatMap fun t => s.tensorTouch c.engine t)
          ++ lineTouch (s.appendCacheLines c.engine (appDesc c.desc))
    , appendEffect c.engine c.desc (appDesc c.desc)⟩
  | .kvEditPin c => some (edit c 0 changePin)
  | .kvEditUnpin c => some (edit c 1 changeUnpin)
  | .kvEditDrop c => some (edit c 2 changeDrop)
  | .kvEditConvert c => some (edit c 3 (changeConvert (editDesc c.desc).newFmt))
  | .kvEditReset c => some (edit c 4 changeDrop)
  | .kvEditSetGlobals c => some (edit c 5 changeGlobal)
  | .route c => some ⟨c, otherOpcode c.desc 0x40, s.judgeRoute c.engine c.desc
    , (routeDesc c.desc).inputs.flatMap fun t => s.dataFoot c.engine t, s.dataFoot c.engine (routeDesc c.desc).table
    , (routeDesc c.desc).inputs.flatMap fun t => s.tensorTouch c.engine t, routeEffect c.engine c.desc (routeDesc c.desc)⟩
  | .adaptAugment c => some (adapt c 0 (augEffect c.engine c.desc))
  | .adaptGrad c => some (adapt c 1 (gradEffect c.engine c.desc))
  | .adaptStep c => some (adapt c 2 (stepEffect c.engine c.desc))
  | _ => none
where
  /-- The KV_EDIT of EDIT_OP `op`. -/
  edit (c : EngCall) (op : Nat) (change : PageChange) : CmdRun :=
    let x := editDesc c.desc
    let src := if x.op = 5 && !x.src.absent then [x.src] else []
    ⟨c, otherEdit c.desc op, s.judgeEdit c.engine c.desc, src.flatMap fun t => s.dataFoot c.engine t, []
    , (src.flatMap fun t => s.tensorTouch c.engine t) ++ lineTouch (s.editCacheLines c.engine x)
    , editEffect c.engine c.desc x change⟩
  /-- The ADAPT_UPDATE of MODE `m`. -/
  adapt (c : EngCall) (m : Nat) (eff : AdaptDesc → State → Effect) : CmdRun :=
    let x := adaptDesc c.desc
    ⟨c, otherMode c.desc m, s.judgeAdapt c.engine c.desc, x.inputs.flatMap fun t => s.dataFoot c.engine t
    , x.outputs.flatMap fun t => s.dataFoot c.engine t, s.adaptTouch c.engine x, eff x⟩

/-- Whether a command's row issues it on its engine: in service, its descriptor of this row, and nothing in its list before it that
it waits for. `found` are the contract faults found at issue (R293, R295). -/
def Issued (s : State) (c : EngCall) (other : Bool) (found : List Half) : Prop :=
  s.engines[c.engine].role = .inService ∧ other = false ∧ s.issueOf c.engine c.desc = .goes found

/-- The faults found as a command accesses its operands: those of the accesses, those raised outside the engine, and those found at
issue. -/
def faultsOf (s : State) (c : EngCall) (reads writes touch : List Foot) (found : List Half) : List Half :=
  s.accessFaults c.engine c.desc reads writes touch ++ raised { c with hw := c.hw ++ found }

/-- The state in which a command has read its operands. -/
def State.reading (s : State) (c : EngCall) (touch : List Foot) : State := ((s.disturb c).readLines (touchLines touch)).1

/-- Whether the operands of a command can be read: every main-memory line, and every SRAM byte passes its check. -/
def Readable (s : State) (c : EngCall) (touch : List Foot) : Prop :=
  (∀ l ∈ touchLines touch, (s.disturb c).mem.lineBad l = false) ∧ (s.reading c touch).badAccesses touch = []

/-- Whether a command runs to its effect: it issues, its checks pass, no fault is found or raised, and its operands can be read. -/
def CmdRun.passes (x : CmdRun) (s : State) : Prop :=
  Issued s x.call x.other [] ∧ x.judged = none ∧ faultsOf s x.call x.reads x.writes x.touch [] = []
  ∧ Readable s x.call x.touch

/-- The state on which a command that passes has its effect: its operands have been read. -/
def CmdRun.start (x : CmdRun) (s : State) : State := s.reading x.call x.touch

/-- What the end of a command touches: the step of its partition, the counters, ENG_LAST_FAULT and held values of its engine, and
the stores, of which a statement speaks byte by byte. -/
def engineEnds (e : Fin 7) (p : Option (Fin 6)) (s : State) : State :=
  { s with
    engines := (vmod s.engines e fun g => { g with counters := Vector.replicate 32 0, lastFault := 0, held := none }).map fun g =>
      { g with paddock := [] }
    parts := match p with
      | some p => vmod s.parts p fun x => { x with step := none }
      | none => s.parts
    mem := { s.mem.bare with arena := [] } }

/-- The counters of an engine when a command of it ends with a status and flags after `cycles`; `seen` are the faults found with it,
each of which counts (R107, R109, R131, R139). -/
def endCounters (n : Vector DWord 32) (st : Half) (flags : Nat) (seen : List Half) (cycles : Word) : Vector DWord 32 :=
  let n := bumpAt (bumpAt n 0 1) 6 cycles.toNat
  let n := if (st :: seen).contains stResidue then bumpAt n 1 1 else n
  let n := if (st :: seen).contains stScaleInvalid then bumpAt n 11 1 else n
  if flags.testBit 5 then bumpAt n 4 1 else n

/-- How a command ends (R107, R138, R139, R143) with a status and flags, between the state `m` at its end and the next one: its
engine counts it, a cell command that fails leaves nothing held, its step hears of it, its completion word stands in its place
(unless that is in a main-memory line that cannot be read), and every other byte and all the rest is as in `m`. -/
def Ended (c : EngCall) (st : Half) (flags : Nat) (m u : State) (seen : List Half := []) : Prop :=
  let e := c.engine
  let place := m.locate e (dComplSpace c.desc) (dComplAddr c.desc) 16
  (u.engines[e].counters = endCounters m.engines[e].counters st flags seen c.cycles)
  ∧ u.engines[e].lastFault = (if st = stOk then m.engines[e].lastFault else st)
  ∧ u.engines[e].held = (if st ≠ stOk ∧ cellCommand c.desc = true then none else m.engines[e].held)
  ∧ (∀ p, m.engines[e].part = some p → u.parts[p].step =
      m.parts[p].step.map fun r => r.retire e c.desc (if st = stOk then none else some (faultOf m e c.desc st)))
  ∧ (∀ f, dComplAddr c.desc % 16 = 0 → place = .ok f → (f.store = .main → m.mem.lineBad (lineOf f.lo) = false) →
      u.peek f.store f.lo 16 = complWord c.desc st flags c.cycles)
  ∧ (∀ (w : Store) (a : Nat), (∀ f, place = .ok f → w ≠ f.store ∨ a < f.lo ∨ f.lo + 16 ≤ a) → u.peek w a 1 = m.peek w a 1)
  ∧ Kept (engineEnds e m.engines[e].part) m u

end Sys2Proof.Machine
end

