-- ==== Sys2Proof/WellFormed.lean ====
section
/-!
DEFINITION. Which commands are well formed: operands in the ranges that the structures they stand for can hold. The
meanings are total and never ask for it.
-/
namespace Sys2Proof.WellFormed

/-- An offset in a 64 KiB window, 4-byte aligned (R7). -/
def windowOffset (off : Nat) : Bool := decide (off < 0x10000) && off % 4 == 0

/-- A 44-bit register-space address, 4-byte aligned (R3, R427). -/
def spaceAddr (a : Nat) : Bool := decide (a < 0x100000000000) && a % 4 == 0

/-- A register write: a 32-bit value for a 4-byte access; BAR0 is 64 KiB (R349). -/
def regWrite (path : RegPath) (value : DWord) : Bool :=
  match path with
  | .dev a => spaceAddr a && decide (value.toNat < 4294967296)
  | .bar0 o size => decide (o < 0x10000) && decide (size ≤ 8) && (size == 8 || decide (value.toNat < 4294967296))

/-- A descriptor: a whole number of 8-byte units, its header at the least (R132). -/
def engineCall (c : EngCall) : Bool := decide (32 ≤ c.desc.length) && c.desc.length % 8 == 0

/-- An item whose counts fit its fields (R375, R376). -/
def item : Item → Bool
  | .textLine _ _ _ chars _ text charConf => decide (text.length < 65536) && charConf.length == chars.toNat
  | .field _ _ _ boxes value => decide (boxes.length < 256) && decide (value.length < 65536)

/-- The samples of a line period: at most four ports, each sample of 12 bits at the most (R33). -/
def lineSamples (l : List (List Nat)) : Bool := decide (l.length ≤ 4) && l.all fun p => p.all fun x => decide (x < 4096)

/-- A 44-bit device address (R3). -/
def devAddr (a : Nat) : Bool := decide (a < 0x100000000000)

/-- A write of up to 64 bytes that lie in one line (R283, R324). -/
def lineWrite (addr : Nat) (data : List Byte) : Bool :=
  devAddr addr && decide (1 ≤ data.length) && decide (addr % 64 + data.length ≤ 64)

/-- At most two refetches, and a source of one whole line (R328). -/
def recovery (refetches : List Bool) (source : Option (List Byte)) : Bool :=
  decide (refetches.length ≤ 2) && (match source with
    | some b => b.length == 64
    | none => true)

/-- Entries of one read: up to 16 of 64 bytes (R358, R359). -/
def entries (l : Option (List (List Byte × List Byte))) : Bool :=
  match l with
  | some es => decide (es.length ≤ 16) && es.all fun e => e.1.length == 64
  | none => true

/-- The sixteen sensors, each an 8-bit reading (R465). -/
def temps (l : List Int) : Bool := l.length == 16 && l.all fun x => decide (-128 ≤ x) && decide (x ≤ 127)

/-- What a boot finds: twelve channels, at most three RTC reads of seven bytes, four cartridges (R315, R441, R62). -/
def bootEnv (e : BootEnv) : Bool :=
  e.dies.length == 12 && decide (e.rtc.length ≤ 3) && (e.rtc.all fun r => match r with
    | some b => b.length == 7
    | none => true) && e.carts.length == 4

/-- A context id of 20 bits (R269). -/
def reports (l : List CtxReport) : Bool := l.all fun r => decide (r.ctx < 1048576)

/-- A class with a token bucket (R339). -/
def bucketClass : MemClass → Bool
  | .frontEnd => true
  | .part _ => true
  | .recovery => true
  | .slot _ _ => false
  | .other => false

/-- An MR4 answer of at least one die (R317). -/
def mr4 (codes : List (BitVec 3)) : Bool := !codes.isEmpty

/-- A crossing of at least one monitored rail (R457). -/
def rails (r : BitVec 3) : Bool := r != 0

/-- A verb code that is not assigned (R383). -/
def unknownVerb (code : Byte) : Bool := code == 0 || decide (8 ≤ code.toNat)

/-- A delay that a script entry can hold (R427). -/
def scriptDelay (micros : Nat) : Bool := decide (1 ≤ micros) && decide (micros ≤ 10000)

end Sys2Proof.WellFormed

namespace Sys2Proof

/-- Whether a command is well formed. -/
def wellFormed (i : Instr) : Bool :=
  match i with
  | .broadcastWrite _ offset _ _ => WellFormed.windowOffset offset
  | .groupWrite _ _ offset _ _ => WellFormed.windowOffset offset
  | .broadcastRead _ offset => WellFormed.windowOffset offset
  | .groupRead _ _ offset => WellFormed.windowOffset offset
  | .registerWrite path value _ => WellFormed.regWrite path value
  | .gallopTokenRefill _ _ => true
  | .sideArrival _ _ => true
  | .admitFromQueue _ => true
  | .recordReady _ items _ => items.all WellFormed.item
  | .recordPublish _ _ => true
  | .laneTrainTimeout _ _ _ => true
  | .lineBoundary _ _ samples _ => WellFormed.lineSamples samples
  | .deskewFlushLine _ _ => true
  | .coverLevelAccept _ _ _ => true
  | .cartRemoval _ _ => true
  | .cartInsert _ _ => true
  | .cartI2cRetry _ _ _ => true
  | .cartAuthDone _ _ _ => true
  | .cartReauthTimer _ _ => true
  | .calRetryTimer _ _ => true
  | .cartCounterCommit _ _ _ => true
  | .decodeStart _ _ _ => true
  | .decodeDone _ _ _ => true
  | .decodeBudgetExpire _ _ => true
  | .fuseWindowExpire _ _ => true
  | .matmul c => WellFormed.engineCall c
  | .vector c => WellFormed.engineCall c
  | .move c => WellFormed.engineCall c
  | .conv c => WellFormed.engineCall c
  | .pool c => WellFormed.engineCall c
  | .argmax c => WellFormed.engineCall c
  | .boxnms c => WellFormed.engineCall c
  | .quantize c => WellFormed.engineCall c
  | .attend c => WellFormed.engineCall c
  | .attendMerge c => WellFormed.engineCall c
  | .kvAppend c => WellFormed.engineCall c
  | .kvEditPin c => WellFormed.engineCall c
  | .kvEditUnpin c => WellFormed.engineCall c
  | .kvEditDrop c => WellFormed.engineCall c
  | .kvEditConvert c => WellFormed.engineCall c
  | .kvEditReset c => WellFormed.engineCall c
  | .kvEditSetGlobals c => WellFormed.engineCall c
  | .route c => WellFormed.engineCall c
  | .exchangeDispatch c => WellFormed.engineCall c
  | .exchangeCombine c => WellFormed.engineCall c
  | .exchangeRendezvous _ _ _ => true
  | .adaptAugment c => WellFormed.engineCall c
  | .adaptGrad c => WellFormed.engineCall c
  | .adaptStep c => WellFormed.engineCall c
  | .stepIssue _ _ => true
  | .stepRetire _ reports _ => WellFormed.reports reports
  | .stepWatchdog _ _ => true
  | .stepFault _ _ => true
  | .remount _ _ _ => true
  | .cmdOverrun _ _ _ => true
  | .tagGrant _ _ _ _ => true
  | .memRead _ addr _ _ => WellFormed.devAddr addr
  | .memWrite _ addr data _ => WellFormed.lineWrite addr data.bytes
  | .lineRecovery _ refetches source _ _ => WellFormed.recovery refetches source
  | .memSlot _ _ _ _ => true
  | .refreshWindow _ _ => true
  | .mr4Poll _ codes _ => WellFormed.mr4 codes
  | .dqsRetrain _ _ => true
  | .currycombLine _ _ => true
  | .sramScrub _ _ _ => true
  | .shadowReloadDone _ _ => true
  | .rebindDrained _ => true
  | .rebindComplete _ => true
  | .inRingEnable _ => true
  | .inRingDisable => true
  | .outRingEnable _ _ _ _ => true
  | .outRingDisable _ _ => true
  | .inPoll _ _ => true
  | .entryFetchDone es _ => WellFormed.entries es
  | .entryObserve _ => true
  | .payloadStaged _ _ _ => true
  | .outConsPoll _ _ _ => true
  | .coalesceTimeout _ _ => true
  | .hostStallTimeout _ _ => true
  | .functionLevelReset _ => true
  | .linkDown _ => true
  | .perstAssert _ => true
  | .pauseGait _ _ => true
  | .resumeGait _ _ => true
  | .selectPlan _ _ => true
  | .stageRecipe _ _ _ => true
  | .activateOverlay _ _ => true
  | .deactivateOverlay _ _ => true
  | .requestAttestation _ _ => true
  | .verbUnknown code _ _ => WellFormed.unknownVerb code
  | .verbOverrun _ _ _ => true
  | .verbComplete _ => true
  | .evtSelect _ => true
  | .hostTime _ _ => true
  | .recipeBindSwitch _ _ => true
  | .journalEntry _ _ _ => true
  | .journalAckTimeout _ => true
  | .heartbeat _ _ => true
  | .heartbeatLost _ _ => true
  | .bridleClaim _ _ _ => true
  | .epochSettled _ => true
  | .setOther _ _ _ => true
  | .clearOther _ _ _ => true
  | .staleEpoch _ _ _ _ => true
  | .takeover _ => true
  | .reinRestart _ _ _ => true
  | .reinRestored _ _ => true
  | .reinDoubleLoss _ _ _ => true
  | .spareCheck _ _ => true
  | .resetNAssert _ => true
  | .boot env => WellFormed.bootEnv env
  | .scriptWrite addr _ _ => WellFormed.spaceAddr addr
  | .scriptWriteMasked addr _ _ _ => WellFormed.spaceAddr addr
  | .scriptDelay micros _ => WellFormed.scriptDelay micros
  | .svnAdvance _ => true
  | .keyFuse _ => true
  | .storeCommitTimer _ _ => true
  | .studbookRecordClose _ => true
  | .norOpDone _ => true
  | .supplyHoldStart r _ => WellFormed.rails r
  | .supplyHoldEnd _ => true
  | .supplyReset _ => true
  | .vidAdjust _ => true
  | .vidStep _ => true
  | .vidWarnTrack _ => true
  | .thermalSample l _ => WellFormed.temps l
  | .thermtrip _ _ => true
  | .thermtripRelease l _ => WellFormed.temps l
  | .pllUnlock _ => true
  | .domainSwitch _ => true
  | .domainSwitchDone _ => true
  | .laneAlignmentDone _ _ => true
  | .linkUp _ => true
  | .reinInternalFault _ _ => true
  | .bandwidthTokenRefill cls _ => WellFormed.bucketClass cls

end Sys2Proof
end

