-- ==== Sys2Proof/Certificates/Slice0/Obligations.lean ====
section
/-!
DEFINITION. The statements for the provers. `Answers c s P` says that the command `c` on the state `s` answers a next state that
satisfies `P`, and `Kept erase s u` that everything `erase` does not blank is in `u` as it is in `s` (device time, EVT_NEW,
PART_CHANGED, what MSI-X writes or pends and the partitions a verb waits for aside, which the end of any command may change).
-/
open Sys2Proof Sys2Proof.Machine

/-- For every state with a command c at the front of its queue, a step of the machine is exec of c on that state with
the queue's rest. Model readings it rests on: log entry 8. -/
def Obligations.StepRunsFront : Prop :=
  ∀ (s : State) (c : Instr) (rest : List Instr), s.pending = c :: rest → step s = exec c { s with pending := rest }

/-- When GROUP_MASKg of a kind is zero, a group write at any offset by an access that reaches the register space (of
the script before the freeze, or of the Rein that holds the Bridle) completes, writes nothing and sets GROUP_EMPTY of
the kind, and a group read completes, returns 0 and sets GROUP_EMPTY; nothing else changes. Any other access answers a
bus error and changes nothing. -/
def Obligations.EmptyGroupAccess : Prop :=
  ∀ (s : State) (kind : Fin 4) (g : Fin 8) (off : Nat) (value : Word) (t : Nat), (s.groupMask[kind])[g] = 0 →
    let erase : State → State := fun x => { x with
      reply := .none, kindStatus := vmod x.kindStatus kind fun k => { k with groupEmpty := false } }
    (s.reachesRegs = true →
      Answers (.groupWrite kind g off value t) s (fun u =>
        u.kindStatus[kind].groupEmpty = true ∧ u.reply = .none ∧ Kept erase s u)
      ∧ Answers (.groupRead kind g off) s (fun u =>
        u.kindStatus[kind].groupEmpty = true ∧ u.reply = .value 0 ∧ Kept erase s u))
    ∧ (s.reachesRegs = false → ∀ c ∈ [Instr.groupWrite kind g off value t, .groupRead kind g off],
        Answers c s fun u => u.reply = .busError ∧ Kept (fun x => { x with reply := .none }) s u)

/-- Before the configuration is frozen, a broadcast write to the sensor-port kind at the offset of a configuration
register completes with no error: in every port that register takes the value in the bits software may write and keeps
the others, every other port register at an aligned offset stays, and nothing else in the machine changes. Model
readings it rests on: log entry 125. -/
def Obligations.BroadcastWriteReachesEveryPort : Prop :=
  ∀ (s : State) (off : Nat) (r : RegRule) (value : Word) (t : Nat),
    s.boot.frozen = false → off < 0x10000 → unitRule 1 off = some r → r.rw ≠ 0 →
    Answers (.broadcastWrite 1 off value t) s fun u =>
      u.reply = .none
      ∧ (∀ n : Fin 4, u.unitReg 1 n.val off
          = (s.unitReg 1 n.val off &&& ~~~(BitVec.ofNat 32 r.rw)) ||| (value &&& BitVec.ofNat 32 r.rw))
      ∧ (∀ (n : Fin 4) (o : Nat), o % 4 = 0 → o ≠ off → u.unitReg 1 n.val o = s.unitReg 1 n.val o)
      ∧ Kept (fun x => { x with ports := x.ports.map Port.bare, reply := .none }) s u

/-- Before the configuration is frozen, a group write to a sensor-port group with a member, at the offset of a
configuration register, completes and writes exactly the member ports. A group write that reaches the register space,
at the offset of an engine register, completes, changes no engine and sets FENCED_SKIP exactly when a member is fenced
(or it was set before). Model readings it rests on: log entry 125. -/
def Obligations.GroupWriteReachesMembers : Prop :=
  (∀ (s : State) (g : Fin 8) (off : Nat) (r : RegRule) (value : Word) (t : Nat),
    s.boot.frozen = false → (s.groupMask[(1 : Fin 4)])[g] ≠ 0 → off < 0x10000 → unitRule 1 off = some r → r.rw ≠ 0 →
    Answers (.groupWrite 1 g off value t) s fun u =>
      u.reply = .none
      ∧ (∀ n : Fin 4, u.unitReg 1 n.val off = if ((s.groupMask[(1 : Fin 4)])[g]).getLsbD n.val then
          (s.unitReg 1 n.val off &&& ~~~(BitVec.ofNat 32 r.rw)) ||| (value &&& BitVec.ofNat 32 r.rw)
        else s.unitReg 1 n.val off)
      ∧ (∀ (n : Fin 4) (o : Nat), o % 4 = 0 → o ≠ off → u.unitReg 1 n.val o = s.unitReg 1 n.val o)
      ∧ Kept (fun x => { x with ports := x.ports.map Port.bare, reply := .none }) s u)
  ∧ (∀ (s : State) (g : Fin 8) (off : Nat) (value : Word) (t : Nat),
    s.reachesRegs = true → (s.groupMask[(0 : Fin 4)])[g] ≠ 0 → off = 0 ∨ off = 4 →
    Answers (.groupWrite 0 g off value t) s fun u =>
      u.reply = .none
      ∧ (u.kindStatus[(0 : Fin 4)].fencedSkip = true ↔ s.kindStatus[(0 : Fin 4)].fencedSkip = true
          ∨ ∃ e : Fin 7, ((s.groupMask[(0 : Fin 4)])[g]).getLsbD e.val = true ∧ s.engines[e].role = .fenced)
      ∧ Kept (fun x => { x with
          reply := .none, kindStatus := vmod x.kindStatus 0 fun k => { k with fencedSkip := false } }) s u)

/-- A broadcast read, or a group read whose mask is not zero, at the offset of a register, by an access that reaches
the register space, completes: the reply is the value of the lowest member that is not fenced; when another member
that is not fenced differs, MISMATCH is set and FIRST_DIFFER is the lowest such index, and when none differs
KIND_STATUS stays; nothing else changes. Any other access answers a bus error and changes nothing. Model readings it
rests on: log entry 125. -/
def Obligations.GroupReadComparesMembers : Prop :=
  ∀ (s : State) (kind : Fin 4) (off : Nat), unitRule kind off ≠ none →
    let Reads (c : Instr) (members : List Nat) : Prop :=
      ∀ (m : Nat) (rest : List Nat), members.filter (fun i => !s.unitFenced kind i) = m :: rest →
        s.reachesRegs = true → Answers c s fun u =>
          u.reply = .value ((s.unitReg kind m off).setWidth 64)
          ∧ (∀ w ∈ rest, s.unitReg kind w off ≠ s.unitReg kind m off →
              (∀ v ∈ rest, v < w → s.unitReg kind v off = s.unitReg kind m off) →
              u.kindStatus[kind].mismatch = true ∧ u.kindStatus[kind].firstDiffer = BitVec.ofNat 5 w)
          ∧ ((∀ w ∈ rest, s.unitReg kind w off = s.unitReg kind m off) → u.kindStatus = s.kindStatus)
          ∧ Kept (fun x => { x with
              reply := .none
              kindStatus := vmod x.kindStatus kind fun k => { k with mismatch := false, firstDiffer := 0 } }) s u
    Reads (.broadcastRead kind off) (List.range (built kind))
    ∧ (∀ g : Fin 8, (s.groupMask[kind])[g] ≠ 0 →
        Reads (.groupRead kind g off) ((List.range (built kind)).filter fun i => ((s.groupMask[kind])[g]).getLsbD i))
    ∧ (s.reachesRegs = false → ∀ (g : Fin 8), ∀ c ∈ [Instr.broadcastRead kind off, .groupRead kind g off],
        Answers c s fun u => u.reply = .busError ∧ Kept (fun x => { x with reply := .none }) s u)

/-- While the host may write, a write of HOST_TIME (as its own row or as an 8-byte write at 0x128) completes. When
TIME_SOURCE is NONE, no sheet has been committed and no input entry fetched since boot, TIME exceeds device time, and
no earlier write took effect, device time becomes TIME, TIME_SOURCE becomes HOST, and a record TIME_SET carries the
size of the step; the memory, the engines, the partitions, the ports, the sides and the streams stay but for the
instants at which token buckets were last refilled. Every other write changes nothing. -/
def Obligations.HostTimeTakesEffectOnce : Prop :=
  ∀ (s : State) (v : DWord) (t : Nat), s.hostWrites = true →
    let Free : Prop := s.boot.timeSource = 0 ∧ s.boot.anySheet = false ∧ s.boot.anyEntry = false
      ∧ max s.now t < v.toNat ∧ s.boot.hostTimed = false
    ∀ c ∈ [Instr.hostTime v t, Instr.registerWrite (.bar0 0x128 8) v t],
      (Free → Answers c s fun u =>
        u.now = v.toNat ∧ u.boot.timeSource = 2 ∧ u.boot.hostTimed = true
        ∧ u.stud = s.stud.event v.toNat 0x0104 srcHost (leBytes 8 (v.toNat - max s.now t))
        ∧ u.mem = { s.mem with bwTime := u.mem.bwTime }
        ∧ (∀ p : Fin 6, u.parts[p] = { s.parts[p] with tokenTime := u.parts[p].tokenTime })
        ∧ u.engines = s.engines ∧ u.ports = s.ports ∧ u.sides = s.sides ∧ u.streams = s.streams)
      ∧ (¬ Free → Answers c s fun u => Kept (fun z => { z with reply := .none }) s u)

/-- Once the configuration is frozen, a register write to a device address whose register has bits that the register
script sets, in any window but a group window with an empty mask, completes, writes nothing, and enters one
FROZEN_WRITE event that carries the address in the Studbook, when the Rein that holds the Bridle makes it; without a
holder the access answers a bus error and writes nothing. Model readings it rests on: log entries 38, 39 and 125. -/
def Obligations.FrozenConfigurationIgnoresWrites : Prop :=
  ∀ (s : State) (a : Nat) (w : RegWindow) (off : Nat) (r : RegRule) (value : DWord) (t : Nat),
    s.boot.frozen = true → locateReg a = some (w, off) → s.emptyWindow w = none → w.rule off = some r → r.rw ≠ 0 →
    (s.holderActs = true → Answers (.registerWrite (.dev a) value t) s fun u =>
      u.config = s.config ∧ u.reply = .none
      ∧ u.stud = s.stud.event (max s.now t) 0x0106 (srcRein s.bridle.holder) (leBytes 6 a)
      ∧ Kept (fun x => { x with reply := .none, stud := s.stud }) s u)
    ∧ (s.holderActs = false → Answers (.registerWrite (.dev a) value t) s fun u =>
      u.reply = .busError ∧ Kept (fun x => { x with reply := .none }) s u)

/-- Before the configuration is frozen, a script write to a port register through the unicast window of port n, or
through the broadcast window, that passes the check of R423 gives the register of each port reached the value in its
writable bits; a masked write gives each (old and not MASK) or (VALUE and MASK) there, the old value taken from each
port; every other port register stays and nothing else changes. A delay of 1 to 10,000 us moves device time and the
script's sum of delays by that many us and changes nothing else. Model readings it rests on: log entries 36 and 41. -/
def Obligations.ScriptEntriesTakeEffect : Prop :=
  (∀ (s : State) (n : Fin 4) (all : Bool) (off : Nat) (r : RegRule) (value mask : Word) (t : Nat),
    let a := if all then broadcastAddr 1 off else 0xF0001000000 + n.val * 0x10000 + off
    let rw := BitVec.ofNat 32 r.rw
    s.boot.frozen = false → off < 0x10000 → unitRule 1 off = some r → r.rw ≠ 0 →
    let P (c : Instr) (m : Word) : Prop := Answers c s fun u =>
      (∀ k : Fin 4, u.unitReg 1 k.val off &&& rw =
        (if all = true ∨ k = n then (s.unitReg 1 k.val off &&& ~~~m) ||| (value &&& m) else s.unitReg 1 k.val off) &&& rw)
      ∧ (∀ (k : Fin 4) (o : Nat), o % 4 = 0 → o ≠ off → u.unitReg 1 k.val o = s.unitReg 1 k.val o)
      ∧ Kept (fun x => { x with ports := x.ports.map Port.bare, reply := .none }) s u
    (scriptWriteOk a value 0xFFFFFFFF = true → P (.scriptWrite a value t) 0xFFFFFFFF)
    ∧ (scriptWriteOk a value mask = true → P (.scriptWriteMasked a value mask t) mask))
  ∧ (∀ (s : State) (micros t : Nat), 1 ≤ micros → micros ≤ 10000 →
    Answers (.scriptDelay micros t) s fun u =>
      u.now = max s.now t + 1000 * micros ∧ u.boot.scriptWait = s.boot.scriptWait + 1000 * micros
      ∧ Kept (fun x => { x with boot := { x.boot with scriptWait := 0 } }) s u)

/-- A GALLOP token refill of a partition that serves GALLOP with a bound recipe completes: the level becomes the
smaller of B sides and the old level plus R times the time since the last refill, and nothing else changes. A
bandwidth token refill of the front end, of a bound partition, or of the recovery class completes: the level becomes
the smaller of 256 lines and the old level plus the class's rate times the time since its last refill (FE_RATE, BW_MIN
and 160,000 MB/s, in lines of 64 bytes), and nothing else changes. Device time never runs backward in either. The
statement holds for every level of the buckets, those that the reset chose (log entry 9) among them. Model readings it
rests on: log entry 111. -/
def Obligations.TokenBucketsRefill : Prop :=
  (∀ (s : State) (p : Fin 6) (t : Nat) (r : Recipe), s.gallopRecipe p = some r →
    Answers (.gallopTokenRefill p t) s fun u =>
      u.now = max s.now t ∧ u.parts[p].tokenTime = u.now
      ∧ u.parts[p].tokens = min (r.burst * tokenUnit) (s.parts[p].tokens + r.rate * (u.now - s.parts[p].tokenTime))
      ∧ Kept (fun x => { x with parts := vmod x.parts p fun y => { y with tokens := 0, tokenTime := 0 } }) s u)
  ∧ (∀ (s : State) (t : Nat), Answers (.bandwidthTokenRefill .frontEnd t) s fun u =>
      u.now = max s.now t ∧ u.mem.bwTime[(0 : Fin 8)] = u.now
      ∧ u.mem.bwFront = min 256000000000 (s.mem.bwFront + (u.now - s.mem.bwTime[(0 : Fin 8)]) * (s.feRate * 15625))
      ∧ Kept (fun x => { x with mem := { x.mem with bwFront := 0, bwTime := x.mem.bwTime.set 0 0 } }) s u)
  ∧ (∀ (s : State) (p : Fin 6) (d : PartDesc) (t : Nat), s.parts[p].desc = some d → s.parts[p].bound = true →
    let i : Fin 8 := Fin.ofNat 8 (1 + p.val)
    Answers (.bandwidthTokenRefill (.part p) t) s fun u =>
      u.now = max s.now t ∧ u.mem.bwTime[i] = u.now
      ∧ u.mem.bwPart[p] = min 256000000000 (s.mem.bwPart[p] + (u.now - s.mem.bwTime[i]) * (d.bwMin * 15625))
      ∧ Kept (fun x => { x with mem := { x.mem with
          bwPart := x.mem.bwPart.set p 0, bwTime := x.mem.bwTime.set i 0 } }) s u)
  ∧ (∀ (s : State) (t : Nat), Answers (.bandwidthTokenRefill .recovery t) s fun u =>
      u.now = max s.now t ∧ u.mem.bwTime[(7 : Fin 8)] = u.now
      ∧ u.mem.bwRecover = min 256000000000 (s.mem.bwRecover + (u.now - s.mem.bwTime[(7 : Fin 8)]) * (160000 * 15625))
      ∧ Kept (fun x => { x with mem := { x.mem with bwRecover := 0, bwTime := x.mem.bwTime.set 7 0 } }) s u)

/-- While no Rein acts on the admission queue (the holder's position is not settled), the arrival at stage 5 of a side
whose partition is bound completes. With a queue position free, the side waits at the end of the queue with this
arrival time; it conforms exactly when it is a GALLOP side that found a token, which it then takes, or, when it is not
a GALLOP side, as before; a GALLOP side that found none carries OVER_RATE. With no queue position free, a scanned side
joins no queue, carries ADMIT_FULL, will be published with its statuses alone, gives its frames back, and counts in
ADMIT_FULL. Model readings it rests on: log entry 85. -/
def Obligations.ArrivalIsMeteredAndQueued : Prop :=
  ∀ (s : State) (k : Nat) (x : Side) (t : Nat),
    s.side? k = some x → x.stage = .arriving → x.statusOnly = false → s.parts[x.part].bound = true → s.holderActs = false →
    (s.queueUsed < 4096 →
      let level := ((s.at t).refillTokens x.part).parts[x.part].tokens
      let conf : Bool := if x.gait = 0 then decide (tokenUnit ≤ level) else x.conforming
      Answers (.sideArrival k t) s fun u =>
        u.queue = s.queue ++ [⟨k, false, 0, x.gait, x.part, u.now, conf, false⟩]
        ∧ (∀ y ∈ u.sides, y.key = k → y.stage = .queued ∧ y.arrived = true ∧ y.tArrive = u.now)
        ∧ (∃ y, u.side? k = some y ∧ y.conforming = conf
            ∧ y.status = if x.gait = 0 ∧ conf = false then insertStatus 0x0305 0 x.status else x.status)
        ∧ u.parts[x.part].tokens =
            (if x.gait = 0 then (if conf = true then level - tokenUnit else level) else s.parts[x.part].tokens)
        ∧ Kept (fun z => { z with
            queue := []
            sides := z.sides.filter fun y => y.key != k
            parts := vmod z.parts x.part fun y => { y with tokens := 0, tokenTime := 0 } }) s u)
    ∧ (4096 ≤ s.queueUsed → x.host = false →
      Answers (.sideArrival k t) s fun u =>
        (∃ y, u.side? k = some y ∧ y.statusOnly = true ∧ y.status = insertStatus 0x0304 0 x.status)
        ∧ (∀ w ∈ u.queue, w.side ≠ k)
        ∧ (∀ c ∈ u.contexts, c.side ≠ k)
        ∧ (∀ f ∈ u.frames, f.owner ≠ k)
        ∧ u.host.chip = bumpAt s.host.chip 3 1)

/-- While the Rein holding the Bridle acts and one side context waits, admission completes. When the partition is
bound and not rebinding, the side waits for no recipe switch, its recipe declares no KV state for side contexts, its
gait is TROT or WALK, the partition has fewer than MAX_CONTEXTS shared entries and the chip fewer than N less
GALLOP_RESERVE: the queue empties, one READY context with the lowest free id is entered for it without FROM_RESERVE,
the side is active and counts in SIDES_ADMITTED, and the id stands at the front of the descriptors that the arena
caches, of which none is written back while there is room. When instead the partition has MAX_CONTEXTS shared entries
already, the request keeps waiting and nothing changes. Model readings it rests on: log entry 92. -/
def Obligations.AdmissionFollowsTheTable : Prop :=
  ∀ (s : State) (w : Waiting) (x : Side) (t : Nat),
    s.holderActs = true → s.queue = [w] → w.line = false → 2 ≤ w.gait.val → s.side? w.side = some x → x.newRecipe = false →
    s.parts[w.part].bound = true → s.parts[w.part].rebinding = false →
    (∃ r, s.recipeFor w.part w.gait.val = some r ∧ r.kvClass false = none) →
    (s.usedIn w.part false < s.parts[w.part].maxContexts → s.sharedUsed < 1048576 - s.boot.limits.gallopReserve →
      Answers (.admitFromQueue t) s fun u =>
        u.queue = []
        ∧ (∃ c : Context, u.contexts = s.contexts ++ [c] ∧ c.state = .ready ∧ c.side = w.side ∧ c.sideId = x.sideId ∧ c.gait = w.gait
            ∧ c.part = w.part ∧ c.line = false ∧ c.fromReserve = false ∧ c.fallback = x.switched ∧ c.parent = c.id
            ∧ c.chainPos = 0 ∧ c.kvRoots = 0 ∧ c.tStart = x.tStart.getD 0 ∧ c.lastUse = u.now
            ∧ (∀ b ∈ s.contexts, b.id ≠ c.id)
            ∧ (∀ i, i < c.id → ∃ b ∈ s.contexts, b.id = i)
            ∧ (s.mem.ctxCache.length < cacheEntries → u.mem = { s.mem with ctxCache := u.mem.ctxCache }
                ∧ ∃ place rest, u.mem.ctxCache = (place, c.id) :: rest))
        ∧ (∀ y ∈ u.sides, y.key = w.side → y.stage = .active)
        ∧ u.parts[w.part].counters = bumpAt s.parts[w.part].counters 2 1
        ∧ Kept (fun z => { z with
            queue := [], contexts := [], mem := { z.mem.bare with ctxCache := [] }
            sides := z.sides.map fun y => if y.key = w.side then { y with stage := .active } else y
            parts := vmod z.parts w.part fun y => { y with counters := Vector.replicate 16 0 } }) s u)
    ∧ (s.parts[w.part].maxContexts ≤ s.usedIn w.part false →
      Answers (.admitFromQueue t) s fun u => u.queue = [w] ∧ Kept id s u)

/-- When a side's record can be completed (its side context is DONE, or it is published with its statuses alone), its
readiness completes: one record with its identity, gait, and the microseconds from T_START, rounded up, is entered at
the end of its ring's ready records; the spool's reservation for the side becomes the record's length of USED and the
rest is released; no context or request of the side remains; and the record carries LATE when the side's recipe has a
deadline, it has passed, and the side was not cut off by a cover or cartridge, or when the side carried LATE before.
Bytes of main memory outside the record's place stay, and the frame says what else changes. Model readings it rests
on: log entries 21, 83 and 84. -/
def Obligations.ReadyRecordEntersTheSpool : Prop :=
  ∀ (s : State) (k : Nat) (x : Side) (items : List Item) (t : Nat),
    s.side? k = some x → x.stage ≠ .ready →
    (x.statusOnly = true ∨ ∃ c ∈ s.contexts, c.side = k ∧ c.line = false ∧ c.state = .done) →
    Answers (.recordReady k items t) s fun u =>
      u.now = max s.now t
      ∧ (∃ r : Rec, u.host.out[x.part].records = s.host.out[x.part].records ++ [r]
          ∧ r.side = k ∧ r.sideId = x.sideId ∧ r.sheetId = x.sheetId ∧ r.part = x.part ∧ r.gait = x.gait
          ∧ r.tCapture = BitVec.ofNat 64 (x.tStart.getD u.now)
          ∧ r.delta = BitVec.ofNat 32 (min 0xFFFFFFFF ((u.now - x.tStart.getD u.now + 999) / 1000))
          ∧ r.used = recordBytes r.status r.items
          ∧ (x.statusOnly = true → r.items = [] ∧ r.exports = [])
          ∧ ((∃ q ∈ r.status, q.1 = 0x0306) ↔ (∃ q ∈ x.status, q.1 = 0x0306) ∨
              (x.gait.val ≤ 1 ∧ (∃ rc t0, s.recipeFor x.part x.gait.val = some rc ∧ x.tStart = some t0
                ∧ t0 + rc.deadline * 1000 < u.now) ∧ x.has 0x0101 = false ∧ x.has 0x0102 = false))
          ∧ u.host.spoolUsed = s.host.spoolUsed + r.used
          ∧ ∀ a : Nat, a < r.at_ ∨ r.at_ + r.used ≤ a → u.mem.byte a = s.mem.byte a)
      ∧ u.host.spoolResv = s.host.spoolResv - x.reserve
      ∧ (∀ c ∈ u.contexts, c.side ≠ k)
      ∧ (∀ w ∈ u.queue, w.side ≠ k)
      ∧ (∀ y ∈ u.sides, y.key = k → y.stage = .ready ∧ y.reserve = 0)
      ∧ Kept (fun z => { z with
          contexts := [], queue := [], stud := s.stud, mem := z.mem.bare
          sides := z.sides.filter fun y => y.key != k
          parts := z.parts.map fun y => { y with pools := [] }
          engines := z.engines.map fun e => { e with lab := [] }
          host := { z.host with
            spoolUsed := 0, spoolResv := 0, spoolHigh := false, chip := Vector.replicate 32 0
            inRing := { z.host.inRing with stageUsed := 0 }
            out := vmod z.host.out x.part fun o => { o with records := [], stallStart := none, stalledOut := false } } }) s u

/-- When a ring is enabled, the link is up, its oldest ready record exports no image and is within the record limit,
and (producer + skip + record) less consumer is within OUT_SIZE, a publication completes: the producer count advances
over the skip and the record; the record leaves the ready list and its side and frames are gone; USED shrinks by its
length; RECORDS_PUBLISHED and RECORD_BYTES count it; and, with every vector masked and no skip needed, host memory
takes the header, the statuses and the items at the old count's place and then the new count at OUT_PROD_ADDR, and no
other byte. The other rings, main memory, the contexts, the partitions and the streams stay. Model readings it rests
on: log entry 8. -/
def Obligations.PublicationWritesRecordThenCount : Prop :=
  ∀ (s : State) (p : Fin 6) (x : Rec) (rest : List Rec) (t : Nat),
    let r := s.host.out[p]
    let len := recordBytes x.status x.items
    let left := r.bytes - r.prod.toNat % r.bytes
    let skip := if left < len then left else 0
    let prod := r.prod + BitVec.ofNat 64 skip + BitVec.ofNat 64 len
    r.en = true → s.host.linkUp = true → r.records = x :: rest → x.exports = [] → len ≤ s.recordLimit r →
    r.prod.toNat + skip + len ≤ r.consSeen.toNat + r.bytes →
    Answers (.recordPublish p t) s fun u =>
      u.host.out[p].prod = prod
      ∧ u.host.out[p].records = rest
      ∧ u.host.spoolUsed = s.host.spoolUsed - x.used
      ∧ u.host.chip[11] = s.host.chip[11] + 1
      ∧ u.host.chip[12] = s.host.chip[12] + BitVec.ofNat 64 len
      ∧ u.sides = (s.sides.filter fun y => y.key != x.side)
      ∧ u.frames = (s.frames.filter fun f => f.owner != x.side)
      ∧ (skip = 0 → (∀ v : Fin 32, s.host.msix[v].ctrl.getLsbD 0 = true) →
          u.host.mem = cellsWrite 0 (cellsWrite 0 s.host.mem (r.base.toNat + r.prod.toNat % r.bytes)
            (recordHeader s.host.recVersion x x.status x.items.isEmpty len ++ statusItem x.status ++ x.items.flatMap id))
            r.prodAddr.toNat (leBytes 8 prod.toNat))
      ∧ Kept (fun z => { z with
          freeCtr := 0, sides := [], frames := [], stud := s.stud, store := s.store
          host := { z.host with
            spoolUsed := 0, spoolHigh := false, chip := Vector.replicate 32 0
            out := vmod z.host.out p fun o => { o with
              prod := 0, records := [], unsignalled := 0, firstUnsig := none, stallStart := none, stalledOut := false } } }) s u

/-- While a record waits in an enabled ring with the link up, a consumer word from OUT_CONS_SEEN to the producer count
completes and becomes OUT_CONS_SEEN, freeing the image space it has passed; one outside is ignored and counts in
RING_ERRORS. A coalescing timeout due COAL_US after the first publication not yet signalled completes and leaves
nothing unsignalled. A stall timeout due HOST_STALL_TIMEOUT after the stall began completes: HOST_STALL of the ring
sets, HOST_STALLS counts, and a HOST_STALL event of the partition enters the Studbook. The frames say what else each
leaves. Model readings it rests on: log entry 82. -/
def Obligations.RingsFollowTheConsumer : Prop :=
  ∀ (s : State) (p : Fin 6) (t : Nat),
    let r := s.host.out[p]
    (∀ count : DWord, r.en = true → s.host.linkUp = true → r.records ≠ [] →
      (r.consSeen ≤ count → count ≤ r.prod →
        Answers (.outConsPoll p count t) s fun u =>
          u.host.out[p].consSeen = count
          ∧ u.host.out[p].imgSpans = (r.imgSpans.filter fun i => decide (count.toNat < i.upTo))
          ∧ Kept (fun z => { z with
              stud := s.stud
              host := { z.host with
                chip := Vector.replicate 32 0
                out := vmod z.host.out p fun o => { o with
                  consSeen := 0, imgSpans := [], stallStart := none, stalledOut := false } } }) s u)
      ∧ (count < r.consSeen ∨ r.prod < count →
        Answers (.outConsPoll p count t) s fun u =>
          u.host.chip = bumpAt s.host.chip 16 1
          ∧ Kept (fun z => { z with host := { z.host with chip := Vector.replicate 32 0 } }) s u))
    ∧ (∀ t0, r.firstUnsig = some t0 → t0 + r.coalUs.toNat * 1000 ≤ max s.now t →
        Answers (.coalesceTimeout p t) s fun u =>
          u.host.out[p].unsignalled = 0 ∧ u.host.out[p].firstUnsig = none
          ∧ Kept (fun z => { z with host := { z.host with
              out := vmod z.host.out p fun o => { o with unsignalled := 0, firstUnsig := none } } }) s u)
    ∧ (∀ t0, r.stallStart = some t0 → r.stalledOut = false → t0 + s.host.stallMs.toNat * 1000000 ≤ max s.now t →
        Answers (.hostStallTimeout p t) s fun u =>
          u.host.out[p].stalledOut = true
          ∧ u.host.chip = bumpAt s.host.chip 13 1
          ∧ u.stud = s.stud.event (max s.now t) 0x0701 (srcPart p) []
          ∧ Kept (fun z => { z with
              stud := s.stud
              host := { z.host with
                chip := Vector.replicate 32 0
                out := vmod z.host.out p fun o => { o with stalledOut := false } } }) s u)

/-- While a configured port is still aligning its lanes, the end of alignment completes: the port is trained and may
capture, and nothing else changes. A timeout of one of its lanes completes: the port is refused and does not capture,
a LANE_TRAIN event names the lane, and no other unit changes; at the next line boundary of its transport CONFIG stands
there and ENABLE is low, whatever that line is. Model readings it rests on: log entries 51 and 133. -/
def Obligations.LaneTrainingDecidesAPort : Prop :=
  ∀ (s : State) (n : Fin 4) (t : Nat), s.aligning n = true →
    Answers (.laneAlignmentDone n t) s (fun u =>
      u.ports[n].trained = true ∧ u.ports[n].enabled = true
      ∧ Kept (fun z => { z with ports := vmod z.ports n fun p => { p with trained := false, enabled := false } }) s u)
    ∧ ∀ lane : Fin 8, lane.val < s.ports[n].lanes →
      let tr := s.ports[n].transport
      Answers (.laneTrainTimeout n lane t) s fun u =>
        u.ports[n].refused = true ∧ u.ports[n].enabled = false
        ∧ u.stud = s.stud.event (max s.now t) 0x0201 (srcPort n) [BitVec.ofNat 8 lane.val]
        ∧ Kept (fun z => { z with
            stud := s.stud
            ports := vmod z.ports n fun p => { p with refused := false, enabled := false } }) s u
        ∧ ∀ (paper : Bool) (samples : List (List Nat)) (t' : Nat), Answers (.lineBoundary tr paper samples t') u fun v =>
            v.transports[tr].held 6 = true ∧ v.transports[tr].feedHold = true ∧ v.transports[tr].enable = false

/-- A line boundary in a sheet gap, with no paper at the entry, no calibration due and no plan binding waiting,
completes: the transport stays in the gap, each of SPOOL, PARTITION_UNBOUND, COVER, CARTRIDGE, CAL, SUPPLY and CONFIG
stands exactly when its cause does, FEED_HOLD is high exactly when any cause stands, ENABLE exactly when none of
COVER, CARTRIDGE and CONFIG does; the other transports, the port registers and counters, and every other unit stay.
Model readings it rests on: log entries 59, 61, 135 and 140. -/
def Obligations.GapBoundaryReportsEveryCause : Prop :=
  ∀ (s : State) (tr : Fin 4) (samples : List (List Nat)) (t : Nat),
    let x := s.transports[tr]
    s.up = true → s.tports tr ≠ [] → x.phase = .gap → x.calNow = false → x.pendBind = false →
    Answers (.lineBoundary tr false samples t) s fun u =>
      let y := u.transports[tr]
      y.phase = .gap ∧ y.paperIn = false
      ∧ (y.held 0 = true ↔ s.host.spoolHigh = true)
      ∧ (y.held 1 = true ↔ ∃ n ∈ s.tports tr, ∀ p, s.ports[n].boundPart = some p → s.parts[p].bound = false)
      ∧ (y.held 2 = true ↔ s.coverOpen tr = true ∨ y.abortWait = true ∨ x.pendCover = true)
      ∧ (y.held 3 = true ↔ (∃ n ∈ s.tports tr, u.cartHolds n = true) ∨ x.pendCart ≠ [])
      ∧ (y.held 4 = true ↔ ∃ n ∈ s.tports tr, s.calLimit ≤ s.ports[n].calFailRun.toNat)
      ∧ (y.held 5 = true ↔ s.power.hold.isSome = true)
      ∧ (y.held 6 = true ↔ ∃ n ∈ s.tports tr, s.ports[n].refused = true)
      ∧ (y.feedHold = true ↔ y.hold ≠ 0)
      ∧ (y.enable = true ↔ y.held 2 = false ∧ y.held 3 = false ∧ y.held 6 = false)
      ∧ Kept (fun z => { z with
          transports := vmod z.transports tr fun _ => Transport.reset
          parts := z.parts.map fun q => { q with waitBind := false, binding := false }
          ports := z.ports.map fun q => { q with
            outT := 0, outLed := 0
            cart := { q.cart with
              result := none, waiting := none, periodicDue := false, periodicRun := false, failures := 0, busyMs := 0
              exhausted := none, requests := [] } } }) s u

/-- A line boundary in a sheet gap with paper at the entry, no calibration due and no plan binding waiting, completes.
The sheet is committed exactly when the transport has sides, every configured port is trained, none of COVER,
CARTRIDGE, CONFIG and PARTITION_UNBOUND holds it, the capture regions have frames for every side, and the spool's free
space covers every reservation. Then SHEETS counts, calibration starts at its first line, the spool reserves
SIDE_RESERVE for each side, and one side for each side definition is entered, capturing, with the sheet's id.
Otherwise SHEETS, the sides, the frames and the reservations stay and the transport stays in the gap. Model readings
it rests on: log entries 26, 61 and 140. -/
def Obligations.SheetIsCommittedWhole : Prop :=
  ∀ (s : State) (tr : Fin 4) (samples : List (List Nat)) (t : Nat),
    let x := s.transports[tr]
    let need := s.sideReserve * (s.sidesOf tr).length
    s.up = true → s.tports tr ≠ [] → x.phase = .gap → x.calNow = false → x.pendBind = false →
    Answers (.lineBoundary tr true samples t) s fun u =>
      let y := u.transports[tr]
      let taken : Prop := s.sidesOf tr ≠ [] ∧ (∀ n ∈ s.tports tr, s.ports[n].enabled = true)
        ∧ y.held 1 = false ∧ y.held 2 = false ∧ y.held 3 = false ∧ y.held 6 = false
        ∧ (s.takeSheet (s.sidesOf tr)).isSome = true ∧ need ≤ s.spoolFree
      (taken → y.sheets = x.sheets + 1 ∧ (∃ ph, y.phase = .calib true ph 0) ∧ u.host.spoolResv = s.host.spoolResv + need
        ∧ ∃ new : List Side, u.sides = s.sides ++ new ∧ new.length = (s.sidesOf tr).length ∧ y.sheetSides = new.map (·.key)
            ∧ ∀ z ∈ new, z.stage = .capturing ∧ z.host = false ∧ z.transport = tr ∧ z.reserve = s.sideReserve
                ∧ z.tStart = none ∧ z.sheetId = scanSheetId (x.sheets + 1) tr)
      ∧ (¬ taken → y.sheets = x.sheets ∧ y.phase = .gap ∧ u.host.spoolResv = s.host.spoolResv ∧ u.sides = s.sides
        ∧ u.frames = s.frames)
      ∧ (∀ k : Fin 4, k ≠ tr → u.transports[k] = s.transports[k])
      ∧ u.engines = s.engines ∧ u.contexts = s.contexts ∧ u.queue = s.queue ∧ u.mem = s.mem

/-- A line boundary that ends capture line k, not the last of the sheet, with no cover or cartridge event waiting,
completes: the transport goes on to line k + 1 and holds one more captured line; every port of the transport whose
cartridge is known counts it in LINES, and one that delivered fewer samples than its configuration needs sets UNDERRUN
and counts it; every side of the sheet whose images the line belongs to has one more line assembled, and its T_START
is this boundary exactly when that was its last line; the other transports stay. Model readings it rests on: log
entries 59, 134, 136 and 137. -/
def Obligations.CaptureLineIsTaken : Prop :=
  ∀ (s : State) (tr : Fin 4) (paper : Bool) (samples : List (List Nat)) (k t : Nat),
    let x := s.transports[tr]
    s.up = true → s.tports tr ≠ [] → x.phase = .capture k → x.pendCover = false → x.pendCart = [] → k + 1 < s.sheetLines tr →
    Answers (.lineBoundary tr paper samples t) s fun u =>
      u.transports[tr].phase = .capture (k + 1)
      ∧ u.transports[tr].capLines.length = x.capLines.length + 1
      ∧ (∀ i ∈ s.lineInput tr samples,
          u.ports[i.1].lines = (if s.ports[i.1].cart.known then s.ports[i.1].lines + 1 else s.ports[i.1].lines)
          ∧ u.ports[i.1].underrun = (s.ports[i.1].underrun || s.ports[i.1].short i.2)
          ∧ u.ports[i.1].underrunLines =
              (if s.ports[i.1].short i.2 then s.ports[i.1].underrunLines + 1 else s.ports[i.1].underrunLines))
      ∧ (x.sheetSides.Nodup → ∀ key ∈ x.sheetSides, ∀ y, s.side? key = some y → y.stage = .capturing → y.tStart = none →
          s.maxDelay y.sideDef ≤ k → k - s.maxDelay y.sideDef < (s.sideDef y.sideDef).lines →
          ∃ z, u.side? key = some z ∧ z.assembled = y.assembled + 1
            ∧ z.tStart = if y.assembled + 1 = (s.sideDef y.sideDef).lines then some (max s.now t) else none)
      ∧ (∀ m : Fin 4, m ≠ tr → u.transports[m].phase = s.transports[m].phase ∧ u.transports[m].hold = s.transports[m].hold)

/-- When a side has passed its T_START with lines still held, a flush completes and emits one more line; the last line
of the side completes its image, which then waits for its camera pictures or is ready for stage 5. When the rows fit
their stride, every byte of main memory stays but those of the visible, IR and UV images' current band of 16 lines,
and nothing else but the side changes. Model readings it rests on: log entry 66. -/
def Obligations.DeskewBufferFlushes : Prop :=
  ∀ (s : State) (k : Nat) (x : Side) (t : Nat),
    s.side? k = some x → x.stage = .capturing → x.tStart.isSome = true → x.emitted < x.assembled →
    let n := x.emitted + 1
    let lines := (s.sideDef x.sideDef).lines
    Answers (.deskewFlushLine k t) s fun u =>
      (∃ y, u.side? k = some y ∧ y.emitted = n
        ∧ y.stage = if n = lines then (if x.fuseStreams.isEmpty then .arriving else .fusing) else .capturing)
      ∧ ((∀ i ∈ x.images, ∀ v, (outRow x.skew (x.rowsOf i.role) i.width (if i.rgb then 3 else 1) v).length ≤ i.stride) →
          ∀ a : Nat, (∀ i ∈ x.images, i.role ≤ 2 → a < i.addr + x.emitted / 16 * 16 * i.stride ∨ i.addr + n * i.stride ≤ a) →
            u.mem.byte a = s.mem.byte a)
      ∧ Kept (fun z => { z with mem := z.mem.bare, sides := z.sides.filter fun y => y.key != k }) s u

/-- While the chip runs, the acceptance of a new level of a watched cover completes and becomes the cover's level. An
opening marks the transport the cover guards to act at its next boundary, and starts on every known cartridge of it a
SET_COUNTERS with its counters. A closing starts the authentication of every cartridge of that transport, with a
GET_DESCRIPTOR to each that is there. Nothing else changes but the persistent store's pending work. Model readings it
rests on: log entries 59 and 64. -/
def Obligations.CoversActOnTheirTransport : Prop :=
  ∀ (s : State) (c : Fin 4) (t : Nat), s.up = true → s.feCtrl.getLsbD c.val = true →
    let tr := s.coverHome c
    (s.covers[c] = true → Answers (.coverLevelAccept c false t) s fun u =>
      u.covers[c] = false ∧ u.transports[tr].pendCover = true
      ∧ (∀ n ∈ s.tports tr, s.ports[n].cart.present = true → s.ports[n].cart.known = true →
          u.ports[n].cart.setRun = true ∧ u.ports[n].cart.requests = s.ports[n].cart.requests ++ [s.ports[n].setCounters])
      ∧ (∀ n, n ∉ s.tports tr → u.ports[n] = s.ports[n])
      ∧ Kept (fun z => { z with
          covers := z.covers.set c false
          transports := vmod z.transports tr fun y => { y with pendCover := false }
          ports := z.ports.map fun q => { q with cart := { q.cart with requests := [], setRun := false } }
          store := s.store, norOps := [], norBusy := none, boot := { z.boot with poweredAt := 0 } }) s u)
    ∧ (s.covers[c] = false → Answers (.coverLevelAccept c true t) s fun u =>
      u.covers[c] = true ∧ (∀ n ∈ s.tports tr, u.ports[n].cart.pending = true ∧ u.cartHolds n = true
          ∧ u.ports[n].cart.requests = if s.ports[n].cart.present then [getDescriptor] else [])
      ∧ (∀ n, n ∉ s.tports tr → u.ports[n] = s.ports[n])
      ∧ Kept (fun z => { z with
          covers := z.covers.set c false
          ports := z.ports.map fun q => { q with cart := { q.cart with
            pending := false, periodicDue := false, periodicRun := false, waiting := none, failures := 0, busyMs := 0
            exhausted := none, requests := [] } } }) s u)

/-- While the chip runs, on a configured port: an insertion completes and starts an authentication that holds the
transport; a removal completes, the cartridge is absent and unknown, and the transport is to act on it at its next
boundary; the periodic timer completes and an authentication waits for a sheet gap; a counter commit of a known
cartridge completes its entry of the persistent store takes LINES and ILLUM_S, and a SET_COUNTERS goes to a cartridge
that is there, which holds what it carried when it answers OK. On a transport with CAL_FAIL_LIMIT failures in a row,
the calibration timer completes one second after the last failure and a calibration without a sheet is due. Each
leaves everything its frame does not name. Model readings it rests on: log entries 59, 64, 138, 139 and 141. -/
def Obligations.CartridgesComeAndGo : Prop :=
  ∀ (s : State) (n : Fin 4) (t : Nat), s.up = true →
    let p := s.ports[n]
    (p.cfgEn = true → p.cart.present = false → Answers (.cartInsert n t) s fun u =>
      u.ports[n].cart.present = true ∧ u.ports[n].cart.pending = true ∧ u.cartHolds n = true
      ∧ u.ports[n].cart.requests = [getDescriptor]
      ∧ Kept (fun z => { z with ports := vmod z.ports n fun q => { q with cart := { q.cart with
          present := false, pending := false, periodicDue := false, periodicRun := false, waiting := none, failures := 0
          busyMs := 0, exhausted := none, requests := [] } } }) s u)
    ∧ (p.cfgEn = true → p.cart.present = true → Answers (.cartRemoval n t) s fun u =>
      u.ports[n].cart.present = false ∧ u.ports[n].cart.known = false ∧ u.cartHolds n = true
      ∧ (n ∈ u.transports[p.transport].pendCart)
      ∧ (∀ m, m ≠ n → (m ∈ u.transports[p.transport].pendCart ↔ m ∈ s.transports[p.transport].pendCart))
      ∧ (s.transports[p.transport].pendCart.Nodup → u.transports[p.transport].pendCart.Nodup)
      ∧ Kept (fun z => { z with
          store := s.store, norOps := [], norBusy := none, boot := { z.boot with poweredAt := 0 }
          transports := vmod z.transports p.transport fun y => { y with pendCart := [] }
          ports := vmod z.ports n fun q => { q with cart := { q.cart with
            present := false, known := false, periodicDue := false, setRun := false } } }) s u)
    ∧ (p.cfgEn = true → p.cart.present = true → p.cart.pending = false → Answers (.cartReauthTimer n t) s fun u =>
      u.ports[n].cart.periodicDue = true
      ∧ Kept (fun z => { z with ports := vmod z.ports n fun q => { q with cart := { q.cart with periodicDue := false } } }) s u)
    ∧ (∀ (a : ChipAnswer) (i : Nat), p.cart.known = true → s.cartIndex p.cart.serial = some i →
      Answers (.cartCounterCommit n a t) s fun u =>
        u.store.carts = modAt s.store.carts i (fun c => { c with lines := p.lines, illumS := BitVec.ofNat 32 p.illumS.toNat })
        ∧ u.store.dirty = true
        ∧ (p.cart.present = true → u.ports[n].cart.requests = p.cart.requests ++ [p.setCounters] ∧ u.ports[n].cart.setRun = false
            ∧ u.ports[n].cart.ownLines = (if (answerFault a).isNone then p.lines else p.cart.ownLines)
            ∧ u.ports[n].cart.ownIllum = (if (answerFault a).isNone then BitVec.ofNat 32 p.illumS.toNat else p.cart.ownIllum))
        ∧ Kept (fun z => { z with
            store := { z.store with carts := [], dirty := false }
            ports := vmod z.ports n fun q => { q with cart := { q.cart with
              requests := [], setRun := false, ownLines := 0, ownIllum := 0 } } }) s u)
    ∧ (∀ (tr : Fin 4) (d : Nat), s.transports[tr].calDue = some d → d ≤ max s.now t → s.calOut tr = true →
      Answers (.calRetryTimer tr t) s fun u =>
        u.transports[tr].calNow = true ∧ u.transports[tr].calDue = none
        ∧ Kept (fun z => { z with transports := vmod z.transports tr fun y => { y with calNow := false, calDue := none } }) s u)

/-- While an authentication is in progress, a response that is missing or fails its check completes: the first two
failures of a request count, and the third ends the exchange with NO_RESPONSE or BAD_CHECK. The end of an
authentication that holds the transport completes: with no cartridge its result is absent; with no answer, a bad check
or an error to GET_DESCRIPTOR, or a descriptor of another version, its result says so; the result is in effect at
once, the transport is released or held by it, and a CART_AUTH event carries the result. One that runs between sheets
leaves its result waiting for a sheet gap. Each leaves everything its frame does not name. Model readings it rests on:
log entry 64. -/
def Obligations.CartridgeAuthenticationEnds : Prop :=
  ∀ (s : State) (n : Fin 4) (t : Nat), s.up = true →
    let c := s.ports[n].cart
    let tr := s.ports[n].transport
    let version (d : List Byte) : Prop := byteAt (sliceAt d 0 216) 0 ≠ 1 ∨ byteAt (sliceAt d 0 216) 1 ≠ 0
    let frame : State → State := fun z => { z with
      stud := s.stud, freeCtr := 0
      ports := vmod z.ports n fun q => { q with cart := { q.cart with
        pending := false, result := none, waiting := none, periodicRun := false, failures := 0, busyMs := 0, exhausted := none
        nonceCount := 0, requests := [] } }
      transports := vmod z.transports tr fun y => { y with hold := 0, feedHold := false, enable := false } }
    (∀ response : Option (List Byte), (c.pending || c.periodicRun) = true → c.exhausted = none →
      (response = none ∨ ∃ b, response = some b ∧ responseOk b = false) →
      Answers (.cartI2cRetry n response t) s fun u =>
        u.ports[n].cart.exhausted =
          (if c.failures < 2 then none else some (if response = none then .noResponse else .badCheck))
        ∧ u.ports[n].cart.failures = (if c.failures < 2 then c.failures + 1 else 0)
        ∧ Kept (fun z => { z with ports := vmod z.ports n fun q => { q with cart := { q.cart with
            failures := 0, busyMs := 0, exhausted := none } } }) s u)
    ∧ (∀ (x : CartExchange) (r : CartResult), c.exhausted = none →
      (c.present = false ∧ r = .absent
        ∨ c.present = true ∧ (x.descr = .noResponse ∧ r = .noResponse ∨ x.descr = .badCheck ∧ r = .badCheck
            ∨ x.descr = .error ∧ r = .chipError ∨ ∃ d, x.descr = .ok d ∧ version d ∧ r = .version)) →
      (c.pending = true → Answers (.cartAuthDone n x t) s fun u =>
        u.ports[n].cart.result = some r ∧ u.ports[n].cart.pending = false ∧ u.ports[n].cart.waiting = none
        ∧ (u.transports[tr].held 3 = true ↔ (∃ m ∈ s.tports tr, u.cartHolds m = true) ∨ s.transports[tr].pendCart ≠ [])
        ∧ u.stud = s.stud.event (max s.now t) 0x0203 (srcPort n) (r.code :: List.replicate 8 0)
        ∧ Kept frame s u)
      ∧ (c.pending = false → c.periodicRun = true → Answers (.cartAuthDone n x t) s fun u =>
        u.ports[n].cart.waiting = some r ∧ u.ports[n].cart.result = c.result ∧ u.ports[n].cart.periodicRun = false
        ∧ u.stud = s.stud.event (max s.now t) 0x0203 (srcPort n) (r.code :: List.replicate 8 0)
        ∧ Kept frame s u))

/-- While the chip runs with no supply hold, a free still decoder unit whose stream n goes before every other stream
of the unit that has a pending sample (the lowest gait code, then the earliest observation, then the lower number)
completes a start on the sample at the head of n, under the capture region and the budgets that the stream's partition
has now. A sample with the fault of R91 that stands first (EMPTY, or a header that gives no extent, ZERO_SIZE,
OVERSIZE, UNSUPPORTED), read from its own bytes, is counted under its status, and its side will be published with that
status alone where the stream substitutes STATUS_ONLY, and for EMPTY always. A sample that passes every check of R91
and finds frames runs on the unit from now on, with the extent its bytes declare and a budget of DECODE_BUDGET until
its stream has completed 16 samples and at most DECODE_BUDGET after. Either leaves its stream's queue; nothing else
changes but what the frame names. Model readings it rests on: log entries 26, 30, 109, 129 and 130. -/
def Obligations.DecodeStartsTheNextSample : Prop :=
  ∀ (s : State) (kind : DecoderKind) (i : Fin 4) (n : Fin 64) (x : Staged) (rest : List Staged) (r : Recipe) (d : PartDesc)
    (t : Nat),
    let u := decoderUnit kind i
    let p : Fin 6 := Fin.ofNat 6 (s.streamPart n)
    let b := r.budgets.getD x.entry.format (0, 0, 0)
    let look := lookStill x.entry x.payload
    let ext := look.extent
    let count := (ext.height * ext.stride + 4095) / 4096
    s.up = true → s.decoders[u].run = none → s.power.hold = none → isVideo n = false → streamUnit n = u →
    s.streams[n].queue = x :: rest → s.recipeFor p (s.streamGait n) = some r → s.parts[p].desc = some d →
    (∀ m : Fin 64, m ≠ n → streamUnit m = u → s.streams[m].queue ≠ [] → s.streamBefore n m = true ∧ s.streamBefore m n = false) →
    (∀ f : Nat, limitFault x.entry look b.1 = some f → f = 0 ∨ s.substStatus n = true → Answers (.decodeStart kind i t) s fun v =>
      v.streams[n].queue = rest
      ∧ v.streams[n].counters = bumpAt (bumpAt s.streams[n].counters 0 1) (1 + f) 1
      ∧ (∀ y, s.side? x.side = some y → ∃ z, v.side? x.side = some z ∧ z.statusOnly = true ∧ z.stage = .arriving
          ∧ z.status = insertStatus (0x0201 + f) n.val y.status)
      ∧ Kept (fun z => { z with
          sides := z.sides.filter fun y => y.key != x.side
          streams := vmod z.streams n fun y => { y with
            queue := [], boundPart := 0, binding := none, counters := Vector.replicate 16 0 }
          host := { z.host with inRing := { z.host.inRing with stageUsed := 0 } } }) s v)
    ∧ (limitFault x.entry look b.1 = none → ∀ a : Nat, s.framePlaceIn p d.captureBase d.captureFrames count = some a →
      Answers (.decodeStart kind i t) s fun v =>
        v.streams[n].queue = rest
        ∧ v.streams[n].binding = some ⟨d.captureBase, d.captureFrames, r.budgets⟩
        ∧ (∃ run, v.decoders[u].run = some run ∧ run.stream = n.val ∧ run.staged = x ∧ run.width = ext.width
            ∧ run.height = ext.height ∧ run.started = max s.now t ∧ run.paused = 0 ∧ run.key = x.side ∧ run.head = none
            ∧ run.image = ⟨0, ext.rgb, ext.width, ext.height, ext.stride, a⟩
            ∧ run.read = true ∧ run.budget ≤ b.2.2 * 1000
            ∧ (s.streams[n].completed < 16 → run.budget = b.2.2 * 1000))
        ∧ v.frames = s.frames.filter s.frameLive ++ [⟨p, a, count, x.side, false⟩]
        ∧ Kept (fun z => { z with
            frames := []
            decoders := vmod z.decoders u fun q => { q with run := none }
            streams := vmod z.streams n fun y => { y with
              queue := [], boundPart := 0, binding := none, started := false, dropping := false, head := none } }) s v)

/-- A still decoder unit that runs a sample (of a raster, one whose wrapper has no non-zero reserved field) completes
each of these ends and is free again. When the sample's bytes decode to rows: the sample counts, its side takes the
image and is ready for stage 5, and, when no row is longer than the stride, every byte of main memory outside the
image's place stays. When they give a fault of R92, or the budget runs out with no supply hold in progress, on a
stream that substitutes STATUS_ONLY: the sample counts under its status, its frames are freed, and its side will be
published with that status alone. Model readings it rests on: log entries 30, 109, 128, 131 and 132. -/
def Obligations.DecodeEndsWithAnImageOrAStatus : Prop :=
  ∀ (s : State) (u : Fin 8) (run : DecodeRun) (y : Side) (res : Decoded) (t : Nat),
    s.decoders[u].run = some run → run.stream < 32 → run.head = none → s.side? run.staged.side = some y →
    (run.staged.entry.format ≠ 2 ∨ rasterReservedOk run.staged.payload = true) →
    let n : Fin 64 := Fin.ofNat 64 run.stream
    let k := run.staged.side
    let frame : State → State := fun z => { z with
      sides := z.sides.filter fun w => w.key != k
      frames := z.frames.filter fun f => !(f.owner == run.key && f.base == run.image.addr)
      decoders := vmod z.decoders u fun _ => Decoder.reset
      streams := vmod z.streams n fun w => { w with meanSum := 0, mean := 0, completed := 0, counters := Vector.replicate 16 0 }
      mem := z.mem.bare
      host := { z.host with inRing := { z.host.inRing with stageUsed := 0 } } }
    let Failed (c : Instr) (code : Nat) : Prop := Answers c s fun v =>
      v.decoders[u].run = none
      ∧ v.streams[n].counters = bumpAt (bumpAt s.streams[n].counters 0 1) (code - 0x0200) 1
      ∧ (∃ z, v.side? k = some z ∧ z.statusOnly = true ∧ z.stage = .arriving ∧ z.status = insertStatus code n.val y.status)
      ∧ v.frames = (s.frames.filter fun f => !(f.owner == run.key && f.base == run.image.addr))
      ∧ v.mem = s.mem
      ∧ Kept frame s v
    (∀ rows : List (List Nat), stillRows run = .ok rows →
      Answers (.decodeDone u res t) s fun v =>
        v.decoders[u].run = none
        ∧ v.decoders[u].pixels = s.decoders[u].pixels + BitVec.ofNat 64 (run.width * run.height)
        ∧ v.streams[n].counters = bumpAt s.streams[n].counters 0 1
        ∧ v.streams[n].completed = s.streams[n].completed + 1
        ∧ (∃ z, v.side? k = some z ∧ z.images = [run.image] ∧ z.stage = .arriving ∧ z.status = y.status)
        ∧ ((∀ row ∈ rows, row.length ≤ run.image.stride) →
            ∀ a : Nat, a < run.image.addr ∨ run.image.addr + run.image.height * run.image.stride ≤ a →
              v.mem.byte a = s.mem.byte a)
        ∧ v.frames = s.frames
        ∧ Kept frame s v)
    ∧ (s.substStatus n = true →
      (∀ f : Nat, stillRows run = .error f → Failed (.decodeDone u res t) (0x0201 + f))
      ∧ (s.power.hold = none → run.started + run.paused + run.budget ≤ max s.now t → Failed (.decodeBudgetExpire u t) 0x0207))

/-- When device time reaches t_ref plus FUSE_WINDOW for a side that waits for one camera stream, the expiry completes
and the side waits for it no longer: with an eligible picture inside the window, none of which is nearer or as near
and earlier, the side takes it as its fused image, and carries FRAME_HELD exactly when a nearer access unit had been
entered and not decoded; with none it carries NO_FRAME. A side that waited only for this goes on to stage 5. Nothing
else changes but FRAMES_HELD of the stream. Model readings it rests on: log entries 31 and 67. -/
def Obligations.FuseWindowSelectsAPicture : Prop :=
  ∀ (s : State) (k : Nat) (x : Side) (n : Fin 64) (t0 t : Nat),
    s.side? k = some x → x.stage = .fusing → x.statusOnly = false → x.fuseStreams = [n.val] → x.tStart = some t0 →
    let ref : Int := (t0 : Int) + s.fuseOffset n
    let window := s.fuseWindow n
    ref + (window : Int) ≤ (max s.now t : Nat) →
    let pics := s.streams[n].pictures
    let near (q : Picture) : Prop := q.eligible = true ∧ fuseDist q.timestamp ref ≤ window
    let frame : State → State := fun z => { z with
      sides := z.sides.filter fun y => y.key != k
      streams := vmod z.streams n fun y => { y with counters := Vector.replicate 16 0 } }
    ((∀ q ∈ pics, ¬ near q) → Answers (.fuseWindowExpire k t) s fun u =>
      (∃ y, u.side? k = some y ∧ y.stage = .arriving ∧ y.fuseStreams = [] ∧ y.images = x.images
        ∧ y.status = insertStatus 0x020A n.val x.status)
      ∧ u.streams = s.streams ∧ Kept frame s u)
    ∧ (∀ p ∈ pics, near p →
      (∀ q ∈ pics, q ≠ p → near q → fuseDist p.timestamp ref < fuseDist q.timestamp ref
        ∨ fuseDist p.timestamp ref = fuseDist q.timestamp ref ∧ p.timestamp < q.timestamp) →
      let held := s.streams[n].entered.any fun e => e.2 != some true && decide (fuseDist e.1 ref < fuseDist p.timestamp ref)
      Answers (.fuseWindowExpire k t) s fun u =>
        (∃ y, u.side? k = some y ∧ y.stage = .arriving ∧ y.fuseStreams = []
          ∧ y.images = x.images ++ [{ p.image with role := 3 }]
          ∧ y.status = if held then insertStatus 0x0208 n.val x.status else x.status)
        ∧ u.streams[n].counters = (if held then bumpAt s.streams[n].counters 10 1 else s.streams[n].counters)
        ∧ Kept frame s u)

/-- For every engine command other than EXCHANGE (MATMUL, VECTOR, MOVE, CONV, POOL, ARGMAX, BOXNMS, QUANTIZE, ATTEND,
ATTEND in MERGE mode, KV_APPEND, the six KV_EDITs, ROUTE, and the three ADAPT_UPDATEs) whose descriptor is of its row,
that waits for no earlier command and finds no fault at issue, and that passes checks 1 to 7 and its accesses on an
engine in service, with every main-memory line and every SRAM byte it reads readable, the command answers the state of
its effect, ended with the effect's status and flags: counted in COMMANDS and BUSY_CYCLES, retired in its step, its
completion word written, nothing else changed by the end. Model readings it rests on: log entries 37, 74, 75 and 122.
-/
def Obligations.EngineCommandsComplete : Prop :=
  ∀ (s : State) (c : Instr) (x : CmdRun), engineCmd c s = some x → x.passes s →
    let r := x.eff (x.start s)
    Answers c s fun u => Ended x.call r.status r.flags r.s u

/-- For every engine command other than EXCHANGE that issues: when a check of R133 fails, its status ends the command;
when none does, the lowest of the faults of its accesses, of those that a hardware checker raised and of those found
at issue ends it; and when there is none and a line it reads cannot be read, BUS_ERROR ends it. Each is reported in
the completion word and ENG_LAST_FAULT and to the step in progress, every fault found counts, and nothing else changes
but what reading touches. When a byte of the arena that it reads fails its check, each failing access counts in
SRAM_FAILURES, the step faults, and the command does not retire. Model readings it rests on: log entries 37, 74, 75,
122 and 123. -/
def Obligations.EngineCommandsFail : Prop :=
  ∀ (s : State) (c : Instr) (x : CmdRun) (found : List Half), engineCmd c s = some x → Issued s x.call x.other found →
    let e := x.call.engine
    let faults := faultsOf s x.call x.reads x.writes x.touch found
    let read := s.reading x.call x.touch
    let seen := if x.judged.isSome then [] else faults
    (∀ st, x.judged.or (lowest faults) = some st → Answers c s fun u => Ended x.call st 0 (s.disturb x.call) u seen)
    ∧ (x.judged = none → faults = [] → (∃ l ∈ touchLines x.touch, (s.disturb x.call).mem.lineBad l = true) →
        Answers c s fun u => Ended x.call stBusError 0 read u)
    ∧ (∀ (p : Fin 6) (run : StepRun), x.judged = none → faults = [] →
        (∀ l ∈ touchLines x.touch, (s.disturb x.call).mem.lineBad l = false) → (∃ b ∈ read.badAccesses x.touch, b.1 = .arena) →
        s.engines[e].part = some p → s.parts[p].step = some run →
        Answers c s fun u =>
          u.parts[p].step = some { run with faults := run.faults ++ [faultOf s e x.call.desc stOk] }
          ∧ u.host.chip[Chip.sramFailures] =
            read.host.chip[Chip.sramFailures] + BitVec.ofNat 64 (read.badAccesses x.touch).length)

/-- A command that passes its checks and whose extents are empty retires OK with the flag ZERO_EXTENT alone and writes
nothing but its completion word: a VECTOR whose OUT0, a MOVE or QUANTIZE whose input has an extent 0; and, counted in
ZERO_EXTENTS as well, a POOL, ARGMAX, AUGMENT, GRAD or STEP whose input has an extent 0, a CONV with nothing to
compute, and a ROUTE or KV_APPEND of no tokens. Those of them that use the cells discard the held accumulators. -/
def Obligations.EmptyExtentsWriteNothing : Prop :=
  ∀ (s : State) (c : EngCall),
    let Empty (i : Instr) (counts cells : Bool) : Prop :=
      ∀ x, engineCmd i s = some x → x.passes s →
        let m := (x.start s).onEngine c.engine fun g => { g with
          counters := if counts then bumpAt g.counters 7 1 else g.counters, held := if cells then none else g.held }
        Answers i s fun u => Ended c 0 1 m u
    ((vecDesc c.desc).out0.empty = true → Empty (.vector c) false false)
    ∧ ((trefAt c.desc 32).empty = true → Empty (.move c) false false ∧ Empty (.quantize c) false false
        ∧ Empty (.pool c) true false ∧ Empty (.argmax c) true false ∧ Empty (.adaptAugment c) true true
        ∧ Empty (.adaptGrad c) true true ∧ Empty (.adaptStep c) true true)
    ∧ ((convDesc c.desc).nothing = true → Empty (.conv c) true true)
    ∧ ((routeDesc c.desc).t = 0 → Empty (.route c) true true)
    ∧ ((appDesc c.desc).count = 0 → Empty (.kvAppend c) true false)

/-- A MATMUL of an integer pair without DRAIN that passes its checks, undisturbed, retires OK. With M or N zero it
holds a tile of no accumulators and sets ZERO_EXTENT. Otherwise, when its tensors are laid out and its scale entries
(read only where K is not 0) are valid, the engine holds M x N accumulators, and that of row m and column n is the
initial value (0 for ZERO, BIAS[n] for BIAS, the held one for CONTINUE) plus the exact sum over k of (A[m][k] minus
the zero point of its row) times B[n][k]; ZERO_K is set when K is 0. When every residue held before was that of its
accumulator mod 7, so is every one after. Nothing else changes. Model readings it rests on: log entries 117 and 122.
-/
def Obligations.MatmulHoldsItsAccumulators : Prop :=
  ∀ (s : State) (c : EngCall) (y : CmdRun), engineCmd (.matmul c) s = some y → y.passes s → c.upsets = [] →
    let x := matDesc c.desc
    let e := c.engine
    let m0 := y.start s
    let holding (h : Held) : State := m0.onEngine e fun g => { g with held := some h }
    x.drain = 0 → trefPair x.a x.b = some true →
    ((x.m = 0 ∨ x.n = 0) → Answers (.matmul c) s fun u => Ended c 0 1 (holding ⟨x.m, x.n, .ints [], [], []⟩) u)
    ∧ (x.m ≠ 0 → x.n ≠ 0 → ∀ zps aB bB biasB src, (if x.k = 0 then some [] else m0.scaleRows e x.a) = some zps →
      m0.tensorBytes e x.a = some aB → m0.tensorBytes e x.b = some bB → m0.tensorBytes e x.bias = some biasB →
      m0.epiSources e x.epi = some src →
      Answers (.matmul c) s fun u => ∃ (l : List Int) (rho : List Nat),
        Ended c 0 (if x.k = 0 then 2 else 0) (holding ⟨x.m, x.n, .ints l, rho, []⟩) u
        ∧ l.length = x.m * x.n
        ∧ (∀ i j, i < x.m → j < x.n →
          let z := (zps.getD (x.a.row ⟨0, i, 0, 0⟩) ⟨0, 0⟩).zp
          let init : Int :=
            if x.accMode = 1 then (x.bias.elem biasB ⟨j, 0, 0, 0⟩).less 0
            else if x.accMode = 2 then match m0.engines[e].held with
              | some ⟨_, _, .ints old, _, _⟩ => old.getD (i * x.n + j) 0
              | _ => 0
            else 0
          l[i * x.n + j]? = some (init + ((List.range x.k).map fun k =>
            (x.a.elem aB ⟨k, i, 0, 0⟩).less z * (x.b.elem bB ⟨k, j, 0, 0⟩).less 0).sum))
        ∧ ((∀ h old, m0.engines[e].held = some h → h.vals = .ints old → h.rho = old.map mod7) → rho = l.map mod7))

/-- A MOVE that passes its checks from a tensor that is not ZRC to a ROW_MAJOR vector of D0 elements of whole bytes in
the engine's own paddock, its completion word elsewhere, leaves in element i of the destination the code of element i
of the source converted to the destination's format, with the source as the command reads it; every other byte of
every store, but the completion word's, is as it was then. Model readings it rests on: log entry 122. -/
def Obligations.MoveCopiesAVector : Prop :=
  ∀ (s : State) (c : EngCall) (y : CmdRun), engineCmd (.move c) s = some y → y.passes s →
    let a := trefAt c.desc 32
    let b := trefAt c.desc 80
    let e := c.engine
    let m := y.start s
    let bytes := m.peekSpace e a.space a.addr a.footBytes
    let out := b.addr + b.footBytes
    moveSwaps c.desc = false → a.layout ≠ 5 → b.layout = 0 → b.fmt ≠ .int4 → b.space = 2 → b.d0 ≠ 0 → b.d1 = 1 → b.d2 = 1 →
    b.d3 = 1 →
    ∀ f, m.locate e (dComplSpace c.desc) (dComplAddr c.desc) 16 = .ok f →
      f.store ≠ .paddock e ∨ f.hi ≤ b.addr ∨ out ≤ f.lo →
    Answers (.move c) s fun u =>
      (∀ i, i < b.d0 → leNat (u.peek (.paddock e) (b.addr + i * (b.fmt.nibbles / 2)) (b.fmt.nibbles / 2))
        = (encodeElem b.fmt (dOutSat c.desc) (a.elem bytes ⟨i, 0, 0, 0⟩)).1 % 2 ^ (4 * b.fmt.nibbles))
      ∧ ∀ (w : Store) (p : Nat), (w ≠ .paddock e ∨ p < b.addr ∨ out ≤ p) → (w ≠ f.store ∨ p < f.lo ∨ f.hi ≤ p) →
          u.peek w p 1 = m.peek w p 1

/-- A PIN, UNPIN, DROP, CONVERT or RESET that passes its checks on a sound root with a legal page format and strictly
ascending globals in range, and whose range the depth of the tree covers and holds no valid page, retires OK with
NO_CHANGE: no generation is published and nothing changes but its completion. Model readings it rests on: log entries
79 and 120. -/
def Obligations.KvEditOfNothingChangesNothing : Prop :=
  ∀ (s : State) (i : Instr) (y : CmdRun) (p : Fin 6), engineCmd i s = some y → y.passes s →
    let c := y.call
    let e := c.engine
    let x := editDesc c.desc
    i ∈ [.kvEditPin c, .kvEditUnpin c, .kvEditDrop c, .kvEditConvert c, .kvEditReset c] → x.op ≠ 5 →
    s.engines[e].part = some p →
    let m := y.start s
    let r := m.memberRoot e x.kv
    r.fault s.parts[p].engines s.engines[e].logical = none → r.dim = x.kv.d0 → r.heads = x.kv.d2 →
    (x.layer = 0xFF ∨ x.layer < r.layers) → (x.op = 3 → (r.legal x.newFmt).isSome = true) →
    ascending r.globals = true → (∀ g ∈ r.globals, 0 ≤ g ∧ g ≤ maxPosition s.parts[p].engines) →
    x.deepOk r r.globals = true → m.editPages e r x = .ok [] →
    Answers i s fun u => Ended c 0 256 m u

/-- An EXCHANGE of DISPATCH or COMBINE that issues on an engine in service whose partition has a step in progress,
that passes its checks and accesses, whose operands can be read and whose scale entries are valid, joins the step's
exchanges after those issued before and discards the held accumulators; its member's blocks of the exchange belong to
the EXCHANGE alone; no row moves, nothing retires and no byte changes. One that fails a check ends with its status,
one that finds faults with the lowest of them, and one with a scale entry that is not valid with SCALE_INVALID. Model
readings it rests on: log entries 81 and 126. -/
def Obligations.ExchangeIsIssued : Prop :=
  ∀ (s : State) (c : EngCall) (ph : Nat) (i : Instr) (found : List Half),
    (ph = 0 ∧ i = .exchangeDispatch c) ∨ (ph = 1 ∧ i = .exchangeCombine c) → Issued s c (otherPhase c.desc ph) found →
    let x := exchDesc c.desc
    let e := c.engine
    let judged := s.judgeExch e c.desc
    let touch := s.exchTouch e x
    let faults := faultsOf s c (s.exchReads e x) (s.exchWrites e x ++ s.rowFields e x) touch found
    let m := s.reading c touch
    (∀ (p : Fin 6) (run : StepRun), s.engines[e].part = some p → s.parts[p].step = some run → judged = none → faults = [] →
      Readable s c touch → m.rowsValid e x = true →
      Answers i s fun u =>
        u.parts[p].step = some { run with
          exchanges := run.exchanges ++ [⟨e, c.desc, c.cycles⟩]
          exchAreas := giveAreas run.exchAreas (m.memberBlocks run e x) none }
        ∧ u.engines[e].held = none
        ∧ (∀ w a, u.peek w a 1 = m.peek w a 1)
        ∧ Kept (fun z => { z with
            engines := vmod z.engines e fun g => { g with held := none }
            parts := vmod z.parts p fun q => { q with step := none } }) m u)
    ∧ (∀ st, judged.or (lowest faults) = some st →
      Answers i s fun u => Ended c st 0 (s.disturb c) u (if judged.isSome then [] else faults))
    ∧ (judged = none → faults = [] → Readable s c touch → m.rowsValid e x = false →
      Answers i s fun u => Ended c stScaleInvalid 0 m u)

/-- At the rendezvous of an exchange in a partition with a step in progress, posted to engines that are still its
members: until every member that the step was posted to has issued one, nothing changes. When every member has and all
the fields that must agree do, the exchange completes: the phase lands on all members (a DISPATCH places the rows of
the EXPERT entries, the counts, the filler rows, the ROW fields and SHARED_IN; a COMBINE writes every token's result),
and a DISPATCH adds to each member's EXCH_ROWS the rows it sent. When a field differs, every member completes with
EXCH_MISMATCH. In both cases each member is counted once in COMMANDS with its cycles in BUSY_CYCLES, retires its
command in the step in ascending logical index, and the step waits for no exchange any more. Model readings it rests
on: log entry 81. -/
def Obligations.RendezvousLandsTheExchange : Prop :=
  ∀ (s : State) (p : Fin 6) (run : StepRun) (m : AtRdv) (rest : List AtRdv) (id : Half) (ph : Fin 2),
    s.parts[p].step = some run → run.members.Nodup → (∀ e ∈ run.members, s.engines[e].part = some p) →
    s.waiting p = m :: rest →
    let ms := m :: rest
    let i : Instr := .exchangeRendezvous p id ph
    let open_ := s.onStep p fun r => { r with exchanges := [] }
    let agrees := ∀ k ∈ ms, k.x.agree = m.x.agree
    (ms.length ≠ run.members.length → Answers i s fun u => Kept (fun z => z) s u)
    ∧ (ms.length = run.members.length → (∃ k ∈ ms, k.x.exchId = id.toNat ∧ k.x.phase = ph.val) →
      (agrees → m.x.phase = 0 → exec i s = .next (commit s (open_.dispatchAll p ms)))
      ∧ (agrees → m.x.phase ≠ 0 → exec i s = .next (commit s (open_.combineAll ms)))
      ∧ Answers i s fun u =>
        (∀ k ∈ ms, u.engines[k.engine].counters[0] = s.engines[k.engine].counters[0] + 1
          ∧ u.engines[k.engine].counters[6] = s.engines[k.engine].counters[6] + BitVec.ofNat 64 k.cycles.toNat
          ∧ (agrees → m.x.phase = 0 → u.engines[k.engine].counters[25] = s.engines[k.engine].counters[25]
              + BitVec.ofNat 64 ((s.sentRows ms).countP fun w => w.m.engine == k.engine))
          ∧ (¬ agrees → u.engines[k.engine].lastFault = 0x0140))
        ∧ ∃ r, u.parts[p].step = some r ∧ r.exchanges = []
          ∧ r.retired = run.retired ++ ms.map fun k => (k.engine, dIndex k.desc))

/-- Once a waiting activation that may be taken has been, STEP_ISSUE changes nothing more in a partition that may
start no step, and starts none when no gait is ready. When some gait has ready contexts that no pause holds, the step
is of the ready gait with the smallest V (after the sync of R268), the lower code on a tie; its contexts are a longest
prefix, the oldest first, of the ready contexts of that gait that share the first one's template and kind, within the
batch size, 16,384 LOG_ALLOW entries and the scratch that PADDOCK_DYN and ARENA_DYN hold; a single context whose
scratch does not fit them has it in the work region, and waits where it does not fit there. The contexts are InStep;
the step has the template's number and bound and the partition's sequence number, which advances; V of the gait is
charged the bound by its weight; every posted engine is busy, holds no accumulators and starts with empty score log
and clip pairs. Model readings it rests on: log entries 86, 87 and 121. -/
def Obligations.StepIsFormedAndIssued : Prop :=
  ∀ (s : State) (p : Fin 6) (scratch : List (Nat × Nat)) (t : Nat),
    let b := (s.at t).settleOverlay
    let v := (b.syncTimes p).parts[p].vTime
    let i : Instr := .stepIssue ⟨p, scratch⟩ t
    let frame : State → State := fun z => { z with
      sides := z.sides.map fun y => { y with recipe := 0, overlay := false }
      contexts := z.contexts.map fun d => { d with state := .free }
      engines := z.engines.map fun g => { g with
        clips := Vector.replicate 64 ⟨0, 0⟩, scoreLog := [], logUsed := [], published := [], held := none, routeMaps := []
        busy := false }
      parts := vmod z.parts p fun x => { x with vTime := Vector.replicate 4 0, seqNo := 0, readyMask := 0, step := none }
      mem := { z.mem.bare with ctxCache := [] } }
    (b.mayStep p = false → Answers i s fun u => Kept (fun z => z) b u)
    ∧ (b.mayStep p = true → b.readyGaits p = [] → Answers i s fun u =>
      u.parts[p].step = none ∧ u.contexts = b.contexts ∧ u.engines = b.engines ∧ u.mem = b.mem ∧ Kept frame b u)
    ∧ (∀ (g : Fin 4) (c : Context) (rest : List Context) (pd : PartDesc) (slot : Fin 16) (r : Recipe) (n : Nat) (tm : Template),
      b.mayStep p = true →
      g ∈ b.readyGaits p → (∀ h ∈ b.readyGaits p, h ≠ g → v[g] < v[h] ∨ (v[g] = v[h] ∧ g < h)) →
      b.readyOf p g = c :: rest → b.parts[p].desc = some pd → b.slotFor p g.val = some slot → b.recipeFor p g.val = some r →
      b.templateOf c = some n → r.templates[n]? = some tm →
      let cap := if bit tm.tflags 1 then (if pd.mode = 1 then tm.batch else pd.maxBatch) else 1
      let same := (c :: rest).filter fun d => b.templateOf d == some n && d.line == c.line
      let allow := b.logAllowOf tm
      let fits (k : Nat) := pd.scratchFits (scratchOf scratch k)
      let spill := pd.spillUnits (scratchOf scratch 1)
      let ends := ((b.syncTimes p).posting p pd slot r tm (.formed g n tm c [c.id] b.now (0, 0) spill) 0).endsAt
      1 ≤ cap → allow c ≤ 16384 →
      (pd.spillFits spill ends = false → (∀ k, 1 ≤ k → fits k = false) →
        Answers i s fun u => u.parts[p].step = none ∧ u.contexts = b.contexts ∧ u.engines = b.engines)
      ∧ ((fits 1 = true ∨ pd.spillFits spill ends = true) →
        Answers i s fun u => ∃ (batch more : List Context) (run : StepRun),
          same = batch ++ more ∧ batch.length ≤ cap ∧ batch ≠ [] ∧ (batch.map allow).sum ≤ 16384
          ∧ (batch.length = 1 ∨ fits batch.length = true)
          ∧ (more = [] ∨ batch.length = cap ∨ fits (batch.length + 1) = false
            ∨ ∃ d, more.head? = some d ∧ 16384 < (batch.map allow).sum + allow d)
          ∧ u.parts[p].step = some run ∧ run.gait = g ∧ run.template = n ∧ run.line = c.line ∧ run.mode = .first
          ∧ run.contexts = batch.map (·.id) ∧ run.started = b.now ∧ run.bound = tm.bound ∧ run.faults = []
          ∧ run.retired = [] ∧ run.stepId = BitVec.ofNat 32 (n * 2 ^ 20 + b.parts[p].seqNo.toNat)
          ∧ run.oldestReady = c.readySince ∧ run.members = b.members p ∧ run.recovered = false
          ∧ (fits batch.length = true → run.scratch = scratchOf scratch batch.length ∧ run.spill = 0)
          ∧ (fits batch.length = false → run.scratch = (0, 0) ∧ run.spill = spill)
          ∧ u.parts[p].seqNo = b.parts[p].seqNo + 1
          ∧ u.parts[p].vTime = (if g = 0 ∨ pd.weight g.val = 0 then v
              else v.set g (v[g] + BitVec.ofNat 64 (tm.bound * 256 / pd.weight g.val)))
          ∧ u.contexts = b.contexts.map (fun d => if (batch.map (·.id)).contains d.id then { d with state := .inStep } else d)
          ∧ (∀ (l : Nat) (e : Fin 7), l < tm.engines → b.member? p l = some e →
              u.engines[e].busy = true ∧ u.engines[e].held = none ∧ u.engines[e].scoreLog = []
              ∧ u.engines[e].clips = Vector.replicate 64 ⟨0, 0⟩)
          ∧ Kept frame b u))

/-- STEP_RETIRE of a step whose engines have not all retired their last command, or that holds a fault, changes
nothing but device time. When they all have and no fault stands, the step ends: STEPS counts it, the Spur window of
its gait gains the elapsed time since its oldest context was ready with its bound, and its engines are no longer busy
and publish nothing. A side context of TROT or WALK that was the step's only one, and asks for no lines, goes on one
place in its chain: it is ready for its next template, or done when there is none. An overlay activation that waited
for the boundary of this partition's step waits no more. Model readings it rests on: log entry 83. -/
def Obligations.StepRetires : Prop :=
  ∀ (s : State) (p : Fin 6) (r : StepRun) (reports : List CtxReport) (t : Nat), s.parts[p].step = some r →
    (∀ q n o, s.host.box.overlayWait = some (q, n, o) → q = p) →
    (s.stepDone p r = false → Answers (.stepRetire p reports t) s fun u => Kept (fun z => z) s u)
    ∧ (s.stepDone p r = true → s.host.box.overlayWait = none → Answers (.stepRetire p reports t) s fun u =>
        u.parts[p].step = none
        ∧ u.parts[p].counters[0] = s.parts[p].counters[0] + 1
        ∧ u.parts[p].spur[r.gait].window =
            ((max s.now t - r.oldestReady, r.bound) :: s.parts[p].spur[r.gait].window).take 64
        ∧ (∀ e ∈ s.members p, u.engines[e].busy = false ∧ u.engines[e].published = [])
        ∧ (∀ (c : Context) (x : Side), r.contexts = [c.id] → r.excluded = [] → s.context? c.id = some c →
            s.side? c.side = some x → c.line = false → 2 ≤ c.gait.val → x.switched = false → s.linesOpen c.side = false →
            (∀ q ∈ reports, q.ctx = c.id → q.lines = 0) →
            u.context? c.id = some { c with
              chainPos := c.chainPos + 1, lastUse := max s.now t, readySince := max s.now t
              state := if (s.templateOf { c with chainPos := c.chainPos + 1 }).isNone then .done else .ready })
        ∧ u.contexts.length ≤ s.contexts.length ∧ u.boot = s.boot)
    ∧ (s.stepDone p r = true → Answers (.stepRetire p reports t) s fun u => u.host.box.overlayWait = none)

/-- While a partition affected by a rebinding has a step in progress, or an engine it needs is still off, a supply
hold stands or a Remount is in progress, REBIND_DRAINED respectively REBIND_COMPLETE changes nothing but device time.
Otherwise the drained rebinding goes on to loading with every partition's ENGINES equal to the engines it now has; and
the loaded one ends: every affected partition with a verdict is bound to its descriptor in the selected plan with its
L_WORST, every other affected one is unbound, no affected partition is rebinding, every partition runs under the
selected plan, the port bindings wait for the next gap, and a verb that asked for it has its outcome. Model readings
it rests on: log entry 91. -/
def Obligations.RebindingDrainsThenBinds : Prop :=
  ∀ (s : State) (t : Nat), s.holderActs = true →
    let rb := s.rebind
    let plan := s.planAt rb.target
    (rb.stage = .draining →
      ((∃ p : Fin 6, p.val ∈ rb.affected ∧ s.parts[p].step ≠ none) → Answers (.rebindDrained t) s fun u => Kept (fun z => z) s u)
      ∧ ((∀ p : Fin 6, p.val ∈ rb.affected → s.parts[p].step = none) →
          (∀ (p : Fin 6) (r : StepRun), s.parts[p].step = some r → r.waitRemount = false) →
          Answers (.rebindDrained t) s fun u =>
            u.rebind = { rb with stage := .loading }
            ∧ (∀ p : Fin 6, u.parts[p].engines = (u.members p).length)
            ∧ (∀ p : Fin 6, p.val ∉ rb.affected → u.parts[p].step = s.parts[p].step)
            ∧ u.boot = s.boot ∧ u.ports = s.ports ∧ u.streams = s.streams))
    ∧ (rb.stage = .loading →
      (((∃ e : Fin 7, s.engines[e].part ≠ none ∧ s.power.domains.getLsbD e.val = false) ∨ s.power.hold ≠ none
          ∨ ∃ (p : Fin 6) (r : StepRun), s.parts[p].step = some r ∧ r.waitRemount = true) →
        Answers (.rebindComplete t) s fun u => Kept (fun z => z) s u)
      ∧ ((∀ e : Fin 7, s.engines[e].part ≠ none → s.power.domains.getLsbD e.val = true) → s.power.hold = none →
          (∀ (p : Fin 6) (r : StepRun), s.parts[p].step = some r → r.waitRemount = false) →
          Answers (.rebindComplete t) s fun u =>
            u.rebind = ⟨.idle, 0, [], false, []⟩
            ∧ (∀ (p : Fin 6) (v : Nat × Nat × Bool) (d : PartDesc), p.val ∈ rb.affected →
                rb.verdicts.find? (fun v => v.1 == p.val) = some v → descIn plan p = some d →
                u.parts[p].bound = true ∧ u.parts[p].desc = some d ∧ u.parts[p].lWorst = BitVec.ofNat 32 v.2.1
                ∧ u.parts[p].shadow = v.2.2)
            ∧ (∀ p : Fin 6, p.val ∈ rb.affected → rb.verdicts.find? (fun v => v.1 == p.val) = none →
                u.parts[p].bound = false ∧ u.parts[p].step = none)
            ∧ (∀ p : Fin 6, u.parts[p].plan = rb.target ∧ (p.val ∈ rb.affected → u.parts[p].rebinding = false))
            ∧ (∀ n : Fin 4, u.transports[n].pendBind = true)
            ∧ u.host.box.outcome = (if rb.fromVerb then some (0, 0) else s.host.box.outcome)))

/-- While a step is in progress or a side of before the binding point is not ready, RECIPE_BIND_SWITCH changes nothing
but device time. Otherwise the partition leaves its binding with the recipes it waited for, and with its virtual times
at zero when it binds a recipe (an overlay alone leaves them), it waits for no staged recipe any more, and a staged
recipe for which no other partition waits becomes the bound one of its slot, without an overlay, while one for which
another partition waits stays staged. Model readings it rests on: log entry 91. -/
def Obligations.PartitionSwitchesItsRecipes : Prop :=
  ∀ (s : State) (p : Fin 6) (d : PartDesc) (t : Nat), s.holderActs = true → s.power.hold = none → s.parts[p].binding = true →
    s.parts[p].desc = some d →
    let d' : PartDesc := { d with recipes := s.parts[p].nextRecipes.getD d.recipes }
    let binds := (∃ n : Fin 16, s.boot.recipes[n].staged ≠ none ∧ p.val ∈ s.boot.recipes[n].pendPart) ∨ d'.served ≠ d.served
    (s.parts[p].step ≠ none ∨ (∃ x ∈ s.sides, x.part = p ∧ x.newRecipe = false ∧ x.stage ≠ .ready) →
      Answers (.recipeBindSwitch p t) s fun u => Kept (fun z => z) s u)
    ∧ (s.parts[p].step = none → (∀ x ∈ s.sides, x.part = p → x.newRecipe = true ∨ x.stage = .ready) →
      Answers (.recipeBindSwitch p t) s fun u =>
        u.parts[p].binding = false ∧ u.parts[p].nextRecipes = none
        ∧ u.parts[p].desc = some d'
        ∧ (binds → u.parts[p].vTime = Vector.replicate 4 0)
        ∧ (¬ binds → u.parts[p].vTime = s.parts[p].vTime)
        ∧ (∀ (n : Fin 16) (r : Recipe), s.boot.recipes[n].staged = some r →
            (((∀ q ∈ s.boot.recipes[n].pendPart, q = p.val) →
              u.boot.recipes[n].bound = some r ∧ u.boot.recipes[n].staged = none ∧ u.boot.recipes[n].overlay = none)
            ∧ ((∃ q ∈ s.boot.recipes[n].pendPart, q ≠ p.val) →
              u.boot.recipes[n].bound = s.boot.recipes[n].bound ∧ u.boot.recipes[n].staged = some r)
            ∧ p.val ∉ u.boot.recipes[n].pendPart))
        ∧ (∀ q : Fin 6, q ≠ p → u.parts[q].desc = s.parts[q].desc ∧ u.parts[q].binding = s.parts[q].binding))

/-- When the bound of a step and 10,000 ns more have passed with no supply hold, and some command of it has not
retired, the watchdog ends every such command with WATCHDOG, reported to the step in the order of the engines and
their lists, and counts in STEP_WATCHDOGS; while the step awaits a Remount, it ends the EXCHANGE commands that wait
for the fenced member. When the DONE_BY cycle of a command that has not retired has passed in a step of a SCHEDULED
partition that keeps its contract, the overrun ends that command alone with CYCLE_OVERRUN (0x0204). Before those
times, and for the overrun in a step in which a recovery event has occurred, both change nothing but device time.
Model readings it rests on: log entries 19, 93, 110 and 122. -/
def Obligations.WatchdogAndOverrunEndCommands : Prop :=
  ∀ (s : State) (p : Fin 6) (r : StepRun) (t : Nat), s.parts[p].step = some r → s.power.hold = none →
    (r.waitRemount = true → ∀ x ∈ r.exchanges, s.engines[x.engine].part = some p) →
    let frame : State → State := fun z => { z with
      freeCtr := 0
      engines := z.engines.map fun g => { g with counters := Vector.replicate 32 0, lastFault := 0, held := none, paddock := [] }
      parts := vmod z.parts p fun x => { x with step := none, counters := Vector.replicate 16 0 }
      mem := { z.mem.bare with arena := [] } }
    let Ends (c : Instr) (l : List (Fin 7 × List Byte)) (st : Half) (wd : Nat) : Prop := Answers c s fun u =>
      (∃ q, u.parts[p].step = some q ∧ q.faults = r.faults ++ l.map (fun x => faultOf s x.1 x.2 st)
        ∧ q.retired = r.retired ++ l.map (fun x => (x.1, dIndex x.2)) ∧ q.done = r.done ∧ q.contexts = r.contexts
        ∧ q.exchanges = if r.waitRemount then [] else r.exchanges)
      ∧ (∀ x ∈ l, u.engines[x.1].lastFault = st)
      ∧ u.parts[p].counters = bumpAt s.parts[p].counters 1 wd
      ∧ Kept frame s u
    let late := if r.waitRemount then r.exchanges.map fun x => (x.engine, x.desc)
      else (s.members p).flatMap fun e => (s.unretired r e).map fun d => (e, d)
    (max s.now t < r.started + r.bound + 10000 ∨ late = [] → Answers (.stepWatchdog p t) s fun u => Kept (fun z => z) s u)
    ∧ (r.started + r.bound + 10000 ≤ max s.now t → late ≠ [] → Ends (.stepWatchdog p t) late 0x000B 1)
    ∧ (∀ (e : Fin 7) (i : Half) (d : List Byte) (x : SchedEntry), s.engines[e].part = some p → s.parts[p].scheduled = true →
      r.mode ≠ .managed → r.waitRemount = false → (s.unretired r e).find? (fun d => dIndex d == i.toNat) = some d →
      s.entryOf p r s.engines[e].logical i.toNat = some x →
      (max s.now t < r.started + x.doneBy ∨ r.recovered = true → Answers (.cmdOverrun e i t) s fun u => Kept (fun z => z) s u)
      ∧ (r.started + x.doneBy ≤ max s.now t → r.recovered = false → Ends (.cmdOverrun e i t) [(e, d)] 0x0204 0))

/-- STEP_FAULT on a step that has faulted for the first time, with no engine whose fault calls for a fence, completes:
the step is replayed with the contexts it had, as its second run, with no command retired and no fault standing,
started now under a new sequence number, its faults kept for comparison and a recovery event marked in it. While the
Rein that holds the Bridle may not act, nothing changes but device time. Model readings it rests on: log entries 94
and 101. -/
def Obligations.FaultedStepIsReplayed : Prop :=
  ∀ (s : State) (p : Fin 6) (r : StepRun) (t : Nat), s.parts[p].step = some r → r.waitRemount = false → s.power.hold = none →
    r.faults ≠ [] →
    (s.holderActs = false → Answers (.stepFault p t) s fun u => Kept (fun z => z) s u)
    ∧ (s.holderActs = true → r.faultCount = 0 → r.previous = [] → r.excluded = [] → r.mode = .first → r.contexts ≠ [] →
      (∀ e ∈ s.members p, s.engines[e].needFence = false
        ∧ (s.engines[e].faultTimes.filter fun w => decide (max s.now t < w + 60000000000)).length < 3) →
      (∀ f ∈ r.faults, f.code.toNat < 0x0130 ∨ 0x0134 < f.code.toNat) →
      ∀ (pd : PartDesc) (slot : Fin 16) (c : Recipe) (tm : Template), s.parts[p].desc = some pd →
        s.slotFor p r.gait.val = some slot → s.recipeFor p r.gait.val = some c → c.templates[r.template]? = some tm →
      Answers (.stepFault p t) s fun u => ∃ q, u.parts[p].step = some q
        ∧ q.contexts = r.contexts ∧ q.template = r.template ∧ q.gait = r.gait ∧ q.mode = .replay ∧ q.faultCount = 1
        ∧ q.faults = [] ∧ q.retired = [] ∧ q.started = max s.now t ∧ q.bound = tm.bound ∧ q.excluded = []
        ∧ (∀ f ∈ q.previous, f ∈ r.faults) ∧ q.recovered = true
        ∧ q.stepId = BitVec.ofNat 32 (r.template * 2 ^ 20 + s.parts[p].seqNo.toNat)
        ∧ u.parts[p].seqNo = s.parts[p].seqNo + 1
        ∧ (∀ i ∈ r.contexts, ∀ x, u.context? i = some x → x.state = .inStep)
        ∧ (∀ x ∈ s.sides, x.part = p → x.tStart ≠ none → x.stage ≠ .ready →
            ∃ y ∈ u.sides, y.key = x.key ∧ y.recoveries = x.recoveries + 1))

/-- A step whose one attributed engine already had an attributed fault before the last replay fences that engine: it
is out of its partition with ROLE FENCED, and the step waits for a Remount. While a step waits with one fenced engine
and a spare stands, REMOUNT with a good copy puts the spare in service at the partition and logical index of the
fenced one and issues the step again; with a bad copy the spare is fenced. SPARE_CHECK that the spare passes changes
nothing; one that it fails fences it and records SPARE_FAIL. Model readings it rests on: log entries 94 and 98. -/
def Obligations.RemountPutsTheSpareIn : Prop :=
  ∀ (s : State) (p : Fin 6) (r : StepRun) (e sp : Fin 7) (t : Nat), s.parts[p].step = some r → s.power.hold = none →
    s.holderActs = true → s.spare = some sp →
    (r.waitRemount = false → r.faults ≠ [] → s.blamed p r = [e] → s.engines[e].role = .inService →
      s.engines[e].needFence = false →
      (∃ f ∈ r.previous, f.engine = e ∧ (f.code = 0x000A ∨ f.code = 0x000B)) →
      Answers (.stepFault p t) s fun u =>
        u.engines[e].role = .fenced ∧ u.engines[e].part = none ∧ u.store.life = bumpAt s.store.life 5 1
        ∧ (∃ q, u.parts[p].step = some q ∧ q.waitRemount = true ∧ q.fencing = [(e, s.engines[e].logical)]
            ∧ q.contexts = r.contexts ∧ q.faults = [] ∧ q.faultAt = max s.now t)
        ∧ ∀ g : Fin 7, g ≠ e → u.engines[g].role = s.engines[g].role ∧ u.engines[g].part = s.engines[g].part)
    ∧ (r.waitRemount = true → ∀ l, r.fencing = [(e, l)] → s.engines[sp].part = none →
      (∀ (pd : PartDesc) (slot : Fin 16) (c : Recipe) (tm : Template), s.parts[p].desc = some pd →
        s.slotFor p r.gait.val = some slot → s.recipeFor p r.gait.val = some c → c.templates[r.template]? = some tm →
        Answers (.remount p true t) s fun u =>
          u.engines[sp].role = .inService ∧ u.engines[sp].part = some p ∧ u.engines[sp].logical = l
          ∧ ∃ q, u.parts[p].step = some q ∧ q.waitRemount = false ∧ q.fencing = [] ∧ q.contexts = r.contexts
            ∧ q.started = max s.now t)
      ∧ Answers (.remount p false t) s fun u => u.engines[sp].role = .fenced ∧ u.store.life = bumpAt s.store.life 5 1)
    ∧ (Answers (.spareCheck true t) s fun u => Kept (fun z => z) s u)
    ∧ (Answers (.spareCheck false t) s fun u =>
      u.engines[sp].role = .fenced ∧ u.engines[sp].part = none
      ∧ u.store.life = bumpAt s.store.life 5 1
      ∧ u.stud = (s.stud.event (max s.now t) 0x0408 (srcEngine sp) [4]).event (max s.now t) 0x040A (srcEngine sp) []
      ∧ Kept (fun z => { z with
          engines := vmod z.engines sp fun _ => Engine.reset, stud := s.stud, store := s.store
          power := { z.power with requests := [] } }) s u)

/-- A read for any class but a slot request completes and changes no byte. Of main memory it is answered with 64 zero
bytes in a frame that is not valid, with a bus error on a poisoned line, counted in POISON_HITS, and otherwise, when
the bytes that the two subchannels return pass the line's check, with those bytes. Bytes that fail the check of a line
that is not poisoned count in LINE_MISMATCHES and put the line in recovery with no answer; a read of a line in
recovery has none either. An address past the data range and below the arena, one in the register space, and one in
the aperture of a fenced engine, give a bus error; the arena above its own structures and the paddock of an engine
that is not fenced are answered with their bytes when every byte passes its check. Model readings it rests on: log
entries 8, 124 and 125. -/
def Obligations.LineReadsDeliver : Prop :=
  ∀ (s : State) (cls : MemClass) (a : Nat) (d : Disturb) (t : Nat), (∀ e i, cls ≠ .slot e i) →
    let l := lineOf a
    let ch := (s.mem.place l).channel
    let seen := s.mem.lineSeen l d
    let sound (w : SramUnit) (o : Nat) : Prop := ∀ x ∈ s.mem.flipped, x.1 = w → x.2 < o ∨ o + 64 ≤ x.2
    let calm : State → State := fun z => { z.unread with
      reply := .none
      mem := { z.unread.mem with bwFront := 0, bwPart := Vector.replicate 6 0, bwRecover := 0, recovering := [] } }
    let P (reply : BusReply) (hits mism : Nat) (start : Bool) : Prop := Answers (.memRead cls a d t) s fun u =>
      u.reply = reply ∧ u.mem.channels[ch].counters[3] = s.mem.channels[ch].counters[3] + BitVec.ofNat 64 hits
      ∧ u.mem.channels[ch].counters[0] = s.mem.channels[ch].counters[0] + BitVec.ofNat 64 mism
      ∧ u.mem.recovering = (if start then l :: s.mem.recovering else s.mem.recovering)
      ∧ u.mem.cells = s.mem.cells ∧ u.mem.valid = s.mem.valid ∧ u.mem.checks = s.mem.checks ∧ Kept calm s u
    (s.mem.dataEnd ≤ a → a < 0x80000000000 → P .busError 0 0 false)
    ∧ (0xF0000000000 ≤ a → P .busError 0 0 false)
    ∧ (a < s.mem.dataEnd → s.mem.frameValid l = false → P (.line (List.replicate 64 0)) 0 0 false)
    ∧ (a < s.mem.dataEnd → s.mem.frameValid l = true → l ∈ s.mem.recovering → P .none 0 0 false)
    ∧ (a < s.mem.dataEnd → s.mem.frameValid l = true → l ∉ s.mem.recovering →
      (s.mem.storedCheck l = ~~~(lineCheck l (s.mem.lineBytes l)) → P .busError 1 0 false)
      ∧ (s.mem.storedCheck l ≠ ~~~(lineCheck l (s.mem.lineBytes l)) →
        (lineCheck l seen = s.mem.storedCheck l → P (.line seen) 0 0 false)
        ∧ (lineCheck l seen ≠ s.mem.storedCheck l → P .none 0 1 true)))
    ∧ (∀ o, l = 0x80000000000 + o → 0x200000 ≤ o → o < arenaBytes → sound .arena o →
        P (.line (s.peek .arena o 64)) 0 0 false)
    ∧ (∀ (e : Fin 7) (o : Nat), l = 0x90000000000 + e.val * 0x4000000 + o → o < paddockBytes →
        (s.engines[e].role = .fenced → P .busError 0 0 false)
        ∧ (s.engines[e].role ≠ .fenced → sound (.paddock e) o → P (.line (s.peek (.paddock e) o 64)) 0 0 false))

/-- A write of 1 to 64 bytes inside one line of the data range, for any class but a slot request, to a line that is
not in recovery: when the line is written whole, or its frame is not valid, or it can be read and the bytes that come
back pass its check, every byte named reads as written and every other byte of memory as before, the frame is valid,
and the line's stored check word is CRC-32C of its bytes XOR bits [37:6] of its address; a partial write to a line
that cannot be read stores nothing and answers a bus error. A partial write whose read of the line fails its check
puts the line in recovery, counted in LINE_MISMATCHES, and waits for it, as does any write to a line in recovery:
nothing is stored yet. Model readings it rests on: log entries 8 and 125. -/
def Obligations.LineWritesStore : Prop :=
  ∀ (s : State) (cls : MemClass) (a : Nat) (bs : List Byte) (d : Disturb) (t : Nat), (∀ e i, cls ≠ .slot e i) → bs ≠ [] →
    a % 64 + bs.length ≤ 64 → a + bs.length ≤ s.mem.dataEnd →
    let l := lineOf a
    let ch := (s.mem.place l).channel
    let passes := lineCheck l (s.mem.lineSeen l d) = s.mem.storedCheck l
    let calm : State → State := fun z => { z with
      reply := .none, mem := { z.mem.bare with bwFront := 0, bwPart := Vector.replicate 6 0, bwRecover := 0 } }
    let waits (mism : Nat) (start : Bool) : Prop := Answers (.memWrite cls a ⟨bs, d⟩ t) s fun u =>
      u.reply = .none ∧ (∀ b, u.mem.byte b = s.mem.byte b) ∧ u.mem.checks = s.mem.checks
      ∧ u.mem.waiting = s.mem.waiting ++ [(a, bs)]
      ∧ u.mem.recovering = (if start then l :: s.mem.recovering else s.mem.recovering)
      ∧ u.mem.channels[ch].counters[0] = s.mem.channels[ch].counters[0] + BitVec.ofNat 64 mism
      ∧ Kept (fun z => { calm z with mem := { (calm z).mem with waiting := [], recovering := [] } }) s u
    (l ∈ s.mem.recovering → waits 0 false)
    ∧ (l ∉ s.mem.recovering →
      (bs.length = 64 ∨ s.mem.frameValid l = false ∨ (s.mem.lineBad l = false ∧ passes) →
        Answers (.memWrite cls a ⟨bs, d⟩ t) s fun u =>
          u.reply = .none
          ∧ (∀ i (h : i < bs.length), u.mem.byte (a + i) = bs[i])
          ∧ (∀ b, b < a ∨ a + bs.length ≤ b → u.mem.byte b = s.mem.byte b)
          ∧ u.mem.frameValid l = true
          ∧ u.mem.storedCheck l = crc32c (u.mem.lineBytes l) ^^^ BitVec.ofNat 32 (l / 64)
          ∧ (∀ m, m % 64 = 0 → m ≠ l → u.mem.checks.find? (fun c => c.1 == m) = s.mem.checks.find? (fun c => c.1 == m))
          ∧ Kept calm s u)
      ∧ (bs.length < 64 → s.mem.frameValid l = true → s.mem.lineBad l = true →
        Answers (.memWrite cls a ⟨bs, d⟩ t) s fun u =>
          u.reply = .busError ∧ (∀ b, u.mem.byte b = s.mem.byte b) ∧ u.mem.checks = s.mem.checks ∧ Kept calm s u)
      ∧ (bs.length < 64 → s.mem.frameValid l = true → s.mem.lineBad l = false → ¬ passes → waits 1 true))

/-- For a line in recovery, LINE_RECOVERY completes, the line leaves recovery, and the writes that waited for it wait
no more. With none waiting: a refetch that passes delivers the line and counts in REFETCHES. Otherwise a source of
truth is written, counts in RESTORES, and is delivered when it verifies; when it does not verify, the line is remapped
and delivered if it is not remapped and an entry of its half is free. With no source, or with no entry free, a line
that holds no adapter master is poisoned (its stored check word the inverse of the correct one), counts in
LINES_POISONED, and the answer is a bus error. With one write waiting, a line that is refetched and can be read holds
the bytes of that write afterwards. A line that is not in recovery is left alone. Model readings it rests on: log
entry 8. -/
def Obligations.RecoveryDeliversRestoresOrPoisons : Prop :=
  ∀ (s : State) (a : Nat) (tries : List Bool) (src : Option (List Byte)) (ok : Bool) (t : Nat),
    let l := lineOf a
    let ch := (s.mem.place l).channel
    let i : Instr := .lineRecovery a tries src ok t
    let alone := ∀ w ∈ s.mem.waiting, lineOf w.1 ≠ l
    let bare := ∀ (p : Fin 6), ∀ m ∈ s.parts[p].masters, s.masterIn l m = false
    let room := ok = true ∨ s.mem.remapped l = true ∨ s.mem.remapUsed (halfOf ch) < 32
    (l ∉ s.mem.recovering → Answers i s fun u => Kept (fun z => z) s u)
    ∧ (l ∈ s.mem.recovering → Answers i s fun u =>
        l ∉ u.mem.recovering ∧ u.mem.waiting = s.mem.waiting.filter fun w => !(lineOf w.1 == l))
    ∧ (l ∈ s.mem.recovering → alone →
      ((∃ b ∈ tries.take 2, b = true) → Answers i s fun u =>
        u.reply = .line (s.mem.lineBytes l) ∧ u.mem.cells = s.mem.cells ∧ u.mem.checks = s.mem.checks
        ∧ u.mem.channels[ch].counters = bumpAt s.mem.channels[ch].counters 1 1)
      ∧ ((∀ b ∈ tries.take 2, b = false) →
        (∀ data : List Byte, src = some data → data.length = 64 →
          (room → Answers i s fun u =>
            u.reply = .line data ∧ u.mem.lineBytes l = data
            ∧ (∀ b, b < l ∨ l + 64 ≤ b → u.mem.byte b = s.mem.byte b)
            ∧ u.mem.frameValid l = true ∧ u.mem.storedCheck l = lineCheck l data
            ∧ u.mem.channels[ch].counters = bumpAt s.mem.channels[ch].counters 2 1
            ∧ u.mem.remaps.length = s.mem.remaps.length + (if ok = false ∧ s.mem.remapped l = false then 1 else 0))
          ∧ (¬ room → bare → Answers i s fun u =>
            u.reply = .busError ∧ u.mem.storedCheck l = ~~~(lineCheck l data)
            ∧ u.mem.channels[ch].counters = bumpAt (bumpAt s.mem.channels[ch].counters 2 1) 4 1))
        ∧ (src = none → bare → Answers i s fun u =>
            u.reply = .busError ∧ u.mem.cells = s.mem.cells
            ∧ u.mem.storedCheck l = ~~~(lineCheck l (s.mem.lineBytes l))
            ∧ u.mem.channels[ch].counters = bumpAt s.mem.channels[ch].counters 4 1)))
    ∧ (∀ w, l ∈ s.mem.recovering → (s.mem.waiting.filter fun w => lineOf w.1 == l) = [w] → w.1 % 64 + w.2.length ≤ 64 →
      s.mem.lineBad l = false → (∃ b ∈ tries.take 2, b = true) → Answers i s fun u =>
        (∀ k (h : k < w.2.length), u.mem.byte (w.1 + k) = w.2[k])
        ∧ ∀ b, b < w.1 ∨ w.1 + w.2.length ≤ b → u.mem.byte b = s.mem.byte b)

/-- A request of a command of an engine that runs under a slot plan: when its FIFO is full, its channel has no granted
slot of its direction or lies outside the group, or it writes less than a line, it is answered with the lowest of
those contract faults, no FIFO changes, and the command, when it has not retired, completes with that fault; otherwise
it joins the end of the read or write FIFO of its channel and nothing else changes. At a slot that the plan in force
grants for reading or writing outside the refresh frames, the oldest request of that FIFO leaves it and is served; at
any other slot, or with the FIFO empty, nothing changes. Model readings it rests on: log entry 110. -/
def Obligations.SlotsCarryRequestsInOrder : Prop :=
  ∀ (s : State) (t : Nat),
    (∀ (e : Fin 7) (ix : Half) (a : Nat) (d : Disturb) (bs : List Byte) (plan : SlotPlan), bs ≠ [] →
      s.slotRules e = some plan →
      let c := (s.mem.place a).channel
      let calm : State → State := fun z => { z with
        reply := .none, mem := { z.mem with channels := vmod z.mem.channels c fun x => { x with fifoRead := [], fifoWrite := [] } } }
      let P (i : Instr) (data : List Byte) : Prop :=
        let faults := s.requestFaults plan (if data.isEmpty then 1 else 2) [lineOf a]
          ++ (if data = [] ∨ (a % 64 = 0 ∧ data.length = 64) then [] else [stLinePartial])
        (faults = [] → Answers i s fun u => u.reply = .none
          ∧ u.mem.channels[c].fifoRead = s.mem.channels[c].fifoRead ++ (if data.isEmpty then [⟨e, a, []⟩] else [])
          ∧ u.mem.channels[c].fifoWrite = s.mem.channels[c].fifoWrite ++ (if data.isEmpty then [] else [⟨e, a, data⟩])
          ∧ Kept calm s u)
        ∧ (∀ st, lowest faults = some st → Answers i s fun u => u.reply = .refused st
          ∧ (∀ k : Fin 12, u.mem.channels[k].fifoRead = s.mem.channels[k].fifoRead
            ∧ u.mem.channels[k].fifoWrite = s.mem.channels[k].fifoWrite)
          ∧ ∀ (p : Fin 6) (r : StepRun) (cmd : List Byte), s.engines[e].part = some p → s.parts[p].step = some r →
            (s.unretired r e).find? (fun x => dIndex x == ix.toNat) = some cmd →
            ∃ q, u.parts[p].step = some q ∧ q.faults = r.faults ++ [faultOf s e cmd st]
              ∧ q.retired = r.retired ++ [(e, dIndex cmd)])
      P (.memRead (.slot e ix) a d t) [] ∧ P (.memWrite (.slot e ix) a ⟨bs, d⟩ t) bs)
    ∧ (∀ (ch : Fin 12) (f : Fin 64) (k : Fin 14) (d : Disturb),
      let i : Instr := .memSlot ch ⟨f, k⟩ d t
      let x := s.mem.channels[ch]
      let code := match s.mem.planOn ch.val with
        | some p => if 9 ≤ f.val % 16 then 0 else p.code ch.val f.val k.val
        | none => 0
      ((code = 0 ∨ code = 3 ∨ (code = 1 ∧ x.fifoRead = []) ∨ (code = 2 ∧ x.fifoWrite = [])) →
        Answers i s fun u => Kept (fun z => z) s u)
      ∧ (∀ q rest, code = 1 → x.fifoRead = q :: rest → q.addr < s.mem.dataEnd →
        let l := lineOf q.addr
        Answers i s fun u =>
          u.mem.channels[ch].fifoRead = rest ∧ u.mem.channels[ch].fifoWrite = x.fifoWrite ∧ u.mem.cells = s.mem.cells
          ∧ (s.mem.frameValid l = false → u.reply = .line (List.replicate 64 0))
          ∧ (s.mem.frameValid l = true → s.mem.lineBad l = false → l ∉ s.mem.recovering →
              lineCheck l (s.mem.lineSeen l d) = s.mem.storedCheck l → u.reply = .line (s.mem.lineSeen l d)))
      ∧ (∀ q rest, code = 2 → x.fifoWrite = q :: rest → q.addr % 64 = 0 → q.data.length = 64 →
        q.addr + 64 ≤ s.mem.dataEnd → q.addr ∉ s.mem.recovering → Answers i s fun u =>
          u.mem.channels[ch].fifoWrite = rest ∧ u.mem.channels[ch].fifoRead = x.fifoRead ∧ u.reply = .none
          ∧ u.mem.lineBytes q.addr = q.data
          ∧ ∀ b, b < q.addr ∨ q.addr + 64 ≤ b → u.mem.byte b = s.mem.byte b))

/-- A request that had to wait for a tag adds the cycles it waited to its pool's TAG_WAIT_CYCLES, for the lending pool
only when the partition is bound and MANAGED without GALLOP; but one of an engine that runs under a slot plan to its
partition's own pool faults the command that made it, when it has not retired, with TAG_EXHAUSTED, and counts nothing.
A trained channel refreshes in window 3 always, in window 1 at twice the rate and in every window at four times;
retrains are counted; and an MR4 poll sets its rate from the worst code (to 3: once, 4: twice, above: four times), and
at code 7 sets HOT and writes one record. A channel that is not trained is left alone. Model readings it rests on: log
entry 58. -/
def Obligations.ChannelsAreKept : Prop :=
  (∀ (s : State) (pool : Fin 12) (part : Fin 6) (e : Fin 7) (ix : Half) (n t : Nat),
    let x := s.parts[part]
    let starved := 5 ≤ pool.val ∧ pool.val ≤ 10 ∧ s.slotRules e ≠ none ∧ s.engines[e].part = some (Fin.ofNat 6 (pool.val - 5))
    let ok := pool.val ≠ 11 ∨ (x.bound = true ∧ x.scheduled = false ∧ x.gallop = false)
    (¬ starved → Answers (.tagGrant pool ⟨part, e, ix⟩ n t) s fun u =>
      (ok → u.mem.tagWait = bumpAt s.mem.tagWait pool.val n) ∧ (¬ ok → u.mem.tagWait = s.mem.tagWait)
      ∧ Kept (fun z => { z with mem := { z.mem with tagWait := Vector.replicate 12 0 } }) s u)
    ∧ (∀ (p : Fin 6) (r : StepRun) (cmd : List Byte), starved → s.engines[e].part = some p → s.parts[p].step = some r →
      (s.unretired r e).find? (fun x => dIndex x == ix.toNat) = some cmd →
      Answers (.tagGrant pool ⟨part, e, ix⟩ n t) s fun u => u.mem.tagWait = s.mem.tagWait
        ∧ ∃ q, u.parts[p].step = some q ∧ q.faults = r.faults ++ [faultOf s e cmd stTagExhausted]
          ∧ q.retired = r.retired ++ [(e, dIndex cmd)]))
  ∧ (∀ (s : State) (ch : Fin 12) (w : Fin 4) (codes : List (BitVec 3)) (t : Nat), codes ≠ [] →
    let c := s.mem.channels[ch]
    let calm : State → State := fun z => { z with mem := { z.mem with channels := vmod z.mem.channels ch fun _ => Channel.reset } }
    Answers (.refreshWindow ch w) s (fun u =>
      u.mem.channels[ch] = { c with refreshes := c.refreshes
        + (if c.trained = true ∧ (w = 3 ∨ (w = 1 ∧ c.refresh ≠ 0) ∨ c.refresh = 2) then 1 else 0) } ∧ Kept calm s u)
    ∧ Answers (.dqsRetrain ch t) s (fun u =>
      u.mem.channels[ch] = { c with retrains := c.retrains + (if c.trained then 1 else 0) } ∧ Kept calm s u)
    ∧ Answers (.mr4Poll ch codes t) s (fun u =>
      (c.trained = false → u.mem.channels[ch] = c ∧ u.stud = s.stud)
      ∧ (c.trained = true →
        let Below (k : Nat) : Prop := ∀ q ∈ codes, q.toNat ≤ k
        u.mem.channels[ch] = { c with refresh := u.mem.channels[ch].refresh, hot := u.mem.channels[ch].hot }
        ∧ (Below 3 → u.mem.channels[ch].refresh = 0)
        ∧ (Below 4 → ¬ Below 3 → u.mem.channels[ch].refresh = 1)
        ∧ (¬ Below 4 → u.mem.channels[ch].refresh = 2)
        ∧ (7 ∈ codes → u.mem.channels[ch].hot = true ∧ u.stud = s.stud.event (max s.now t) 0x0501 (srcChannel ch) [])
        ∧ (7 ∉ codes → u.mem.channels[ch].hot = c.hot ∧ u.stud = s.stud))
      ∧ Kept (fun z => { calm z with stud := s.stud }) s u))

/-- While scrubbing is enabled, the chip runs, no reload of a Remount is in progress and no supply hold stands, the
Currycomb reads its next data line with no bit disturbed, counted in SCRUB_LINES, changes no byte, keeps the last
answer, and moves on; with scrubbing off it does nothing. The walk of an SRAM structure whose domain is on reads the
next location and moves on: a read in which every byte passes its check changes nothing else, one that fails and
passes when repeated counts in SRAM_TRANSIENTS, and one that fails twice counts in SRAM_FAILURES; a location of
paddock weights, or of the paddock of an engine that no partition holds, whose verify read fails takes a remap entry
while the engine has fewer than eight; a failure in a partition's arena scratch faults its step; one in a shadow copy
clears SHADOW until its reload has ended. A structure whose domain is off is not read. Model readings it rests on: log
entries 8 and 124. -/
def Obligations.ScrubbersReadAndRepair : Prop :=
  ∀ (s : State) (t : Nat),
    (bit s.mem.scrubCfg.toNat 20 = false → ∀ d w x, Answers (.currycombLine d t) s (fun u => Kept (fun z => z) s u)
      ∧ Answers (.sramScrub w x t) s fun u => Kept (fun z => z) s u)
    ∧ (bit s.mem.scrubCfg.toNat 20 = true → s.power.hold = none →
      (∀ l, s.up = true → s.reloadingWeights = false → s.mem.nextLine s.mem.scrubNext = some l →
        s.mem.scrubNext < s.mem.dataEnd → l < s.mem.dataEnd → l % 64 = 0 → l ∉ s.mem.recovering →
        s.mem.lineBad l = false → s.mem.frameValid l = true →
        let ch := (s.mem.place l).channel
        Answers (.currycombLine [] t) s fun u =>
          u.mem.scrubNext = l + 64 ∧ u.reply = s.reply ∧ u.mem.recovering = s.mem.recovering
          ∧ u.mem.channels[ch].counters[8] = s.mem.channels[ch].counters[8] + 1
          ∧ u.mem.cells = s.mem.cells ∧ u.mem.checks = s.mem.checks
          ∧ Kept (fun z => { z.unread with mem := { z.unread.mem with scrubNext := 0 } }) s u)
      ∧ (∀ (w : SramUnit) (x : SramReads), s.power.domains.getLsbD (sramDomain w) = true →
        let o := s.mem.sramAt w
        let len := sramLocation w
        let b := x.stored.foldl (fun s f => if f.1 < len then s.flipSram w (o + f.1) f.2 else s) s
        let bad (l : List (Nat × NineFlip)) := b.mem.badBytes w o len l
        let fails := bad x.first ≠ [] ∧ bad x.second ≠ []
        let verified := ∀ i, i < len → onesOf (flipAt x.verify i) % 2 = 0
        let i : Instr := .sramScrub w x t
        let walk : State → State := fun z => { z with mem := { z.mem with sramNext := [] } }
        (bad x.first = [] → Answers i s fun u => u.mem.sramAt w = (if o + len < sramSize w then o + len else 0) ∧ Kept walk b u)
        ∧ (bad x.first ≠ [] → bad x.second = [] → Answers i s fun u =>
          u.host.chip = bumpAt s.host.chip Chip.sramTransients 1
          ∧ Kept (fun z => { walk z with host := { z.host with chip := Vector.replicate 32 0 } }) b u)
        ∧ (∀ e : Fin 7, w = .paddock e → fails →
          (s.engines[e].part = none ∧ s.engines[e].needFence = false) ∨ (∀ k ∈ bad x.second, (b.weightByte e (o + k)).isSome = true) →
          (verified → Answers i s fun u => u.engines[e].remaps = s.engines[e].remaps
            ∧ u.host.chip = bumpAt s.host.chip Chip.sramFailures 1)
          ∧ (¬ verified → (∀ y ∈ s.engines[e].remaps, y.bank ≠ bankOf o ∨ y.row ≠ bankRow o) →
            s.engines[e].remaps.length < 8 → Answers i s fun u =>
            u.engines[e].remaps = s.engines[e].remaps ++ [⟨bankOf o, bankRow o⟩]
            ∧ u.host.chip = bumpAt (bumpAt s.host.chip Chip.sramFailures 1) Chip.remapInstalls 1
            ∧ Kept (fun z => { walk z with
                engines := vmod z.engines e fun g => { g with remaps := [], paddock := [] }, stud := s.stud
                mem := { (walk z).mem with flipped := [] }
                host := { z.host with chip := Vector.replicate 32 0 } }) s u))
        ∧ (∀ (p : Fin 6) (r : StepRun), w = .arena → fails → (∀ k ∈ bad x.second, b.arenaContent (o + k) = .arenaScratch p) →
          s.parts[p].step = some r → Answers i s fun u =>
            (∃ f, u.parts[p].step = some { r with faults := r.faults ++ [f] })
            ∧ u.host.chip = bumpAt s.host.chip Chip.sramFailures 1)
        ∧ (∀ p : Fin 6, w = .arena → fails → (∀ k ∈ bad x.second, b.arenaContent (o + k) = .shadow p) →
          s.parts[p].shadow = true → Answers i s fun u =>
            u.parts[p].shadow = false ∧ u.mem.reloading = s.mem.reloading ++ [p]
            ∧ u.host.chip = bumpAt s.host.chip Chip.sramFailures 1)))
    ∧ (∀ w x, s.power.domains.getLsbD (sramDomain w) = false → Answers (.sramScrub w x t) s fun u => Kept (fun z => z) s u)
    ∧ (∀ p : Fin 6, p ∈ s.mem.reloading → Answers (.shadowReloadDone p t) s fun u =>
        p ∉ u.mem.reloading ∧ u.parts[p].shadow = (s.parts[p].bound || s.parts[p].shadow)
        ∧ Kept (fun z => { z with
            parts := vmod z.parts p fun x => { x with shadow := false }
            mem := { z.mem with reloading := [], flipped := [] } }) s u)

/-- While the host may write, setting EN of a ring settles REC_VERSION (1.0 when HOST_CAPS has major version 1, else
0) and checks the ring: no common version gives NO_CAPS (3), a size that is not a power of two in range RING_SIZE (1),
an address out of alignment ALIGN (2), a zero coalescing field of an output ring RANGE (4), the first that applies,
and EN stays clear; otherwise EN sets with error 0, and for the input ring IN_STOPPED clears. Clearing EN clears EN.
While the host may not write, neither changes anything but device time. Model readings it rests on: log entries 68 and
107. -/
def Obligations.RingEnableIsChecked : Prop :=
  ∀ (s : State) (p : Fin 6) (cr : Byte) (cu : Half) (t : Nat),
    let caps : Half := if s.host.recVer.toNat / 256 = 1 then 0x0100 else 0
    let Pow (lo hi n : Nat) : Prop := ∃ k, lo ≤ k ∧ k ≤ hi ∧ n = 2 ^ k
    let r := s.host.inRing
    let o := s.host.out[p]
    let inFrame : State → State := fun z => { z with host := { z.host with
      recVersion := 0, inStopped := false, inRing := { z.host.inRing with en := false, error := 0, failures := 0 } } }
    let outFrame : State → State := fun z => { z with
      stud := s.stud
      host := { z.host with
        recVersion := 0, chip := Vector.replicate 32 0
        out := vmod z.host.out p fun x => { x with
          en := false, error := 0, coalRecords := 0, coalUs := 0, stallStart := none, stalledOut := false } } }
    (s.hostWrites = false →
      Answers (.inRingEnable t) s (fun u => Kept (fun z => z) s u) ∧ Answers .inRingDisable s (fun u => Kept (fun z => z) s u)
      ∧ Answers (.outRingEnable p cr cu t) s (fun u => Kept (fun z => z) s u)
      ∧ Answers (.outRingDisable p t) s fun u => Kept (fun z => z) s u)
    ∧ (s.hostWrites = true →
      Answers (.inRingEnable t) s (fun u =>
        let badAlign := r.base.toNat % 4096 ≠ 0 ∨ r.prodAddr.toNat % 8 ≠ 0 ∨ r.consAddr.toNat % 8 ≠ 0
        let q := u.host.inRing
        u.host.recVersion = caps
        ∧ (caps = 0 → q.en = false ∧ q.error = 3)
        ∧ (caps ≠ 0 → ¬ Pow 4 16 r.entries.toNat → q.en = false ∧ q.error = 1)
        ∧ (caps ≠ 0 → Pow 4 16 r.entries.toNat → badAlign → q.en = false ∧ q.error = 2)
        ∧ (caps ≠ 0 → Pow 4 16 r.entries.toNat → ¬ badAlign →
            q.en = true ∧ q.error = 0 ∧ q.failures = 0 ∧ u.host.inStopped = false)
        ∧ Kept inFrame s u)
      ∧ Answers .inRingDisable s (fun u => u.host.inRing = { r with en := false } ∧ Kept inFrame s u)
      ∧ Answers (.outRingEnable p cr cu t) s (fun u =>
        let badAlign := o.base.toNat % 4096 ≠ 0 ∨ o.prodAddr.toNat % 8 ≠ 0 ∨ o.consAddr.toNat % 8 ≠ 0 ∨ o.imgBase.toNat % 4096 ≠ 0
        let q := u.host.out[p]
        u.host.recVersion = caps ∧ q.coalRecords = cr ∧ q.coalUs = cu
        ∧ (caps = 0 → q.en = false ∧ q.error = 3)
        ∧ (caps ≠ 0 → ¬ Pow 6 20 o.size.toNat → q.en = false ∧ q.error = 1)
        ∧ (caps ≠ 0 → Pow 6 20 o.size.toNat → badAlign → q.en = false ∧ q.error = 2)
        ∧ (caps ≠ 0 → Pow 6 20 o.size.toNat → ¬ badAlign → cr = 0 ∨ cu = 0 → q.en = false ∧ q.error = 4)
        ∧ (caps ≠ 0 → Pow 6 20 o.size.toNat → ¬ badAlign → cr ≠ 0 → cu ≠ 0 → q.en = true ∧ q.error = 0)
        ∧ Kept outFrame s u)
      ∧ Answers (.outRingDisable p t) s fun u => u.host.out[p].en = false ∧ Kept outFrame s u)

/-- On an enabled input ring with the link up and admission room, a poll with a producer index within ENTRIES of the
consumer asks for the new entries, at most 16, and one outside counts in RING_ERRORS. A fetched entry that passes the
checks of R81 waits to be observed; one that fails is counted and logged with its reason; a failed read is asked for
again and the third in a row stops the ring with error 4. The oldest entry is observed once its spool reservation is
granted outright and the staging area holds its data: a side of its partition, gait and tag begins now. Its payload
then stands in main memory and the sample waits for its unit; a payload that cannot be fetched gives HOST_FETCH and
counts, and a video access unit so lost keeps its place in its stream, where it counts in FRAMES_DROPPED and drops the
later ones up to the next random access point (none after END_OF_STREAM). Model readings it rests on: log entries 21,
69, 70 and 130. -/
def Obligations.EntriesComeFromTheInputRing : Prop :=
  ∀ (s : State) (t : Nat),
    let r := s.host.inRing
    let calm : State → State := fun z => { z with
      host := { z.host with inRing := { z.host.inRing with prodSeen := 0, fetching := 0, fetchTo := 0 }, chip := Vector.replicate 32 0 } }
    (r.en = true → s.host.linkUp = true → r.consWrite = false → s.queueUsed + s.boot.limits.hostAdmitMin ≤ 4096 →
      ∀ w : Word,
      (r.entries.toNat < (w - r.cons).toNat → Answers (.inPoll w t) s fun u =>
        u.host.chip = bumpAt s.host.chip 16 1 ∧ u.host.inRing = r ∧ Kept calm s u)
      ∧ ((w - r.cons).toNat ≤ r.entries.toNat → r.fetching = 0 → 0 < (w - r.fetchTo).toNat →
        (w - r.fetchTo).toNat ≤ r.entries.toNat → Answers (.inPoll w t) s fun u =>
          let n := min 16 (w - r.fetchTo).toNat
          u.host.inRing = { r with prodSeen := w, fetching := n, fetchTo := r.fetchTo + BitVec.ofNat 32 n } ∧ Kept calm s u))
    ∧ (∀ b truth : List Byte, r.fetching = 1 → b.length = 64 → byteAt b 0 = 1 → byteAt b 1 = 0 →
      let i := r.fetchTo - 1
      let e := ringEntry b i
      (s.entryFault b truth e = none → Answers (.entryFetchDone (some [(b, truth)]) t) s fun u =>
        u.host.inRing.fetched = r.fetched ++ [(e, truth)] ∧ u.host.chip = bumpAt s.host.chip 10 1 ∧ u.stud = s.stud
        ∧ u.boot = { s.boot with anyEntry := true } ∧ u.host.inRing.failures = 0)
      ∧ (∀ why, s.entryFault b truth e = some why → Answers (.entryFetchDone (some [(b, truth)]) t) s fun u =>
        u.host.inRing.fetched = r.fetched ∧ u.host.chip = bumpAt (bumpAt s.host.chip 10 1) 0 1
        ∧ u.stud = s.stud.event (max s.now t) 0x0302 (srcStream e.stream) (why :: leBytes 4 i.toNat)))
    ∧ (r.fetching ≠ 0 → Answers (.entryFetchDone none t) s fun u =>
        u.host.inRing.fetchTo = r.fetchTo - BitVec.ofNat 32 r.fetching ∧ u.host.inRing.fetching = 0
        ∧ (r.failures < 2 → u.host.inRing.failures = r.failures + 1 ∧ u.host.inRing.en = r.en)
        ∧ (2 ≤ r.failures → u.host.inRing.en = false ∧ u.host.inRing.error = 4 ∧ u.host.inStopped = true))
    ∧ (∀ (e : Entry) (truth : List Byte) (rest : List (Entry × List Byte)), r.fetched = (e, truth) :: rest → r.staging = [] →
      s.spoolReserve + s.sideReserve ≤ s.spoolFree → r.stageUsed + s.stageNeed e ≤ s.boot.limits.inputStageBytes →
      s.oversized e = false → e.length ≠ 0 → (∀ y ∈ s.sides, y.key ≠ s.nextKey) →
      Answers (.entryObserve t) s fun u =>
        u.host.inRing.fetched = rest ∧ u.host.inRing.staging = [⟨e, [], [], max s.now t, s.nextKey, false⟩]
        ∧ u.host.inRing.stageUsed = r.stageUsed + s.stageNeed e ∧ u.host.spoolResv = s.host.spoolResv + s.sideReserve
        ∧ u.nextKey = s.nextKey + 1
        ∧ (∃ x, u.side? s.nextKey = some x ∧ x.host = true ∧ x.stream = e.stream ∧ x.sideId = e.tag ∧ x.stage = .capturing
            ∧ x.part = Fin.ofNat 6 e.part ∧ x.gait = Fin.ofNat 4 e.gait ∧ x.tStart = some (max s.now t)
            ∧ x.reserve = s.sideReserve ∧ x.stageBytes = s.stageNeed e))
    ∧ (∀ (x : Staged) (y : Side) (payload : List Byte), r.staging = [x] → s.side? x.side = some y →
      payload.length = x.entry.length → 0 < payload.length → x.entry.truthLen = 0 →
      let n : Fin 64 := Fin.ofNat 64 x.entry.stream
      ((y.stageAt % 64 = 0 ∧ ∀ l ∈ linesOf y.stageAt payload.length, s.mem.lineBad l = false) →
        Answers (.payloadStaged (some payload) none t) s fun u =>
          u.streams[n].queue = s.streams[n].queue ++ [{ x with payload := payload, truth := [] }]
          ∧ u.host.inRing.staging = [] ∧ u.mem.bytes y.stageAt payload.length = payload)
      ∧ ((isVideo n = false ∨ ∃ h, s.streams[n].queue.head? = some h ∧ h.lost = false) →
        Answers (.payloadStaged none none t) s fun u =>
          u.host.inRing.staging = [] ∧ u.host.chip = bumpAt s.host.chip 17 1 ∧ u.mem = s.mem
          ∧ u.streams[n].queue = s.streams[n].queue ++ (if isVideo n then [{ x with lost := true }] else [])
          ∧ ∃ z, u.side? x.side = some z ∧ z.statusOnly = true ∧ z.stage = .arriving ∧ z.stageBytes = 0
            ∧ z.status = insertStatus 0x0402 0 y.status)
      ∧ (isVideo n = true → s.streams[n].queue = [] → s.decoding n = false →
        Answers (.payloadStaged none none t) s fun u =>
          u.host.inRing.staging = [] ∧ u.host.chip = bumpAt s.host.chip 17 1 ∧ u.streams[n].queue = []
          ∧ u.streams[n].counters[Strm.framesDropped] = s.streams[n].counters[Strm.framesDropped] + 1
          ∧ u.streams[n].dropping = !x.entry.eos))

/-- With the link up, a Function Level Reset, a link-down and PERST_N clear the interface: HOST_CAPS, POLL_CFG and
HOST_STALL_TIMEOUT to their reset values, both kinds of ring disabled with their indices at 0, the addresses and data
of the MSI-X table at 0, a verb in progress silenced; waiting records stay, and nothing outside the interface, the
stall accounting and the Studbook changes. The last two also drop the link and count in LINK_DOWNS; the link comes up
again once the chip has booted or stopped. A number written to EVT_SELECT latches the record of that number while the
ring holds it, else says that it is gone or not yet made. While the host may write, POLL_US takes bits 9 to 0 of a
4-byte write of POLL_CFG when they are 1 to 1,000 and stays otherwise; likewise HOST_STALL_TIMEOUT with bits 15 to 0
and 1 to 60,000; nothing else changes. Model readings it rests on: log entries 10, 29, 45 and 73. -/
def Obligations.LinkResetsAndWindows : Prop :=
  ∀ (s : State) (t : Nat),
    let outside : State → State := fun z => { z with stud := s.stud, host := { HostIf.reset with linkUp := z.host.linkUp } }
    (s.host.linkUp = true →
      let Cleared (u : State) : Prop :=
        u.host.recVer = 0 ∧ u.host.pollUs = 10 ∧ u.host.stallMs = 100 ∧ u.host.inRing.en = false ∧ u.host.inRing.cons = 0
        ∧ (∀ p : Fin 6, u.host.out[p].en = false ∧ u.host.out[p].prod = 0 ∧ u.host.out[p].records = s.host.out[p].records)
        ∧ u.host.evtSelect = 0 ∧ u.host.box.silent = s.host.box.busy ∧ u.host.box.arg = Vector.replicate 8 0
        ∧ (∀ v : Fin 32, u.host.msix[v].addr = 0 ∧ u.host.msix[v].data = 0)
      Answers (.functionLevelReset t) s (fun u => Cleared u ∧ u.host.linkUp = true ∧ Kept outside s u)
      ∧ ∀ c ∈ [Instr.linkDown t, Instr.perstAssert t], Answers c s fun u =>
          Cleared u ∧ u.host.linkUp = false ∧ u.host.chip[20] = s.host.chip[20] + 1
          ∧ Kept (fun z => { outside z with host := HostIf.reset }) s u)
    ∧ (s.boot.running = true ∨ s.boot.stopped = true → Answers (.linkUp t) s fun u =>
        u.host.linkUp = true ∧ Kept (fun z => { outside z with host := HostIf.reset }) s u)
    ∧ (s.hostWrites = true → ∀ n : DWord,
      let p := s.stud.produced
      Answers (.evtSelect n) s fun u =>
        u.host.evtSelect = n
        ∧ (∀ q, n.toNat < p → p ≤ n.toNat + 4096 → s.stud.ring[p - 1 - n.toNat]? = some q →
            u.host.evtValid = true ∧ u.host.evtGone = false ∧ u.host.evtData = q.encode 0)
        ∧ (n.toNat + 4096 < p → u.host.evtValid = false ∧ u.host.evtGone = true)
        ∧ (p ≤ n.toNat → u.host.evtValid = false ∧ u.host.evtGone = false)
        ∧ Kept (fun z => { z with host := { z.host with evtSelect := 0, evtValid := false, evtGone := false, evtData := [] } }) s u)
    ∧ (s.hostWrites = true → ∀ value : DWord,
      Answers (.registerWrite (.bar0 0x108 4) value t) s (fun u =>
        u.host.pollUs = (if 1 ≤ value.toNat % 1024 ∧ value.toNat % 1024 ≤ 1000 then value.setWidth 10 else s.host.pollUs)
        ∧ Kept (fun x => { x with reply := .none, host := { x.host with pollUs := 0 } }) s u)
      ∧ Answers (.registerWrite (.bar0 0x10C 4) value t) s (fun u =>
        u.host.stallMs = (if 1 ≤ value.toNat % 65536 ∧ value.toNat % 65536 ≤ 60000 then value.setWidth 16 else s.host.stallMs)
        ∧ Kept (fun x => { x with reply := .none, host := { x.host with stallMs := 0 } }) s u))

/-- A verb written while one runs is discarded with VERB_OVERRUN. While the host may write and no verb runs, an
unassigned code is decided VERB_UNKNOWN; a PAUSE_GAIT or RESUME_GAIT with a reserved bit set is decided
RESERVED_NONZERO, a pause of GALLOP VERB_PAUSE_GALLOP, and any other sets respectively clears the named pauses in the
named partitions and no others, and waits for the step boundary of every named bound partition with a step in
progress. A verb that is decided, or a pause that waits for no boundary, completes: DONE with its RESULT, or silently
after a reset of the interface. Model readings it rests on: log entry 104. -/
def Obligations.MailboxRunsOneVerb : Prop :=
  ∀ (s : State) (code : Byte) (seq : Half) (t : Nat),
    let b := s.host.box
    let boxed : State → State := fun z => { z with host := { z.host with box := Mailbox.reset } }
    (s.hostWrites = true → b.busy = true → Answers (.verbOverrun code seq t) s fun u =>
      u.host.verbOverrun = true ∧ Kept (fun z => { z with host := { z.host with verbOverrun := false } }) s u)
    ∧ (s.hostWrites = true → b.busy = false →
      let Decided (u : State) (why : Byte) : Prop :=
        u.host.box.busy = true ∧ u.host.box.done = false ∧ u.host.box.seq = seq ∧ u.host.box.outcome = some (why, 0)
        ∧ u.host.box.arg = b.arg ∧ Kept boxed s u
      (code = 0 ∨ 8 ≤ code.toNat → Answers (.verbUnknown code seq t) s fun u => Decided u rvUnknown)
      ∧ (let a := s.arg 0
        let parts := a % 64
        let gaits := BitVec.ofNat 4 (a / 256 % 16)
        let reserved := a / 64 % 4 ≠ 0 ∨ 4096 ≤ a ∨ s.argsZero 1 = false
        let Paused (i : Instr) (f : BitVec 4 → BitVec 4) : Prop := Answers i s fun u =>
          (∀ p : Fin 6, u.parts[p].paused = if parts.testBit p.val then f s.parts[p].paused else s.parts[p].paused)
          ∧ u.host.box.busy = true ∧ u.host.box.seq = seq ∧ u.host.box.outcome = none
          ∧ (∀ p : Fin 6, p.val ∈ u.host.box.waitFor ↔
              parts.testBit p.val = true ∧ s.parts[p].bound = true ∧ s.parts[p].step ≠ none)
          ∧ Kept (fun z => { boxed z with parts := z.parts.map fun x => { x with paused := 0 } }) s u
        (reserved → Answers (.pauseGait seq t) s (fun u => Decided u reReserved)
          ∧ Answers (.resumeGait seq t) s fun u => Decided u reReserved)
        ∧ (¬ reserved → gaits.getLsbD 0 = true → Answers (.pauseGait seq t) s fun u => Decided u rvPauseGallop)
        ∧ (¬ reserved → gaits.getLsbD 0 = false → Paused (.pauseGait seq t) fun x => x ||| gaits)
        ∧ (¬ reserved → Paused (.resumeGait seq t) fun x => x &&& ~~~gaits)))
    ∧ (b.busy = true → (∀ p n o, b.overlayWait = some (p, n, o) → s.parts[p].step ≠ none) →
      (∀ o, (b.outcome = some o ∨ (b.outcome = none ∧ (∃ v, b.verb = some v ∧ v.pauses = true) ∧ b.waitFor = [] ∧ o = (0, 0))) →
        Answers (.verbComplete t) s fun u =>
          u.host.box.busy = false ∧ u.host.box.verb = none ∧ u.host.box.outcome = none
          ∧ (b.silent = false → u.host.box.done = true ∧ u.host.box.result = o.1 ∧ u.host.box.value = o.2)
          ∧ (b.silent = true → u.host.box.done = b.done ∧ u.host.box.result = b.result)
          ∧ Kept boxed s u)
      ∧ (b.outcome = none → (∀ v, b.verb = some v → v.pauses = false ∨ b.waitFor ≠ []) →
        Answers (.verbComplete t) s fun u => Kept (fun z => z) s u))

/-- While the host may write and no verb runs: SELECT_PLAN of the plan in force is decided at once, of an undeclared
one VERB_RANGE, and of one that passes every check begins the rebinding to it. STAGE_RECIPE of a signed image that is
neither rolled back nor at fault, for a slot that no partition runs, puts it in force; an image that cannot be fetched
or whose signature fails is refused with its code. ACTIVATE_OVERLAY of a declared adapter waits for the boundary of a
step in progress; of one of the shape of its bound target it is refused with OVERLAY_EMPTY while a tensor has no
retired STEP and with OVERLAY_NAN when a newest master is not finite; otherwise it, and DEACTIVATE_OVERLAY of an
active overlay, put the change before every partition that runs the recipe and, while NOR is busy, queue the three
operations of the overlay entry for it. REQUEST_ATTESTATION with room for the report is decided with the report's
length and logged. Model readings it rests on: log entries 24 and 104. -/
def Obligations.PlansRecipesAndOverlaysAreTaken : Prop :=
  ∀ (s : State) (seq : Half) (t : Nat), s.hostWrites = true → s.host.box.busy = false →
    let s1 := (s.at t).startVerb seq (fun x => x);
    (let n := s.arg 0;
      s.argsZero 1 = true → n < 8 →
      (s.boot.planCount ≤ n → Answers (.selectPlan seq t) s fun u => u.host.box.outcome = some (rvRange, 0) ∧ u.rebind = s.rebind)
      ∧ (n < s.boot.planCount → s.rebind.stage = .idle →
        (s.parts[(0 : Fin 6)].plan = n → Answers (.selectPlan seq t) s fun u =>
          u.host.box.outcome = some (0, 0) ∧ u.rebind = s.rebind)
        ∧ (s.parts[(0 : Fin 6)].plan ≠ n → selectReason (s1.evalPlan (s1.planAt n)) = none →
          Answers (.selectPlan seq t) s fun u =>
            u.rebind.stage = .draining ∧ u.rebind.target = n ∧ u.rebind.fromVerb = true ∧ u.host.box.outcome = none
            ∧ (∀ p : Fin 6, p.val ∈ u.rebind.affected → s.parts[p].desc ≠ none → u.parts[p].rebinding = true))))
    ∧ (let slot : Fin 16 := Fin.ofNat 16 (s.arg 2 % 16)
      let nor := bit (s.arg 2) 4
      let room := if nor then (s.boot.extents.getD slot.val ⟨false, 0, 0, 0⟩).bytes else s.boot.limits.stageBytes
      s.argsZero 3 = true → s.arg 1 < 2 ^ 32 → s.arg 1 ≠ 0 → s.arg 0 % 4096 = 0 → s.arg 2 < 32 → s.arg 1 ≤ room →
      (Answers (.stageRecipe seq none t) s fun u => u.host.box.outcome = some (rvStageFetch, 0) ∧ u.boot = s.boot)
      ∧ (∀ image : List Byte, image.length = s.arg 1 →
        (s1.recipeSigned image = false → Answers (.stageRecipe seq (some image) t) s fun u =>
          u.host.box.outcome = some (rvStageSignature, 0) ∧ u.boot = s.boot)
        ∧ (let r := recipeImage image (if nor then s.copyToWrite slot else 2)
          s1.recipeSigned image = true → s.otp.recipeSvn ≤ r.svn →
          (∀ x, s.boot.recipes[slot].bound = some x → x.seq < r.seq) → s.usersOf slot.val = [] → r.fault [] false = none →
          (nor = true → s.copyBusy slot s.boot.recipes[slot].bound = false) →
          Answers (.stageRecipe seq (some image) t) s fun u =>
            u.boot.recipes[slot].bound = some r ∧ u.boot.recipes[slot].staged = none ∧ u.boot.recipes[slot].overlay = none
            ∧ u.host.box.outcome = some (0, 0) ∧ u.host.box.verb = some (.stageRecipe slot.val))))
    ∧ (∀ (p : Fin 6) (train r : Recipe) (a : Adapter) (slot : Fin 16), s.argsZero 1 = true →
      let o := s.arg 0 / 256 % 16
      s.arg 0 < 32768 → s.arg 0 / 4096 % 8 = p.val → s.parts[p].bound = true → s.recipeFor p 3 = some train →
      train.adapter (s.arg 0 % 256) = some a →
      (s.parts[p].step ≠ none → Answers (.activateOverlay seq t) s fun u =>
        u.host.box.overlayWait = some (p, s.arg 0 % 256, o) ∧ u.host.box.outcome = none ∧ u.boot = s.boot)
      ∧ (s.parts[p].step = none → s.targetSlot a.target = some (slot, r) →
        (∃ q, r.adapter a.number = some q ∧ q.rank = a.rank ∧ q.n = a.n ∧ q.k = a.k ∧ q.layer = a.layer) →
        (s.adapterWeights p a.number = none → Answers (.activateOverlay seq t) s fun u =>
          u.host.box.outcome = some (rvOverlayEmpty, 0) ∧ u.boot = s.boot)
        ∧ (∀ w, s.adapterWeights p a.number = some w →
          (badMaster w = true → Answers (.activateOverlay seq t) s fun u =>
            u.host.box.outcome = some (rvOverlayNan, 0) ∧ u.boot = s.boot)
          ∧ (badMaster w = false → s.usersOf slot.val ≠ [] → s.norBusy ≠ none → Answers (.activateOverlay seq t) s fun u =>
            u.boot.recipes[slot].pending = some (some (s.overlayOf p train a slot.val o).2.2)
            ∧ u.boot.recipes[slot].pendPart = (s.usersOf slot.val).map (·.val)
            ∧ u.norOps.length = s.norOps.length + 3 ∧ u.host.box.outcome = none))))
    ∧ (∀ (slot : Fin 16) (o : Overlay) (r : Recipe), s.argsZero 1 = true → s.arg 0 = slot.val →
      s.boot.recipes[slot].overlay = some o → s.boot.recipes[slot].bound = some r → s.usersOf slot.val ≠ [] → s.norBusy ≠ none →
      Answers (.deactivateOverlay seq t) s fun u =>
        u.boot.recipes[slot].pending = some none ∧ u.boot.recipes[slot].pendPart = (s.usersOf slot.val).map (·.val)
        ∧ u.norOps.length = s.norOps.length + 3 ∧ u.host.box.outcome = none)
    ∧ (let nonce := leBytes 8 (s.arg 0) ++ leBytes 8 (s.arg 1) ++ leBytes 8 (s.arg 2) ++ leBytes 8 (s.arg 3)
      let len := (((s.at t).notePower).bouquet nonce).length
      s.argsZero 6 = true → s.arg 5 < 2 ^ 32 → s.arg 4 % 8 = 0 → len ≤ s.arg 5 → s.arg 5 ≠ 0 →
      Answers (.requestAttestation seq t) s fun u =>
        u.host.box.outcome = some (0, BitVec.ofNat 64 len) ∧ u.host.box.seq = seq
        ∧ u.stud = s.stud.event (max s.now t) 0x010F srcHost (nonce.take 8))

/-- A heartbeat of a Rein whose latch is set moves its last beat to now. One that is lost 20 us after it clears the
latch of the Rein that holds the Bridle, releases the Bridle and makes every node reject Rein commands; earlier it
does nothing. A shadow applies a journal entry of the holder's epoch in sequence, and no other. A missing
acknowledgement, an internal fault of the shadow and a CLEAR_OTHER by the holder with the current epoch clear the
latch of the shadow, which is OFF; SET_OTHER by the holder with the current epoch sets the other's latch and makes it
SHADOW; with another epoch or by the other Rein neither has an effect. A Rein whose command a node refuses stops and
leaves the holder's role. A Rein that is OFF is restarted when its self-test passes, and lost for good when it fails;
once its state is copied it is SHADOW again. Model readings it rests on: log entry 100. -/
def Obligations.ReinsWatchEachOther : Prop :=
  ∀ (s : State) (r : Fin 2) (t : Nat),
    let b := s.bridle
    let o := other r
    let now := max s.now t
    let frame : State → State := fun z => { z with bridle := Bridle.reset, stud := s.stud }
    (b.health r = true → Answers (.heartbeat r t) s fun u =>
      u.bridle = { b with reins := vmod b.reins r fun x => { x with lastBeat := now } } ∧ Kept frame s u)
    ∧ (now < b.reins[r].lastBeat + 20000 → Answers (.heartbeatLost r t) s fun u => Kept (fun z => z) s u)
    ∧ (b.held = true → b.holder = r → b.health r = true → b.reins[r].role = .holder → b.reins[r].lastBeat + 20000 ≤ now →
      Answers (.heartbeatLost r t) s fun u =>
        u.bridle.held = false ∧ u.bridle.nodesReject = true ∧ u.bridle.health r = false
        ∧ (if r = 0 then u.bridle.hbLostA else u.bridle.hbLostB) = true ∧ u.bridle.reins[r].role = .off
        ∧ u.bridle.lossTime = some b.reins[r].lastBeat ∧ u.bridle.reins[o] = b.reins[o] ∧ Kept frame s u)
    ∧ (b.held = true → b.holder = r → b.reins[o].role = .shadow → b.reins[o].stopped = false → ∀ q e : DWord,
      (Answers (.journalEntry q e t) s fun u =>
        u.bridle = { b with journal := if e = b.epoch ∧ q = b.journal + 1 then q else b.journal } ∧ Kept frame s u)
      ∧ (∀ c ∈ [Instr.journalAckTimeout t, .reinInternalFault o t, .clearOther r b.epoch t],
        b.health o = true → Answers c s fun u =>
          u.bridle.health o = false ∧ u.bridle.reins[o].role = .off ∧ u.bridle.reins[o].losses.head? = some now
          ∧ u.bridle.reins[r] = b.reins[r] ∧ u.bridle.held = true ∧ u.bridle.holder = r ∧ Kept frame s u))
    ∧ (b.held = true → b.holder = r →
      (Answers (.setOther r b.epoch t) s fun u =>
        u.bridle.health o = true ∧ u.bridle.reins[o].role = .shadow ∧ u.bridle.reins[o].stopped = false
        ∧ u.bridle.reins[r] = b.reins[r] ∧ u.bridle.held = true ∧ Kept frame s u)
      ∧ (∀ e, e ≠ b.epoch → Answers (.setOther r e t) s (fun u => Kept (fun z => z) s u)
          ∧ Answers (.clearOther r e t) s fun u => Kept (fun z => z) s u)
      ∧ (Answers (.setOther o b.epoch t) s (fun u => Kept (fun z => z) s u)
          ∧ Answers (.clearOther o b.epoch t) s fun u => Kept (fun z => z) s u))
    ∧ (∀ x y : Byte, b.nodesReject = true ∨ b.held = false ∨ b.holder ≠ r ∨ b.nodeEpoch ≠ b.epoch →
      Answers (.staleEpoch r x y t) s fun u =>
        u.bridle.reins[r].stopped = true ∧ u.bridle.reins[r].role ≠ .holder
        ∧ u.stud = s.stud.event now 0x0602 (srcRein r) [x, y] ∧ Kept frame s u)
    ∧ (s.holderActs = true → b.holder ≠ r → b.reins[r].role = .off → b.reins[r].lostForGood = false →
      b.reins[r].restarting = false →
      Answers (.reinRestart r true t) s (fun u =>
        u.bridle = { b with reins := vmod b.reins r fun x => { x with restarting := true } } ∧ Kept frame s u)
      ∧ Answers (.reinRestart r false t) s fun u =>
        u.bridle = { b with reins := vmod b.reins r fun x => { x with lostForGood := true } }
        ∧ u.stud = s.stud.event now 0x0605 (srcRein r) [] ∧ Kept frame s u)
    ∧ (s.holderActs = true → b.holder ≠ r → b.reins[r].restarting = true → Answers (.reinRestored r t) s fun u =>
      u.bridle.health r = true ∧ u.bridle.reins[r].role = .shadow ∧ u.bridle.reins[r].restarting = false
      ∧ u.stud = s.stud.event now 0x0604 (srcRein r) [] ∧ Kept frame s u)

/-- A claim is valid from a Rein whose latch is set, for an epoch above the arbiter's. Of the claims of one cycle the
valid one with the greater epoch is granted, Rein A's on a tie: that Rein holds the Bridle under that epoch, not yet
settled, with result GRANTED; with none valid the Bridle stays. When the epoch has settled the nodes hold it and
accept commands. After the loss of a holder, a take-over gives the Bridle to the healthy shadow under the next epoch,
settled, and counts in TAKEOVERS; a step whose lists may not have reached every engine, no command of one having
retired, is issued again, and every other step goes on. Ten ms after both latches were lost with nobody holding, both
Reins are reset: those that pass claim the next epoch and the Bridle is held again, by A when it passes. Model
readings it rests on: log entries 57 and 100. -/
def Obligations.ClaimsMoveTheBridle : Prop :=
  ∀ (s : State) (t : Nat),
    let b := s.bridle
    let frame : State → State := fun z => { z with bridle := Bridle.reset, stud := s.stud }
    (∀ x y : Option DWord,
      let Valid (r : Fin 2) (e : DWord) : Prop :=
        b.health r = true ∧ b.epoch < e ∧ (if r = 0 then x else y) = some e
      (∀ (r : Fin 2) (e : DWord), Valid r e → (∀ f, Valid (other r) f → f < e ∨ (f = e ∧ r = 0)) →
        Answers (.bridleClaim x y t) s fun u =>
          u.bridle.held = true ∧ u.bridle.holder = r ∧ u.bridle.epoch = e ∧ u.bridle.settled = false
          ∧ u.bridle.reins[r].role = .holder ∧ (if r = 0 then u.bridle.resultA else u.bridle.resultB) = 1
          ∧ u.bridle.nodeEpoch = b.nodeEpoch ∧ Kept frame s u)
      ∧ ((∀ r e, ¬ Valid r e) → Answers (.bridleClaim x y t) s fun u =>
          u.bridle = { b with resultA := u.bridle.resultA, resultB := u.bridle.resultB } ∧ Kept frame s u))
    ∧ (b.held = true → Answers (.epochSettled t) s fun u =>
        u.bridle = { b with settled := true, nodeEpoch := b.epoch, nodesReject := false } ∧ Kept frame s u)
    ∧ (∀ (r : Fin 2) (w : Nat), b.lossTime = some w → b.held = false → b.health r = true → b.reins[r].role = .shadow →
      (b.health (other r) = false ∨ b.reins[other r].role ≠ .shadow) → b.epoch.toNat < 2 ^ 64 - 1 →
      ∀ unposted : List (Fin 6),
      Answers (.takeover ⟨unposted, t⟩) s fun u =>
        u.bridle.held = true ∧ u.bridle.holder = r ∧ u.bridle.epoch = b.epoch + 1 ∧ u.bridle.settled = true
        ∧ u.bridle.nodesReject = false ∧ u.bridle.lossTime = none ∧ u.store.life = bumpAt s.store.life 6 1
        ∧ (∀ (p : Fin 6) (run : StepRun) (pd : PartDesc) (slot : Fin 16) (c : Recipe) (tm : Template), s.parts[p].step = some run →
          s.parts[p].desc = some pd → s.slotFor p run.gait.val = some slot → s.recipeFor p run.gait.val = some c →
          c.templates[run.template]? = some tm →
          (p ∈ unposted → run.partlyPosted = true → ∃ q, u.parts[p].step = some q
            ∧ q.mode = (if run.mode = .managed then .managed else .replay) ∧ q.faultCount = run.faultCount + 1
            ∧ q.recovered = true ∧ q.retired = [] ∧ q.contexts = run.contexts)
          ∧ (p ∉ unposted ∨ run.partlyPosted = false → u.parts[p].step = some { run with recovered := true })))
    ∧ (∀ (w : Nat) (pa pb : Bool), b.bothLostAt = some w →
      (max s.now t < w + 10000000 → Answers (.reinDoubleLoss pa pb t) s fun u => Kept (fun z => z) s u)
      ∧ (w + 10000000 ≤ max s.now t → pa = true ∨ pb = true → b.epoch.toNat < 2 ^ 64 - 1 →
        Answers (.reinDoubleLoss pa pb t) s fun u =>
          u.bridle.held = true ∧ u.bridle.holder = (if pa then 0 else 1) ∧ u.bridle.epoch = b.epoch + 1
          ∧ u.bridle.settled = true ∧ u.bridle.healthA = pa ∧ u.bridle.healthB = pb
          ∧ (∀ p : Fin 6, s.parts[p].bound = true → s.parts[p].step = none → u.parts[p].vTime = Vector.replicate 4 0)))

/-- BOOT of a chip that runs, has stopped or is held by a trip changes nothing. Otherwise CORE_VID moves to the fused
code. When neither Rein passes its self-test, no Rein holds the Bridle and the chip does not run. When one passes:
SFDP missing stops the boot with reason 2, a capacity outside 256 MiB to 2 GiB with 3, no valid slot with 1 and the
code of each slot in BOOT_INFO, each with BOOT_STOP as record 0; otherwise the chosen bundle's script runs and a
failing SRAM structure stops the boot with 6, a failing parity check of the interface with 7, a failing training with
5, a memory configuration other than MEM_CFG with 4, and a failing later step of the self-test with 7, the failing
engines fenced; when none of these fails, the boot completes: the chip is RUNNING and out of reset, one Rein that
passed holds the Bridle under epoch 1 (A when it passes), the window frames are valid, every channel is trained, the
failing engines alone are fenced, and the PCIe and system domains are on. Model readings it rests on: log entries 45,
46 and 47. -/
def Obligations.BootStopsOrRuns : Prop :=
  ∀ (s : State) (e : BootEnv),
    let s1 := { s.bootReins e with norMiB := e.norMiB };
    let Stopped (why : Byte) (u : State) : Prop :=
      u.boot.running = false ∧ u.boot.stopped = true ∧ u.boot.stopReason = why ∧ u.stud.booted = true
      ∧ u.power.vid = (if s.otp.vidFuse = 31 then 30 else s.otp.vidFuse);
    let Record0 (why : Byte) (u : State) : Prop := ∃ r, u.stud.ring.getLast? = some r ∧ r.code = 0x0102
      ∧ r.source = srcChip ∧ r.payload = payload13 [why, u.boot.slotA.setWidth 8, u.boot.slotB.setWidth 8];
    (∀ n, s.canBoot = true → s.bridle = Bridle.reset → s.stud = Studbook.reset → (e.reinPassA = true ∨ e.reinPassB = true) →
      e.sfdp = true → 256 ≤ e.norMiB → e.norMiB ≤ 2048 → s1.chosenSlot = some n →
      (s1.markSlots.bootScript n).memConfigOk e.dies = true → e.sramFail = false → e.crcFail = false → e.trainFail = false →
      e.poisonFail = false → e.remapFail = false → e.zeroFail = false →
      ∃ t, exec (.boot e) s = .next t ∧ t.boot.running = true ∧ t.boot.stopped = false ∧ t.boot.inReset = false
        ∧ t.stud.booted = true ∧ t.power.vid = (if s.otp.vidFuse = 31 then 30 else s.otp.vidFuse)
        ∧ t.bridle.held = true ∧ t.bridle.holder = (if e.reinPassA then 0 else 1) ∧ t.bridle.epoch = 1
        ∧ t.mem.windowOn = true ∧ (∀ c : Fin 12, t.mem.channels[c].trained = true)
        ∧ (∀ g : Fin 7, t.engines[g].role = .fenced ↔ (g ∈ e.engineFail ∨ g ∈ e.paddockFail))
        ∧ t.power.domains.getLsbD 22 = true ∧ t.power.domains.getLsbD 23 = true)
    ∧ (s.canBoot = false → Answers (.boot e) s fun u => Kept (fun z => z) s u)
    ∧ (s.canBoot = true → s.bridle = Bridle.reset → s.stud = Studbook.reset →
      (e.reinPassA = false → e.reinPassB = false → Answers (.boot e) s fun u =>
        u.boot.running = false ∧ u.boot.inReset = false ∧ u.bridle.held = false)
      ∧ (e.reinPassA = true ∨ e.reinPassB = true →
        (e.sfdp = false → Answers (.boot e) s fun u => Stopped 2 u ∧ Record0 2 u)
        ∧ (e.sfdp = true →
          ((e.norMiB < 256 ∨ 2048 < e.norMiB) → Answers (.boot e) s fun u => Stopped 3 u ∧ Record0 3 u)
          ∧ (256 ≤ e.norMiB → e.norMiB ≤ 2048 →
            (s1.slotResult 0 ≠ 0 → s1.slotResult 1 ≠ 0 → Answers (.boot e) s fun u => Stopped 1 u ∧ Record0 1 u
              ∧ u.boot.slotA.toNat = s1.slotResult 0 ∧ u.boot.slotB.toNat = s1.slotResult 1)
            ∧ (∀ n, s1.chosenSlot = some n →
              let memOk := (s1.markSlots.bootScript n).memConfigOk e.dies;
              let Fails (why : Byte) : Prop := Answers (.boot e) s fun u => Stopped why u
                ∧ ∀ g : Fin 7, u.engines[g].role = .fenced ↔ (g ∈ e.engineFail ∨ g ∈ e.paddockFail);
              (e.sramFail = true → Fails 6)
              ∧ (e.sramFail = false → e.crcFail = true → Fails 7)
              ∧ (e.sramFail = false → e.crcFail = false → e.trainFail = true → Fails 5)
              ∧ (e.sramFail = false → e.crcFail = false → e.trainFail = false →
                (memOk = false → Fails 4)
                ∧ (memOk = true → e.poisonFail = true ∨ e.remapFail = true ∨ e.zeroFail = true → Fails 7)))))))

/-- While the NOR device answers: the end of a program clears the bits that its data have as 0 in the bytes it covers
and leaves every other byte; a page of the store at the start of a sector also erases the sector ahead; an erase
leaves its sectors 0xFF; the oldest record of the queue is written at the write point, which moves on; and the next
operation starts, Studbook records first, then store pages, overlay entries and recipe staging. A commit of the store
that falls due, on the 60 s timer always and on the 1 s timer when one is urgent, writes the next SEQ to the next
page. A record that is open closes at its TIME + 1 s and goes to the queue for NOR, and earlier stays. Once RUNNING,
SVN_ADVANCE raises BUNDLE_SVN to the bundle's SVN and RECIPE_SVN to that of the bound recipes that ask for it, and no
further, and KEY_FUSE, once per boot, fuses a provisioned key into slot 0, a rotated one into the lowest blank slot,
and the revocations but that of the signing key. Model readings it rests on: log entries 50 and 103. -/
def Obligations.NorStoreAndFuses : Prop :=
  ∀ (s : State) (t : Nat),
    let now := max s.now t;
    let old (a : Nat) : Byte := cellsRead 0xFF s.nor a;
    let studWaits := s.stud.queue ≠ [] ∨ 0 < s.stud.wipeLeft;
    let Next (u : State) : Prop :=
      (studWaits → u.norBusy = some .studbook ∧ u.norOps = s.norOps)
      ∧ (¬ studWaits → u.norBusy = firstOp s.norOps
          ∧ u.norOps = match firstOp s.norOps with | some o => s.norOps.erase o | none => s.norOps);
    let norFrame : State → State := fun z => { z with nor := [], norOps := [], norBusy := none };
    (s.norAnswers = true → cellsOk 0xFF s.nor = true →
      (s.norBusy = none → ¬ studWaits → s.norOps = [] → Answers (.norOpDone t) s fun u => Kept (fun z => z) s u)
      ∧ (∀ (a : Nat) (d : List Byte), s.norBusy = some (.recipe a d) ∨ s.norBusy = some (.overlay a d) →
        Answers (.norOpDone t) s fun u => Next u ∧ Kept norFrame s u
          ∧ ∀ x, cellsRead 0xFF u.nor x = if a ≤ x ∧ x < a + d.length then old x &&& d.getD (x - a) 0 else old x)
      ∧ (∀ (k : Nat) (page : List Byte), k < 256 → page.length = 4096 → s.norBusy = some (.store (storeBase + 4096 * k) page) →
        Answers (.norOpDone t) s fun u => Next u
          ∧ ∀ x, cellsRead 0xFF u.nor x =
              if storeBase + 4096 * k ≤ x ∧ x < storeBase + 4096 * (k + 1) then
                old x &&& page.getD (x - (storeBase + 4096 * k)) 0
              else if k % 16 = 0 ∧ storeBase + sectorBytes * ((k / 16 + 1) % 16) ≤ x
                  ∧ x < storeBase + sectorBytes * ((k / 16 + 1) % 16 + 1) then 0xFF
              else old x)
      ∧ (∀ (b : Bool) (a n : Nat), s.norBusy = some (.erase b a n) → Answers (.norOpDone t) s fun u => Next u
          ∧ ∀ x, cellsRead 0xFF u.nor x = if a ≤ x ∧ x < a + sectorBytes * n then 0xFF else old x)
      ∧ (∀ (r : StudRec) (rest : List StudRec), s.norBusy = some .studbook → s.stud.wipeLeft = 0 → s.stud.queue = r :: rest →
        s.stud.point % 2048 ≠ 0 → s.stud.point < studSlots → s.slotErased s.stud.point = true →
        Answers (.norOpDone t) s fun u =>
          u.slotBytes s.stud.point = r.encode s.stud.parity ∧ u.stud.queue = rest
          ∧ u.stud.point = (s.stud.point + 1) % studSlots
          ∧ (rest ≠ [] → u.norBusy = some .studbook ∧ u.norOps = s.norOps)
          ∧ ∀ x, (x < studBase + 32 * s.stud.point ∨ studBase + 32 * s.stud.point + 32 ≤ x) → cellsRead 0xFF u.nor x = old x))
    ∧ (∀ fast : Bool,
      (s.storeReady = false ∨ (fast = true ∧ s.store.urgent = false) →
        Answers (.storeCommitTimer fast t) s fun u => Kept (fun z => z) s u)
      ∧ (s.storeReady = true → fast = false ∨ s.store.urgent = true → s.norBusy ≠ none →
        Answers (.storeCommitTimer fast t) s fun u =>
          u.store.seq = s.store.seq + 1 ∧ u.store.dirty = false ∧ u.store.urgent = false
          ∧ u.store.page = (s.store.page + 1) % 256
          ∧ u.norOps = s.norOps ++ [.store (storeBase + 4096 * s.store.page) u.store.page4k] ∧ u.norBusy = s.norBusy
          ∧ Kept (fun z => { z with store := Store443.reset, norOps := [], boot := { z.boot with poweredAt := 0 } }) s u))
    ∧ (∀ (r : StudRec) (rest : List StudRec), s.stud.ring = r :: rest →
      (s.stud.openRec = false ∨ now < r.time + second →
        Answers (.studbookRecordClose t) s fun u => Kept (fun z => z) s u)
      ∧ (s.stud.openRec = true → r.time + second ≤ now → s.stud.missed = 0 → s.stud.queue.length < norQueueMax →
        Answers (.studbookRecordClose t) s fun u =>
          u.stud = { s.stud with openRec := false, queue := s.stud.queue ++ [r] } ∧ Kept (fun z => { z with
            stud := Studbook.reset, norBusy := none, norOps := [] }) s u))
    ∧ (s.up = false → Answers (.svnAdvance t) s (fun u => Kept (fun z => z) s u)
        ∧ Answers (.keyFuse t) s fun u => Kept (fun z => z) s u)
    ∧ (s.up = true →
      (let Asks (r : Recipe) : Prop := (∃ n : Fin 16, s.boot.recipes[n].bound = some r) ∧ bit r.rflags 0 = true;
        Answers (.svnAdvance t) s fun u =>
          u.otp.bundleSvn = (if s.boot.advance then max s.otp.bundleSvn s.boot.svn else s.otp.bundleSvn)
          ∧ s.otp.recipeSvn ≤ u.otp.recipeSvn ∧ (∀ r, Asks r → r.svn ≤ u.otp.recipeSvn)
          ∧ (u.otp.recipeSvn = s.otp.recipeSvn ∨ ∃ r, Asks r ∧ u.otp.recipeSvn = r.svn)
          ∧ Kept (fun z => { z with otp := { z.otp with bundleSvn := 0, recipeSvn := 0 }, stud := Studbook.reset }) s u)
      ∧ (s.boot.keysFused = true → Answers (.keyFuse t) s fun u => Kept (fun z => z) s u)
      ∧ (s.boot.keysFused = false → Answers (.keyFuse t) s fun u =>
          u.boot.keysFused = true
          ∧ (∀ i : Fin 4, u.otp.revoked.getLsbD i.val =
              (s.otp.revoked.getLsbD i.val || (s.boot.revokeMask.getLsbD i.val && i.val != s.boot.keyIndex)))
          ∧ (s.boot.provision = true → s.boot.rotateKey = none → 0 < s.otp.ownerKeys.length →
              u.otp.ownerKeys = digest s.boot.bundleKey :: s.otp.ownerKeys.tail)
          ∧ (∀ (k : List Byte) (i : Nat), s.boot.provision = false → s.boot.rotateKey = some k →
              (i < s.otp.ownerKeys.length ∧ s.otp.ownerKeys.getD i [] = [] ∧ ∀ j < i, s.otp.ownerKeys.getD j [] ≠ []) →
              u.otp.ownerKeys = s.otp.ownerKeys.set i (digest k))
          ∧ (s.boot.provision = false → s.boot.rotateKey = none → u.otp.ownerKeys = s.otp.ownerKeys)
          ∧ Kept (fun z => { z with
              otp := { z.otp with ownerKeys := [], revoked := 0 }, boot := { z.boot with keysFused := false } }) s u))

/-- RESET_N, a RESET crossing, a loss of lock and a thermal trip put the chip in reset: every register is at its reset
value, and the fuses, NOR, host memory, the cartridges that are plugged in, the waiting commands and TRIP_SEEN stay; a
trip also sets TRIP_SEEN and holds THERMTRIP_N until all sixteen sensors read below 100 degrees. A first WARN crossing
while RUNNING begins a hold at its instant, marks the sides that have started and are not ready, writes HOLD_START as
a record that is closed, counts in the life counters and commits the store; a later one extends it and starts no
other. A hold ends no sooner than 50 us after its start, with HOLD_END and its charge, the clocks of steps set forward
by what it took of them. Model readings it rests on: log entries 45 and 53. -/
def Obligations.ResetsAndHolds : Prop :=
  ∀ (s : State) (t : Nat),
    let now := max s.now t;
    let outside : State → State := fun z => { z with
      pending := [], freeCtr := 0, nextKey := 0, otp := Otp.blank, nor := [], norMiB := 0
      ports := z.ports.map fun p => { p with cart := { p.cart with present := false } }
      boot := { z.boot with inReset := false }
      power := { z.power with tripSeen := false, tripped := false } };
    let Reset (trip : Bool) (u : State) : Prop :=
      Kept outside State.reset u ∧ u.boot.inReset = true ∧ u.now = 0 ∧ u.pending = s.pending ∧ u.otp = s.otp ∧ u.nor = s.nor
      ∧ u.host.mem = s.host.mem ∧ (∀ n : Fin 4, u.ports[n].cart.present = s.ports[n].cart.present)
      ∧ u.power.tripSeen = (trip || s.power.tripSeen) ∧ u.power.tripped = (trip || s.power.tripped);
    (Answers (.resetNAssert t) s (Reset false) ∧ Answers (.supplyReset t) s (Reset false) ∧ Answers (.pllUnlock t) s (Reset false)
      ∧ ∀ k : Fin 16, Answers (.thermtrip k t) s (Reset true))
    ∧ (∀ temps : List Int, temps.length = 16 →
      ((∀ x ∈ temps, x < 100) → Answers (.thermtripRelease temps t) s fun u =>
        u.power = { s.power with tripped := false } ∧ Kept (fun z => { z with power := Power.reset }) s u)
      ∧ ((∃ x ∈ temps, 100 ≤ x) → Answers (.thermtripRelease temps t) s fun u => Kept (fun z => z) s u))
    ∧ (∀ rails : BitVec 3,
      (s.up = false ∨ rails = 0 → Answers (.supplyHoldStart rails t) s fun u => Kept (fun z => z) s u)
      ∧ (∀ h, s.power.hold = some h → s.up = true → rails ≠ 0 → Answers (.supplyHoldStart rails t) s fun u =>
          u.power = { s.power with hold := some ⟨h.start, h.rails ||| rails⟩, belowWarn := s.power.belowWarn ||| rails }
          ∧ Kept (fun z => { z with power := Power.reset }) s u)
      ∧ (s.up = true → rails ≠ 0 → s.power.hold = none → s.stud.booted = true → s.norBusy ≠ none →
        Answers (.supplyHoldStart rails t) s fun u =>
          u.power = { s.power with hold := some ⟨now, rails⟩, belowWarn := s.power.belowWarn ||| rails }
          ∧ u.sides = s.sides.map (fun x => if x.tStart ≠ none ∧ x.stage ≠ .ready then { x with holdSeen := true } else x)
          ∧ u.stud.ring.head? = some ⟨now, now, 0x0110, 1, srcChip, payload13 [rails.setWidth 8]⟩ ∧ u.stud.openRec = false
          ∧ u.stud.produced = s.stud.produced + 1
          ∧ u.store.life[4] = (bumpAt s.store.life 4 1)[4] ∧ u.store.seq = s.store.seq + 1
          ∧ u.norOps = s.norOps ++ [.store (storeBase + 4096 * s.store.page) u.store.page4k]
          ∧ Kept (fun z => { z with
              power := Power.reset, sides := [], stud := Studbook.reset, store := Store443.reset, norOps := []
              boot := { z.boot with poweredAt := 0 } }) s u))
    ∧ (s.power.hold = none → Answers (.supplyHoldEnd t) s fun u => Kept (fun z => z) s u)
    ∧ (∀ h, s.power.hold = some h →
      (now < h.start + 50000 → Answers (.supplyHoldEnd t) s fun u => Kept (fun z => z) s u)
      ∧ (h.start + 50000 ≤ now → Answers (.supplyHoldEnd t) s fun u =>
          u.power = { s.power with hold := none, belowWarn := 0 }
          ∧ u.stud = s.stud.event now 0x0111 srcChip (leBytes 4 (min 0xFFFFFFFF ((now - h.start + 999) / 1000)))
          ∧ (∀ (p : Fin 6) (r : StepRun), s.parts[p].step = some r →
              u.parts[p].step = some { r with started := r.started + (now - max r.started h.start) })
          ∧ Kept (fun z => { z with
              power := Power.reset, stud := Studbook.reset
              parts := z.parts.map fun x => { x with step := x.step.map fun r => { r with started := 0 } }
              decoders := z.decoders.map fun d => { d with run := d.run.map fun r => { r with paused := 0 } } }) s u))

/-- While the chip runs and a holder acts: the target code is VID_FUSE and 2 more below 0 degrees, 1 more below 25,
clamped to 30, each boundary with 5 degrees of hysteresis on the way up; a step of the code, none in progress, no hold
and 100 us after the last, raises CORE_VID by one with the threshold following 50 us later, or lowers the threshold
and 1 us later CORE_VID; the throttle level follows TJ_MAX with its hysteresis; and the first requested switch that
may start is started, a switch-off at any time, a switch-on when no other is in progress and there is no hold. The
sensors give TJ_MAX and the lowest index that reads it. The oldest switch in progress ends in DOMAIN_STATUS, an
engine's two domains together, and an engine that goes off loses its paddock, its remap entries and its state. Model
readings it rests on: log entries 54, 55 and 56. -/
def Obligations.VoltageThrottleAndDomains : Prop :=
  ∀ (s : State) (t : Nat),
    let now := max s.now t;
    let acts := s.up = true ∧ s.holderActs = true;
    let frame : State → State := fun z => { z with power := Power.reset };
    (¬ acts → Answers (.vidAdjust t) s (fun u => Kept (fun z => z) s u) ∧ Answers (.vidStep t) s (fun u => Kept (fun z => z) s u)
      ∧ Answers (.domainSwitch t) s fun u => Kept (fun z => z) s u)
    ∧ (acts → Answers (.vidAdjust t) s fun u =>
        let tj := s.power.tjMax;
        let b := if tj < 0 ∨ (tj < 5 ∧ s.power.bump = 2) then 2 else if tj < 25 ∨ (tj < 30 ∧ 1 ≤ s.power.bump) then 1 else 0;
        u.power = { s.power with bump := b, target := u.power.target }
        ∧ u.power.target.toNat = min 30 (s.otp.vidFuse.toNat + b) ∧ Kept frame s u)
    ∧ (let ready := acts ∧ s.power.hold = none ∧ s.power.stepping = false ∧ ∀ w, s.power.lastStep = some w → w + 100000 ≤ now;
      (¬ ready ∨ s.power.vid = s.power.target → Answers (.vidStep t) s fun u => Kept (fun z => z) s u)
      ∧ (ready → s.power.vid < s.power.target → Answers (.vidStep t) s fun u =>
          u.power = { s.power with vid := s.power.vid + 1, stepping := true, lastStep := some now }
          ∧ u.now = now ∧ Kept frame s u)
      ∧ (ready → s.power.target < s.power.vid → Answers (.vidStep t) s fun u =>
          u.power = { s.power with warnCode := s.power.vid - 1, vid := s.power.vid - 1, lastStep := some (now + 1000) }
          ∧ u.now = now + 1000 ∧ Kept frame s u))
    ∧ (let due := s.power.stepping = true ∧ ∃ w, s.power.lastStep = some w ∧ w + 50000 ≤ now;
      (due → Answers (.vidWarnTrack t) s fun u =>
        u.power = { s.power with warnCode := s.power.vid, stepping := false } ∧ Kept frame s u)
      ∧ (¬ due → Answers (.vidWarnTrack t) s fun u => Kept (fun z => z) s u))
    ∧ (∀ temps : List Int, temps.length = 16 → Answers (.thermalSample temps t) s fun u =>
        temps[u.power.hottest]? = some u.power.tjMax ∧ (∀ x ∈ temps, x ≤ u.power.tjMax)
        ∧ (∀ i < u.power.hottest, temps[i]? ≠ some u.power.tjMax)
        ∧ (¬ acts → u.power.throttle = s.power.throttle)
        ∧ (acts →
          let was := s.power.throttle.toNat;
          let tj := u.power.tjMax;
          u.power.throttle =
            if 105 ≤ tj ∨ (100 ≤ tj ∧ was = 3) then 3
            else if 103 ≤ tj ∨ (98 ≤ tj ∧ 2 ≤ was) then 2
            else if 100 ≤ tj ∨ (95 ≤ tj ∧ 1 ≤ was) then 1 else 0)
        ∧ Kept (fun z => { z with power := { z.power with tjMax := 0, hottest := 0, throttle := 0 } }) s u)
    ∧ (acts →
      let May (r : Nat × Bool) : Prop := r.2 = false ∨ ((∀ x ∈ s.power.switching, x.2 = false) ∧ s.power.hold = none);
      ((∀ r ∈ s.power.requests, ¬ May r) → Answers (.domainSwitch t) s fun u => Kept (fun z => z) s u)
      ∧ (∀ (before after : List (Nat × Bool)) (r : Nat × Bool), s.power.requests = before ++ r :: after →
          (∀ x ∈ before, ¬ May x) → May r → Answers (.domainSwitch t) s fun u =>
            u.power = { s.power with requests := before ++ after, switching := s.power.switching ++ [r] } ∧ Kept frame s u))
    ∧ (s.power.switching = [] → Answers (.domainSwitchDone t) s fun u => Kept (fun z => z) s u)
    ∧ (∀ (d : Nat) (on : Bool) (rest : List (Nat × Bool)), s.power.switching = (d, on) :: rest → d < 24 →
      Answers (.domainSwitchDone t) s fun u =>
        u.power = { s.power with switching := rest, domains := u.power.domains }
        ∧ (∀ i < 24, u.power.domains.getLsbD i =
            if i = d ∨ (d < 7 ∧ i = d + 7) then on else s.power.domains.getLsbD i)
        ∧ (on = true ∨ 7 ≤ d → Kept frame s u)
        ∧ (on = false → d < 7 →
            (∀ e : Fin 7, e.val ≠ d → u.engines[e] = s.engines[e])
            ∧ (∀ e : Fin 7, e.val = d → u.engines[e].paddock = [] ∧ u.engines[e].remaps = [] ∧ u.engines[e].held = none
                ∧ u.engines[e].busy = false ∧ u.engines[e].role = s.engines[e].role
                ∧ u.engines[e].counters = s.engines[e].counters)
            ∧ (∀ x ∈ u.mem.flipped, ∀ e : Fin 7, e.val = d → x.1 ≠ .paddock e ∧ x.1 ≠ .paddockRemaps e)
            ∧ Kept (fun z => { z with
                power := Power.reset, engines := State.reset.engines, mem := { z.mem with flipped := [] } }) s u))

/-- From any state in which main memory, the arena, every paddock, the NOR device and the written host memory are in
canonical form (addresses strictly rising, no entry equal to what an unlisted address reads as), a step that answers a
next state answers one in which they all are. The form is the model's own. Model readings it rests on: log entry 8. -/
def Obligations.EveryStepKeepsStoresCanonical : Prop :=
  ∀ s u : State, s.storesOk = true → step s = .next u → u.storesOk = true

/-- For every command on every state that answers a next state: no partition at a step boundary is among those a verb
waits for. When the command is not one of the four full resets: if EVT_PRODUCED advances, EVT_NEW is set; if a
PART_STATUS changes, PART_CHANGED is set; and if another field of DEV_STATUS changes, or PART_CHANGED sets, while
vector 1 is masked, vector 1 is pending. -/
def Obligations.EveryCommandReportsWhatItChanges : Prop :=
  ∀ (c : Instr) (s u : State), exec c s = .next u →
    (∀ p ∈ u.host.box.waitFor, u.parts[Fin.ofNat 6 p].step ≠ none)
    ∧ ((∀ t, c ≠ .resetNAssert t) → (∀ t, c ≠ .supplyReset t) → (∀ t, c ≠ .pllUnlock t) → (∀ k t, c ≠ .thermtrip k t) →
      (s.stud.produced < u.stud.produced → u.host.evtNew = true)
      ∧ ((∃ p : Fin 6, u.partStatus p ≠ s.partStatus p) → u.host.partChanged = true)
      ∧ (u.devFields ≠ s.devFields ∨ ((∃ p : Fin 6, u.partStatus p ≠ s.partStatus p) ∧ s.host.partChanged = false) →
          u.host.msix[1].ctrl.getLsbD 0 = true → u.host.pba.getLsbD 1 = true))

/-- After reset no command waits, the chip does not run, no Rein holds the Bridle and the epoch is 0; CORE_VID drives
code 20 and DOMAIN_STATUS reads 0x80_0000; POLL_US is 10, HOST_STALL_TIMEOUT 100, COAL_RECORDS 1 and COAL_US 20; every
port has the calibration values and unused timing entries of its reset columns and is not enabled, every stream
READ_EVERY 1; the Currycomb is enabled with a period of 86,400 s; no side, context, frame or record is held, and every
store is in canonical form. The canonical form, and that no command waits, are the model's own. Model readings it
rests on: log entries 6, 7 and 8. -/
def Obligations.ResetState : Prop :=
  let s := State.reset
  s.pending = [] ∧ s.up = false ∧ s.bridle.held = false ∧ s.bridle.epoch = 0 ∧ s.bridle.nodeEpoch = 0
  ∧ s.power.vid = 20 ∧ s.power.domains = 0x800000 ∧ s.power.hold = none ∧ s.power.throttle = 0 ∧ s.power.tripSeen = false
  ∧ s.host.pollUs = 10 ∧ s.host.stallMs = 100 ∧ s.host.linkUp = false ∧ s.host.recVer = 0 ∧ s.host.imageExport = false
  ∧ s.host.inRing.en = false ∧ (∀ p : Fin 6, s.host.out[p].coalRecords = 1 ∧ s.host.out[p].coalUs = 20 ∧ s.host.out[p].en = false)
  ∧ (∀ n : Fin 4, s.ports[n].enabled = false ∧ s.ports[n].calCfg = 64 + 64 * 2 ^ 9 + 243 * 2 ^ 23
      ∧ s.ports[n].calLimits = 256 + 512 * 2 ^ 12 + 16 * 2 ^ 24 ∧ ∀ e : Fin 32, s.ports[n].ttEdge[e] = 31 * 2 ^ 18)
  ∧ (∀ n : Fin 64, s.streamA[n] = 2 ^ 24 ∧ s.streamB[n] = 0 ∧ s.streams[n].enabled = false)
  ∧ s.mem.scrubCfg = 86400 + 2 ^ 20 ∧ s.mem.windowOn = false
  ∧ s.sides = [] ∧ s.contexts = [] ∧ s.frames = [] ∧ s.queue = [] ∧ s.stud.produced = 0
  ∧ (∀ p : Fin 6, s.parts[p].bound = false ∧ s.parts[p].step = none) ∧ s.host.box.waitFor = []
  ∧ s.storesOk = true
end

