-- ==== Sys2Proof/Laws/Bytes.lean ====
section
/-!
SUPPORT. Lengths: of numbers in bytes, of slices, of signatures, and of the attestation report of R440.
-/
namespace Sys2Proof.Machine

@[simp] theorem leBytes_length (k n : Nat) : (leBytes k n).length = k := by
  induction k generalizing n with
  | zero => rfl
  | succ k ih => simp [leBytes, ih]

@[simp] theorem sliceAt_length (l : List Byte) (a n : Nat) : (sliceAt l a n).length = n := by
  simp [sliceAt] <;> omega

theorem sign_length (key ctx m : List Byte) : (Ed448.sign key ctx m).length = 114 := by
  simp only [Ed448.sign, Ed448.encode, List.length_append, leBytes_length]

theorem measure_length (kind index copy cart svn seq : Nat) (dig : List Byte) :
    (measure kind index copy cart svn seq dig).length = 80 := by
  simp [measure]

theorem derBlock_length (b : List Byte) : (derBlock b).length = 4 + b.length := by
  simp [derBlock]

/-- Every measurement entry of a report has 80 bytes. -/
theorem measurements_length (s : State) : ∀ m ∈ s.measurements, m.length = 80 := by
  intro m hm
  simp only [State.measurements, List.mem_append, List.mem_flatMap, List.mem_map, List.mem_cons, List.not_mem_nil,
    List.mem_finRange, true_and, or_false, or_assoc] at hm
  rcases hm with rfl | rfl | ⟨n, ⟨r, _, rfl⟩ | ⟨r, _, rfl⟩⟩ | ⟨n, h⟩ | ⟨n, rfl⟩
  · exact measure_length ..
  · exact measure_length ..
  · exact measure_length ..
  · exact measure_length ..
  · revert h
    split
    · intro h
      simp only [List.mem_cons, List.not_mem_nil, or_false] at h
      subst h
      exact measure_length ..
    · intro h
      simp at h
  · exact measure_length ..

/-- The length of a report (R440): 264 bytes, 80 for each measurement, and the two certificates, padded to 8. -/
theorem bouquet_length (s : State) (nonce : List Byte) :
    (s.bouquet nonce).length =
      264 + 80 * s.measurements.length + roundUp (8 + s.otp.deviceCert.length + (Config.makerCert s.otp.stepping.toNat).length) 8 := by
  have hm : (s.measurements.flatMap id).length = 80 * s.measurements.length := by
    have h := measurements_length s
    revert h
    generalize s.measurements = l
    intro h
    induction l with
    | nil => rfl
    | cons a l ih =>
      simp only [List.flatMap_cons, List.length_append, id, List.length_cons]
      rw [h a (by simp), ih fun m hm => h m (by simp [hm])]
      omega
  have hl : s.store.lifeBytes.length = 64 := by
    simp only [Store443.lifeBytes, List.length_flatMap, leBytes_length, List.map_const', Vector.length_toList]
    decide
  have hr : ∀ n, n ≤ roundUp n 8 := by
    intro n
    simp only [roundUp, ceilDiv]
    omega
  have ha : (ascii "RTBQ").length = 4 := by decide
  have h8 := hr ((derBlock s.otp.deviceCert).length + (derBlock (Config.makerCert s.otp.stepping.toNat)).length)
  simp only [State.bouquet, List.length_append, sign_length, hm, hl, ha, leBytes_length, sliceAt_length, List.length_replicate,
    List.length_cons, List.length_nil]
  rw [derBlock_length, derBlock_length] at h8 ⊢
  have he : 4 + s.otp.deviceCert.length + (4 + (Config.makerCert s.otp.stepping.toNat).length)
    = 8 + s.otp.deviceCert.length + (Config.makerCert s.otp.stepping.toNat).length := by omega
  rw [he] at h8 ⊢
  omega

end Sys2Proof.Machine
end

