-- ==== Sys2Proof/Laws/Cells.lean ====
section
/-!
SUPPORT. The sparse byte stores: a write keeps the canonical form, a read after a write gives the bytes written there and the
old bytes elsewhere, and a slice is its bytes one by one.
-/
namespace Sys2Proof.Machine

/-! ## The canonical form -/

/-- The canonical form from an address on, said of the list as a whole. -/
theorem cellsFrom_iff (d : Byte) (lo : Nat) (m : List Host.Cell) :
    cellsFrom d lo m = true ↔ (∀ c ∈ m, lo ≤ c.1 ∧ c.2 ≠ d) ∧ m.Pairwise fun a b => a.1 < b.1 := by
  induction m generalizing lo with
  | nil => simp [cellsFrom]
  | cons c rest ih =>
    simp only [cellsFrom, Bool.and_eq_true, decide_eq_true_eq, bne_iff_ne, ih, List.mem_cons, List.pairwise_cons,
      forall_eq_or_imp]
    constructor
    · rintro ⟨⟨h1, h2⟩, h3, h4⟩
      exact ⟨⟨⟨h1, h2⟩, fun x hx => ⟨by have := (h3 x hx).1; omega, (h3 x hx).2⟩⟩, fun x hx => by have := (h3 x hx).1; omega, h4⟩
    · rintro ⟨⟨h1, h2⟩, h3, h4⟩
      exact ⟨h1, fun x hx => ⟨by have := h3 x hx; omega, (h2 x hx).2⟩, h4⟩

/-- The canonical form: no entry equal to the default, addresses strictly rising. -/
theorem cellsOk_iff (d : Byte) (m : List Host.Cell) :
    cellsOk d m = true ↔ (∀ c ∈ m, c.2 ≠ d) ∧ m.Pairwise fun a b => a.1 < b.1 := by
  simp [cellsOk, cellsFrom_iff]

@[simp] theorem cellsOk_nil (d : Byte) : cellsOk d [] = true := rfl

/-- The entries for bytes from `a` on lie there, differ from the default, and rise. -/
theorem cellsOf_spec (d : Byte) (a : Nat) (bs : List Byte) :
    (∀ c ∈ cellsOf d a bs, a ≤ c.1 ∧ c.1 < a + bs.length ∧ c.2 ≠ d) ∧ (cellsOf d a bs).Pairwise fun x y => x.1 < y.1 := by
  induction bs generalizing a with
  | nil => simp [cellsOf]
  | cons b rest ih =>
    have h := ih (a + 1)
    have hm : ∀ c ∈ cellsOf d (a + 1) rest, a ≤ c.1 ∧ c.1 < a + (b :: rest).length ∧ c.2 ≠ d := fun c hc => by
      have := h.1 c hc
      simp only [List.length_cons]
      exact ⟨by omega, by omega, this.2.2⟩
    unfold cellsOf
    split
    · exact ⟨hm, h.2⟩
    · rename_i hb
      refine ⟨?_, ?_⟩
      · intro c hc
        rcases List.mem_cons.1 hc with rfl | hc
        · exact ⟨Nat.le_refl _, by simp, hb⟩
        · exact hm c hc
      · exact List.pairwise_cons.2 ⟨fun c hc => by have := (h.1 c hc).1; simp only; omega, h.2⟩

/-- A filter keeps the canonical form. -/
theorem cellsOk_filter (d : Byte) (m : List Host.Cell) (f : Host.Cell → Bool) (h : cellsOk d m = true) :
    cellsOk d (m.filter f) = true := by
  rw [cellsOk_iff] at h ⊢
  exact ⟨fun c hc => h.1 c (List.mem_filter.1 hc).1, h.2.filter _⟩

/-- A write keeps the canonical form. -/
theorem cellsOk_write (d : Byte) (m : List Host.Cell) (a : Nat) (bs : List Byte) (h : cellsOk d m = true) :
    cellsOk d (cellsWrite d m a bs) = true := by
  have hs := cellsOf_spec d a bs
  have h1 := cellsOk_filter d m (fun c => decide (c.1 < a)) h
  have h2 := cellsOk_filter d m (fun c => decide (a + bs.length ≤ c.1)) h
  rw [cellsOk_iff] at h1 h2 ⊢
  unfold cellsWrite
  refine ⟨?_, ?_⟩
  · intro c hc
    rcases List.mem_append.1 hc with hc | hc
    · rcases List.mem_append.1 hc with hc | hc
      · exact h1.1 c hc
      · exact (hs.1 c hc).2.2
    · exact h2.1 c hc
  · refine List.pairwise_append.2 ⟨List.pairwise_append.2 ⟨h1.2, hs.2, ?_⟩, h2.2, ?_⟩
    · intro x hx y hy
      have := (hs.1 y hy).1
      have hx := (List.mem_filter.1 hx).2
      simp only [decide_eq_true_eq] at hx
      omega
    · intro x hx y hy
      have hy := (List.mem_filter.1 hy).2
      simp only [decide_eq_true_eq] at hy
      rcases List.mem_append.1 hx with hx | hx
      · have hx := (List.mem_filter.1 hx).2
        simp only [decide_eq_true_eq] at hx
        omega
      · have := (hs.1 x hx).2.1
        omega

/-! ## Reads -/

@[simp] theorem cellsRead_nil (d : Byte) (a : Nat) : cellsRead d [] a = d := rfl

theorem cellsRead_cons (d : Byte) (c : Host.Cell) (m : List Host.Cell) (a : Nat) :
    cellsRead d (c :: m) a = if c.1 = a then c.2 else cellsRead d m a := by
  unfold cellsRead
  rw [List.find?_cons]
  by_cases h : c.1 = a
  · simp [h]
  · rw [beq_eq_false_iff_ne.2 h, if_neg h]

/-- A read of joined lists: the first that lists the address answers. -/
theorem cellsRead_append (d : Byte) (l m : List Host.Cell) (a : Nat) :
    cellsRead d (l ++ m) a = if l.any (fun c => c.1 == a) then cellsRead d l a else cellsRead d m a := by
  induction l with
  | nil => simp
  | cons c l ih =>
    rw [List.cons_append, cellsRead_cons, cellsRead_cons, ih]
    by_cases h : c.1 = a <;> simp [h]

/-- A read through a filter that keeps the address. -/
theorem cellsRead_filter_of (d : Byte) (m : List Host.Cell) (f : Nat → Bool) (a : Nat) (h : f a = true) :
    cellsRead d (m.filter fun c => f c.1) a = cellsRead d m a := by
  induction m with
  | nil => rfl
  | cons c m ih =>
    rw [cellsRead_cons d c m, List.filter_cons]
    by_cases hc : c.1 = a
    · rw [if_pos (by rw [hc]; exact h), cellsRead_cons]
      simp [hc]
    · split
      · rw [cellsRead_cons, ih, if_neg hc]
      · rw [ih]

/-- A read through a filter that drops the address. -/
theorem cellsRead_filter_not (d : Byte) (m : List Host.Cell) (f : Nat → Bool) (a : Nat) (h : f a = false) :
    cellsRead d (m.filter fun c => f c.1) a = d := by
  induction m with
  | nil => rfl
  | cons c m ih =>
    rw [List.filter_cons]
    split
    · rename_i hf
      rw [cellsRead_cons, ih, if_neg]
      rintro rfl
      rw [h] at hf
      cases hf
    · exact ih

/-- The bytes that the entries of a write spell. -/
theorem cellsRead_cellsOf (d : Byte) (a : Nat) (bs : List Byte) (x : Nat) :
    cellsRead d (cellsOf d a bs) x = if a ≤ x ∧ x < a + bs.length then bs.getD (x - a) d else d := by
  induction bs generalizing a with
  | nil => simp [cellsOf]
  | cons b rest ih =>
    unfold cellsOf
    have key : cellsRead d ((a, b) :: cellsOf d (a + 1) rest) x
        = if a ≤ x ∧ x < a + (b :: rest).length then (b :: rest).getD (x - a) d else d := by
      rw [cellsRead_cons, ih]
      simp only [List.length_cons]
      by_cases h : a = x
      · subst h; simp
      · rw [if_neg h]
        by_cases h2 : a + 1 ≤ x ∧ x < a + 1 + rest.length
        · rw [if_pos h2, if_pos (by omega)]
          obtain ⟨k, rfl⟩ : ∃ k, x = a + 1 + k := ⟨x - (a + 1), by omega⟩
          rw [show a + 1 + k - (a + 1) = k by omega, show a + 1 + k - a = k + 1 by omega]
          simp
        · rw [if_neg h2, if_neg (by omega)]
    split
    · rename_i hb
      rw [← key, cellsRead_cons, ih]
      by_cases h : a = x
      · subst h; simp [hb]
      · simp [h]
    · exact key

/-- A read after a write: the byte written there, elsewhere the old byte. -/
theorem cellsRead_write (d : Byte) (m : List Host.Cell) (a : Nat) (bs : List Byte) (x : Nat) :
    cellsRead d (cellsWrite d m a bs) x
      = if a ≤ x ∧ x < a + bs.length then bs.getD (x - a) d else cellsRead d m x := by
  have low := cellsRead_filter_of d m (fun k => decide (k < a)) x
  have high := cellsRead_filter_of d m (fun k => decide (a + bs.length ≤ k)) x
  have high' := cellsRead_filter_not d m (fun k => decide (a + bs.length ≤ k)) x
  have hof := cellsRead_cellsOf d a bs x
  have noLow (h : a ≤ x) : (m.filter fun c => decide (c.1 < a)).any (fun c => c.1 == x) = false := by
    rw [List.any_eq_false]
    intro c hc
    have := (List.mem_filter.1 hc).2
    simp only [decide_eq_true_eq] at this
    simp only [beq_iff_eq]
    omega
  have noMid (h : ¬ (a ≤ x ∧ x < a + bs.length)) : (cellsOf d a bs).any (fun c => c.1 == x) = false := by
    rw [List.any_eq_false]
    intro c hc
    have := (cellsOf_spec d a bs).1 c hc
    simp only [beq_iff_eq]
    rintro rfl
    exact h ⟨this.1, this.2.1⟩
  unfold cellsWrite
  rw [List.append_assoc, cellsRead_append]
  by_cases h : a ≤ x ∧ x < a + bs.length
  · rw [noLow h.1, if_pos h]
    simp only [Bool.false_eq_true, if_false]
    rw [cellsRead_append, hof, if_pos h]
    split
    · rfl
    · rename_i hn
      rw [high' (by simpa using h.2)]
      rw [if_pos h] at hof
      rw [← hof]
      unfold cellsRead
      rw [List.find?_eq_none.2]
      intro c hc hx
      exact hn (List.any_eq_true.2 ⟨c, hc, hx⟩)
  · rw [if_neg h]
    by_cases h1 : x < a
    · split
      · exact low (by simpa using h1)
      · rename_i hn
        rw [cellsRead_append, noMid h]
        simp only [Bool.false_eq_true, if_false]
        rw [high' (by simp; omega), ← low (by simpa using h1)]
        unfold cellsRead
        rw [List.find?_eq_none.2]
        intro c hc hx
        exact hn (List.any_eq_true.2 ⟨c, hc, hx⟩)
    · rw [noLow (by omega)]
      simp only [Bool.false_eq_true, if_false]
      rw [cellsRead_append, noMid h]
      simp only [Bool.false_eq_true, if_false]
      exact high (by simp; omega)

/-- A slice reads its bytes one by one. -/
theorem cellsSlice_eq (d : Byte) (m : List Host.Cell) (a len : Nat) :
    cellsSlice d m a len = (List.range len).map fun i => cellsRead d m (a + i) := by
  unfold cellsSlice
  apply List.map_congr_left
  intro i hi
  have := cellsRead_filter_of d m (fun k => decide (a ≤ k) && decide (k < a + len)) (a + i)
    (by have := List.mem_range.1 hi; simp; omega)
  exact this

@[simp] theorem cellsSlice_length (d : Byte) (m : List Host.Cell) (a len : Nat) : (cellsSlice d m a len).length = len := by
  simp [cellsSlice_eq]

/-- A slice outside the bytes written is as before. -/
theorem cellsSlice_write_apart (d : Byte) (m : List Host.Cell) (a b len : Nat) (bs : List Byte)
    (h : b + len ≤ a ∨ a + bs.length ≤ b) : cellsSlice d (cellsWrite d m a bs) b len = cellsSlice d m b len := by
  simp only [cellsSlice_eq]
  apply List.map_congr_left
  intro i hi
  have := List.mem_range.1 hi
  rw [cellsRead_write, if_neg (by omega)]

/-- The slice that was written is the bytes written. -/
theorem cellsSlice_write_same (d : Byte) (m : List Host.Cell) (a : Nat) (bs : List Byte) :
    cellsSlice d (cellsWrite d m a bs) a bs.length = bs := by
  rw [cellsSlice_eq]
  apply List.ext_getElem (by simp)
  intro i h1 h2
  simp only [List.getElem_map, List.getElem_range]
  rw [cellsRead_write, if_pos (by omega), show a + i - a = i by omega]
  simp [h2]

/-- A slice of the first bytes written there. -/
theorem cellsSlice_write_prefix (d : Byte) (m : List Host.Cell) (a n : Nat) (bs : List Byte) (h : n ≤ bs.length) :
    cellsSlice d (cellsWrite d m a bs) a n = bs.take n := by
  rw [cellsSlice_eq]
  apply List.ext_getElem (by simp [h])
  intro i h1 h2
  have hi : i < n := by simpa using h1
  simp only [List.getElem_map, List.getElem_range, cellsRead_write, List.getElem_take]
  rw [if_pos (by omega), Nat.add_sub_cancel_left, List.getD_eq_getElem _ _ (by omega)]

end Sys2Proof.Machine
end

