-- ==== Sys2Proof/Laws/State.lean ====
section
/-!
SUPPORT. What each update of Machine/Ops.lean does to each field of State: one lemma per field per update, so that no proof
unfolds an update of the record.
-/
namespace Sys2Proof.Machine


/-! ## State.at -/

@[simp] theorem State.at_pending (s : State) (t : Nat) : (s.at t).pending = s.pending := rfl
@[simp] theorem State.at_now (s : State) (t : Nat) : (s.at t).now = max s.now t := rfl
@[simp] theorem State.at_reply (s : State) (t : Nat) : (s.at t).reply = s.reply := rfl
@[simp] theorem State.at_freeCtr (s : State) (t : Nat) : (s.at t).freeCtr = s.freeCtr := rfl
@[simp] theorem State.at_nextKey (s : State) (t : Nat) : (s.at t).nextKey = s.nextKey := rfl
@[simp] theorem State.at_groupMask (s : State) (t : Nat) : (s.at t).groupMask = s.groupMask := rfl
@[simp] theorem State.at_kindStatus (s : State) (t : Nat) : (s.at t).kindStatus = s.kindStatus := rfl
@[simp] theorem State.at_feCtrl (s : State) (t : Nat) : (s.at t).feCtrl = s.feCtrl := rfl
@[simp] theorem State.at_sideDefA (s : State) (t : Nat) : (s.at t).sideDefA = s.sideDefA := rfl
@[simp] theorem State.at_sideDefB (s : State) (t : Nat) : (s.at t).sideDefB = s.sideDefB := rfl
@[simp] theorem State.at_ports (s : State) (t : Nat) : (s.at t).ports = s.ports := rfl
@[simp] theorem State.at_transports (s : State) (t : Nat) : (s.at t).transports = s.transports := rfl
@[simp] theorem State.at_covers (s : State) (t : Nat) : (s.at t).covers = s.covers := rfl
@[simp] theorem State.at_frames (s : State) (t : Nat) : (s.at t).frames = s.frames := rfl
@[simp] theorem State.at_sides (s : State) (t : Nat) : (s.at t).sides = s.sides := rfl
@[simp] theorem State.at_streamA (s : State) (t : Nat) : (s.at t).streamA = s.streamA := rfl
@[simp] theorem State.at_streamB (s : State) (t : Nat) : (s.at t).streamB = s.streamB := rfl
@[simp] theorem State.at_streams (s : State) (t : Nat) : (s.at t).streams = s.streams := rfl
@[simp] theorem State.at_decoders (s : State) (t : Nat) : (s.at t).decoders = s.decoders := rfl
@[simp] theorem State.at_engines (s : State) (t : Nat) : (s.at t).engines = s.engines := rfl
@[simp] theorem State.at_parts (s : State) (t : Nat) : (s.at t).parts = s.parts := rfl
@[simp] theorem State.at_contexts (s : State) (t : Nat) : (s.at t).contexts = s.contexts := rfl
@[simp] theorem State.at_queue (s : State) (t : Nat) : (s.at t).queue = s.queue := rfl
@[simp] theorem State.at_rebind (s : State) (t : Nat) : (s.at t).rebind = s.rebind := rfl
@[simp] theorem State.at_mem (s : State) (t : Nat) : (s.at t).mem = s.mem := rfl
@[simp] theorem State.at_host (s : State) (t : Nat) : (s.at t).host = s.host := rfl
@[simp] theorem State.at_bridle (s : State) (t : Nat) : (s.at t).bridle = s.bridle := rfl
@[simp] theorem State.at_boot (s : State) (t : Nat) : (s.at t).boot = s.boot := rfl
@[simp] theorem State.at_otp (s : State) (t : Nat) : (s.at t).otp = s.otp := rfl
@[simp] theorem State.at_nor (s : State) (t : Nat) : (s.at t).nor = s.nor := rfl
@[simp] theorem State.at_norMiB (s : State) (t : Nat) : (s.at t).norMiB = s.norMiB := rfl
@[simp] theorem State.at_norOps (s : State) (t : Nat) : (s.at t).norOps = s.norOps := rfl
@[simp] theorem State.at_norBusy (s : State) (t : Nat) : (s.at t).norBusy = s.norBusy := rfl
@[simp] theorem State.at_stud (s : State) (t : Nat) : (s.at t).stud = s.stud := rfl
@[simp] theorem State.at_store (s : State) (t : Nat) : (s.at t).store = s.store := rfl
@[simp] theorem State.at_power (s : State) (t : Nat) : (s.at t).power = s.power := rfl

/-! ## State.answer -/

@[simp] theorem State.answer_pending (s : State) (r : BusReply) : (s.answer r).pending = s.pending := rfl
@[simp] theorem State.answer_now (s : State) (r : BusReply) : (s.answer r).now = s.now := rfl
@[simp] theorem State.answer_reply (s : State) (r : BusReply) : (s.answer r).reply = r := rfl
@[simp] theorem State.answer_freeCtr (s : State) (r : BusReply) : (s.answer r).freeCtr = s.freeCtr := rfl
@[simp] theorem State.answer_nextKey (s : State) (r : BusReply) : (s.answer r).nextKey = s.nextKey := rfl
@[simp] theorem State.answer_groupMask (s : State) (r : BusReply) : (s.answer r).groupMask = s.groupMask := rfl
@[simp] theorem State.answer_kindStatus (s : State) (r : BusReply) : (s.answer r).kindStatus = s.kindStatus := rfl
@[simp] theorem State.answer_feCtrl (s : State) (r : BusReply) : (s.answer r).feCtrl = s.feCtrl := rfl
@[simp] theorem State.answer_sideDefA (s : State) (r : BusReply) : (s.answer r).sideDefA = s.sideDefA := rfl
@[simp] theorem State.answer_sideDefB (s : State) (r : BusReply) : (s.answer r).sideDefB = s.sideDefB := rfl
@[simp] theorem State.answer_ports (s : State) (r : BusReply) : (s.answer r).ports = s.ports := rfl
@[simp] theorem State.answer_transports (s : State) (r : BusReply) : (s.answer r).transports = s.transports := rfl
@[simp] theorem State.answer_covers (s : State) (r : BusReply) : (s.answer r).covers = s.covers := rfl
@[simp] theorem State.answer_frames (s : State) (r : BusReply) : (s.answer r).frames = s.frames := rfl
@[simp] theorem State.answer_sides (s : State) (r : BusReply) : (s.answer r).sides = s.sides := rfl
@[simp] theorem State.answer_streamA (s : State) (r : BusReply) : (s.answer r).streamA = s.streamA := rfl
@[simp] theorem State.answer_streamB (s : State) (r : BusReply) : (s.answer r).streamB = s.streamB := rfl
@[simp] theorem State.answer_streams (s : State) (r : BusReply) : (s.answer r).streams = s.streams := rfl
@[simp] theorem State.answer_decoders (s : State) (r : BusReply) : (s.answer r).decoders = s.decoders := rfl
@[simp] theorem State.answer_engines (s : State) (r : BusReply) : (s.answer r).engines = s.engines := rfl
@[simp] theorem State.answer_parts (s : State) (r : BusReply) : (s.answer r).parts = s.parts := rfl
@[simp] theorem State.answer_contexts (s : State) (r : BusReply) : (s.answer r).contexts = s.contexts := rfl
@[simp] theorem State.answer_queue (s : State) (r : BusReply) : (s.answer r).queue = s.queue := rfl
@[simp] theorem State.answer_rebind (s : State) (r : BusReply) : (s.answer r).rebind = s.rebind := rfl
@[simp] theorem State.answer_mem (s : State) (r : BusReply) : (s.answer r).mem = s.mem := rfl
@[simp] theorem State.answer_host (s : State) (r : BusReply) : (s.answer r).host = s.host := rfl
@[simp] theorem State.answer_bridle (s : State) (r : BusReply) : (s.answer r).bridle = s.bridle := rfl
@[simp] theorem State.answer_boot (s : State) (r : BusReply) : (s.answer r).boot = s.boot := rfl
@[simp] theorem State.answer_otp (s : State) (r : BusReply) : (s.answer r).otp = s.otp := rfl
@[simp] theorem State.answer_nor (s : State) (r : BusReply) : (s.answer r).nor = s.nor := rfl
@[simp] theorem State.answer_norMiB (s : State) (r : BusReply) : (s.answer r).norMiB = s.norMiB := rfl
@[simp] theorem State.answer_norOps (s : State) (r : BusReply) : (s.answer r).norOps = s.norOps := rfl
@[simp] theorem State.answer_norBusy (s : State) (r : BusReply) : (s.answer r).norBusy = s.norBusy := rfl
@[simp] theorem State.answer_stud (s : State) (r : BusReply) : (s.answer r).stud = s.stud := rfl
@[simp] theorem State.answer_store (s : State) (r : BusReply) : (s.answer r).store = s.store := rfl
@[simp] theorem State.answer_power (s : State) (r : BusReply) : (s.answer r).power = s.power := rfl

/-! ## State.onPort -/

@[simp] theorem State.onPort_pending (s : State) (n : Fin 4) (f : Port → Port) : (s.onPort n f).pending = s.pending := rfl
@[simp] theorem State.onPort_now (s : State) (n : Fin 4) (f : Port → Port) : (s.onPort n f).now = s.now := rfl
@[simp] theorem State.onPort_reply (s : State) (n : Fin 4) (f : Port → Port) : (s.onPort n f).reply = s.reply := rfl
@[simp] theorem State.onPort_freeCtr (s : State) (n : Fin 4) (f : Port → Port) : (s.onPort n f).freeCtr = s.freeCtr := rfl
@[simp] theorem State.onPort_nextKey (s : State) (n : Fin 4) (f : Port → Port) : (s.onPort n f).nextKey = s.nextKey := rfl
@[simp] theorem State.onPort_groupMask (s : State) (n : Fin 4) (f : Port → Port) : (s.onPort n f).groupMask = s.groupMask := rfl
@[simp] theorem State.onPort_kindStatus (s : State) (n : Fin 4) (f : Port → Port) : (s.onPort n f).kindStatus = s.kindStatus := rfl
@[simp] theorem State.onPort_feCtrl (s : State) (n : Fin 4) (f : Port → Port) : (s.onPort n f).feCtrl = s.feCtrl := rfl
@[simp] theorem State.onPort_sideDefA (s : State) (n : Fin 4) (f : Port → Port) : (s.onPort n f).sideDefA = s.sideDefA := rfl
@[simp] theorem State.onPort_sideDefB (s : State) (n : Fin 4) (f : Port → Port) : (s.onPort n f).sideDefB = s.sideDefB := rfl
@[simp] theorem State.onPort_ports (s : State) (n : Fin 4) (f : Port → Port) : (s.onPort n f).ports = vmod s.ports n f := rfl
@[simp] theorem State.onPort_transports (s : State) (n : Fin 4) (f : Port → Port) : (s.onPort n f).transports = s.transports := rfl
@[simp] theorem State.onPort_covers (s : State) (n : Fin 4) (f : Port → Port) : (s.onPort n f).covers = s.covers := rfl
@[simp] theorem State.onPort_frames (s : State) (n : Fin 4) (f : Port → Port) : (s.onPort n f).frames = s.frames := rfl
@[simp] theorem State.onPort_sides (s : State) (n : Fin 4) (f : Port → Port) : (s.onPort n f).sides = s.sides := rfl
@[simp] theorem State.onPort_streamA (s : State) (n : Fin 4) (f : Port → Port) : (s.onPort n f).streamA = s.streamA := rfl
@[simp] theorem State.onPort_streamB (s : State) (n : Fin 4) (f : Port → Port) : (s.onPort n f).streamB = s.streamB := rfl
@[simp] theorem State.onPort_streams (s : State) (n : Fin 4) (f : Port → Port) : (s.onPort n f).streams = s.streams := rfl
@[simp] theorem State.onPort_decoders (s : State) (n : Fin 4) (f : Port → Port) : (s.onPort n f).decoders = s.decoders := rfl
@[simp] theorem State.onPort_engines (s : State) (n : Fin 4) (f : Port → Port) : (s.onPort n f).engines = s.engines := rfl
@[simp] theorem State.onPort_parts (s : State) (n : Fin 4) (f : Port → Port) : (s.onPort n f).parts = s.parts := rfl
@[simp] theorem State.onPort_contexts (s : State) (n : Fin 4) (f : Port → Port) : (s.onPort n f).contexts = s.contexts := rfl
@[simp] theorem State.onPort_queue (s : State) (n : Fin 4) (f : Port → Port) : (s.onPort n f).queue = s.queue := rfl
@[simp] theorem State.onPort_rebind (s : State) (n : Fin 4) (f : Port → Port) : (s.onPort n f).rebind = s.rebind := rfl
@[simp] theorem State.onPort_mem (s : State) (n : Fin 4) (f : Port → Port) : (s.onPort n f).mem = s.mem := rfl
@[simp] theorem State.onPort_host (s : State) (n : Fin 4) (f : Port → Port) : (s.onPort n f).host = s.host := rfl
@[simp] theorem State.onPort_bridle (s : State) (n : Fin 4) (f : Port → Port) : (s.onPort n f).bridle = s.bridle := rfl
@[simp] theorem State.onPort_boot (s : State) (n : Fin 4) (f : Port → Port) : (s.onPort n f).boot = s.boot := rfl
@[simp] theorem State.onPort_otp (s : State) (n : Fin 4) (f : Port → Port) : (s.onPort n f).otp = s.otp := rfl
@[simp] theorem State.onPort_nor (s : State) (n : Fin 4) (f : Port → Port) : (s.onPort n f).nor = s.nor := rfl
@[simp] theorem State.onPort_norMiB (s : State) (n : Fin 4) (f : Port → Port) : (s.onPort n f).norMiB = s.norMiB := rfl
@[simp] theorem State.onPort_norOps (s : State) (n : Fin 4) (f : Port → Port) : (s.onPort n f).norOps = s.norOps := rfl
@[simp] theorem State.onPort_norBusy (s : State) (n : Fin 4) (f : Port → Port) : (s.onPort n f).norBusy = s.norBusy := rfl
@[simp] theorem State.onPort_stud (s : State) (n : Fin 4) (f : Port → Port) : (s.onPort n f).stud = s.stud := rfl
@[simp] theorem State.onPort_store (s : State) (n : Fin 4) (f : Port → Port) : (s.onPort n f).store = s.store := rfl
@[simp] theorem State.onPort_power (s : State) (n : Fin 4) (f : Port → Port) : (s.onPort n f).power = s.power := rfl

/-! ## State.onTransport -/

@[simp] theorem State.onTransport_pending (s : State) (t : Fin 4) (f : Transport → Transport) : (s.onTransport t f).pending = s.pending := rfl
@[simp] theorem State.onTransport_now (s : State) (t : Fin 4) (f : Transport → Transport) : (s.onTransport t f).now = s.now := rfl
@[simp] theorem State.onTransport_reply (s : State) (t : Fin 4) (f : Transport → Transport) : (s.onTransport t f).reply = s.reply := rfl
@[simp] theorem State.onTransport_freeCtr (s : State) (t : Fin 4) (f : Transport → Transport) : (s.onTransport t f).freeCtr = s.freeCtr := rfl
@[simp] theorem State.onTransport_nextKey (s : State) (t : Fin 4) (f : Transport → Transport) : (s.onTransport t f).nextKey = s.nextKey := rfl
@[simp] theorem State.onTransport_groupMask (s : State) (t : Fin 4) (f : Transport → Transport) : (s.onTransport t f).groupMask = s.groupMask := rfl
@[simp] theorem State.onTransport_kindStatus (s : State) (t : Fin 4) (f : Transport → Transport) : (s.onTransport t f).kindStatus = s.kindStatus := rfl
@[simp] theorem State.onTransport_feCtrl (s : State) (t : Fin 4) (f : Transport → Transport) : (s.onTransport t f).feCtrl = s.feCtrl := rfl
@[simp] theorem State.onTransport_sideDefA (s : State) (t : Fin 4) (f : Transport → Transport) : (s.onTransport t f).sideDefA = s.sideDefA := rfl
@[simp] theorem State.onTransport_sideDefB (s : State) (t : Fin 4) (f : Transport → Transport) : (s.onTransport t f).sideDefB = s.sideDefB := rfl
@[simp] theorem State.onTransport_ports (s : State) (t : Fin 4) (f : Transport → Transport) : (s.onTransport t f).ports = s.ports := rfl
@[simp] theorem State.onTransport_transports (s : State) (t : Fin 4) (f : Transport → Transport) : (s.onTransport t f).transports = vmod s.transports t f := rfl
@[simp] theorem State.onTransport_covers (s : State) (t : Fin 4) (f : Transport → Transport) : (s.onTransport t f).covers = s.covers := rfl
@[simp] theorem State.onTransport_frames (s : State) (t : Fin 4) (f : Transport → Transport) : (s.onTransport t f).frames = s.frames := rfl
@[simp] theorem State.onTransport_sides (s : State) (t : Fin 4) (f : Transport → Transport) : (s.onTransport t f).sides = s.sides := rfl
@[simp] theorem State.onTransport_streamA (s : State) (t : Fin 4) (f : Transport → Transport) : (s.onTransport t f).streamA = s.streamA := rfl
@[simp] theorem State.onTransport_streamB (s : State) (t : Fin 4) (f : Transport → Transport) : (s.onTransport t f).streamB = s.streamB := rfl
@[simp] theorem State.onTransport_streams (s : State) (t : Fin 4) (f : Transport → Transport) : (s.onTransport t f).streams = s.streams := rfl
@[simp] theorem State.onTransport_decoders (s : State) (t : Fin 4) (f : Transport → Transport) : (s.onTransport t f).decoders = s.decoders := rfl
@[simp] theorem State.onTransport_engines (s : State) (t : Fin 4) (f : Transport → Transport) : (s.onTransport t f).engines = s.engines := rfl
@[simp] theorem State.onTransport_parts (s : State) (t : Fin 4) (f : Transport → Transport) : (s.onTransport t f).parts = s.parts := rfl
@[simp] theorem State.onTransport_contexts (s : State) (t : Fin 4) (f : Transport → Transport) : (s.onTransport t f).contexts = s.contexts := rfl
@[simp] theorem State.onTransport_queue (s : State) (t : Fin 4) (f : Transport → Transport) : (s.onTransport t f).queue = s.queue := rfl
@[simp] theorem State.onTransport_rebind (s : State) (t : Fin 4) (f : Transport → Transport) : (s.onTransport t f).rebind = s.rebind := rfl
@[simp] theorem State.onTransport_mem (s : State) (t : Fin 4) (f : Transport → Transport) : (s.onTransport t f).mem = s.mem := rfl
@[simp] theorem State.onTransport_host (s : State) (t : Fin 4) (f : Transport → Transport) : (s.onTransport t f).host = s.host := rfl
@[simp] theorem State.onTransport_bridle (s : State) (t : Fin 4) (f : Transport → Transport) : (s.onTransport t f).bridle = s.bridle := rfl
@[simp] theorem State.onTransport_boot (s : State) (t : Fin 4) (f : Transport → Transport) : (s.onTransport t f).boot = s.boot := rfl
@[simp] theorem State.onTransport_otp (s : State) (t : Fin 4) (f : Transport → Transport) : (s.onTransport t f).otp = s.otp := rfl
@[simp] theorem State.onTransport_nor (s : State) (t : Fin 4) (f : Transport → Transport) : (s.onTransport t f).nor = s.nor := rfl
@[simp] theorem State.onTransport_norMiB (s : State) (t : Fin 4) (f : Transport → Transport) : (s.onTransport t f).norMiB = s.norMiB := rfl
@[simp] theorem State.onTransport_norOps (s : State) (t : Fin 4) (f : Transport → Transport) : (s.onTransport t f).norOps = s.norOps := rfl
@[simp] theorem State.onTransport_norBusy (s : State) (t : Fin 4) (f : Transport → Transport) : (s.onTransport t f).norBusy = s.norBusy := rfl
@[simp] theorem State.onTransport_stud (s : State) (t : Fin 4) (f : Transport → Transport) : (s.onTransport t f).stud = s.stud := rfl
@[simp] theorem State.onTransport_store (s : State) (t : Fin 4) (f : Transport → Transport) : (s.onTransport t f).store = s.store := rfl
@[simp] theorem State.onTransport_power (s : State) (t : Fin 4) (f : Transport → Transport) : (s.onTransport t f).power = s.power := rfl

/-! ## State.onEngine -/

@[simp] theorem State.onEngine_pending (s : State) (e : Fin 7) (f : Engine → Engine) : (s.onEngine e f).pending = s.pending := rfl
@[simp] theorem State.onEngine_now (s : State) (e : Fin 7) (f : Engine → Engine) : (s.onEngine e f).now = s.now := rfl
@[simp] theorem State.onEngine_reply (s : State) (e : Fin 7) (f : Engine → Engine) : (s.onEngine e f).reply = s.reply := rfl
@[simp] theorem State.onEngine_freeCtr (s : State) (e : Fin 7) (f : Engine → Engine) : (s.onEngine e f).freeCtr = s.freeCtr := rfl
@[simp] theorem State.onEngine_nextKey (s : State) (e : Fin 7) (f : Engine → Engine) : (s.onEngine e f).nextKey = s.nextKey := rfl
@[simp] theorem State.onEngine_groupMask (s : State) (e : Fin 7) (f : Engine → Engine) : (s.onEngine e f).groupMask = s.groupMask := rfl
@[simp] theorem State.onEngine_kindStatus (s : State) (e : Fin 7) (f : Engine → Engine) : (s.onEngine e f).kindStatus = s.kindStatus := rfl
@[simp] theorem State.onEngine_feCtrl (s : State) (e : Fin 7) (f : Engine → Engine) : (s.onEngine e f).feCtrl = s.feCtrl := rfl
@[simp] theorem State.onEngine_sideDefA (s : State) (e : Fin 7) (f : Engine → Engine) : (s.onEngine e f).sideDefA = s.sideDefA := rfl
@[simp] theorem State.onEngine_sideDefB (s : State) (e : Fin 7) (f : Engine → Engine) : (s.onEngine e f).sideDefB = s.sideDefB := rfl
@[simp] theorem State.onEngine_ports (s : State) (e : Fin 7) (f : Engine → Engine) : (s.onEngine e f).ports = s.ports := rfl
@[simp] theorem State.onEngine_transports (s : State) (e : Fin 7) (f : Engine → Engine) : (s.onEngine e f).transports = s.transports := rfl
@[simp] theorem State.onEngine_covers (s : State) (e : Fin 7) (f : Engine → Engine) : (s.onEngine e f).covers = s.covers := rfl
@[simp] theorem State.onEngine_frames (s : State) (e : Fin 7) (f : Engine → Engine) : (s.onEngine e f).frames = s.frames := rfl
@[simp] theorem State.onEngine_sides (s : State) (e : Fin 7) (f : Engine → Engine) : (s.onEngine e f).sides = s.sides := rfl
@[simp] theorem State.onEngine_streamA (s : State) (e : Fin 7) (f : Engine → Engine) : (s.onEngine e f).streamA = s.streamA := rfl
@[simp] theorem State.onEngine_streamB (s : State) (e : Fin 7) (f : Engine → Engine) : (s.onEngine e f).streamB = s.streamB := rfl
@[simp] theorem State.onEngine_streams (s : State) (e : Fin 7) (f : Engine → Engine) : (s.onEngine e f).streams = s.streams := rfl
@[simp] theorem State.onEngine_decoders (s : State) (e : Fin 7) (f : Engine → Engine) : (s.onEngine e f).decoders = s.decoders := rfl
@[simp] theorem State.onEngine_engines (s : State) (e : Fin 7) (f : Engine → Engine) : (s.onEngine e f).engines = vmod s.engines e f := rfl
@[simp] theorem State.onEngine_parts (s : State) (e : Fin 7) (f : Engine → Engine) : (s.onEngine e f).parts = s.parts := rfl
@[simp] theorem State.onEngine_contexts (s : State) (e : Fin 7) (f : Engine → Engine) : (s.onEngine e f).contexts = s.contexts := rfl
@[simp] theorem State.onEngine_queue (s : State) (e : Fin 7) (f : Engine → Engine) : (s.onEngine e f).queue = s.queue := rfl
@[simp] theorem State.onEngine_rebind (s : State) (e : Fin 7) (f : Engine → Engine) : (s.onEngine e f).rebind = s.rebind := rfl
@[simp] theorem State.onEngine_mem (s : State) (e : Fin 7) (f : Engine → Engine) : (s.onEngine e f).mem = s.mem := rfl
@[simp] theorem State.onEngine_host (s : State) (e : Fin 7) (f : Engine → Engine) : (s.onEngine e f).host = s.host := rfl
@[simp] theorem State.onEngine_bridle (s : State) (e : Fin 7) (f : Engine → Engine) : (s.onEngine e f).bridle = s.bridle := rfl
@[simp] theorem State.onEngine_boot (s : State) (e : Fin 7) (f : Engine → Engine) : (s.onEngine e f).boot = s.boot := rfl
@[simp] theorem State.onEngine_otp (s : State) (e : Fin 7) (f : Engine → Engine) : (s.onEngine e f).otp = s.otp := rfl
@[simp] theorem State.onEngine_nor (s : State) (e : Fin 7) (f : Engine → Engine) : (s.onEngine e f).nor = s.nor := rfl
@[simp] theorem State.onEngine_norMiB (s : State) (e : Fin 7) (f : Engine → Engine) : (s.onEngine e f).norMiB = s.norMiB := rfl
@[simp] theorem State.onEngine_norOps (s : State) (e : Fin 7) (f : Engine → Engine) : (s.onEngine e f).norOps = s.norOps := rfl
@[simp] theorem State.onEngine_norBusy (s : State) (e : Fin 7) (f : Engine → Engine) : (s.onEngine e f).norBusy = s.norBusy := rfl
@[simp] theorem State.onEngine_stud (s : State) (e : Fin 7) (f : Engine → Engine) : (s.onEngine e f).stud = s.stud := rfl
@[simp] theorem State.onEngine_store (s : State) (e : Fin 7) (f : Engine → Engine) : (s.onEngine e f).store = s.store := rfl
@[simp] theorem State.onEngine_power (s : State) (e : Fin 7) (f : Engine → Engine) : (s.onEngine e f).power = s.power := rfl

/-! ## State.onPart -/

@[simp] theorem State.onPart_pending (s : State) (p : Fin 6) (f : Partition → Partition) : (s.onPart p f).pending = s.pending := rfl
@[simp] theorem State.onPart_now (s : State) (p : Fin 6) (f : Partition → Partition) : (s.onPart p f).now = s.now := rfl
@[simp] theorem State.onPart_reply (s : State) (p : Fin 6) (f : Partition → Partition) : (s.onPart p f).reply = s.reply := rfl
@[simp] theorem State.onPart_freeCtr (s : State) (p : Fin 6) (f : Partition → Partition) : (s.onPart p f).freeCtr = s.freeCtr := rfl
@[simp] theorem State.onPart_nextKey (s : State) (p : Fin 6) (f : Partition → Partition) : (s.onPart p f).nextKey = s.nextKey := rfl
@[simp] theorem State.onPart_groupMask (s : State) (p : Fin 6) (f : Partition → Partition) : (s.onPart p f).groupMask = s.groupMask := rfl
@[simp] theorem State.onPart_kindStatus (s : State) (p : Fin 6) (f : Partition → Partition) : (s.onPart p f).kindStatus = s.kindStatus := rfl
@[simp] theorem State.onPart_feCtrl (s : State) (p : Fin 6) (f : Partition → Partition) : (s.onPart p f).feCtrl = s.feCtrl := rfl
@[simp] theorem State.onPart_sideDefA (s : State) (p : Fin 6) (f : Partition → Partition) : (s.onPart p f).sideDefA = s.sideDefA := rfl
@[simp] theorem State.onPart_sideDefB (s : State) (p : Fin 6) (f : Partition → Partition) : (s.onPart p f).sideDefB = s.sideDefB := rfl
@[simp] theorem State.onPart_ports (s : State) (p : Fin 6) (f : Partition → Partition) : (s.onPart p f).ports = s.ports := rfl
@[simp] theorem State.onPart_transports (s : State) (p : Fin 6) (f : Partition → Partition) : (s.onPart p f).transports = s.transports := rfl
@[simp] theorem State.onPart_covers (s : State) (p : Fin 6) (f : Partition → Partition) : (s.onPart p f).covers = s.covers := rfl
@[simp] theorem State.onPart_frames (s : State) (p : Fin 6) (f : Partition → Partition) : (s.onPart p f).frames = s.frames := rfl
@[simp] theorem State.onPart_sides (s : State) (p : Fin 6) (f : Partition → Partition) : (s.onPart p f).sides = s.sides := rfl
@[simp] theorem State.onPart_streamA (s : State) (p : Fin 6) (f : Partition → Partition) : (s.onPart p f).streamA = s.streamA := rfl
@[simp] theorem State.onPart_streamB (s : State) (p : Fin 6) (f : Partition → Partition) : (s.onPart p f).streamB = s.streamB := rfl
@[simp] theorem State.onPart_streams (s : State) (p : Fin 6) (f : Partition → Partition) : (s.onPart p f).streams = s.streams := rfl
@[simp] theorem State.onPart_decoders (s : State) (p : Fin 6) (f : Partition → Partition) : (s.onPart p f).decoders = s.decoders := rfl
@[simp] theorem State.onPart_engines (s : State) (p : Fin 6) (f : Partition → Partition) : (s.onPart p f).engines = s.engines := rfl
@[simp] theorem State.onPart_parts (s : State) (p : Fin 6) (f : Partition → Partition) : (s.onPart p f).parts = vmod s.parts p f := rfl
@[simp] theorem State.onPart_contexts (s : State) (p : Fin 6) (f : Partition → Partition) : (s.onPart p f).contexts = s.contexts := rfl
@[simp] theorem State.onPart_queue (s : State) (p : Fin 6) (f : Partition → Partition) : (s.onPart p f).queue = s.queue := rfl
@[simp] theorem State.onPart_rebind (s : State) (p : Fin 6) (f : Partition → Partition) : (s.onPart p f).rebind = s.rebind := rfl
@[simp] theorem State.onPart_mem (s : State) (p : Fin 6) (f : Partition → Partition) : (s.onPart p f).mem = s.mem := rfl
@[simp] theorem State.onPart_host (s : State) (p : Fin 6) (f : Partition → Partition) : (s.onPart p f).host = s.host := rfl
@[simp] theorem State.onPart_bridle (s : State) (p : Fin 6) (f : Partition → Partition) : (s.onPart p f).bridle = s.bridle := rfl
@[simp] theorem State.onPart_boot (s : State) (p : Fin 6) (f : Partition → Partition) : (s.onPart p f).boot = s.boot := rfl
@[simp] theorem State.onPart_otp (s : State) (p : Fin 6) (f : Partition → Partition) : (s.onPart p f).otp = s.otp := rfl
@[simp] theorem State.onPart_nor (s : State) (p : Fin 6) (f : Partition → Partition) : (s.onPart p f).nor = s.nor := rfl
@[simp] theorem State.onPart_norMiB (s : State) (p : Fin 6) (f : Partition → Partition) : (s.onPart p f).norMiB = s.norMiB := rfl
@[simp] theorem State.onPart_norOps (s : State) (p : Fin 6) (f : Partition → Partition) : (s.onPart p f).norOps = s.norOps := rfl
@[simp] theorem State.onPart_norBusy (s : State) (p : Fin 6) (f : Partition → Partition) : (s.onPart p f).norBusy = s.norBusy := rfl
@[simp] theorem State.onPart_stud (s : State) (p : Fin 6) (f : Partition → Partition) : (s.onPart p f).stud = s.stud := rfl
@[simp] theorem State.onPart_store (s : State) (p : Fin 6) (f : Partition → Partition) : (s.onPart p f).store = s.store := rfl
@[simp] theorem State.onPart_power (s : State) (p : Fin 6) (f : Partition → Partition) : (s.onPart p f).power = s.power := rfl

/-! ## State.onStream -/

@[simp] theorem State.onStream_pending (s : State) (n : Fin 64) (f : Stream → Stream) : (s.onStream n f).pending = s.pending := rfl
@[simp] theorem State.onStream_now (s : State) (n : Fin 64) (f : Stream → Stream) : (s.onStream n f).now = s.now := rfl
@[simp] theorem State.onStream_reply (s : State) (n : Fin 64) (f : Stream → Stream) : (s.onStream n f).reply = s.reply := rfl
@[simp] theorem State.onStream_freeCtr (s : State) (n : Fin 64) (f : Stream → Stream) : (s.onStream n f).freeCtr = s.freeCtr := rfl
@[simp] theorem State.onStream_nextKey (s : State) (n : Fin 64) (f : Stream → Stream) : (s.onStream n f).nextKey = s.nextKey := rfl
@[simp] theorem State.onStream_groupMask (s : State) (n : Fin 64) (f : Stream → Stream) : (s.onStream n f).groupMask = s.groupMask := rfl
@[simp] theorem State.onStream_kindStatus (s : State) (n : Fin 64) (f : Stream → Stream) : (s.onStream n f).kindStatus = s.kindStatus := rfl
@[simp] theorem State.onStream_feCtrl (s : State) (n : Fin 64) (f : Stream → Stream) : (s.onStream n f).feCtrl = s.feCtrl := rfl
@[simp] theorem State.onStream_sideDefA (s : State) (n : Fin 64) (f : Stream → Stream) : (s.onStream n f).sideDefA = s.sideDefA := rfl
@[simp] theorem State.onStream_sideDefB (s : State) (n : Fin 64) (f : Stream → Stream) : (s.onStream n f).sideDefB = s.sideDefB := rfl
@[simp] theorem State.onStream_ports (s : State) (n : Fin 64) (f : Stream → Stream) : (s.onStream n f).ports = s.ports := rfl
@[simp] theorem State.onStream_transports (s : State) (n : Fin 64) (f : Stream → Stream) : (s.onStream n f).transports = s.transports := rfl
@[simp] theorem State.onStream_covers (s : State) (n : Fin 64) (f : Stream → Stream) : (s.onStream n f).covers = s.covers := rfl
@[simp] theorem State.onStream_frames (s : State) (n : Fin 64) (f : Stream → Stream) : (s.onStream n f).frames = s.frames := rfl
@[simp] theorem State.onStream_sides (s : State) (n : Fin 64) (f : Stream → Stream) : (s.onStream n f).sides = s.sides := rfl
@[simp] theorem State.onStream_streamA (s : State) (n : Fin 64) (f : Stream → Stream) : (s.onStream n f).streamA = s.streamA := rfl
@[simp] theorem State.onStream_streamB (s : State) (n : Fin 64) (f : Stream → Stream) : (s.onStream n f).streamB = s.streamB := rfl
@[simp] theorem State.onStream_streams (s : State) (n : Fin 64) (f : Stream → Stream) : (s.onStream n f).streams = vmod s.streams n f := rfl
@[simp] theorem State.onStream_decoders (s : State) (n : Fin 64) (f : Stream → Stream) : (s.onStream n f).decoders = s.decoders := rfl
@[simp] theorem State.onStream_engines (s : State) (n : Fin 64) (f : Stream → Stream) : (s.onStream n f).engines = s.engines := rfl
@[simp] theorem State.onStream_parts (s : State) (n : Fin 64) (f : Stream → Stream) : (s.onStream n f).parts = s.parts := rfl
@[simp] theorem State.onStream_contexts (s : State) (n : Fin 64) (f : Stream → Stream) : (s.onStream n f).contexts = s.contexts := rfl
@[simp] theorem State.onStream_queue (s : State) (n : Fin 64) (f : Stream → Stream) : (s.onStream n f).queue = s.queue := rfl
@[simp] theorem State.onStream_rebind (s : State) (n : Fin 64) (f : Stream → Stream) : (s.onStream n f).rebind = s.rebind := rfl
@[simp] theorem State.onStream_mem (s : State) (n : Fin 64) (f : Stream → Stream) : (s.onStream n f).mem = s.mem := rfl
@[simp] theorem State.onStream_host (s : State) (n : Fin 64) (f : Stream → Stream) : (s.onStream n f).host = s.host := rfl
@[simp] theorem State.onStream_bridle (s : State) (n : Fin 64) (f : Stream → Stream) : (s.onStream n f).bridle = s.bridle := rfl
@[simp] theorem State.onStream_boot (s : State) (n : Fin 64) (f : Stream → Stream) : (s.onStream n f).boot = s.boot := rfl
@[simp] theorem State.onStream_otp (s : State) (n : Fin 64) (f : Stream → Stream) : (s.onStream n f).otp = s.otp := rfl
@[simp] theorem State.onStream_nor (s : State) (n : Fin 64) (f : Stream → Stream) : (s.onStream n f).nor = s.nor := rfl
@[simp] theorem State.onStream_norMiB (s : State) (n : Fin 64) (f : Stream → Stream) : (s.onStream n f).norMiB = s.norMiB := rfl
@[simp] theorem State.onStream_norOps (s : State) (n : Fin 64) (f : Stream → Stream) : (s.onStream n f).norOps = s.norOps := rfl
@[simp] theorem State.onStream_norBusy (s : State) (n : Fin 64) (f : Stream → Stream) : (s.onStream n f).norBusy = s.norBusy := rfl
@[simp] theorem State.onStream_stud (s : State) (n : Fin 64) (f : Stream → Stream) : (s.onStream n f).stud = s.stud := rfl
@[simp] theorem State.onStream_store (s : State) (n : Fin 64) (f : Stream → Stream) : (s.onStream n f).store = s.store := rfl
@[simp] theorem State.onStream_power (s : State) (n : Fin 64) (f : Stream → Stream) : (s.onStream n f).power = s.power := rfl

/-! ## State.onDecoder -/

@[simp] theorem State.onDecoder_pending (s : State) (d : Fin 8) (f : Decoder → Decoder) : (s.onDecoder d f).pending = s.pending := rfl
@[simp] theorem State.onDecoder_now (s : State) (d : Fin 8) (f : Decoder → Decoder) : (s.onDecoder d f).now = s.now := rfl
@[simp] theorem State.onDecoder_reply (s : State) (d : Fin 8) (f : Decoder → Decoder) : (s.onDecoder d f).reply = s.reply := rfl
@[simp] theorem State.onDecoder_freeCtr (s : State) (d : Fin 8) (f : Decoder → Decoder) : (s.onDecoder d f).freeCtr = s.freeCtr := rfl
@[simp] theorem State.onDecoder_nextKey (s : State) (d : Fin 8) (f : Decoder → Decoder) : (s.onDecoder d f).nextKey = s.nextKey := rfl
@[simp] theorem State.onDecoder_groupMask (s : State) (d : Fin 8) (f : Decoder → Decoder) : (s.onDecoder d f).groupMask = s.groupMask := rfl
@[simp] theorem State.onDecoder_kindStatus (s : State) (d : Fin 8) (f : Decoder → Decoder) : (s.onDecoder d f).kindStatus = s.kindStatus := rfl
@[simp] theorem State.onDecoder_feCtrl (s : State) (d : Fin 8) (f : Decoder → Decoder) : (s.onDecoder d f).feCtrl = s.feCtrl := rfl
@[simp] theorem State.onDecoder_sideDefA (s : State) (d : Fin 8) (f : Decoder → Decoder) : (s.onDecoder d f).sideDefA = s.sideDefA := rfl
@[simp] theorem State.onDecoder_sideDefB (s : State) (d : Fin 8) (f : Decoder → Decoder) : (s.onDecoder d f).sideDefB = s.sideDefB := rfl
@[simp] theorem State.onDecoder_ports (s : State) (d : Fin 8) (f : Decoder → Decoder) : (s.onDecoder d f).ports = s.ports := rfl
@[simp] theorem State.onDecoder_transports (s : State) (d : Fin 8) (f : Decoder → Decoder) : (s.onDecoder d f).transports = s.transports := rfl
@[simp] theorem State.onDecoder_covers (s : State) (d : Fin 8) (f : Decoder → Decoder) : (s.onDecoder d f).covers = s.covers := rfl
@[simp] theorem State.onDecoder_frames (s : State) (d : Fin 8) (f : Decoder → Decoder) : (s.onDecoder d f).frames = s.frames := rfl
@[simp] theorem State.onDecoder_sides (s : State) (d : Fin 8) (f : Decoder → Decoder) : (s.onDecoder d f).sides = s.sides := rfl
@[simp] theorem State.onDecoder_streamA (s : State) (d : Fin 8) (f : Decoder → Decoder) : (s.onDecoder d f).streamA = s.streamA := rfl
@[simp] theorem State.onDecoder_streamB (s : State) (d : Fin 8) (f : Decoder → Decoder) : (s.onDecoder d f).streamB = s.streamB := rfl
@[simp] theorem State.onDecoder_streams (s : State) (d : Fin 8) (f : Decoder → Decoder) : (s.onDecoder d f).streams = s.streams := rfl
@[simp] theorem State.onDecoder_decoders (s : State) (d : Fin 8) (f : Decoder → Decoder) : (s.onDecoder d f).decoders = vmod s.decoders d f := rfl
@[simp] theorem State.onDecoder_engines (s : State) (d : Fin 8) (f : Decoder → Decoder) : (s.onDecoder d f).engines = s.engines := rfl
@[simp] theorem State.onDecoder_parts (s : State) (d : Fin 8) (f : Decoder → Decoder) : (s.onDecoder d f).parts = s.parts := rfl
@[simp] theorem State.onDecoder_contexts (s : State) (d : Fin 8) (f : Decoder → Decoder) : (s.onDecoder d f).contexts = s.contexts := rfl
@[simp] theorem State.onDecoder_queue (s : State) (d : Fin 8) (f : Decoder → Decoder) : (s.onDecoder d f).queue = s.queue := rfl
@[simp] theorem State.onDecoder_rebind (s : State) (d : Fin 8) (f : Decoder → Decoder) : (s.onDecoder d f).rebind = s.rebind := rfl
@[simp] theorem State.onDecoder_mem (s : State) (d : Fin 8) (f : Decoder → Decoder) : (s.onDecoder d f).mem = s.mem := rfl
@[simp] theorem State.onDecoder_host (s : State) (d : Fin 8) (f : Decoder → Decoder) : (s.onDecoder d f).host = s.host := rfl
@[simp] theorem State.onDecoder_bridle (s : State) (d : Fin 8) (f : Decoder → Decoder) : (s.onDecoder d f).bridle = s.bridle := rfl
@[simp] theorem State.onDecoder_boot (s : State) (d : Fin 8) (f : Decoder → Decoder) : (s.onDecoder d f).boot = s.boot := rfl
@[simp] theorem State.onDecoder_otp (s : State) (d : Fin 8) (f : Decoder → Decoder) : (s.onDecoder d f).otp = s.otp := rfl
@[simp] theorem State.onDecoder_nor (s : State) (d : Fin 8) (f : Decoder → Decoder) : (s.onDecoder d f).nor = s.nor := rfl
@[simp] theorem State.onDecoder_norMiB (s : State) (d : Fin 8) (f : Decoder → Decoder) : (s.onDecoder d f).norMiB = s.norMiB := rfl
@[simp] theorem State.onDecoder_norOps (s : State) (d : Fin 8) (f : Decoder → Decoder) : (s.onDecoder d f).norOps = s.norOps := rfl
@[simp] theorem State.onDecoder_norBusy (s : State) (d : Fin 8) (f : Decoder → Decoder) : (s.onDecoder d f).norBusy = s.norBusy := rfl
@[simp] theorem State.onDecoder_stud (s : State) (d : Fin 8) (f : Decoder → Decoder) : (s.onDecoder d f).stud = s.stud := rfl
@[simp] theorem State.onDecoder_store (s : State) (d : Fin 8) (f : Decoder → Decoder) : (s.onDecoder d f).store = s.store := rfl
@[simp] theorem State.onDecoder_power (s : State) (d : Fin 8) (f : Decoder → Decoder) : (s.onDecoder d f).power = s.power := rfl

/-! ## State.onChannel -/

@[simp] theorem State.onChannel_pending (s : State) (c : Fin 12) (f : Channel → Channel) : (s.onChannel c f).pending = s.pending := rfl
@[simp] theorem State.onChannel_now (s : State) (c : Fin 12) (f : Channel → Channel) : (s.onChannel c f).now = s.now := rfl
@[simp] theorem State.onChannel_reply (s : State) (c : Fin 12) (f : Channel → Channel) : (s.onChannel c f).reply = s.reply := rfl
@[simp] theorem State.onChannel_freeCtr (s : State) (c : Fin 12) (f : Channel → Channel) : (s.onChannel c f).freeCtr = s.freeCtr := rfl
@[simp] theorem State.onChannel_nextKey (s : State) (c : Fin 12) (f : Channel → Channel) : (s.onChannel c f).nextKey = s.nextKey := rfl
@[simp] theorem State.onChannel_groupMask (s : State) (c : Fin 12) (f : Channel → Channel) : (s.onChannel c f).groupMask = s.groupMask := rfl
@[simp] theorem State.onChannel_kindStatus (s : State) (c : Fin 12) (f : Channel → Channel) : (s.onChannel c f).kindStatus = s.kindStatus := rfl
@[simp] theorem State.onChannel_feCtrl (s : State) (c : Fin 12) (f : Channel → Channel) : (s.onChannel c f).feCtrl = s.feCtrl := rfl
@[simp] theorem State.onChannel_sideDefA (s : State) (c : Fin 12) (f : Channel → Channel) : (s.onChannel c f).sideDefA = s.sideDefA := rfl
@[simp] theorem State.onChannel_sideDefB (s : State) (c : Fin 12) (f : Channel → Channel) : (s.onChannel c f).sideDefB = s.sideDefB := rfl
@[simp] theorem State.onChannel_ports (s : State) (c : Fin 12) (f : Channel → Channel) : (s.onChannel c f).ports = s.ports := rfl
@[simp] theorem State.onChannel_transports (s : State) (c : Fin 12) (f : Channel → Channel) : (s.onChannel c f).transports = s.transports := rfl
@[simp] theorem State.onChannel_covers (s : State) (c : Fin 12) (f : Channel → Channel) : (s.onChannel c f).covers = s.covers := rfl
@[simp] theorem State.onChannel_frames (s : State) (c : Fin 12) (f : Channel → Channel) : (s.onChannel c f).frames = s.frames := rfl
@[simp] theorem State.onChannel_sides (s : State) (c : Fin 12) (f : Channel → Channel) : (s.onChannel c f).sides = s.sides := rfl
@[simp] theorem State.onChannel_streamA (s : State) (c : Fin 12) (f : Channel → Channel) : (s.onChannel c f).streamA = s.streamA := rfl
@[simp] theorem State.onChannel_streamB (s : State) (c : Fin 12) (f : Channel → Channel) : (s.onChannel c f).streamB = s.streamB := rfl
@[simp] theorem State.onChannel_streams (s : State) (c : Fin 12) (f : Channel → Channel) : (s.onChannel c f).streams = s.streams := rfl
@[simp] theorem State.onChannel_decoders (s : State) (c : Fin 12) (f : Channel → Channel) : (s.onChannel c f).decoders = s.decoders := rfl
@[simp] theorem State.onChannel_engines (s : State) (c : Fin 12) (f : Channel → Channel) : (s.onChannel c f).engines = s.engines := rfl
@[simp] theorem State.onChannel_parts (s : State) (c : Fin 12) (f : Channel → Channel) : (s.onChannel c f).parts = s.parts := rfl
@[simp] theorem State.onChannel_contexts (s : State) (c : Fin 12) (f : Channel → Channel) : (s.onChannel c f).contexts = s.contexts := rfl
@[simp] theorem State.onChannel_queue (s : State) (c : Fin 12) (f : Channel → Channel) : (s.onChannel c f).queue = s.queue := rfl
@[simp] theorem State.onChannel_rebind (s : State) (c : Fin 12) (f : Channel → Channel) : (s.onChannel c f).rebind = s.rebind := rfl
@[simp] theorem State.onChannel_host (s : State) (c : Fin 12) (f : Channel → Channel) : (s.onChannel c f).host = s.host := rfl
@[simp] theorem State.onChannel_bridle (s : State) (c : Fin 12) (f : Channel → Channel) : (s.onChannel c f).bridle = s.bridle := rfl
@[simp] theorem State.onChannel_boot (s : State) (c : Fin 12) (f : Channel → Channel) : (s.onChannel c f).boot = s.boot := rfl
@[simp] theorem State.onChannel_otp (s : State) (c : Fin 12) (f : Channel → Channel) : (s.onChannel c f).otp = s.otp := rfl
@[simp] theorem State.onChannel_nor (s : State) (c : Fin 12) (f : Channel → Channel) : (s.onChannel c f).nor = s.nor := rfl
@[simp] theorem State.onChannel_norMiB (s : State) (c : Fin 12) (f : Channel → Channel) : (s.onChannel c f).norMiB = s.norMiB := rfl
@[simp] theorem State.onChannel_norOps (s : State) (c : Fin 12) (f : Channel → Channel) : (s.onChannel c f).norOps = s.norOps := rfl
@[simp] theorem State.onChannel_norBusy (s : State) (c : Fin 12) (f : Channel → Channel) : (s.onChannel c f).norBusy = s.norBusy := rfl
@[simp] theorem State.onChannel_stud (s : State) (c : Fin 12) (f : Channel → Channel) : (s.onChannel c f).stud = s.stud := rfl
@[simp] theorem State.onChannel_store (s : State) (c : Fin 12) (f : Channel → Channel) : (s.onChannel c f).store = s.store := rfl
@[simp] theorem State.onChannel_power (s : State) (c : Fin 12) (f : Channel → Channel) : (s.onChannel c f).power = s.power := rfl

/-! ## State.onOut -/

@[simp] theorem State.onOut_pending (s : State) (p : Fin 6) (f : OutRing → OutRing) : (s.onOut p f).pending = s.pending := rfl
@[simp] theorem State.onOut_now (s : State) (p : Fin 6) (f : OutRing → OutRing) : (s.onOut p f).now = s.now := rfl
@[simp] theorem State.onOut_reply (s : State) (p : Fin 6) (f : OutRing → OutRing) : (s.onOut p f).reply = s.reply := rfl
@[simp] theorem State.onOut_freeCtr (s : State) (p : Fin 6) (f : OutRing → OutRing) : (s.onOut p f).freeCtr = s.freeCtr := rfl
@[simp] theorem State.onOut_nextKey (s : State) (p : Fin 6) (f : OutRing → OutRing) : (s.onOut p f).nextKey = s.nextKey := rfl
@[simp] theorem State.onOut_groupMask (s : State) (p : Fin 6) (f : OutRing → OutRing) : (s.onOut p f).groupMask = s.groupMask := rfl
@[simp] theorem State.onOut_kindStatus (s : State) (p : Fin 6) (f : OutRing → OutRing) : (s.onOut p f).kindStatus = s.kindStatus := rfl
@[simp] theorem State.onOut_feCtrl (s : State) (p : Fin 6) (f : OutRing → OutRing) : (s.onOut p f).feCtrl = s.feCtrl := rfl
@[simp] theorem State.onOut_sideDefA (s : State) (p : Fin 6) (f : OutRing → OutRing) : (s.onOut p f).sideDefA = s.sideDefA := rfl
@[simp] theorem State.onOut_sideDefB (s : State) (p : Fin 6) (f : OutRing → OutRing) : (s.onOut p f).sideDefB = s.sideDefB := rfl
@[simp] theorem State.onOut_ports (s : State) (p : Fin 6) (f : OutRing → OutRing) : (s.onOut p f).ports = s.ports := rfl
@[simp] theorem State.onOut_transports (s : State) (p : Fin 6) (f : OutRing → OutRing) : (s.onOut p f).transports = s.transports := rfl
@[simp] theorem State.onOut_covers (s : State) (p : Fin 6) (f : OutRing → OutRing) : (s.onOut p f).covers = s.covers := rfl
@[simp] theorem State.onOut_frames (s : State) (p : Fin 6) (f : OutRing → OutRing) : (s.onOut p f).frames = s.frames := rfl
@[simp] theorem State.onOut_sides (s : State) (p : Fin 6) (f : OutRing → OutRing) : (s.onOut p f).sides = s.sides := rfl
@[simp] theorem State.onOut_streamA (s : State) (p : Fin 6) (f : OutRing → OutRing) : (s.onOut p f).streamA = s.streamA := rfl
@[simp] theorem State.onOut_streamB (s : State) (p : Fin 6) (f : OutRing → OutRing) : (s.onOut p f).streamB = s.streamB := rfl
@[simp] theorem State.onOut_streams (s : State) (p : Fin 6) (f : OutRing → OutRing) : (s.onOut p f).streams = s.streams := rfl
@[simp] theorem State.onOut_decoders (s : State) (p : Fin 6) (f : OutRing → OutRing) : (s.onOut p f).decoders = s.decoders := rfl
@[simp] theorem State.onOut_engines (s : State) (p : Fin 6) (f : OutRing → OutRing) : (s.onOut p f).engines = s.engines := rfl
@[simp] theorem State.onOut_parts (s : State) (p : Fin 6) (f : OutRing → OutRing) : (s.onOut p f).parts = s.parts := rfl
@[simp] theorem State.onOut_contexts (s : State) (p : Fin 6) (f : OutRing → OutRing) : (s.onOut p f).contexts = s.contexts := rfl
@[simp] theorem State.onOut_queue (s : State) (p : Fin 6) (f : OutRing → OutRing) : (s.onOut p f).queue = s.queue := rfl
@[simp] theorem State.onOut_rebind (s : State) (p : Fin 6) (f : OutRing → OutRing) : (s.onOut p f).rebind = s.rebind := rfl
@[simp] theorem State.onOut_mem (s : State) (p : Fin 6) (f : OutRing → OutRing) : (s.onOut p f).mem = s.mem := rfl
@[simp] theorem State.onOut_bridle (s : State) (p : Fin 6) (f : OutRing → OutRing) : (s.onOut p f).bridle = s.bridle := rfl
@[simp] theorem State.onOut_boot (s : State) (p : Fin 6) (f : OutRing → OutRing) : (s.onOut p f).boot = s.boot := rfl
@[simp] theorem State.onOut_otp (s : State) (p : Fin 6) (f : OutRing → OutRing) : (s.onOut p f).otp = s.otp := rfl
@[simp] theorem State.onOut_nor (s : State) (p : Fin 6) (f : OutRing → OutRing) : (s.onOut p f).nor = s.nor := rfl
@[simp] theorem State.onOut_norMiB (s : State) (p : Fin 6) (f : OutRing → OutRing) : (s.onOut p f).norMiB = s.norMiB := rfl
@[simp] theorem State.onOut_norOps (s : State) (p : Fin 6) (f : OutRing → OutRing) : (s.onOut p f).norOps = s.norOps := rfl
@[simp] theorem State.onOut_norBusy (s : State) (p : Fin 6) (f : OutRing → OutRing) : (s.onOut p f).norBusy = s.norBusy := rfl
@[simp] theorem State.onOut_stud (s : State) (p : Fin 6) (f : OutRing → OutRing) : (s.onOut p f).stud = s.stud := rfl
@[simp] theorem State.onOut_store (s : State) (p : Fin 6) (f : OutRing → OutRing) : (s.onOut p f).store = s.store := rfl
@[simp] theorem State.onOut_power (s : State) (p : Fin 6) (f : OutRing → OutRing) : (s.onOut p f).power = s.power := rfl

/-! ## State.onSide -/

@[simp] theorem State.onSide_pending (s : State) (k : Nat) (f : Side → Side) : (s.onSide k f).pending = s.pending := rfl
@[simp] theorem State.onSide_now (s : State) (k : Nat) (f : Side → Side) : (s.onSide k f).now = s.now := rfl
@[simp] theorem State.onSide_reply (s : State) (k : Nat) (f : Side → Side) : (s.onSide k f).reply = s.reply := rfl
@[simp] theorem State.onSide_freeCtr (s : State) (k : Nat) (f : Side → Side) : (s.onSide k f).freeCtr = s.freeCtr := rfl
@[simp] theorem State.onSide_nextKey (s : State) (k : Nat) (f : Side → Side) : (s.onSide k f).nextKey = s.nextKey := rfl
@[simp] theorem State.onSide_groupMask (s : State) (k : Nat) (f : Side → Side) : (s.onSide k f).groupMask = s.groupMask := rfl
@[simp] theorem State.onSide_kindStatus (s : State) (k : Nat) (f : Side → Side) : (s.onSide k f).kindStatus = s.kindStatus := rfl
@[simp] theorem State.onSide_feCtrl (s : State) (k : Nat) (f : Side → Side) : (s.onSide k f).feCtrl = s.feCtrl := rfl
@[simp] theorem State.onSide_sideDefA (s : State) (k : Nat) (f : Side → Side) : (s.onSide k f).sideDefA = s.sideDefA := rfl
@[simp] theorem State.onSide_sideDefB (s : State) (k : Nat) (f : Side → Side) : (s.onSide k f).sideDefB = s.sideDefB := rfl
@[simp] theorem State.onSide_ports (s : State) (k : Nat) (f : Side → Side) : (s.onSide k f).ports = s.ports := rfl
@[simp] theorem State.onSide_transports (s : State) (k : Nat) (f : Side → Side) : (s.onSide k f).transports = s.transports := rfl
@[simp] theorem State.onSide_covers (s : State) (k : Nat) (f : Side → Side) : (s.onSide k f).covers = s.covers := rfl
@[simp] theorem State.onSide_frames (s : State) (k : Nat) (f : Side → Side) : (s.onSide k f).frames = s.frames := rfl
@[simp] theorem State.onSide_sides (s : State) (k : Nat) (f : Side → Side) : (s.onSide k f).sides = s.sides.map (fun x => if x.key = k then f x else x) := rfl
@[simp] theorem State.onSide_streamA (s : State) (k : Nat) (f : Side → Side) : (s.onSide k f).streamA = s.streamA := rfl
@[simp] theorem State.onSide_streamB (s : State) (k : Nat) (f : Side → Side) : (s.onSide k f).streamB = s.streamB := rfl
@[simp] theorem State.onSide_streams (s : State) (k : Nat) (f : Side → Side) : (s.onSide k f).streams = s.streams := rfl
@[simp] theorem State.onSide_decoders (s : State) (k : Nat) (f : Side → Side) : (s.onSide k f).decoders = s.decoders := rfl
@[simp] theorem State.onSide_engines (s : State) (k : Nat) (f : Side → Side) : (s.onSide k f).engines = s.engines := rfl
@[simp] theorem State.onSide_parts (s : State) (k : Nat) (f : Side → Side) : (s.onSide k f).parts = s.parts := rfl
@[simp] theorem State.onSide_contexts (s : State) (k : Nat) (f : Side → Side) : (s.onSide k f).contexts = s.contexts := rfl
@[simp] theorem State.onSide_queue (s : State) (k : Nat) (f : Side → Side) : (s.onSide k f).queue = s.queue := rfl
@[simp] theorem State.onSide_rebind (s : State) (k : Nat) (f : Side → Side) : (s.onSide k f).rebind = s.rebind := rfl
@[simp] theorem State.onSide_mem (s : State) (k : Nat) (f : Side → Side) : (s.onSide k f).mem = s.mem := rfl
@[simp] theorem State.onSide_host (s : State) (k : Nat) (f : Side → Side) : (s.onSide k f).host = s.host := rfl
@[simp] theorem State.onSide_bridle (s : State) (k : Nat) (f : Side → Side) : (s.onSide k f).bridle = s.bridle := rfl
@[simp] theorem State.onSide_boot (s : State) (k : Nat) (f : Side → Side) : (s.onSide k f).boot = s.boot := rfl
@[simp] theorem State.onSide_otp (s : State) (k : Nat) (f : Side → Side) : (s.onSide k f).otp = s.otp := rfl
@[simp] theorem State.onSide_nor (s : State) (k : Nat) (f : Side → Side) : (s.onSide k f).nor = s.nor := rfl
@[simp] theorem State.onSide_norMiB (s : State) (k : Nat) (f : Side → Side) : (s.onSide k f).norMiB = s.norMiB := rfl
@[simp] theorem State.onSide_norOps (s : State) (k : Nat) (f : Side → Side) : (s.onSide k f).norOps = s.norOps := rfl
@[simp] theorem State.onSide_norBusy (s : State) (k : Nat) (f : Side → Side) : (s.onSide k f).norBusy = s.norBusy := rfl
@[simp] theorem State.onSide_stud (s : State) (k : Nat) (f : Side → Side) : (s.onSide k f).stud = s.stud := rfl
@[simp] theorem State.onSide_store (s : State) (k : Nat) (f : Side → Side) : (s.onSide k f).store = s.store := rfl
@[simp] theorem State.onSide_power (s : State) (k : Nat) (f : Side → Side) : (s.onSide k f).power = s.power := rfl

/-! ## State.onContext -/

@[simp] theorem State.onContext_pending (s : State) (i : Nat) (f : Context → Context) : (s.onContext i f).pending = s.pending := rfl
@[simp] theorem State.onContext_now (s : State) (i : Nat) (f : Context → Context) : (s.onContext i f).now = s.now := rfl
@[simp] theorem State.onContext_reply (s : State) (i : Nat) (f : Context → Context) : (s.onContext i f).reply = s.reply := rfl
@[simp] theorem State.onContext_freeCtr (s : State) (i : Nat) (f : Context → Context) : (s.onContext i f).freeCtr = s.freeCtr := rfl
@[simp] theorem State.onContext_nextKey (s : State) (i : Nat) (f : Context → Context) : (s.onContext i f).nextKey = s.nextKey := rfl
@[simp] theorem State.onContext_groupMask (s : State) (i : Nat) (f : Context → Context) : (s.onContext i f).groupMask = s.groupMask := rfl
@[simp] theorem State.onContext_kindStatus (s : State) (i : Nat) (f : Context → Context) : (s.onContext i f).kindStatus = s.kindStatus := rfl
@[simp] theorem State.onContext_feCtrl (s : State) (i : Nat) (f : Context → Context) : (s.onContext i f).feCtrl = s.feCtrl := rfl
@[simp] theorem State.onContext_sideDefA (s : State) (i : Nat) (f : Context → Context) : (s.onContext i f).sideDefA = s.sideDefA := rfl
@[simp] theorem State.onContext_sideDefB (s : State) (i : Nat) (f : Context → Context) : (s.onContext i f).sideDefB = s.sideDefB := rfl
@[simp] theorem State.onContext_ports (s : State) (i : Nat) (f : Context → Context) : (s.onContext i f).ports = s.ports := rfl
@[simp] theorem State.onContext_transports (s : State) (i : Nat) (f : Context → Context) : (s.onContext i f).transports = s.transports := rfl
@[simp] theorem State.onContext_covers (s : State) (i : Nat) (f : Context → Context) : (s.onContext i f).covers = s.covers := rfl
@[simp] theorem State.onContext_frames (s : State) (i : Nat) (f : Context → Context) : (s.onContext i f).frames = s.frames := rfl
@[simp] theorem State.onContext_sides (s : State) (i : Nat) (f : Context → Context) : (s.onContext i f).sides = s.sides := rfl
@[simp] theorem State.onContext_streamA (s : State) (i : Nat) (f : Context → Context) : (s.onContext i f).streamA = s.streamA := rfl
@[simp] theorem State.onContext_streamB (s : State) (i : Nat) (f : Context → Context) : (s.onContext i f).streamB = s.streamB := rfl
@[simp] theorem State.onContext_streams (s : State) (i : Nat) (f : Context → Context) : (s.onContext i f).streams = s.streams := rfl
@[simp] theorem State.onContext_decoders (s : State) (i : Nat) (f : Context → Context) : (s.onContext i f).decoders = s.decoders := rfl
@[simp] theorem State.onContext_engines (s : State) (i : Nat) (f : Context → Context) : (s.onContext i f).engines = s.engines := rfl
@[simp] theorem State.onContext_parts (s : State) (i : Nat) (f : Context → Context) : (s.onContext i f).parts = s.parts := rfl
@[simp] theorem State.onContext_contexts (s : State) (i : Nat) (f : Context → Context) : (s.onContext i f).contexts = s.contexts.map (fun c => if c.id = i then f c else c) := rfl
@[simp] theorem State.onContext_queue (s : State) (i : Nat) (f : Context → Context) : (s.onContext i f).queue = s.queue := rfl
@[simp] theorem State.onContext_rebind (s : State) (i : Nat) (f : Context → Context) : (s.onContext i f).rebind = s.rebind := rfl
@[simp] theorem State.onContext_mem (s : State) (i : Nat) (f : Context → Context) : (s.onContext i f).mem = s.mem := rfl
@[simp] theorem State.onContext_host (s : State) (i : Nat) (f : Context → Context) : (s.onContext i f).host = s.host := rfl
@[simp] theorem State.onContext_bridle (s : State) (i : Nat) (f : Context → Context) : (s.onContext i f).bridle = s.bridle := rfl
@[simp] theorem State.onContext_boot (s : State) (i : Nat) (f : Context → Context) : (s.onContext i f).boot = s.boot := rfl
@[simp] theorem State.onContext_otp (s : State) (i : Nat) (f : Context → Context) : (s.onContext i f).otp = s.otp := rfl
@[simp] theorem State.onContext_nor (s : State) (i : Nat) (f : Context → Context) : (s.onContext i f).nor = s.nor := rfl
@[simp] theorem State.onContext_norMiB (s : State) (i : Nat) (f : Context → Context) : (s.onContext i f).norMiB = s.norMiB := rfl
@[simp] theorem State.onContext_norOps (s : State) (i : Nat) (f : Context → Context) : (s.onContext i f).norOps = s.norOps := rfl
@[simp] theorem State.onContext_norBusy (s : State) (i : Nat) (f : Context → Context) : (s.onContext i f).norBusy = s.norBusy := rfl
@[simp] theorem State.onContext_stud (s : State) (i : Nat) (f : Context → Context) : (s.onContext i f).stud = s.stud := rfl
@[simp] theorem State.onContext_store (s : State) (i : Nat) (f : Context → Context) : (s.onContext i f).store = s.store := rfl
@[simp] theorem State.onContext_power (s : State) (i : Nat) (f : Context → Context) : (s.onContext i f).power = s.power := rfl

/-! ## State.onSlot -/

@[simp] theorem State.onSlot_pending (s : State) (n : Fin 16) (f : RecipeSlot → RecipeSlot) : (s.onSlot n f).pending = s.pending := rfl
@[simp] theorem State.onSlot_now (s : State) (n : Fin 16) (f : RecipeSlot → RecipeSlot) : (s.onSlot n f).now = s.now := rfl
@[simp] theorem State.onSlot_reply (s : State) (n : Fin 16) (f : RecipeSlot → RecipeSlot) : (s.onSlot n f).reply = s.reply := rfl
@[simp] theorem State.onSlot_freeCtr (s : State) (n : Fin 16) (f : RecipeSlot → RecipeSlot) : (s.onSlot n f).freeCtr = s.freeCtr := rfl
@[simp] theorem State.onSlot_nextKey (s : State) (n : Fin 16) (f : RecipeSlot → RecipeSlot) : (s.onSlot n f).nextKey = s.nextKey := rfl
@[simp] theorem State.onSlot_groupMask (s : State) (n : Fin 16) (f : RecipeSlot → RecipeSlot) : (s.onSlot n f).groupMask = s.groupMask := rfl
@[simp] theorem State.onSlot_kindStatus (s : State) (n : Fin 16) (f : RecipeSlot → RecipeSlot) : (s.onSlot n f).kindStatus = s.kindStatus := rfl
@[simp] theorem State.onSlot_feCtrl (s : State) (n : Fin 16) (f : RecipeSlot → RecipeSlot) : (s.onSlot n f).feCtrl = s.feCtrl := rfl
@[simp] theorem State.onSlot_sideDefA (s : State) (n : Fin 16) (f : RecipeSlot → RecipeSlot) : (s.onSlot n f).sideDefA = s.sideDefA := rfl
@[simp] theorem State.onSlot_sideDefB (s : State) (n : Fin 16) (f : RecipeSlot → RecipeSlot) : (s.onSlot n f).sideDefB = s.sideDefB := rfl
@[simp] theorem State.onSlot_ports (s : State) (n : Fin 16) (f : RecipeSlot → RecipeSlot) : (s.onSlot n f).ports = s.ports := rfl
@[simp] theorem State.onSlot_transports (s : State) (n : Fin 16) (f : RecipeSlot → RecipeSlot) : (s.onSlot n f).transports = s.transports := rfl
@[simp] theorem State.onSlot_covers (s : State) (n : Fin 16) (f : RecipeSlot → RecipeSlot) : (s.onSlot n f).covers = s.covers := rfl
@[simp] theorem State.onSlot_frames (s : State) (n : Fin 16) (f : RecipeSlot → RecipeSlot) : (s.onSlot n f).frames = s.frames := rfl
@[simp] theorem State.onSlot_sides (s : State) (n : Fin 16) (f : RecipeSlot → RecipeSlot) : (s.onSlot n f).sides = s.sides := rfl
@[simp] theorem State.onSlot_streamA (s : State) (n : Fin 16) (f : RecipeSlot → RecipeSlot) : (s.onSlot n f).streamA = s.streamA := rfl
@[simp] theorem State.onSlot_streamB (s : State) (n : Fin 16) (f : RecipeSlot → RecipeSlot) : (s.onSlot n f).streamB = s.streamB := rfl
@[simp] theorem State.onSlot_streams (s : State) (n : Fin 16) (f : RecipeSlot → RecipeSlot) : (s.onSlot n f).streams = s.streams := rfl
@[simp] theorem State.onSlot_decoders (s : State) (n : Fin 16) (f : RecipeSlot → RecipeSlot) : (s.onSlot n f).decoders = s.decoders := rfl
@[simp] theorem State.onSlot_engines (s : State) (n : Fin 16) (f : RecipeSlot → RecipeSlot) : (s.onSlot n f).engines = s.engines := rfl
@[simp] theorem State.onSlot_parts (s : State) (n : Fin 16) (f : RecipeSlot → RecipeSlot) : (s.onSlot n f).parts = s.parts := rfl
@[simp] theorem State.onSlot_contexts (s : State) (n : Fin 16) (f : RecipeSlot → RecipeSlot) : (s.onSlot n f).contexts = s.contexts := rfl
@[simp] theorem State.onSlot_queue (s : State) (n : Fin 16) (f : RecipeSlot → RecipeSlot) : (s.onSlot n f).queue = s.queue := rfl
@[simp] theorem State.onSlot_rebind (s : State) (n : Fin 16) (f : RecipeSlot → RecipeSlot) : (s.onSlot n f).rebind = s.rebind := rfl
@[simp] theorem State.onSlot_mem (s : State) (n : Fin 16) (f : RecipeSlot → RecipeSlot) : (s.onSlot n f).mem = s.mem := rfl
@[simp] theorem State.onSlot_host (s : State) (n : Fin 16) (f : RecipeSlot → RecipeSlot) : (s.onSlot n f).host = s.host := rfl
@[simp] theorem State.onSlot_bridle (s : State) (n : Fin 16) (f : RecipeSlot → RecipeSlot) : (s.onSlot n f).bridle = s.bridle := rfl
@[simp] theorem State.onSlot_otp (s : State) (n : Fin 16) (f : RecipeSlot → RecipeSlot) : (s.onSlot n f).otp = s.otp := rfl
@[simp] theorem State.onSlot_nor (s : State) (n : Fin 16) (f : RecipeSlot → RecipeSlot) : (s.onSlot n f).nor = s.nor := rfl
@[simp] theorem State.onSlot_norMiB (s : State) (n : Fin 16) (f : RecipeSlot → RecipeSlot) : (s.onSlot n f).norMiB = s.norMiB := rfl
@[simp] theorem State.onSlot_norOps (s : State) (n : Fin 16) (f : RecipeSlot → RecipeSlot) : (s.onSlot n f).norOps = s.norOps := rfl
@[simp] theorem State.onSlot_norBusy (s : State) (n : Fin 16) (f : RecipeSlot → RecipeSlot) : (s.onSlot n f).norBusy = s.norBusy := rfl
@[simp] theorem State.onSlot_stud (s : State) (n : Fin 16) (f : RecipeSlot → RecipeSlot) : (s.onSlot n f).stud = s.stud := rfl
@[simp] theorem State.onSlot_store (s : State) (n : Fin 16) (f : RecipeSlot → RecipeSlot) : (s.onSlot n f).store = s.store := rfl
@[simp] theorem State.onSlot_power (s : State) (n : Fin 16) (f : RecipeSlot → RecipeSlot) : (s.onSlot n f).power = s.power := rfl

/-! ## State.onStep -/

@[simp] theorem State.onStep_pending (s : State) (p : Fin 6) (f : StepRun → StepRun) : (s.onStep p f).pending = s.pending := rfl
@[simp] theorem State.onStep_now (s : State) (p : Fin 6) (f : StepRun → StepRun) : (s.onStep p f).now = s.now := rfl
@[simp] theorem State.onStep_reply (s : State) (p : Fin 6) (f : StepRun → StepRun) : (s.onStep p f).reply = s.reply := rfl
@[simp] theorem State.onStep_freeCtr (s : State) (p : Fin 6) (f : StepRun → StepRun) : (s.onStep p f).freeCtr = s.freeCtr := rfl
@[simp] theorem State.onStep_nextKey (s : State) (p : Fin 6) (f : StepRun → StepRun) : (s.onStep p f).nextKey = s.nextKey := rfl
@[simp] theorem State.onStep_groupMask (s : State) (p : Fin 6) (f : StepRun → StepRun) : (s.onStep p f).groupMask = s.groupMask := rfl
@[simp] theorem State.onStep_kindStatus (s : State) (p : Fin 6) (f : StepRun → StepRun) : (s.onStep p f).kindStatus = s.kindStatus := rfl
@[simp] theorem State.onStep_feCtrl (s : State) (p : Fin 6) (f : StepRun → StepRun) : (s.onStep p f).feCtrl = s.feCtrl := rfl
@[simp] theorem State.onStep_sideDefA (s : State) (p : Fin 6) (f : StepRun → StepRun) : (s.onStep p f).sideDefA = s.sideDefA := rfl
@[simp] theorem State.onStep_sideDefB (s : State) (p : Fin 6) (f : StepRun → StepRun) : (s.onStep p f).sideDefB = s.sideDefB := rfl
@[simp] theorem State.onStep_ports (s : State) (p : Fin 6) (f : StepRun → StepRun) : (s.onStep p f).ports = s.ports := rfl
@[simp] theorem State.onStep_transports (s : State) (p : Fin 6) (f : StepRun → StepRun) : (s.onStep p f).transports = s.transports := rfl
@[simp] theorem State.onStep_covers (s : State) (p : Fin 6) (f : StepRun → StepRun) : (s.onStep p f).covers = s.covers := rfl
@[simp] theorem State.onStep_frames (s : State) (p : Fin 6) (f : StepRun → StepRun) : (s.onStep p f).frames = s.frames := rfl
@[simp] theorem State.onStep_sides (s : State) (p : Fin 6) (f : StepRun → StepRun) : (s.onStep p f).sides = s.sides := rfl
@[simp] theorem State.onStep_streamA (s : State) (p : Fin 6) (f : StepRun → StepRun) : (s.onStep p f).streamA = s.streamA := rfl
@[simp] theorem State.onStep_streamB (s : State) (p : Fin 6) (f : StepRun → StepRun) : (s.onStep p f).streamB = s.streamB := rfl
@[simp] theorem State.onStep_streams (s : State) (p : Fin 6) (f : StepRun → StepRun) : (s.onStep p f).streams = s.streams := rfl
@[simp] theorem State.onStep_decoders (s : State) (p : Fin 6) (f : StepRun → StepRun) : (s.onStep p f).decoders = s.decoders := rfl
@[simp] theorem State.onStep_engines (s : State) (p : Fin 6) (f : StepRun → StepRun) : (s.onStep p f).engines = s.engines := rfl
@[simp] theorem State.onStep_contexts (s : State) (p : Fin 6) (f : StepRun → StepRun) : (s.onStep p f).contexts = s.contexts := rfl
@[simp] theorem State.onStep_queue (s : State) (p : Fin 6) (f : StepRun → StepRun) : (s.onStep p f).queue = s.queue := rfl
@[simp] theorem State.onStep_rebind (s : State) (p : Fin 6) (f : StepRun → StepRun) : (s.onStep p f).rebind = s.rebind := rfl
@[simp] theorem State.onStep_mem (s : State) (p : Fin 6) (f : StepRun → StepRun) : (s.onStep p f).mem = s.mem := rfl
@[simp] theorem State.onStep_host (s : State) (p : Fin 6) (f : StepRun → StepRun) : (s.onStep p f).host = s.host := rfl
@[simp] theorem State.onStep_bridle (s : State) (p : Fin 6) (f : StepRun → StepRun) : (s.onStep p f).bridle = s.bridle := rfl
@[simp] theorem State.onStep_boot (s : State) (p : Fin 6) (f : StepRun → StepRun) : (s.onStep p f).boot = s.boot := rfl
@[simp] theorem State.onStep_otp (s : State) (p : Fin 6) (f : StepRun → StepRun) : (s.onStep p f).otp = s.otp := rfl
@[simp] theorem State.onStep_nor (s : State) (p : Fin 6) (f : StepRun → StepRun) : (s.onStep p f).nor = s.nor := rfl
@[simp] theorem State.onStep_norMiB (s : State) (p : Fin 6) (f : StepRun → StepRun) : (s.onStep p f).norMiB = s.norMiB := rfl
@[simp] theorem State.onStep_norOps (s : State) (p : Fin 6) (f : StepRun → StepRun) : (s.onStep p f).norOps = s.norOps := rfl
@[simp] theorem State.onStep_norBusy (s : State) (p : Fin 6) (f : StepRun → StepRun) : (s.onStep p f).norBusy = s.norBusy := rfl
@[simp] theorem State.onStep_stud (s : State) (p : Fin 6) (f : StepRun → StepRun) : (s.onStep p f).stud = s.stud := rfl
@[simp] theorem State.onStep_store (s : State) (p : Fin 6) (f : StepRun → StepRun) : (s.onStep p f).store = s.store := rfl
@[simp] theorem State.onStep_power (s : State) (p : Fin 6) (f : StepRun → StepRun) : (s.onStep p f).power = s.power := rfl

/-! ## State.countChip -/

@[simp] theorem State.countChip_pending (s : State) (c k : Nat) : (s.countChip c k).pending = s.pending := rfl
@[simp] theorem State.countChip_now (s : State) (c k : Nat) : (s.countChip c k).now = s.now := rfl
@[simp] theorem State.countChip_reply (s : State) (c k : Nat) : (s.countChip c k).reply = s.reply := rfl
@[simp] theorem State.countChip_freeCtr (s : State) (c k : Nat) : (s.countChip c k).freeCtr = s.freeCtr := rfl
@[simp] theorem State.countChip_nextKey (s : State) (c k : Nat) : (s.countChip c k).nextKey = s.nextKey := rfl
@[simp] theorem State.countChip_groupMask (s : State) (c k : Nat) : (s.countChip c k).groupMask = s.groupMask := rfl
@[simp] theorem State.countChip_kindStatus (s : State) (c k : Nat) : (s.countChip c k).kindStatus = s.kindStatus := rfl
@[simp] theorem State.countChip_feCtrl (s : State) (c k : Nat) : (s.countChip c k).feCtrl = s.feCtrl := rfl
@[simp] theorem State.countChip_sideDefA (s : State) (c k : Nat) : (s.countChip c k).sideDefA = s.sideDefA := rfl
@[simp] theorem State.countChip_sideDefB (s : State) (c k : Nat) : (s.countChip c k).sideDefB = s.sideDefB := rfl
@[simp] theorem State.countChip_ports (s : State) (c k : Nat) : (s.countChip c k).ports = s.ports := rfl
@[simp] theorem State.countChip_transports (s : State) (c k : Nat) : (s.countChip c k).transports = s.transports := rfl
@[simp] theorem State.countChip_covers (s : State) (c k : Nat) : (s.countChip c k).covers = s.covers := rfl
@[simp] theorem State.countChip_frames (s : State) (c k : Nat) : (s.countChip c k).frames = s.frames := rfl
@[simp] theorem State.countChip_sides (s : State) (c k : Nat) : (s.countChip c k).sides = s.sides := rfl
@[simp] theorem State.countChip_streamA (s : State) (c k : Nat) : (s.countChip c k).streamA = s.streamA := rfl
@[simp] theorem State.countChip_streamB (s : State) (c k : Nat) : (s.countChip c k).streamB = s.streamB := rfl
@[simp] theorem State.countChip_streams (s : State) (c k : Nat) : (s.countChip c k).streams = s.streams := rfl
@[simp] theorem State.countChip_decoders (s : State) (c k : Nat) : (s.countChip c k).decoders = s.decoders := rfl
@[simp] theorem State.countChip_engines (s : State) (c k : Nat) : (s.countChip c k).engines = s.engines := rfl
@[simp] theorem State.countChip_parts (s : State) (c k : Nat) : (s.countChip c k).parts = s.parts := rfl
@[simp] theorem State.countChip_contexts (s : State) (c k : Nat) : (s.countChip c k).contexts = s.contexts := rfl
@[simp] theorem State.countChip_queue (s : State) (c k : Nat) : (s.countChip c k).queue = s.queue := rfl
@[simp] theorem State.countChip_rebind (s : State) (c k : Nat) : (s.countChip c k).rebind = s.rebind := rfl
@[simp] theorem State.countChip_mem (s : State) (c k : Nat) : (s.countChip c k).mem = s.mem := rfl
@[simp] theorem State.countChip_bridle (s : State) (c k : Nat) : (s.countChip c k).bridle = s.bridle := rfl
@[simp] theorem State.countChip_boot (s : State) (c k : Nat) : (s.countChip c k).boot = s.boot := rfl
@[simp] theorem State.countChip_otp (s : State) (c k : Nat) : (s.countChip c k).otp = s.otp := rfl
@[simp] theorem State.countChip_nor (s : State) (c k : Nat) : (s.countChip c k).nor = s.nor := rfl
@[simp] theorem State.countChip_norMiB (s : State) (c k : Nat) : (s.countChip c k).norMiB = s.norMiB := rfl
@[simp] theorem State.countChip_norOps (s : State) (c k : Nat) : (s.countChip c k).norOps = s.norOps := rfl
@[simp] theorem State.countChip_norBusy (s : State) (c k : Nat) : (s.countChip c k).norBusy = s.norBusy := rfl
@[simp] theorem State.countChip_stud (s : State) (c k : Nat) : (s.countChip c k).stud = s.stud := rfl
@[simp] theorem State.countChip_store (s : State) (c k : Nat) : (s.countChip c k).store = s.store := rfl
@[simp] theorem State.countChip_power (s : State) (c k : Nat) : (s.countChip c k).power = s.power := rfl

/-! ## State.countEngine -/

@[simp] theorem State.countEngine_pending (s : State) (e : Fin 7) (c k : Nat) : (s.countEngine e c k).pending = s.pending := rfl
@[simp] theorem State.countEngine_now (s : State) (e : Fin 7) (c k : Nat) : (s.countEngine e c k).now = s.now := rfl
@[simp] theorem State.countEngine_reply (s : State) (e : Fin 7) (c k : Nat) : (s.countEngine e c k).reply = s.reply := rfl
@[simp] theorem State.countEngine_freeCtr (s : State) (e : Fin 7) (c k : Nat) : (s.countEngine e c k).freeCtr = s.freeCtr := rfl
@[simp] theorem State.countEngine_nextKey (s : State) (e : Fin 7) (c k : Nat) : (s.countEngine e c k).nextKey = s.nextKey := rfl
@[simp] theorem State.countEngine_groupMask (s : State) (e : Fin 7) (c k : Nat) : (s.countEngine e c k).groupMask = s.groupMask := rfl
@[simp] theorem State.countEngine_kindStatus (s : State) (e : Fin 7) (c k : Nat) : (s.countEngine e c k).kindStatus = s.kindStatus := rfl
@[simp] theorem State.countEngine_feCtrl (s : State) (e : Fin 7) (c k : Nat) : (s.countEngine e c k).feCtrl = s.feCtrl := rfl
@[simp] theorem State.countEngine_sideDefA (s : State) (e : Fin 7) (c k : Nat) : (s.countEngine e c k).sideDefA = s.sideDefA := rfl
@[simp] theorem State.countEngine_sideDefB (s : State) (e : Fin 7) (c k : Nat) : (s.countEngine e c k).sideDefB = s.sideDefB := rfl
@[simp] theorem State.countEngine_ports (s : State) (e : Fin 7) (c k : Nat) : (s.countEngine e c k).ports = s.ports := rfl
@[simp] theorem State.countEngine_transports (s : State) (e : Fin 7) (c k : Nat) : (s.countEngine e c k).transports = s.transports := rfl
@[simp] theorem State.countEngine_covers (s : State) (e : Fin 7) (c k : Nat) : (s.countEngine e c k).covers = s.covers := rfl
@[simp] theorem State.countEngine_frames (s : State) (e : Fin 7) (c k : Nat) : (s.countEngine e c k).frames = s.frames := rfl
@[simp] theorem State.countEngine_sides (s : State) (e : Fin 7) (c k : Nat) : (s.countEngine e c k).sides = s.sides := rfl
@[simp] theorem State.countEngine_streamA (s : State) (e : Fin 7) (c k : Nat) : (s.countEngine e c k).streamA = s.streamA := rfl
@[simp] theorem State.countEngine_streamB (s : State) (e : Fin 7) (c k : Nat) : (s.countEngine e c k).streamB = s.streamB := rfl
@[simp] theorem State.countEngine_streams (s : State) (e : Fin 7) (c k : Nat) : (s.countEngine e c k).streams = s.streams := rfl
@[simp] theorem State.countEngine_decoders (s : State) (e : Fin 7) (c k : Nat) : (s.countEngine e c k).decoders = s.decoders := rfl
@[simp] theorem State.countEngine_parts (s : State) (e : Fin 7) (c k : Nat) : (s.countEngine e c k).parts = s.parts := rfl
@[simp] theorem State.countEngine_contexts (s : State) (e : Fin 7) (c k : Nat) : (s.countEngine e c k).contexts = s.contexts := rfl
@[simp] theorem State.countEngine_queue (s : State) (e : Fin 7) (c k : Nat) : (s.countEngine e c k).queue = s.queue := rfl
@[simp] theorem State.countEngine_rebind (s : State) (e : Fin 7) (c k : Nat) : (s.countEngine e c k).rebind = s.rebind := rfl
@[simp] theorem State.countEngine_mem (s : State) (e : Fin 7) (c k : Nat) : (s.countEngine e c k).mem = s.mem := rfl
@[simp] theorem State.countEngine_host (s : State) (e : Fin 7) (c k : Nat) : (s.countEngine e c k).host = s.host := rfl
@[simp] theorem State.countEngine_bridle (s : State) (e : Fin 7) (c k : Nat) : (s.countEngine e c k).bridle = s.bridle := rfl
@[simp] theorem State.countEngine_boot (s : State) (e : Fin 7) (c k : Nat) : (s.countEngine e c k).boot = s.boot := rfl
@[simp] theorem State.countEngine_otp (s : State) (e : Fin 7) (c k : Nat) : (s.countEngine e c k).otp = s.otp := rfl
@[simp] theorem State.countEngine_nor (s : State) (e : Fin 7) (c k : Nat) : (s.countEngine e c k).nor = s.nor := rfl
@[simp] theorem State.countEngine_norMiB (s : State) (e : Fin 7) (c k : Nat) : (s.countEngine e c k).norMiB = s.norMiB := rfl
@[simp] theorem State.countEngine_norOps (s : State) (e : Fin 7) (c k : Nat) : (s.countEngine e c k).norOps = s.norOps := rfl
@[simp] theorem State.countEngine_norBusy (s : State) (e : Fin 7) (c k : Nat) : (s.countEngine e c k).norBusy = s.norBusy := rfl
@[simp] theorem State.countEngine_stud (s : State) (e : Fin 7) (c k : Nat) : (s.countEngine e c k).stud = s.stud := rfl
@[simp] theorem State.countEngine_store (s : State) (e : Fin 7) (c k : Nat) : (s.countEngine e c k).store = s.store := rfl
@[simp] theorem State.countEngine_power (s : State) (e : Fin 7) (c k : Nat) : (s.countEngine e c k).power = s.power := rfl

/-! ## State.countPart -/

@[simp] theorem State.countPart_pending (s : State) (p : Fin 6) (c k : Nat) : (s.countPart p c k).pending = s.pending := rfl
@[simp] theorem State.countPart_now (s : State) (p : Fin 6) (c k : Nat) : (s.countPart p c k).now = s.now := rfl
@[simp] theorem State.countPart_reply (s : State) (p : Fin 6) (c k : Nat) : (s.countPart p c k).reply = s.reply := rfl
@[simp] theorem State.countPart_freeCtr (s : State) (p : Fin 6) (c k : Nat) : (s.countPart p c k).freeCtr = s.freeCtr := rfl
@[simp] theorem State.countPart_nextKey (s : State) (p : Fin 6) (c k : Nat) : (s.countPart p c k).nextKey = s.nextKey := rfl
@[simp] theorem State.countPart_groupMask (s : State) (p : Fin 6) (c k : Nat) : (s.countPart p c k).groupMask = s.groupMask := rfl
@[simp] theorem State.countPart_kindStatus (s : State) (p : Fin 6) (c k : Nat) : (s.countPart p c k).kindStatus = s.kindStatus := rfl
@[simp] theorem State.countPart_feCtrl (s : State) (p : Fin 6) (c k : Nat) : (s.countPart p c k).feCtrl = s.feCtrl := rfl
@[simp] theorem State.countPart_sideDefA (s : State) (p : Fin 6) (c k : Nat) : (s.countPart p c k).sideDefA = s.sideDefA := rfl
@[simp] theorem State.countPart_sideDefB (s : State) (p : Fin 6) (c k : Nat) : (s.countPart p c k).sideDefB = s.sideDefB := rfl
@[simp] theorem State.countPart_ports (s : State) (p : Fin 6) (c k : Nat) : (s.countPart p c k).ports = s.ports := rfl
@[simp] theorem State.countPart_transports (s : State) (p : Fin 6) (c k : Nat) : (s.countPart p c k).transports = s.transports := rfl
@[simp] theorem State.countPart_covers (s : State) (p : Fin 6) (c k : Nat) : (s.countPart p c k).covers = s.covers := rfl
@[simp] theorem State.countPart_frames (s : State) (p : Fin 6) (c k : Nat) : (s.countPart p c k).frames = s.frames := rfl
@[simp] theorem State.countPart_sides (s : State) (p : Fin 6) (c k : Nat) : (s.countPart p c k).sides = s.sides := rfl
@[simp] theorem State.countPart_streamA (s : State) (p : Fin 6) (c k : Nat) : (s.countPart p c k).streamA = s.streamA := rfl
@[simp] theorem State.countPart_streamB (s : State) (p : Fin 6) (c k : Nat) : (s.countPart p c k).streamB = s.streamB := rfl
@[simp] theorem State.countPart_streams (s : State) (p : Fin 6) (c k : Nat) : (s.countPart p c k).streams = s.streams := rfl
@[simp] theorem State.countPart_decoders (s : State) (p : Fin 6) (c k : Nat) : (s.countPart p c k).decoders = s.decoders := rfl
@[simp] theorem State.countPart_engines (s : State) (p : Fin 6) (c k : Nat) : (s.countPart p c k).engines = s.engines := rfl
@[simp] theorem State.countPart_contexts (s : State) (p : Fin 6) (c k : Nat) : (s.countPart p c k).contexts = s.contexts := rfl
@[simp] theorem State.countPart_queue (s : State) (p : Fin 6) (c k : Nat) : (s.countPart p c k).queue = s.queue := rfl
@[simp] theorem State.countPart_rebind (s : State) (p : Fin 6) (c k : Nat) : (s.countPart p c k).rebind = s.rebind := rfl
@[simp] theorem State.countPart_mem (s : State) (p : Fin 6) (c k : Nat) : (s.countPart p c k).mem = s.mem := rfl
@[simp] theorem State.countPart_host (s : State) (p : Fin 6) (c k : Nat) : (s.countPart p c k).host = s.host := rfl
@[simp] theorem State.countPart_bridle (s : State) (p : Fin 6) (c k : Nat) : (s.countPart p c k).bridle = s.bridle := rfl
@[simp] theorem State.countPart_boot (s : State) (p : Fin 6) (c k : Nat) : (s.countPart p c k).boot = s.boot := rfl
@[simp] theorem State.countPart_otp (s : State) (p : Fin 6) (c k : Nat) : (s.countPart p c k).otp = s.otp := rfl
@[simp] theorem State.countPart_nor (s : State) (p : Fin 6) (c k : Nat) : (s.countPart p c k).nor = s.nor := rfl
@[simp] theorem State.countPart_norMiB (s : State) (p : Fin 6) (c k : Nat) : (s.countPart p c k).norMiB = s.norMiB := rfl
@[simp] theorem State.countPart_norOps (s : State) (p : Fin 6) (c k : Nat) : (s.countPart p c k).norOps = s.norOps := rfl
@[simp] theorem State.countPart_norBusy (s : State) (p : Fin 6) (c k : Nat) : (s.countPart p c k).norBusy = s.norBusy := rfl
@[simp] theorem State.countPart_stud (s : State) (p : Fin 6) (c k : Nat) : (s.countPart p c k).stud = s.stud := rfl
@[simp] theorem State.countPart_store (s : State) (p : Fin 6) (c k : Nat) : (s.countPart p c k).store = s.store := rfl
@[simp] theorem State.countPart_power (s : State) (p : Fin 6) (c k : Nat) : (s.countPart p c k).power = s.power := rfl

/-! ## State.countChannel -/

@[simp] theorem State.countChannel_pending (s : State) (ch : Fin 12) (c k : Nat) : (s.countChannel ch c k).pending = s.pending := rfl
@[simp] theorem State.countChannel_now (s : State) (ch : Fin 12) (c k : Nat) : (s.countChannel ch c k).now = s.now := rfl
@[simp] theorem State.countChannel_reply (s : State) (ch : Fin 12) (c k : Nat) : (s.countChannel ch c k).reply = s.reply := rfl
@[simp] theorem State.countChannel_freeCtr (s : State) (ch : Fin 12) (c k : Nat) : (s.countChannel ch c k).freeCtr = s.freeCtr := rfl
@[simp] theorem State.countChannel_nextKey (s : State) (ch : Fin 12) (c k : Nat) : (s.countChannel ch c k).nextKey = s.nextKey := rfl
@[simp] theorem State.countChannel_groupMask (s : State) (ch : Fin 12) (c k : Nat) : (s.countChannel ch c k).groupMask = s.groupMask := rfl
@[simp] theorem State.countChannel_kindStatus (s : State) (ch : Fin 12) (c k : Nat) : (s.countChannel ch c k).kindStatus = s.kindStatus := rfl
@[simp] theorem State.countChannel_feCtrl (s : State) (ch : Fin 12) (c k : Nat) : (s.countChannel ch c k).feCtrl = s.feCtrl := rfl
@[simp] theorem State.countChannel_sideDefA (s : State) (ch : Fin 12) (c k : Nat) : (s.countChannel ch c k).sideDefA = s.sideDefA := rfl
@[simp] theorem State.countChannel_sideDefB (s : State) (ch : Fin 12) (c k : Nat) : (s.countChannel ch c k).sideDefB = s.sideDefB := rfl
@[simp] theorem State.countChannel_ports (s : State) (ch : Fin 12) (c k : Nat) : (s.countChannel ch c k).ports = s.ports := rfl
@[simp] theorem State.countChannel_transports (s : State) (ch : Fin 12) (c k : Nat) : (s.countChannel ch c k).transports = s.transports := rfl
@[simp] theorem State.countChannel_covers (s : State) (ch : Fin 12) (c k : Nat) : (s.countChannel ch c k).covers = s.covers := rfl
@[simp] theorem State.countChannel_frames (s : State) (ch : Fin 12) (c k : Nat) : (s.countChannel ch c k).frames = s.frames := rfl
@[simp] theorem State.countChannel_sides (s : State) (ch : Fin 12) (c k : Nat) : (s.countChannel ch c k).sides = s.sides := rfl
@[simp] theorem State.countChannel_streamA (s : State) (ch : Fin 12) (c k : Nat) : (s.countChannel ch c k).streamA = s.streamA := rfl
@[simp] theorem State.countChannel_streamB (s : State) (ch : Fin 12) (c k : Nat) : (s.countChannel ch c k).streamB = s.streamB := rfl
@[simp] theorem State.countChannel_streams (s : State) (ch : Fin 12) (c k : Nat) : (s.countChannel ch c k).streams = s.streams := rfl
@[simp] theorem State.countChannel_decoders (s : State) (ch : Fin 12) (c k : Nat) : (s.countChannel ch c k).decoders = s.decoders := rfl
@[simp] theorem State.countChannel_engines (s : State) (ch : Fin 12) (c k : Nat) : (s.countChannel ch c k).engines = s.engines := rfl
@[simp] theorem State.countChannel_parts (s : State) (ch : Fin 12) (c k : Nat) : (s.countChannel ch c k).parts = s.parts := rfl
@[simp] theorem State.countChannel_contexts (s : State) (ch : Fin 12) (c k : Nat) : (s.countChannel ch c k).contexts = s.contexts := rfl
@[simp] theorem State.countChannel_queue (s : State) (ch : Fin 12) (c k : Nat) : (s.countChannel ch c k).queue = s.queue := rfl
@[simp] theorem State.countChannel_rebind (s : State) (ch : Fin 12) (c k : Nat) : (s.countChannel ch c k).rebind = s.rebind := rfl
@[simp] theorem State.countChannel_host (s : State) (ch : Fin 12) (c k : Nat) : (s.countChannel ch c k).host = s.host := rfl
@[simp] theorem State.countChannel_bridle (s : State) (ch : Fin 12) (c k : Nat) : (s.countChannel ch c k).bridle = s.bridle := rfl
@[simp] theorem State.countChannel_boot (s : State) (ch : Fin 12) (c k : Nat) : (s.countChannel ch c k).boot = s.boot := rfl
@[simp] theorem State.countChannel_otp (s : State) (ch : Fin 12) (c k : Nat) : (s.countChannel ch c k).otp = s.otp := rfl
@[simp] theorem State.countChannel_nor (s : State) (ch : Fin 12) (c k : Nat) : (s.countChannel ch c k).nor = s.nor := rfl
@[simp] theorem State.countChannel_norMiB (s : State) (ch : Fin 12) (c k : Nat) : (s.countChannel ch c k).norMiB = s.norMiB := rfl
@[simp] theorem State.countChannel_norOps (s : State) (ch : Fin 12) (c k : Nat) : (s.countChannel ch c k).norOps = s.norOps := rfl
@[simp] theorem State.countChannel_norBusy (s : State) (ch : Fin 12) (c k : Nat) : (s.countChannel ch c k).norBusy = s.norBusy := rfl
@[simp] theorem State.countChannel_stud (s : State) (ch : Fin 12) (c k : Nat) : (s.countChannel ch c k).stud = s.stud := rfl
@[simp] theorem State.countChannel_store (s : State) (ch : Fin 12) (c k : Nat) : (s.countChannel ch c k).store = s.store := rfl
@[simp] theorem State.countChannel_power (s : State) (ch : Fin 12) (c k : Nat) : (s.countChannel ch c k).power = s.power := rfl

/-! ## State.countStream -/

@[simp] theorem State.countStream_pending (s : State) (n : Fin 64) (c k : Nat) : (s.countStream n c k).pending = s.pending := rfl
@[simp] theorem State.countStream_now (s : State) (n : Fin 64) (c k : Nat) : (s.countStream n c k).now = s.now := rfl
@[simp] theorem State.countStream_reply (s : State) (n : Fin 64) (c k : Nat) : (s.countStream n c k).reply = s.reply := rfl
@[simp] theorem State.countStream_freeCtr (s : State) (n : Fin 64) (c k : Nat) : (s.countStream n c k).freeCtr = s.freeCtr := rfl
@[simp] theorem State.countStream_nextKey (s : State) (n : Fin 64) (c k : Nat) : (s.countStream n c k).nextKey = s.nextKey := rfl
@[simp] theorem State.countStream_groupMask (s : State) (n : Fin 64) (c k : Nat) : (s.countStream n c k).groupMask = s.groupMask := rfl
@[simp] theorem State.countStream_kindStatus (s : State) (n : Fin 64) (c k : Nat) : (s.countStream n c k).kindStatus = s.kindStatus := rfl
@[simp] theorem State.countStream_feCtrl (s : State) (n : Fin 64) (c k : Nat) : (s.countStream n c k).feCtrl = s.feCtrl := rfl
@[simp] theorem State.countStream_sideDefA (s : State) (n : Fin 64) (c k : Nat) : (s.countStream n c k).sideDefA = s.sideDefA := rfl
@[simp] theorem State.countStream_sideDefB (s : State) (n : Fin 64) (c k : Nat) : (s.countStream n c k).sideDefB = s.sideDefB := rfl
@[simp] theorem State.countStream_ports (s : State) (n : Fin 64) (c k : Nat) : (s.countStream n c k).ports = s.ports := rfl
@[simp] theorem State.countStream_transports (s : State) (n : Fin 64) (c k : Nat) : (s.countStream n c k).transports = s.transports := rfl
@[simp] theorem State.countStream_covers (s : State) (n : Fin 64) (c k : Nat) : (s.countStream n c k).covers = s.covers := rfl
@[simp] theorem State.countStream_frames (s : State) (n : Fin 64) (c k : Nat) : (s.countStream n c k).frames = s.frames := rfl
@[simp] theorem State.countStream_sides (s : State) (n : Fin 64) (c k : Nat) : (s.countStream n c k).sides = s.sides := rfl
@[simp] theorem State.countStream_streamA (s : State) (n : Fin 64) (c k : Nat) : (s.countStream n c k).streamA = s.streamA := rfl
@[simp] theorem State.countStream_streamB (s : State) (n : Fin 64) (c k : Nat) : (s.countStream n c k).streamB = s.streamB := rfl
@[simp] theorem State.countStream_decoders (s : State) (n : Fin 64) (c k : Nat) : (s.countStream n c k).decoders = s.decoders := rfl
@[simp] theorem State.countStream_engines (s : State) (n : Fin 64) (c k : Nat) : (s.countStream n c k).engines = s.engines := rfl
@[simp] theorem State.countStream_parts (s : State) (n : Fin 64) (c k : Nat) : (s.countStream n c k).parts = s.parts := rfl
@[simp] theorem State.countStream_contexts (s : State) (n : Fin 64) (c k : Nat) : (s.countStream n c k).contexts = s.contexts := rfl
@[simp] theorem State.countStream_queue (s : State) (n : Fin 64) (c k : Nat) : (s.countStream n c k).queue = s.queue := rfl
@[simp] theorem State.countStream_rebind (s : State) (n : Fin 64) (c k : Nat) : (s.countStream n c k).rebind = s.rebind := rfl
@[simp] theorem State.countStream_mem (s : State) (n : Fin 64) (c k : Nat) : (s.countStream n c k).mem = s.mem := rfl
@[simp] theorem State.countStream_host (s : State) (n : Fin 64) (c k : Nat) : (s.countStream n c k).host = s.host := rfl
@[simp] theorem State.countStream_bridle (s : State) (n : Fin 64) (c k : Nat) : (s.countStream n c k).bridle = s.bridle := rfl
@[simp] theorem State.countStream_boot (s : State) (n : Fin 64) (c k : Nat) : (s.countStream n c k).boot = s.boot := rfl
@[simp] theorem State.countStream_otp (s : State) (n : Fin 64) (c k : Nat) : (s.countStream n c k).otp = s.otp := rfl
@[simp] theorem State.countStream_nor (s : State) (n : Fin 64) (c k : Nat) : (s.countStream n c k).nor = s.nor := rfl
@[simp] theorem State.countStream_norMiB (s : State) (n : Fin 64) (c k : Nat) : (s.countStream n c k).norMiB = s.norMiB := rfl
@[simp] theorem State.countStream_norOps (s : State) (n : Fin 64) (c k : Nat) : (s.countStream n c k).norOps = s.norOps := rfl
@[simp] theorem State.countStream_norBusy (s : State) (n : Fin 64) (c k : Nat) : (s.countStream n c k).norBusy = s.norBusy := rfl
@[simp] theorem State.countStream_stud (s : State) (n : Fin 64) (c k : Nat) : (s.countStream n c k).stud = s.stud := rfl
@[simp] theorem State.countStream_store (s : State) (n : Fin 64) (c k : Nat) : (s.countStream n c k).store = s.store := rfl
@[simp] theorem State.countStream_power (s : State) (n : Fin 64) (c k : Nat) : (s.countStream n c k).power = s.power := rfl

/-! ## State.countLife -/

@[simp] theorem State.countLife_pending (s : State) (c k : Nat) : (s.countLife c k).pending = s.pending := rfl
@[simp] theorem State.countLife_now (s : State) (c k : Nat) : (s.countLife c k).now = s.now := rfl
@[simp] theorem State.countLife_reply (s : State) (c k : Nat) : (s.countLife c k).reply = s.reply := rfl
@[simp] theorem State.countLife_freeCtr (s : State) (c k : Nat) : (s.countLife c k).freeCtr = s.freeCtr := rfl
@[simp] theorem State.countLife_nextKey (s : State) (c k : Nat) : (s.countLife c k).nextKey = s.nextKey := rfl
@[simp] theorem State.countLife_groupMask (s : State) (c k : Nat) : (s.countLife c k).groupMask = s.groupMask := rfl
@[simp] theorem State.countLife_kindStatus (s : State) (c k : Nat) : (s.countLife c k).kindStatus = s.kindStatus := rfl
@[simp] theorem State.countLife_feCtrl (s : State) (c k : Nat) : (s.countLife c k).feCtrl = s.feCtrl := rfl
@[simp] theorem State.countLife_sideDefA (s : State) (c k : Nat) : (s.countLife c k).sideDefA = s.sideDefA := rfl
@[simp] theorem State.countLife_sideDefB (s : State) (c k : Nat) : (s.countLife c k).sideDefB = s.sideDefB := rfl
@[simp] theorem State.countLife_ports (s : State) (c k : Nat) : (s.countLife c k).ports = s.ports := rfl
@[simp] theorem State.countLife_transports (s : State) (c k : Nat) : (s.countLife c k).transports = s.transports := rfl
@[simp] theorem State.countLife_covers (s : State) (c k : Nat) : (s.countLife c k).covers = s.covers := rfl
@[simp] theorem State.countLife_frames (s : State) (c k : Nat) : (s.countLife c k).frames = s.frames := rfl
@[simp] theorem State.countLife_sides (s : State) (c k : Nat) : (s.countLife c k).sides = s.sides := rfl
@[simp] theorem State.countLife_streamA (s : State) (c k : Nat) : (s.countLife c k).streamA = s.streamA := rfl
@[simp] theorem State.countLife_streamB (s : State) (c k : Nat) : (s.countLife c k).streamB = s.streamB := rfl
@[simp] theorem State.countLife_streams (s : State) (c k : Nat) : (s.countLife c k).streams = s.streams := rfl
@[simp] theorem State.countLife_decoders (s : State) (c k : Nat) : (s.countLife c k).decoders = s.decoders := rfl
@[simp] theorem State.countLife_engines (s : State) (c k : Nat) : (s.countLife c k).engines = s.engines := rfl
@[simp] theorem State.countLife_parts (s : State) (c k : Nat) : (s.countLife c k).parts = s.parts := rfl
@[simp] theorem State.countLife_contexts (s : State) (c k : Nat) : (s.countLife c k).contexts = s.contexts := rfl
@[simp] theorem State.countLife_queue (s : State) (c k : Nat) : (s.countLife c k).queue = s.queue := rfl
@[simp] theorem State.countLife_rebind (s : State) (c k : Nat) : (s.countLife c k).rebind = s.rebind := rfl
@[simp] theorem State.countLife_mem (s : State) (c k : Nat) : (s.countLife c k).mem = s.mem := rfl
@[simp] theorem State.countLife_host (s : State) (c k : Nat) : (s.countLife c k).host = s.host := rfl
@[simp] theorem State.countLife_bridle (s : State) (c k : Nat) : (s.countLife c k).bridle = s.bridle := rfl
@[simp] theorem State.countLife_boot (s : State) (c k : Nat) : (s.countLife c k).boot = s.boot := rfl
@[simp] theorem State.countLife_otp (s : State) (c k : Nat) : (s.countLife c k).otp = s.otp := rfl
@[simp] theorem State.countLife_nor (s : State) (c k : Nat) : (s.countLife c k).nor = s.nor := rfl
@[simp] theorem State.countLife_norMiB (s : State) (c k : Nat) : (s.countLife c k).norMiB = s.norMiB := rfl
@[simp] theorem State.countLife_norOps (s : State) (c k : Nat) : (s.countLife c k).norOps = s.norOps := rfl
@[simp] theorem State.countLife_norBusy (s : State) (c k : Nat) : (s.countLife c k).norBusy = s.norBusy := rfl
@[simp] theorem State.countLife_stud (s : State) (c k : Nat) : (s.countLife c k).stud = s.stud := rfl
@[simp] theorem State.countLife_power (s : State) (c k : Nat) : (s.countLife c k).power = s.power := rfl

/-! ## State.log -/

@[simp] theorem State.log_pending (s : State) (code : Half) (src : Byte) (p : List Byte) : (s.log code src p).pending = s.pending := rfl
@[simp] theorem State.log_now (s : State) (code : Half) (src : Byte) (p : List Byte) : (s.log code src p).now = s.now := rfl
@[simp] theorem State.log_reply (s : State) (code : Half) (src : Byte) (p : List Byte) : (s.log code src p).reply = s.reply := rfl
@[simp] theorem State.log_freeCtr (s : State) (code : Half) (src : Byte) (p : List Byte) : (s.log code src p).freeCtr = s.freeCtr := rfl
@[simp] theorem State.log_nextKey (s : State) (code : Half) (src : Byte) (p : List Byte) : (s.log code src p).nextKey = s.nextKey := rfl
@[simp] theorem State.log_groupMask (s : State) (code : Half) (src : Byte) (p : List Byte) : (s.log code src p).groupMask = s.groupMask := rfl
@[simp] theorem State.log_kindStatus (s : State) (code : Half) (src : Byte) (p : List Byte) : (s.log code src p).kindStatus = s.kindStatus := rfl
@[simp] theorem State.log_feCtrl (s : State) (code : Half) (src : Byte) (p : List Byte) : (s.log code src p).feCtrl = s.feCtrl := rfl
@[simp] theorem State.log_sideDefA (s : State) (code : Half) (src : Byte) (p : List Byte) : (s.log code src p).sideDefA = s.sideDefA := rfl
@[simp] theorem State.log_sideDefB (s : State) (code : Half) (src : Byte) (p : List Byte) : (s.log code src p).sideDefB = s.sideDefB := rfl
@[simp] theorem State.log_ports (s : State) (code : Half) (src : Byte) (p : List Byte) : (s.log code src p).ports = s.ports := rfl
@[simp] theorem State.log_transports (s : State) (code : Half) (src : Byte) (p : List Byte) : (s.log code src p).transports = s.transports := rfl
@[simp] theorem State.log_covers (s : State) (code : Half) (src : Byte) (p : List Byte) : (s.log code src p).covers = s.covers := rfl
@[simp] theorem State.log_frames (s : State) (code : Half) (src : Byte) (p : List Byte) : (s.log code src p).frames = s.frames := rfl
@[simp] theorem State.log_sides (s : State) (code : Half) (src : Byte) (p : List Byte) : (s.log code src p).sides = s.sides := rfl
@[simp] theorem State.log_streamA (s : State) (code : Half) (src : Byte) (p : List Byte) : (s.log code src p).streamA = s.streamA := rfl
@[simp] theorem State.log_streamB (s : State) (code : Half) (src : Byte) (p : List Byte) : (s.log code src p).streamB = s.streamB := rfl
@[simp] theorem State.log_streams (s : State) (code : Half) (src : Byte) (p : List Byte) : (s.log code src p).streams = s.streams := rfl
@[simp] theorem State.log_decoders (s : State) (code : Half) (src : Byte) (p : List Byte) : (s.log code src p).decoders = s.decoders := rfl
@[simp] theorem State.log_engines (s : State) (code : Half) (src : Byte) (p : List Byte) : (s.log code src p).engines = s.engines := rfl
@[simp] theorem State.log_parts (s : State) (code : Half) (src : Byte) (p : List Byte) : (s.log code src p).parts = s.parts := rfl
@[simp] theorem State.log_contexts (s : State) (code : Half) (src : Byte) (p : List Byte) : (s.log code src p).contexts = s.contexts := rfl
@[simp] theorem State.log_queue (s : State) (code : Half) (src : Byte) (p : List Byte) : (s.log code src p).queue = s.queue := rfl
@[simp] theorem State.log_rebind (s : State) (code : Half) (src : Byte) (p : List Byte) : (s.log code src p).rebind = s.rebind := rfl
@[simp] theorem State.log_mem (s : State) (code : Half) (src : Byte) (p : List Byte) : (s.log code src p).mem = s.mem := rfl
@[simp] theorem State.log_host (s : State) (code : Half) (src : Byte) (p : List Byte) : (s.log code src p).host = s.host := rfl
@[simp] theorem State.log_bridle (s : State) (code : Half) (src : Byte) (p : List Byte) : (s.log code src p).bridle = s.bridle := rfl
@[simp] theorem State.log_boot (s : State) (code : Half) (src : Byte) (p : List Byte) : (s.log code src p).boot = s.boot := rfl
@[simp] theorem State.log_otp (s : State) (code : Half) (src : Byte) (p : List Byte) : (s.log code src p).otp = s.otp := rfl
@[simp] theorem State.log_nor (s : State) (code : Half) (src : Byte) (p : List Byte) : (s.log code src p).nor = s.nor := rfl
@[simp] theorem State.log_norMiB (s : State) (code : Half) (src : Byte) (p : List Byte) : (s.log code src p).norMiB = s.norMiB := rfl
@[simp] theorem State.log_norOps (s : State) (code : Half) (src : Byte) (p : List Byte) : (s.log code src p).norOps = s.norOps := rfl
@[simp] theorem State.log_norBusy (s : State) (code : Half) (src : Byte) (p : List Byte) : (s.log code src p).norBusy = s.norBusy := rfl
@[simp] theorem State.log_stud (s : State) (code : Half) (src : Byte) (p : List Byte) : (s.log code src p).stud = s.stud.event s.now code src p := rfl
@[simp] theorem State.log_store (s : State) (code : Half) (src : Byte) (p : List Byte) : (s.log code src p).store = s.store := rfl
@[simp] theorem State.log_power (s : State) (code : Half) (src : Byte) (p : List Byte) : (s.log code src p).power = s.power := rfl

/-! ## Writes to host memory and signalled vectors -/

/-- A write to host memory changes the host interface alone. -/
theorem State.hostWrite_eq (s : State) (a : Nat) (bs : List Byte) :
    s.hostWrite a bs = { s with host := { s.host with mem := (s.hostWrite a bs).host.mem } } := by
  unfold State.hostWrite; split <;> rfl

/-- A signalled vector changes the host interface alone. -/
theorem State.signal_eq (s : State) (v : Fin 32) :
    s.signal v = { s with host := { s.host with mem := (s.signal v).host.mem, pba := (s.signal v).host.pba } } := by
  unfold State.signal; dsimp only; split
  · rfl
  · unfold State.hostWrite; split <;> rfl

@[simp] theorem State.hostWrite_pending (s : State) (a : Nat) (bs : List Byte) : (s.hostWrite a bs).pending = s.pending :=
  (congrArg State.pending (s.hostWrite_eq a bs)).trans rfl
@[simp] theorem State.hostWrite_now (s : State) (a : Nat) (bs : List Byte) : (s.hostWrite a bs).now = s.now :=
  (congrArg State.now (s.hostWrite_eq a bs)).trans rfl
@[simp] theorem State.hostWrite_reply (s : State) (a : Nat) (bs : List Byte) : (s.hostWrite a bs).reply = s.reply :=
  (congrArg State.reply (s.hostWrite_eq a bs)).trans rfl
@[simp] theorem State.hostWrite_freeCtr (s : State) (a : Nat) (bs : List Byte) : (s.hostWrite a bs).freeCtr = s.freeCtr :=
  (congrArg State.freeCtr (s.hostWrite_eq a bs)).trans rfl
@[simp] theorem State.hostWrite_nextKey (s : State) (a : Nat) (bs : List Byte) : (s.hostWrite a bs).nextKey = s.nextKey :=
  (congrArg State.nextKey (s.hostWrite_eq a bs)).trans rfl
@[simp] theorem State.hostWrite_groupMask (s : State) (a : Nat) (bs : List Byte) : (s.hostWrite a bs).groupMask = s.groupMask :=
  (congrArg State.groupMask (s.hostWrite_eq a bs)).trans rfl
@[simp] theorem State.hostWrite_kindStatus (s : State) (a : Nat) (bs : List Byte) : (s.hostWrite a bs).kindStatus = s.kindStatus :=
  (congrArg State.kindStatus (s.hostWrite_eq a bs)).trans rfl
@[simp] theorem State.hostWrite_feCtrl (s : State) (a : Nat) (bs : List Byte) : (s.hostWrite a bs).feCtrl = s.feCtrl :=
  (congrArg State.feCtrl (s.hostWrite_eq a bs)).trans rfl
@[simp] theorem State.hostWrite_sideDefA (s : State) (a : Nat) (bs : List Byte) : (s.hostWrite a bs).sideDefA = s.sideDefA :=
  (congrArg State.sideDefA (s.hostWrite_eq a bs)).trans rfl
@[simp] theorem State.hostWrite_sideDefB (s : State) (a : Nat) (bs : List Byte) : (s.hostWrite a bs).sideDefB = s.sideDefB :=
  (congrArg State.sideDefB (s.hostWrite_eq a bs)).trans rfl
@[simp] theorem State.hostWrite_ports (s : State) (a : Nat) (bs : List Byte) : (s.hostWrite a bs).ports = s.ports :=
  (congrArg State.ports (s.hostWrite_eq a bs)).trans rfl
@[simp] theorem State.hostWrite_transports (s : State) (a : Nat) (bs : List Byte) : (s.hostWrite a bs).transports = s.transports :=
  (congrArg State.transports (s.hostWrite_eq a bs)).trans rfl
@[simp] theorem State.hostWrite_covers (s : State) (a : Nat) (bs : List Byte) : (s.hostWrite a bs).covers = s.covers :=
  (congrArg State.covers (s.hostWrite_eq a bs)).trans rfl
@[simp] theorem State.hostWrite_frames (s : State) (a : Nat) (bs : List Byte) : (s.hostWrite a bs).frames = s.frames :=
  (congrArg State.frames (s.hostWrite_eq a bs)).trans rfl
@[simp] theorem State.hostWrite_sides (s : State) (a : Nat) (bs : List Byte) : (s.hostWrite a bs).sides = s.sides :=
  (congrArg State.sides (s.hostWrite_eq a bs)).trans rfl
@[simp] theorem State.hostWrite_streamA (s : State) (a : Nat) (bs : List Byte) : (s.hostWrite a bs).streamA = s.streamA :=
  (congrArg State.streamA (s.hostWrite_eq a bs)).trans rfl
@[simp] theorem State.hostWrite_streamB (s : State) (a : Nat) (bs : List Byte) : (s.hostWrite a bs).streamB = s.streamB :=
  (congrArg State.streamB (s.hostWrite_eq a bs)).trans rfl
@[simp] theorem State.hostWrite_streams (s : State) (a : Nat) (bs : List Byte) : (s.hostWrite a bs).streams = s.streams :=
  (congrArg State.streams (s.hostWrite_eq a bs)).trans rfl
@[simp] theorem State.hostWrite_decoders (s : State) (a : Nat) (bs : List Byte) : (s.hostWrite a bs).decoders = s.decoders :=
  (congrArg State.decoders (s.hostWrite_eq a bs)).trans rfl
@[simp] theorem State.hostWrite_engines (s : State) (a : Nat) (bs : List Byte) : (s.hostWrite a bs).engines = s.engines :=
  (congrArg State.engines (s.hostWrite_eq a bs)).trans rfl
@[simp] theorem State.hostWrite_parts (s : State) (a : Nat) (bs : List Byte) : (s.hostWrite a bs).parts = s.parts :=
  (congrArg State.parts (s.hostWrite_eq a bs)).trans rfl
@[simp] theorem State.hostWrite_contexts (s : State) (a : Nat) (bs : List Byte) : (s.hostWrite a bs).contexts = s.contexts :=
  (congrArg State.contexts (s.hostWrite_eq a bs)).trans rfl
@[simp] theorem State.hostWrite_queue (s : State) (a : Nat) (bs : List Byte) : (s.hostWrite a bs).queue = s.queue :=
  (congrArg State.queue (s.hostWrite_eq a bs)).trans rfl
@[simp] theorem State.hostWrite_rebind (s : State) (a : Nat) (bs : List Byte) : (s.hostWrite a bs).rebind = s.rebind :=
  (congrArg State.rebind (s.hostWrite_eq a bs)).trans rfl
@[simp] theorem State.hostWrite_mem (s : State) (a : Nat) (bs : List Byte) : (s.hostWrite a bs).mem = s.mem :=
  (congrArg State.mem (s.hostWrite_eq a bs)).trans rfl
@[simp] theorem State.hostWrite_bridle (s : State) (a : Nat) (bs : List Byte) : (s.hostWrite a bs).bridle = s.bridle :=
  (congrArg State.bridle (s.hostWrite_eq a bs)).trans rfl
@[simp] theorem State.hostWrite_boot (s : State) (a : Nat) (bs : List Byte) : (s.hostWrite a bs).boot = s.boot :=
  (congrArg State.boot (s.hostWrite_eq a bs)).trans rfl
@[simp] theorem State.hostWrite_otp (s : State) (a : Nat) (bs : List Byte) : (s.hostWrite a bs).otp = s.otp :=
  (congrArg State.otp (s.hostWrite_eq a bs)).trans rfl
@[simp] theorem State.hostWrite_nor (s : State) (a : Nat) (bs : List Byte) : (s.hostWrite a bs).nor = s.nor :=
  (congrArg State.nor (s.hostWrite_eq a bs)).trans rfl
@[simp] theorem State.hostWrite_norMiB (s : State) (a : Nat) (bs : List Byte) : (s.hostWrite a bs).norMiB = s.norMiB :=
  (congrArg State.norMiB (s.hostWrite_eq a bs)).trans rfl
@[simp] theorem State.hostWrite_norOps (s : State) (a : Nat) (bs : List Byte) : (s.hostWrite a bs).norOps = s.norOps :=
  (congrArg State.norOps (s.hostWrite_eq a bs)).trans rfl
@[simp] theorem State.hostWrite_norBusy (s : State) (a : Nat) (bs : List Byte) : (s.hostWrite a bs).norBusy = s.norBusy :=
  (congrArg State.norBusy (s.hostWrite_eq a bs)).trans rfl
@[simp] theorem State.hostWrite_stud (s : State) (a : Nat) (bs : List Byte) : (s.hostWrite a bs).stud = s.stud :=
  (congrArg State.stud (s.hostWrite_eq a bs)).trans rfl
@[simp] theorem State.hostWrite_store (s : State) (a : Nat) (bs : List Byte) : (s.hostWrite a bs).store = s.store :=
  (congrArg State.store (s.hostWrite_eq a bs)).trans rfl
@[simp] theorem State.hostWrite_power (s : State) (a : Nat) (bs : List Byte) : (s.hostWrite a bs).power = s.power :=
  (congrArg State.power (s.hostWrite_eq a bs)).trans rfl
@[simp] theorem State.signal_pending (s : State) (v : Fin 32) : (s.signal v).pending = s.pending := (congrArg State.pending (s.signal_eq v)).trans rfl
@[simp] theorem State.signal_now (s : State) (v : Fin 32) : (s.signal v).now = s.now := (congrArg State.now (s.signal_eq v)).trans rfl
@[simp] theorem State.signal_reply (s : State) (v : Fin 32) : (s.signal v).reply = s.reply := (congrArg State.reply (s.signal_eq v)).trans rfl
@[simp] theorem State.signal_freeCtr (s : State) (v : Fin 32) : (s.signal v).freeCtr = s.freeCtr := (congrArg State.freeCtr (s.signal_eq v)).trans rfl
@[simp] theorem State.signal_nextKey (s : State) (v : Fin 32) : (s.signal v).nextKey = s.nextKey := (congrArg State.nextKey (s.signal_eq v)).trans rfl
@[simp] theorem State.signal_groupMask (s : State) (v : Fin 32) : (s.signal v).groupMask = s.groupMask := (congrArg State.groupMask (s.signal_eq v)).trans rfl
@[simp] theorem State.signal_kindStatus (s : State) (v : Fin 32) : (s.signal v).kindStatus = s.kindStatus := (congrArg State.kindStatus (s.signal_eq v)).trans rfl
@[simp] theorem State.signal_feCtrl (s : State) (v : Fin 32) : (s.signal v).feCtrl = s.feCtrl := (congrArg State.feCtrl (s.signal_eq v)).trans rfl
@[simp] theorem State.signal_sideDefA (s : State) (v : Fin 32) : (s.signal v).sideDefA = s.sideDefA := (congrArg State.sideDefA (s.signal_eq v)).trans rfl
@[simp] theorem State.signal_sideDefB (s : State) (v : Fin 32) : (s.signal v).sideDefB = s.sideDefB := (congrArg State.sideDefB (s.signal_eq v)).trans rfl
@[simp] theorem State.signal_ports (s : State) (v : Fin 32) : (s.signal v).ports = s.ports := (congrArg State.ports (s.signal_eq v)).trans rfl
@[simp] theorem State.signal_transports (s : State) (v : Fin 32) : (s.signal v).transports = s.transports := (congrArg State.transports (s.signal_eq v)).trans rfl
@[simp] theorem State.signal_covers (s : State) (v : Fin 32) : (s.signal v).covers = s.covers := (congrArg State.covers (s.signal_eq v)).trans rfl
@[simp] theorem State.signal_frames (s : State) (v : Fin 32) : (s.signal v).frames = s.frames := (congrArg State.frames (s.signal_eq v)).trans rfl
@[simp] theorem State.signal_sides (s : State) (v : Fin 32) : (s.signal v).sides = s.sides := (congrArg State.sides (s.signal_eq v)).trans rfl
@[simp] theorem State.signal_streamA (s : State) (v : Fin 32) : (s.signal v).streamA = s.streamA := (congrArg State.streamA (s.signal_eq v)).trans rfl
@[simp] theorem State.signal_streamB (s : State) (v : Fin 32) : (s.signal v).streamB = s.streamB := (congrArg State.streamB (s.signal_eq v)).trans rfl
@[simp] theorem State.signal_streams (s : State) (v : Fin 32) : (s.signal v).streams = s.streams := (congrArg State.streams (s.signal_eq v)).trans rfl
@[simp] theorem State.signal_decoders (s : State) (v : Fin 32) : (s.signal v).decoders = s.decoders := (congrArg State.decoders (s.signal_eq v)).trans rfl
@[simp] theorem State.signal_engines (s : State) (v : Fin 32) : (s.signal v).engines = s.engines := (congrArg State.engines (s.signal_eq v)).trans rfl
@[simp] theorem State.signal_parts (s : State) (v : Fin 32) : (s.signal v).parts = s.parts := (congrArg State.parts (s.signal_eq v)).trans rfl
@[simp] theorem State.signal_contexts (s : State) (v : Fin 32) : (s.signal v).contexts = s.contexts := (congrArg State.contexts (s.signal_eq v)).trans rfl
@[simp] theorem State.signal_queue (s : State) (v : Fin 32) : (s.signal v).queue = s.queue := (congrArg State.queue (s.signal_eq v)).trans rfl
@[simp] theorem State.signal_rebind (s : State) (v : Fin 32) : (s.signal v).rebind = s.rebind := (congrArg State.rebind (s.signal_eq v)).trans rfl
@[simp] theorem State.signal_mem (s : State) (v : Fin 32) : (s.signal v).mem = s.mem := (congrArg State.mem (s.signal_eq v)).trans rfl
@[simp] theorem State.signal_bridle (s : State) (v : Fin 32) : (s.signal v).bridle = s.bridle := (congrArg State.bridle (s.signal_eq v)).trans rfl
@[simp] theorem State.signal_boot (s : State) (v : Fin 32) : (s.signal v).boot = s.boot := (congrArg State.boot (s.signal_eq v)).trans rfl
@[simp] theorem State.signal_otp (s : State) (v : Fin 32) : (s.signal v).otp = s.otp := (congrArg State.otp (s.signal_eq v)).trans rfl
@[simp] theorem State.signal_nor (s : State) (v : Fin 32) : (s.signal v).nor = s.nor := (congrArg State.nor (s.signal_eq v)).trans rfl
@[simp] theorem State.signal_norMiB (s : State) (v : Fin 32) : (s.signal v).norMiB = s.norMiB := (congrArg State.norMiB (s.signal_eq v)).trans rfl
@[simp] theorem State.signal_norOps (s : State) (v : Fin 32) : (s.signal v).norOps = s.norOps := (congrArg State.norOps (s.signal_eq v)).trans rfl
@[simp] theorem State.signal_norBusy (s : State) (v : Fin 32) : (s.signal v).norBusy = s.norBusy := (congrArg State.norBusy (s.signal_eq v)).trans rfl
@[simp] theorem State.signal_stud (s : State) (v : Fin 32) : (s.signal v).stud = s.stud := (congrArg State.stud (s.signal_eq v)).trans rfl
@[simp] theorem State.signal_store (s : State) (v : Fin 32) : (s.signal v).store = s.store := (congrArg State.store (s.signal_eq v)).trans rfl
@[simp] theorem State.signal_power (s : State) (v : Fin 32) : (s.signal v).power = s.power := (congrArg State.power (s.signal_eq v)).trans rfl

/-! ## The host interface under them -/

@[simp] theorem State.hostWrite_host_linkUp (s : State) (a : Nat) (bs : List Byte) : (s.hostWrite a bs).host.linkUp = s.host.linkUp :=
  (congrArg (fun x => x.host.linkUp) (s.hostWrite_eq a bs)).trans rfl
@[simp] theorem State.hostWrite_host_recVer (s : State) (a : Nat) (bs : List Byte) : (s.hostWrite a bs).host.recVer = s.host.recVer :=
  (congrArg (fun x => x.host.recVer) (s.hostWrite_eq a bs)).trans rfl
@[simp] theorem State.hostWrite_host_imageExport (s : State) (a : Nat) (bs : List Byte) : (s.hostWrite a bs).host.imageExport = s.host.imageExport :=
  (congrArg (fun x => x.host.imageExport) (s.hostWrite_eq a bs)).trans rfl
@[simp] theorem State.hostWrite_host_recVersion (s : State) (a : Nat) (bs : List Byte) : (s.hostWrite a bs).host.recVersion = s.host.recVersion :=
  (congrArg (fun x => x.host.recVersion) (s.hostWrite_eq a bs)).trans rfl
@[simp] theorem State.hostWrite_host_pollUs (s : State) (a : Nat) (bs : List Byte) : (s.hostWrite a bs).host.pollUs = s.host.pollUs :=
  (congrArg (fun x => x.host.pollUs) (s.hostWrite_eq a bs)).trans rfl
@[simp] theorem State.hostWrite_host_stallMs (s : State) (a : Nat) (bs : List Byte) : (s.hostWrite a bs).host.stallMs = s.host.stallMs :=
  (congrArg (fun x => x.host.stallMs) (s.hostWrite_eq a bs)).trans rfl
@[simp] theorem State.hostWrite_host_inStopped (s : State) (a : Nat) (bs : List Byte) : (s.hostWrite a bs).host.inStopped = s.host.inStopped :=
  (congrArg (fun x => x.host.inStopped) (s.hostWrite_eq a bs)).trans rfl
@[simp] theorem State.hostWrite_host_verbOverrun (s : State) (a : Nat) (bs : List Byte) : (s.hostWrite a bs).host.verbOverrun = s.host.verbOverrun :=
  (congrArg (fun x => x.host.verbOverrun) (s.hostWrite_eq a bs)).trans rfl
@[simp] theorem State.hostWrite_host_partChanged (s : State) (a : Nat) (bs : List Byte) : (s.hostWrite a bs).host.partChanged = s.host.partChanged :=
  (congrArg (fun x => x.host.partChanged) (s.hostWrite_eq a bs)).trans rfl
@[simp] theorem State.hostWrite_host_spoolHigh (s : State) (a : Nat) (bs : List Byte) : (s.hostWrite a bs).host.spoolHigh = s.host.spoolHigh :=
  (congrArg (fun x => x.host.spoolHigh) (s.hostWrite_eq a bs)).trans rfl
@[simp] theorem State.hostWrite_host_evtNew (s : State) (a : Nat) (bs : List Byte) : (s.hostWrite a bs).host.evtNew = s.host.evtNew :=
  (congrArg (fun x => x.host.evtNew) (s.hostWrite_eq a bs)).trans rfl
@[simp] theorem State.hostWrite_host_inRing (s : State) (a : Nat) (bs : List Byte) : (s.hostWrite a bs).host.inRing = s.host.inRing :=
  (congrArg (fun x => x.host.inRing) (s.hostWrite_eq a bs)).trans rfl
@[simp] theorem State.hostWrite_host_out (s : State) (a : Nat) (bs : List Byte) : (s.hostWrite a bs).host.out = s.host.out :=
  (congrArg (fun x => x.host.out) (s.hostWrite_eq a bs)).trans rfl
@[simp] theorem State.hostWrite_host_spoolUsed (s : State) (a : Nat) (bs : List Byte) : (s.hostWrite a bs).host.spoolUsed = s.host.spoolUsed :=
  (congrArg (fun x => x.host.spoolUsed) (s.hostWrite_eq a bs)).trans rfl
@[simp] theorem State.hostWrite_host_spoolResv (s : State) (a : Nat) (bs : List Byte) : (s.hostWrite a bs).host.spoolResv = s.host.spoolResv :=
  (congrArg (fun x => x.host.spoolResv) (s.hostWrite_eq a bs)).trans rfl
@[simp] theorem State.hostWrite_host_box (s : State) (a : Nat) (bs : List Byte) : (s.hostWrite a bs).host.box = s.host.box :=
  (congrArg (fun x => x.host.box) (s.hostWrite_eq a bs)).trans rfl
@[simp] theorem State.hostWrite_host_evtSelect (s : State) (a : Nat) (bs : List Byte) : (s.hostWrite a bs).host.evtSelect = s.host.evtSelect :=
  (congrArg (fun x => x.host.evtSelect) (s.hostWrite_eq a bs)).trans rfl
@[simp] theorem State.hostWrite_host_evtValid (s : State) (a : Nat) (bs : List Byte) : (s.hostWrite a bs).host.evtValid = s.host.evtValid :=
  (congrArg (fun x => x.host.evtValid) (s.hostWrite_eq a bs)).trans rfl
@[simp] theorem State.hostWrite_host_evtGone (s : State) (a : Nat) (bs : List Byte) : (s.hostWrite a bs).host.evtGone = s.host.evtGone :=
  (congrArg (fun x => x.host.evtGone) (s.hostWrite_eq a bs)).trans rfl
@[simp] theorem State.hostWrite_host_evtData (s : State) (a : Nat) (bs : List Byte) : (s.hostWrite a bs).host.evtData = s.host.evtData :=
  (congrArg (fun x => x.host.evtData) (s.hostWrite_eq a bs)).trans rfl
@[simp] theorem State.hostWrite_host_msix (s : State) (a : Nat) (bs : List Byte) : (s.hostWrite a bs).host.msix = s.host.msix :=
  (congrArg (fun x => x.host.msix) (s.hostWrite_eq a bs)).trans rfl
@[simp] theorem State.hostWrite_host_pba (s : State) (a : Nat) (bs : List Byte) : (s.hostWrite a bs).host.pba = s.host.pba :=
  (congrArg (fun x => x.host.pba) (s.hostWrite_eq a bs)).trans rfl
@[simp] theorem State.hostWrite_host_evtSignalAt (s : State) (a : Nat) (bs : List Byte) : (s.hostWrite a bs).host.evtSignalAt = s.host.evtSignalAt :=
  (congrArg (fun x => x.host.evtSignalAt) (s.hostWrite_eq a bs)).trans rfl
@[simp] theorem State.hostWrite_host_chip (s : State) (a : Nat) (bs : List Byte) : (s.hostWrite a bs).host.chip = s.host.chip :=
  (congrArg (fun x => x.host.chip) (s.hostWrite_eq a bs)).trans rfl
@[simp] theorem State.signal_host_linkUp (s : State) (v : Fin 32) : (s.signal v).host.linkUp = s.host.linkUp :=
  (congrArg (fun x => x.host.linkUp) (s.signal_eq v)).trans rfl
@[simp] theorem State.signal_host_recVer (s : State) (v : Fin 32) : (s.signal v).host.recVer = s.host.recVer :=
  (congrArg (fun x => x.host.recVer) (s.signal_eq v)).trans rfl
@[simp] theorem State.signal_host_imageExport (s : State) (v : Fin 32) : (s.signal v).host.imageExport = s.host.imageExport :=
  (congrArg (fun x => x.host.imageExport) (s.signal_eq v)).trans rfl
@[simp] theorem State.signal_host_recVersion (s : State) (v : Fin 32) : (s.signal v).host.recVersion = s.host.recVersion :=
  (congrArg (fun x => x.host.recVersion) (s.signal_eq v)).trans rfl
@[simp] theorem State.signal_host_pollUs (s : State) (v : Fin 32) : (s.signal v).host.pollUs = s.host.pollUs :=
  (congrArg (fun x => x.host.pollUs) (s.signal_eq v)).trans rfl
@[simp] theorem State.signal_host_stallMs (s : State) (v : Fin 32) : (s.signal v).host.stallMs = s.host.stallMs :=
  (congrArg (fun x => x.host.stallMs) (s.signal_eq v)).trans rfl
@[simp] theorem State.signal_host_inStopped (s : State) (v : Fin 32) : (s.signal v).host.inStopped = s.host.inStopped :=
  (congrArg (fun x => x.host.inStopped) (s.signal_eq v)).trans rfl
@[simp] theorem State.signal_host_verbOverrun (s : State) (v : Fin 32) : (s.signal v).host.verbOverrun = s.host.verbOverrun :=
  (congrArg (fun x => x.host.verbOverrun) (s.signal_eq v)).trans rfl
@[simp] theorem State.signal_host_partChanged (s : State) (v : Fin 32) : (s.signal v).host.partChanged = s.host.partChanged :=
  (congrArg (fun x => x.host.partChanged) (s.signal_eq v)).trans rfl
@[simp] theorem State.signal_host_spoolHigh (s : State) (v : Fin 32) : (s.signal v).host.spoolHigh = s.host.spoolHigh :=
  (congrArg (fun x => x.host.spoolHigh) (s.signal_eq v)).trans rfl
@[simp] theorem State.signal_host_evtNew (s : State) (v : Fin 32) : (s.signal v).host.evtNew = s.host.evtNew :=
  (congrArg (fun x => x.host.evtNew) (s.signal_eq v)).trans rfl
@[simp] theorem State.signal_host_inRing (s : State) (v : Fin 32) : (s.signal v).host.inRing = s.host.inRing :=
  (congrArg (fun x => x.host.inRing) (s.signal_eq v)).trans rfl
@[simp] theorem State.signal_host_out (s : State) (v : Fin 32) : (s.signal v).host.out = s.host.out :=
  (congrArg (fun x => x.host.out) (s.signal_eq v)).trans rfl
@[simp] theorem State.signal_host_spoolUsed (s : State) (v : Fin 32) : (s.signal v).host.spoolUsed = s.host.spoolUsed :=
  (congrArg (fun x => x.host.spoolUsed) (s.signal_eq v)).trans rfl
@[simp] theorem State.signal_host_spoolResv (s : State) (v : Fin 32) : (s.signal v).host.spoolResv = s.host.spoolResv :=
  (congrArg (fun x => x.host.spoolResv) (s.signal_eq v)).trans rfl
@[simp] theorem State.signal_host_box (s : State) (v : Fin 32) : (s.signal v).host.box = s.host.box :=
  (congrArg (fun x => x.host.box) (s.signal_eq v)).trans rfl
@[simp] theorem State.signal_host_evtSelect (s : State) (v : Fin 32) : (s.signal v).host.evtSelect = s.host.evtSelect :=
  (congrArg (fun x => x.host.evtSelect) (s.signal_eq v)).trans rfl
@[simp] theorem State.signal_host_evtValid (s : State) (v : Fin 32) : (s.signal v).host.evtValid = s.host.evtValid :=
  (congrArg (fun x => x.host.evtValid) (s.signal_eq v)).trans rfl
@[simp] theorem State.signal_host_evtGone (s : State) (v : Fin 32) : (s.signal v).host.evtGone = s.host.evtGone :=
  (congrArg (fun x => x.host.evtGone) (s.signal_eq v)).trans rfl
@[simp] theorem State.signal_host_evtData (s : State) (v : Fin 32) : (s.signal v).host.evtData = s.host.evtData :=
  (congrArg (fun x => x.host.evtData) (s.signal_eq v)).trans rfl
@[simp] theorem State.signal_host_msix (s : State) (v : Fin 32) : (s.signal v).host.msix = s.host.msix :=
  (congrArg (fun x => x.host.msix) (s.signal_eq v)).trans rfl
@[simp] theorem State.signal_host_evtSignalAt (s : State) (v : Fin 32) : (s.signal v).host.evtSignalAt = s.host.evtSignalAt :=
  (congrArg (fun x => x.host.evtSignalAt) (s.signal_eq v)).trans rfl
@[simp] theorem State.signal_host_chip (s : State) (v : Fin 32) : (s.signal v).host.chip = s.host.chip :=
  (congrArg (fun x => x.host.chip) (s.signal_eq v)).trans rfl

/-! ## Vectors -/

/-- The element that `vmod` replaces. -/
@[simp] theorem vmod_same {α : Type} {n : Nat} (v : Vector α n) (i : Fin n) (f : α → α) :
    (vmod v i f)[i.val] = f v[i.val] := by simp [vmod]

/-- What `vmod` leaves at each index. -/
theorem vmod_get {α : Type} {n : Nat} (v : Vector α n) (i j : Fin n) (f : α → α) :
    (vmod v i f)[j.val] = if i = j then f v[i.val] else v[j.val] := by
  by_cases h : i = j
  · subst h; simp
  · have h' : i.val ≠ j.val := fun e => h (Fin.ext e)
    simp [vmod, h, h']

end Sys2Proof.Machine
end

