-- ==== Sys2Proof/Laws/Commit.lean ====
section
/-!
SUPPORT. What the end of every command (commit) changes: nothing but the interrupt-style fields of the host interface, and what
it guarantees of them.
-/
namespace Sys2Proof.Machine

/-- What a signalled vector leaves as it was. -/
theorem signal_host_quiet (s : State) (v : Fin 32) : (s.signal v).host.quiet = s.host.quiet := by
  rw [State.signal_eq]; rfl

/-- A state that differs from another in its host interface alone, and there only in what the end of a command may change. -/
def NearState (a b : State) : Prop := a = { b with host := a.host } ∧ a.host.quiet = b.host.quiet

theorem NearState.refl (a : State) : NearState a a := ⟨rfl, rfl⟩

theorem NearState.trans {a b c : State} (h : NearState a b) (k : NearState b c) : NearState a c := by
  obtain ⟨h1, h2⟩ := h
  obtain ⟨k1, k2⟩ := k
  refine ⟨?_, h2.trans k2⟩
  rw [k1] at h1
  exact h1

theorem NearState.signal (s : State) (v : Fin 32) : NearState (s.signal v) s :=
  ⟨by
    have h := State.signal_eq s v
    rw [h], signal_host_quiet s v⟩

theorem NearState.flagParts (s : State) (c : Bool) : NearState (s.flagParts c) s := by
  unfold State.flagParts; split
  · exact ⟨rfl, rfl⟩
  · exact NearState.refl s

theorem NearState.strikeWaiters (s : State) : NearState s.strikeWaiters s := ⟨rfl, rfl⟩

theorem NearState.signalDev (s o : State) (c : Bool) : NearState (s.signalDev o c) s := by
  unfold State.signalDev; split
  · exact NearState.signal s 1
  · exact NearState.refl s

theorem NearState.signalEvent (s : State) : NearState s.signalEvent s := by
  unfold State.signalEvent; extract_lets due; split
  · exact (NearState.signal _ 2).trans ⟨rfl, rfl⟩
  · exact NearState.refl s

theorem NearState.flagEvents (s : State) (c : Bool) : NearState (s.flagEvents c) s := by
  unfold State.flagEvents; split
  · exact (NearState.signalEvent _).trans ⟨rfl, rfl⟩
  · exact NearState.refl s

/-- The end of a command leaves a state near the one the command gives. -/
theorem commit_near (o n : State) : NearState (commit o n) n := by
  unfold commit
  dsimp only
  refine (NearState.flagEvents _ _).trans ((NearState.signalDev _ _ _).trans ((NearState.strikeWaiters _).trans
    (NearState.flagParts _ _)))

@[simp] theorem commit_pending (o n : State) : (commit o n).pending = n.pending :=
  (congrArg State.pending (commit_near o n).1).trans rfl
@[simp] theorem commit_now (o n : State) : (commit o n).now = n.now :=
  (congrArg State.now (commit_near o n).1).trans rfl
@[simp] theorem commit_reply (o n : State) : (commit o n).reply = n.reply :=
  (congrArg State.reply (commit_near o n).1).trans rfl
@[simp] theorem commit_freeCtr (o n : State) : (commit o n).freeCtr = n.freeCtr :=
  (congrArg State.freeCtr (commit_near o n).1).trans rfl
@[simp] theorem commit_nextKey (o n : State) : (commit o n).nextKey = n.nextKey :=
  (congrArg State.nextKey (commit_near o n).1).trans rfl
@[simp] theorem commit_groupMask (o n : State) : (commit o n).groupMask = n.groupMask :=
  (congrArg State.groupMask (commit_near o n).1).trans rfl
@[simp] theorem commit_kindStatus (o n : State) : (commit o n).kindStatus = n.kindStatus :=
  (congrArg State.kindStatus (commit_near o n).1).trans rfl
@[simp] theorem commit_feCtrl (o n : State) : (commit o n).feCtrl = n.feCtrl :=
  (congrArg State.feCtrl (commit_near o n).1).trans rfl
@[simp] theorem commit_sideDefA (o n : State) : (commit o n).sideDefA = n.sideDefA :=
  (congrArg State.sideDefA (commit_near o n).1).trans rfl
@[simp] theorem commit_sideDefB (o n : State) : (commit o n).sideDefB = n.sideDefB :=
  (congrArg State.sideDefB (commit_near o n).1).trans rfl
@[simp] theorem commit_ports (o n : State) : (commit o n).ports = n.ports :=
  (congrArg State.ports (commit_near o n).1).trans rfl
@[simp] theorem commit_transports (o n : State) : (commit o n).transports = n.transports :=
  (congrArg State.transports (commit_near o n).1).trans rfl
@[simp] theorem commit_covers (o n : State) : (commit o n).covers = n.covers :=
  (congrArg State.covers (commit_near o n).1).trans rfl
@[simp] theorem commit_frames (o n : State) : (commit o n).frames = n.frames :=
  (congrArg State.frames (commit_near o n).1).trans rfl
@[simp] theorem commit_sides (o n : State) : (commit o n).sides = n.sides :=
  (congrArg State.sides (commit_near o n).1).trans rfl
@[simp] theorem commit_streamA (o n : State) : (commit o n).streamA = n.streamA :=
  (congrArg State.streamA (commit_near o n).1).trans rfl
@[simp] theorem commit_streamB (o n : State) : (commit o n).streamB = n.streamB :=
  (congrArg State.streamB (commit_near o n).1).trans rfl
@[simp] theorem commit_streams (o n : State) : (commit o n).streams = n.streams :=
  (congrArg State.streams (commit_near o n).1).trans rfl
@[simp] theorem commit_decoders (o n : State) : (commit o n).decoders = n.decoders :=
  (congrArg State.decoders (commit_near o n).1).trans rfl
@[simp] theorem commit_engines (o n : State) : (commit o n).engines = n.engines :=
  (congrArg State.engines (commit_near o n).1).trans rfl
@[simp] theorem commit_parts (o n : State) : (commit o n).parts = n.parts :=
  (congrArg State.parts (commit_near o n).1).trans rfl
@[simp] theorem commit_contexts (o n : State) : (commit o n).contexts = n.contexts :=
  (congrArg State.contexts (commit_near o n).1).trans rfl
@[simp] theorem commit_queue (o n : State) : (commit o n).queue = n.queue :=
  (congrArg State.queue (commit_near o n).1).trans rfl
@[simp] theorem commit_rebind (o n : State) : (commit o n).rebind = n.rebind :=
  (congrArg State.rebind (commit_near o n).1).trans rfl
@[simp] theorem commit_mem (o n : State) : (commit o n).mem = n.mem :=
  (congrArg State.mem (commit_near o n).1).trans rfl
@[simp] theorem commit_bridle (o n : State) : (commit o n).bridle = n.bridle :=
  (congrArg State.bridle (commit_near o n).1).trans rfl
@[simp] theorem commit_boot (o n : State) : (commit o n).boot = n.boot :=
  (congrArg State.boot (commit_near o n).1).trans rfl
@[simp] theorem commit_otp (o n : State) : (commit o n).otp = n.otp :=
  (congrArg State.otp (commit_near o n).1).trans rfl
@[simp] theorem commit_nor (o n : State) : (commit o n).nor = n.nor :=
  (congrArg State.nor (commit_near o n).1).trans rfl
@[simp] theorem commit_norMiB (o n : State) : (commit o n).norMiB = n.norMiB :=
  (congrArg State.norMiB (commit_near o n).1).trans rfl
@[simp] theorem commit_norOps (o n : State) : (commit o n).norOps = n.norOps :=
  (congrArg State.norOps (commit_near o n).1).trans rfl
@[simp] theorem commit_norBusy (o n : State) : (commit o n).norBusy = n.norBusy :=
  (congrArg State.norBusy (commit_near o n).1).trans rfl
@[simp] theorem commit_stud (o n : State) : (commit o n).stud = n.stud :=
  (congrArg State.stud (commit_near o n).1).trans rfl
@[simp] theorem commit_store (o n : State) : (commit o n).store = n.store :=
  (congrArg State.store (commit_near o n).1).trans rfl
@[simp] theorem commit_power (o n : State) : (commit o n).power = n.power :=
  (congrArg State.power (commit_near o n).1).trans rfl
@[simp] theorem commit_host_linkUp (o n : State) : (commit o n).host.linkUp = n.host.linkUp :=
  (congrArg HostIf.linkUp (commit_near o n).2 :)
@[simp] theorem commit_host_recVer (o n : State) : (commit o n).host.recVer = n.host.recVer :=
  (congrArg HostIf.recVer (commit_near o n).2 :)
@[simp] theorem commit_host_imageExport (o n : State) : (commit o n).host.imageExport = n.host.imageExport :=
  (congrArg HostIf.imageExport (commit_near o n).2 :)
@[simp] theorem commit_host_recVersion (o n : State) : (commit o n).host.recVersion = n.host.recVersion :=
  (congrArg HostIf.recVersion (commit_near o n).2 :)
@[simp] theorem commit_host_pollUs (o n : State) : (commit o n).host.pollUs = n.host.pollUs :=
  (congrArg HostIf.pollUs (commit_near o n).2 :)
@[simp] theorem commit_host_stallMs (o n : State) : (commit o n).host.stallMs = n.host.stallMs :=
  (congrArg HostIf.stallMs (commit_near o n).2 :)
@[simp] theorem commit_host_inStopped (o n : State) : (commit o n).host.inStopped = n.host.inStopped :=
  (congrArg HostIf.inStopped (commit_near o n).2 :)
@[simp] theorem commit_host_verbOverrun (o n : State) : (commit o n).host.verbOverrun = n.host.verbOverrun :=
  (congrArg HostIf.verbOverrun (commit_near o n).2 :)
@[simp] theorem commit_host_spoolHigh (o n : State) : (commit o n).host.spoolHigh = n.host.spoolHigh :=
  (congrArg HostIf.spoolHigh (commit_near o n).2 :)
@[simp] theorem commit_host_inRing (o n : State) : (commit o n).host.inRing = n.host.inRing :=
  (congrArg HostIf.inRing (commit_near o n).2 :)
@[simp] theorem commit_host_out (o n : State) : (commit o n).host.out = n.host.out :=
  (congrArg HostIf.out (commit_near o n).2 :)
@[simp] theorem commit_host_spoolUsed (o n : State) : (commit o n).host.spoolUsed = n.host.spoolUsed :=
  (congrArg HostIf.spoolUsed (commit_near o n).2 :)
@[simp] theorem commit_host_spoolResv (o n : State) : (commit o n).host.spoolResv = n.host.spoolResv :=
  (congrArg HostIf.spoolResv (commit_near o n).2 :)
@[simp] theorem commit_host_evtSelect (o n : State) : (commit o n).host.evtSelect = n.host.evtSelect :=
  (congrArg HostIf.evtSelect (commit_near o n).2 :)
@[simp] theorem commit_host_evtValid (o n : State) : (commit o n).host.evtValid = n.host.evtValid :=
  (congrArg HostIf.evtValid (commit_near o n).2 :)
@[simp] theorem commit_host_evtGone (o n : State) : (commit o n).host.evtGone = n.host.evtGone :=
  (congrArg HostIf.evtGone (commit_near o n).2 :)
@[simp] theorem commit_host_evtData (o n : State) : (commit o n).host.evtData = n.host.evtData :=
  (congrArg HostIf.evtData (commit_near o n).2 :)
@[simp] theorem commit_host_msix (o n : State) : (commit o n).host.msix = n.host.msix :=
  (congrArg HostIf.msix (commit_near o n).2 :)
@[simp] theorem commit_host_chip (o n : State) : (commit o n).host.chip = n.host.chip :=
  (congrArg HostIf.chip (commit_near o n).2 :)
@[simp] theorem commit_box_arg (o n : State) : (commit o n).host.box.arg = n.host.box.arg :=
  (congrArg (fun h => h.box.arg) (commit_near o n).2 :)
@[simp] theorem commit_box_busy (o n : State) : (commit o n).host.box.busy = n.host.box.busy :=
  (congrArg (fun h => h.box.busy) (commit_near o n).2 :)
@[simp] theorem commit_box_done (o n : State) : (commit o n).host.box.done = n.host.box.done :=
  (congrArg (fun h => h.box.done) (commit_near o n).2 :)
@[simp] theorem commit_box_result (o n : State) : (commit o n).host.box.result = n.host.box.result :=
  (congrArg (fun h => h.box.result) (commit_near o n).2 :)
@[simp] theorem commit_box_seq (o n : State) : (commit o n).host.box.seq = n.host.box.seq :=
  (congrArg (fun h => h.box.seq) (commit_near o n).2 :)
@[simp] theorem commit_box_value (o n : State) : (commit o n).host.box.value = n.host.box.value :=
  (congrArg (fun h => h.box.value) (commit_near o n).2 :)
@[simp] theorem commit_box_verb (o n : State) : (commit o n).host.box.verb = n.host.box.verb :=
  (congrArg (fun h => h.box.verb) (commit_near o n).2 :)
@[simp] theorem commit_box_overlayWait (o n : State) : (commit o n).host.box.overlayWait = n.host.box.overlayWait :=
  (congrArg (fun h => h.box.overlayWait) (commit_near o n).2 :)
@[simp] theorem commit_box_outcome (o n : State) : (commit o n).host.box.outcome = n.host.box.outcome :=
  (congrArg (fun h => h.box.outcome) (commit_near o n).2 :)
@[simp] theorem commit_box_silent (o n : State) : (commit o n).host.box.silent = n.host.box.silent :=
  (congrArg (fun h => h.box.silent) (commit_near o n).2 :)

/-- What the end of a command may change is what `quiet` blanks. -/
@[simp] theorem commit_quiet (o n : State) : (commit o n).quiet = n.quiet := by
  have h := commit_near o n
  rw [State.quiet, h.2, h.1]
  rfl

end Sys2Proof.Machine
end

