-- ==== Sys2Proof/Laws/Dispatch.lean ====
section
/-!
SUPPORT. What every command and every step can answer: a next state and nothing else, which is the end of a command (commit) on
the state before it, the four full resets apart.
-/
namespace Sys2Proof.Machine

/-- Whether a command is a full reset (R455, R460, R467). -/
def isFullReset : Instr → Bool
  | .resetNAssert _ | .supplyReset _ | .pllUnlock _ | .thermtrip _ _ => true
  | _ => false

/-- Every command but a full reset ends against the state it began on. -/
theorem exec_done (c : Instr) (s : State) (h : isFullReset c = false) : ∃ n, exec c s = done s n := by
  cases c <;> first | exact absurd h Bool.noConfusion | exact ⟨_, rfl⟩

/-- Every command ends. -/
theorem exec_ends (c : Instr) (s : State) : ∃ o n, exec c s = .next (commit o n) := by
  cases c <;> exact ⟨_, _, rfl⟩

/-- Every command answers a next state: no meaning stops. -/
theorem exec_next (c : Instr) (s : State) : ∃ t, exec c s = .next t := by
  obtain ⟨o, n, h⟩ := exec_ends c s
  exact ⟨_, h⟩

/-- Every step answers a next state. -/
theorem step_next (s : State) : ∃ t, step s = .next t := by
  unfold step
  split
  · exact ⟨_, rfl⟩
  · exact exec_next _ _

end Sys2Proof.Machine
end

