-- ==== Sys2Proof/Laws/Memory.lean ====
section
/-!
SUPPORT. Main memory, the arena, the paddocks, NOR and host memory: every operation that writes a store keeps its canonical
form, the state after reset has it, and a write to main memory touches nothing but memory.
-/
namespace Sys2Proof.Machine

/-! ## Vectors -/

/-- A map that does not see a change is the map before it. -/
theorem vmod_map {α β : Type} {n : Nat} (v : Vector α n) (i : Fin n) (f : α → α) (g : α → β) (h : ∀ x, g (f x) = g x) :
    (vmod v i f).map g = v.map g := by
  apply Vector.ext
  intro k hk
  simp only [Vector.getElem_map, vmod]
  rw [Vector.getElem_set]
  split
  · subst_vars; exact h _
  · rfl

/-! ## The canonical form (wf) through each operation of main memory -/

/-- Canonical memory depends on the two cell lists alone. -/
theorem Memory.wf_congr {m n : Memory} (h : m.cells = n.cells) (k : m.arena = n.arena) : m.wf = n.wf := by
  unfold Memory.wf; rw [h, k]

@[simp] theorem Memory.setValid_cells (m : Memory) (a : Nat) : (m.setValid a).cells = m.cells := by
  unfold Memory.setValid; split <;> rfl
@[simp] theorem Memory.setValid_arena (m : Memory) (a : Nat) : (m.setValid a).arena = m.arena := by
  unfold Memory.setValid; split <;> rfl
@[simp] theorem Memory.setValid_channels (m : Memory) (a : Nat) : (m.setValid a).channels = m.channels := by
  unfold Memory.setValid; split <;> rfl
@[simp] theorem Memory.clearCheck_cells (m : Memory) (a : Nat) : (m.clearCheck a).cells = m.cells := rfl
@[simp] theorem Memory.clearCheck_arena (m : Memory) (a : Nat) : (m.clearCheck a).arena = m.arena := rfl
@[simp] theorem Memory.poison_cells (m : Memory) (a : Nat) : (m.poison a).cells = m.cells := rfl
@[simp] theorem Memory.poison_arena (m : Memory) (a : Nat) : (m.poison a).arena = m.arena := rfl
@[simp] theorem Memory.put_arena (m : Memory) (a : Nat) (bs : List Byte) : (m.put a bs).arena = m.arena := by
  simp [Memory.put]
@[simp] theorem Memory.put_cells (m : Memory) (a : Nat) (bs : List Byte) : (m.put a bs).cells = cellsWrite 0 m.cells a bs := by
  simp [Memory.put]

/-- A byte after bytes are placed. -/
theorem Memory.put_byte (m : Memory) (a : Nat) (bs : List Byte) (x : Nat) :
    (m.put a bs).byte x = if a ≤ x ∧ x < a + bs.length then bs.getD (x - a) 0 else m.byte x := by
  unfold Memory.byte; rw [Memory.put_cells, cellsRead_write]

/-- Bytes placed keep the canonical form. -/
theorem Memory.put_wf (m : Memory) (a : Nat) (bs : List Byte) (h : m.wf = true) : (m.put a bs).wf = true := by
  unfold Memory.wf at *
  simp only [Bool.and_eq_true, Memory.put_cells, Memory.put_arena] at *
  exact ⟨cellsOk_write 0 _ _ _ h.1, h.2⟩

/-- Nothing but data, valid bits and check words changes where bytes are placed. -/
theorem Memory.put_bare (m : Memory) (a : Nat) (bs : List Byte) : (m.put a bs).bare = m.bare := by
  unfold Memory.put Memory.clearCheck Memory.setValid Memory.bare
  dsimp only
  split <;> rfl

/-! ## Reads and writes of main memory by the chip -/

/-- Counting on a channel changes its counters alone. -/
theorem countChannel_eq (s : State) (c : Fin 12) (i k : Nat) :
    s.countChannel c i k = { s with mem := { s.mem with channels := (s.countChannel c i k).mem.channels } } := rfl

theorem countChannel_bare (s : State) (c : Fin 12) (i k : Nat) : (s.countChannel c i k).mem.bare = s.mem.bare := by
  unfold State.countChannel State.onChannel Memory.bare
  dsimp only
  congr 1
  exact vmod_map _ _ _ _ fun _ => rfl

/-- What a state differs from another in, when only memory was touched, and there only what a read touches. -/
def OnlyMem (s u : State) : Prop := u = { s with mem := u.mem } ∧ u.mem.bare = s.mem.bare

/-- What a state differs from another in, when only counters and check caches of memory were touched. -/
def OnlyNoted (s u : State) : Prop :=
  OnlyMem s u ∧ u.mem.cells = s.mem.cells ∧ u.mem.valid = s.mem.valid ∧ u.mem.checks = s.mem.checks

/-- What a state differs from another in, when lines of memory were read: the counters and check caches of memory, and a check line
found corrupt, which is counted and written again. -/
def OnlyRead (s u : State) : Prop :=
  u.unread = s.unread ∧ u.mem.cells = s.mem.cells ∧ u.mem.valid = s.mem.valid ∧ u.mem.checks = s.mem.checks

theorem OnlyMem.refl (s : State) : OnlyMem s s := ⟨rfl, rfl⟩
theorem OnlyMem.trans {a b c : State} (h : OnlyMem a b) (k : OnlyMem b c) : OnlyMem a c :=
  ⟨by rw [k.1, h.1], k.2.trans h.2⟩
theorem OnlyNoted.refl (s : State) : OnlyNoted s s := ⟨OnlyMem.refl s, rfl, rfl, rfl⟩
theorem OnlyNoted.trans {a b c : State} (h : OnlyNoted a b) (k : OnlyNoted b c) : OnlyNoted a c :=
  ⟨h.1.trans k.1, k.2.1.trans h.2.1, k.2.2.1.trans h.2.2.1, k.2.2.2.trans h.2.2.2⟩

theorem OnlyRead.refl (s : State) : OnlyRead s s := ⟨rfl, rfl, rfl, rfl⟩
theorem OnlyRead.trans {a b c : State} (h : OnlyRead a b) (k : OnlyRead b c) : OnlyRead a c :=
  ⟨k.1.trans h.1, k.2.1.trans h.2.1, k.2.2.1.trans h.2.2.1, k.2.2.2.trans h.2.2.2⟩
theorem OnlyNoted.read {s u : State} (h : OnlyNoted s u) : OnlyRead s u := by
  obtain ⟨⟨h1, h2⟩, h3⟩ := h
  refine ⟨?_, h3⟩
  unfold State.unread
  rw [h2, h1]

theorem onlyNoted_countChannel (s : State) (c : Fin 12) (i k : Nat) : OnlyNoted s (s.countChannel c i k) :=
  ⟨⟨rfl, countChannel_bare s c i k⟩, rfl, rfl, rfl⟩

/-- A check line that is wanted changes the counters and the check cache alone. -/
theorem onlyNoted_touchCheck (s : State) (a : Nat) : OnlyNoted s (s.touchCheck a) := by
  unfold State.touchCheck
  split
  · exact OnlyNoted.refl s
  · dsimp only
    refine OnlyNoted.trans (b := if s.mem.channels[(s.mem.place a).channel].cache.contains (s.mem.place a).checkLine then s
      else s.countChannel (s.mem.place a).channel Chan.cacheMisses 1) ?_ ⟨⟨rfl, ?_⟩, rfl, rfl, rfl⟩
    · split
      · exact OnlyNoted.refl s
      · exact onlyNoted_countChannel _ _ _ _
    · unfold State.onChannel Memory.bare
      dsimp only
      congr 1
      exact vmod_map _ _ _ _ fun _ => rfl

/-- A check line read is counted and written again where it is corrupt. -/
theorem onlyRead_readCheck (s : State) (a : Nat) : OnlyRead s (s.readCheck a) := by
  unfold State.readCheck
  dsimp only
  split
  · refine ⟨?_, rfl, rfl, rfl⟩
    unfold State.unread State.countChip bumpAt
    simp only [Memory.rewritten, Memory.bare]
    congr 1
    congr 1
    rw [dif_pos (show Chip.sramFailures < 32 by decide)]
    apply Vector.ext
    intro k hk
    simp only [Vector.getElem_set]
    split <;> rfl
  · exact OnlyRead.refl s

/-- A line read changes the counters and the check cache alone, and a corrupt check line. -/
theorem onlyRead_noteRead (s : State) (a : Nat) : OnlyRead s (s.noteRead a) := by
  unfold State.noteRead
  split
  · have h := (onlyNoted_touchCheck s a).read.trans (onlyRead_readCheck _ a)
    dsimp only
    split
    · exact h.trans (onlyNoted_countChannel _ _ _ _).read
    · exact h
  · exact OnlyRead.refl s

/-- Lines read change the counters and the check caches alone, and corrupt check lines. -/
theorem onlyRead_readLines (s : State) (lines : List Nat) : OnlyRead s (s.readLines lines).1 := by
  unfold State.readLines
  induction lines generalizing s with
  | nil => exact OnlyRead.refl s
  | cons a rest ih => exact (onlyRead_noteRead s a).trans (ih _)

/-- Bytes placed by one write of a line, in the state after its counts. -/
theorem onlyMem_put (s : State) (a : Nat) (bs : List Byte) : OnlyMem s { s with mem := s.mem.put a bs } :=
  ⟨rfl, Memory.put_bare s.mem a bs⟩

/-- Everything a write within one line can do: it changes memory alone; written, the bytes stand there and every other byte
is as it was; refused, every byte is. -/
theorem writeLine_spec (s : State) (a : Nat) (bs : List Byte) :
    OnlyMem s (s.writeLine a bs).1
    ∧ ((s.writeLine a bs).2 = true → (s.writeLine a bs).1.mem.cells = cellsWrite 0 s.mem.cells a bs ∨ bs = [])
    ∧ (((s.writeLine a bs).2 = false ∨ bs = []) → (s.writeLine a bs).1.mem.cells = s.mem.cells)
    ∧ (s.writeLine a bs).1.mem.arena = s.mem.arena := by
  have touched (x : State) (hx : OnlyNoted s x) :
      let r := ({ x with mem := x.mem.put a bs } : State).touchCheck (lineOf a)
      OnlyMem s r ∧ r.mem.cells = cellsWrite 0 s.mem.cells a bs ∧ r.mem.arena = s.mem.arena := by
    have k := onlyNoted_touchCheck ({ x with mem := x.mem.put a bs } : State) (lineOf a)
    refine ⟨hx.1.trans ((onlyMem_put x a bs).trans k.1), ?_, ?_⟩
    · rw [k.2.1]; simp [hx.2.1]
    · have h1 := congrArg Memory.arena k.1.2
      have h2 := congrArg Memory.arena hx.1.2
      simp only [Memory.bare, Memory.put_arena] at h1 h2
      rw [h1, h2]
  unfold State.writeLine
  dsimp only
  split
  · rename_i h
    simp only [List.isEmpty_iff] at h
    exact ⟨OnlyMem.refl s, fun _ => .inr h, fun _ => rfl, rfl⟩
  · rename_i hne
    simp only [List.isEmpty_iff] at hne
    split
    · have := touched _ (onlyNoted_countChannel s (s.mem.place (lineOf a)).channel Chan.frameFills 1)
      exact ⟨this.1, fun _ => .inl this.2.1, fun h => by simp [hne] at h, this.2.2⟩
    · split
      · have := touched _ (OnlyNoted.refl s)
        exact ⟨this.1, fun _ => .inl this.2.1, fun h => by simp [hne] at h, this.2.2⟩
      · split
        · dsimp only
          refine ⟨?_, fun h => (by cases h), fun _ => ?_, ?_⟩ <;> split
          · exact (onlyNoted_countChannel _ _ _ _).1
          · exact OnlyMem.refl s
          · rfl
          · rfl
          · rfl
          · rfl
        · have := touched _ (onlyNoted_countChannel s (s.mem.place (lineOf a)).channel Chan.merges 1)
          exact ⟨this.1, fun _ => .inl this.2.1, fun h => by simp [hne] at h, this.2.2⟩

/-- A write to main memory touches memory alone. -/
theorem onlyMem_mainWrite (s : State) (a : Nat) (bs : List Byte) : OnlyMem s (s.mainWrite a bs).1 := by
  unfold State.mainWrite
  generalize bs.length / 64 + 2 = fuel
  induction fuel generalizing s a bs with
  | zero => exact OnlyMem.refl s
  | succ n ih =>
    unfold State.writeLines
    split
    · exact OnlyMem.refl s
    · dsimp only
      have h := (writeLine_spec s a (bs.take (64 - a % 64))).1
      split
      · rename_i s' hs
        rw [hs] at h
        exact h.trans (ih _ _ _)
      · rename_i s' hs
        rw [hs] at h
        exact h

/-- A write within one line keeps memory canonical. -/
theorem writeLine_wf (s : State) (a : Nat) (bs : List Byte) (h : s.mem.wf = true) : (s.writeLine a bs).1.mem.wf = true := by
  have k := writeLine_spec s a bs
  unfold Memory.wf at *
  rw [Bool.and_eq_true] at *
  refine ⟨?_, by rw [k.2.2.2]; exact h.2⟩
  by_cases hb : (s.writeLine a bs).2 = false ∨ bs = []
  · rw [k.2.2.1 hb]; exact h.1
  · rw [not_or, Bool.not_eq_false] at hb
    rcases k.2.1 hb.1 with e | e
    · rw [e]; exact cellsOk_write 0 _ _ _ h.1
    · exact absurd e hb.2

/-- A write to main memory keeps it canonical. -/
theorem mainWrite_wf (s : State) (a : Nat) (bs : List Byte) (h : s.mem.wf = true) : (s.mainWrite a bs).1.mem.wf = true := by
  unfold State.mainWrite
  generalize bs.length / 64 + 2 = fuel
  induction fuel generalizing s a bs with
  | zero => exact h
  | succ n ih =>
    unfold State.writeLines
    split
    · exact h
    · dsimp only
      have k := writeLine_wf s a (bs.take (64 - a % 64)) h
      split
      · rename_i s' hs
        rw [hs] at k
        exact ih _ _ _ k
      · rename_i s' hs
        rw [hs] at k
        exact k

/-! ## The canonical form of every store -/

/-- The stores are canonical when each of them is. -/
theorem storesOk_iff (s : State) : s.storesOk = true ↔
    s.mem.wf = true ∧ (∀ e : Fin 7, cellsOk 0 s.engines[e].paddock = true) ∧ cellsOk 0xFF s.nor = true
    ∧ cellsOk 0 s.host.mem = true := by
  simp [State.storesOk, List.all_eq_true, and_assoc]

/-- Stores that a command leaves as they were stay canonical. -/
theorem storesOk_of {s u : State} (h : s.storesOk = true) (hm : u.mem.wf = true)
    (he : ∀ e : Fin 7, cellsOk 0 u.engines[e].paddock = true) (hn : u.nor = s.nor) (hh : u.host.mem = s.host.mem) :
    u.storesOk = true := by
  rw [storesOk_iff] at *
  exact ⟨hm, he, by rw [hn]; exact h.2.2.1, by rw [hh]; exact h.2.2.2⟩

/-- A change that touches memory alone and keeps it canonical keeps the stores canonical. -/
theorem OnlyMem.storesOk {s u : State} (k : OnlyMem s u) (hm : u.mem.wf = true) (h : s.storesOk = true) :
    u.storesOk = true := by
  have := (storesOk_iff s).1 h
  rw [storesOk_iff]
  refine ⟨hm, ?_⟩
  rw [k.1]
  exact this.2

/-- A write to main memory keeps the stores canonical. -/
theorem mainWrite_storesOk (s : State) (a : Nat) (bs : List Byte) (h : s.storesOk = true) :
    (s.mainWrite a bs).1.storesOk = true :=
  (onlyMem_mainWrite s a bs).storesOk (mainWrite_wf s a bs ((storesOk_iff s).1 h).1) h

/-- Reads keep the stores canonical. -/
theorem OnlyRead.storesOk {s u : State} (k : OnlyRead s u) (h : s.storesOk = true) : u.storesOk = true := by
  have w := (storesOk_iff s).1 h
  have same {α : Type} (f : State → α) : f u.unread = f s.unread := congrArg f k.1
  have arena : u.mem.arena = s.mem.arena := same fun x => x.mem.arena
  have engines : u.engines = s.engines := same State.engines
  refine (storesOk_iff u).2 ⟨?_, ?_, ?_, ?_⟩
  · rw [Memory.wf_congr k.2.1 arena]; exact w.1
  · rw [engines]; exact w.2.1
  · rw [show u.nor = s.nor from same State.nor]; exact w.2.2.1
  · rw [show u.host.mem = s.host.mem from same fun x => x.host.mem]; exact w.2.2.2

/-- Reads of lines keep the stores canonical. -/
theorem readLines_storesOk (s : State) (lines : List Nat) (h : s.storesOk = true) : (s.readLines lines).1.storesOk = true :=
  (onlyRead_readLines s lines).storesOk h

/-- Bytes written to a store keep the stores canonical. -/
theorem poke_storesOk (s : State) (st : Store) (a : Nat) (bs : List Byte) (h : s.storesOk = true) :
    (s.poke st a bs).1.storesOk = true := by
  cases st with
  | main => exact mainWrite_storesOk s a bs h
  | arena =>
    have k := (storesOk_iff s).1 h
    rw [storesOk_iff]
    refine ⟨?_, k.2⟩
    have := k.1
    simp only [State.poke, State.arenaWrite, Memory.rewritten, Memory.wf, Bool.and_eq_true] at this ⊢
    exact ⟨this.1, cellsOk_write 0 _ _ _ this.2⟩
  | paddock e =>
    have k := (storesOk_iff s).1 h
    rw [storesOk_iff]
    refine ⟨k.1, ?_, k.2.2⟩
    intro g
    simp only [State.poke, State.paddockWrite, State.onEngine, vmod]
    by_cases hg : e = g
    · subst hg; simpa using cellsOk_write 0 _ _ _ (k.2.1 e)
    · have hv : e.val ≠ g.val := fun h => hg (Fin.ext h)
      simpa [Vector.getElem_set, hv] using k.2.1 g

/-- Byte writes in order keep the stores canonical. -/
theorem pokes_storesOk (s : State) (st : Store) (l : List (Nat × List Byte)) (h : s.storesOk = true) :
    (s.pokes st l).1.storesOk = true := by
  induction l generalizing s with
  | nil => exact h
  | cons x rest ih =>
    obtain ⟨a, bs⟩ := x
    have k := poke_storesOk s st a bs h
    unfold State.pokes
    split
    · rename_i s' hs
      rw [hs] at k
      exact ih _ k
    · rename_i s' hs
      rw [hs] at k
      exact k

/-- Bytes written to a space keep the stores canonical. -/
theorem pokeSpace_storesOk (s : State) (e : Fin 7) (space addr : Nat) (bs : List Byte) (h : s.storesOk = true) :
    (s.pokeSpace e space addr bs).1.storesOk = true := by
  unfold State.pokeSpace
  split
  · exact poke_storesOk s _ _ _ h
  · exact h

/-- Bytes programmed into NOR keep the stores canonical. -/
theorem norProgram_storesOk (s : State) (a : Nat) (bs : List Byte) (h : s.storesOk = true) :
    (s.norProgram a bs).storesOk = true := by
  have k := (storesOk_iff s).1 h
  rw [storesOk_iff]
  exact ⟨k.1, k.2.1, cellsOk_write 0xFF _ _ _ k.2.2.1, k.2.2.2⟩

/-- Sectors erased keep the stores canonical. -/
theorem norErase_storesOk (s : State) (a n : Nat) (h : s.storesOk = true) : (s.norErase a n).storesOk = true := by
  have k := (storesOk_iff s).1 h
  rw [storesOk_iff]
  exact ⟨k.1, k.2.1, cellsOk_filter 0xFF _ _ k.2.2.1, k.2.2.2⟩

/-- A byte after a program: the bits that were clear or that the data clears are clear. -/
theorem norProgram_byte (s : State) (a : Nat) (bs : List Byte) (x : Nat) :
    cellsRead 0xFF (s.norProgram a bs).nor x
      = if a ≤ x ∧ x < a + bs.length then cellsRead 0xFF s.nor x &&& bs.getD (x - a) 0 else cellsRead 0xFF s.nor x := by
  unfold State.norProgram State.norBytes
  dsimp only
  rw [cellsRead_write]
  simp only [List.length_map, List.length_zip, cellsSlice_length, Nat.min_self]
  by_cases h : a ≤ x ∧ x < a + bs.length
  · rw [if_pos h, if_pos h]
    have hl : x - a < bs.length := by omega
    simp only [List.getD_eq_getElem?_getD, List.getElem?_map, cellsSlice_eq]
    rw [List.getElem?_eq_getElem (by simpa using hl)]
    simp [hl, show a + (x - a) = x by omega]
  · rw [if_neg h, if_neg h]

/-- A byte after an erase. -/
theorem norErase_byte (s : State) (a n x : Nat) :
    cellsRead 0xFF (s.norErase a n).nor x = if a ≤ x ∧ x < a + sectorBytes * n then 0xFF else cellsRead 0xFF s.nor x := by
  unfold State.norErase
  simp only [State.countLife]
  by_cases h : a ≤ x ∧ x < a + sectorBytes * n
  · rw [if_pos h]
    exact cellsRead_filter_not 0xFF s.nor (fun k => !(decide (a ≤ k) && decide (k < a + sectorBytes * n))) x (by simpa using h)
  · rw [if_neg h]
    exact cellsRead_filter_of 0xFF s.nor (fun k => !(decide (a ≤ k) && decide (k < a + sectorBytes * n))) x (by simp; omega)

/-- Bytes written to host memory keep the stores canonical. -/
theorem hostWrite_storesOk (s : State) (a : Nat) (bs : List Byte) (h : s.storesOk = true) :
    (s.hostWrite a bs).storesOk = true := by
  unfold State.hostWrite
  split
  · have k := (storesOk_iff s).1 h
    rw [storesOk_iff]
    exact ⟨k.1, k.2.1, k.2.2.1, cellsOk_write 0 _ _ _ k.2.2.2⟩
  · exact h

/-- A vector signalled keeps the stores canonical. -/
theorem signal_storesOk (s : State) (v : Fin 32) (h : s.storesOk = true) : (s.signal v).storesOk = true := by
  unfold State.signal
  dsimp only
  split
  · exact (storesOk_iff _).2 ((storesOk_iff s).1 h)
  · exact hostWrite_storesOk s _ _ h

/-- The end of a command keeps the stores canonical. -/
theorem commit_storesOk (o n : State) (h : n.storesOk = true) : (commit o n).storesOk = true := by
  have flag (s : State) (c : Bool) (h : s.storesOk = true) : (s.flagParts c).storesOk = true := by
    unfold State.flagParts; split
    · exact (storesOk_iff _).2 ((storesOk_iff s).1 h)
    · exact h
  have strike (s : State) (h : s.storesOk = true) : s.strikeWaiters.storesOk = true :=
    (storesOk_iff _).2 ((storesOk_iff s).1 h)
  have dev (s o : State) (c : Bool) (h : s.storesOk = true) : (s.signalDev o c).storesOk = true := by
    unfold State.signalDev; split
    · exact signal_storesOk s 1 h
    · exact h
  have ev (s : State) (h : s.storesOk = true) : s.signalEvent.storesOk = true := by
    unfold State.signalEvent; extract_lets due; split
    · exact signal_storesOk _ 2 ((storesOk_iff _).2 ((storesOk_iff s).1 h))
    · exact h
  have evs (s : State) (c : Bool) (h : s.storesOk = true) : (s.flagEvents c).storesOk = true := by
    unfold State.flagEvents; split
    · exact ev _ ((storesOk_iff _).2 ((storesOk_iff s).1 h))
    · exact h
  unfold commit
  exact evs _ _ (dev _ _ _ (strike _ (flag _ _ h)))

/-- The memory of the state after reset is canonical, and so is every store. -/
theorem reset_storesOk : State.reset.storesOk = true := by decide

end Sys2Proof.Machine
end

