-- ==== Sys2Proof/Laws/Engine.lean ====
section
/-!
SUPPORT. What the engine commands share: each is its row's run (R132 to R139), which ends in one of four ways, and what ends a
command keeps every store canonical.
-/
namespace Sys2Proof.Machine

/-- What is issued depends on the run of the command alone. -/
theorem issueCommand_congr (s : State) (c : EngCall) (other : Bool) (f g : EngCall → State → State)
    (h : ∀ hw, f { c with hw := hw } s = g { c with hw := hw } s) : s.issueCommand c other f = s.issueCommand c other g := by
  unfold State.issueCommand
  split
  · rfl
  · split
    · rfl
    · exact h _

set_option linter.unusedSimpArgs false in
set_option maxRecDepth 2000 in
/-- Every engine command but EXCHANGE is the run of its row, once it issues. -/
theorem exec_engineCmd {c : Instr} {s : State} {x : CmdRun} (h : engineCmd c s = some x) :
    exec c s = done s (s.issueCommand x.call x.other fun c s => s.runEngine c x.judged x.reads x.writes x.touch x.eff) := by
  cases c <;> simp only [engineCmd, Option.some.injEq, reduceCtorEq] at h <;> subst h <;>
    refine congrArg (done s) (issueCommand_congr _ _ _ _ _ fun _ => ?_) <;>
    first
    | (simp only [engineCmd.edit, runKvEdit, runRoute]; done)
    | rfl

/-- A command issues with the faults found, or nothing happens. -/
theorem issueCommand_goes {s : State} {c : EngCall} {other : Bool} {found : List Half} (run : EngCall → State → State)
    (h : other = false) (k : s.issueOf c.engine c.desc = .goes found) :
    s.issueCommand c other run = run { c with hw := c.hw ++ found } s := by
  unfold State.issueCommand; rw [k, h]; rfl

/-- A descriptor of another row, or a command that waits, does nothing. -/
theorem issueCommand_idle {s : State} {c : EngCall} {other : Bool} (run : EngCall → State → State)
    (h : other = true ∨ s.issueOf c.engine c.desc = .waits) : s.issueCommand c other run = s := by
  unfold State.issueCommand
  split
  · rfl
  · rcases h with h | h
    · exact absurd h (by assumption)
    · rw [h]

/-- What a command goes through before its effect, when it issues. -/
theorem enterEngine_goes {s : State} {c : EngCall} {j : Option Half} {reads writes touch : List Foot} (go : State → State)
    (h : s.engines[c.engine].role = .inService) (k : j = none) (l : s.accessFaults c.engine c.desc reads writes touch ++ raised c = [])
    (m : ((s.disturb c).readLines (touchLines touch)).2 = true) (n : (s.reading c touch).badAccesses touch = []) :
    s.enterEngine c j reads writes touch go = go (s.reading c touch) := by
  unfold State.enterEngine
  rw [if_neg (fun g => g h)]
  dsimp only
  rw [k, l]
  simp only [lowest, Option.or_none, m]
  unfold State.reading at n ⊢
  rw [n]
  rfl

/-- An engine that is not in service runs nothing. -/
theorem enterEngine_idle {s : State} {c : EngCall} {j : Option Half} {reads writes touch : List Foot} (go : State → State)
    (h : s.engines[c.engine].role ≠ .inService) : s.enterEngine c j reads writes touch go = s := by
  unfold State.enterEngine; rw [if_pos h]

/-- A status of the checks, or the lowest of the faults found, ends the command with nothing of its effect. -/
theorem enterEngine_fails {s : State} {c : EngCall} {j : Option Half} {reads writes touch : List Foot} (go : State → State) {st : Half}
    (h : s.engines[c.engine].role = .inService)
    (k : j.or (lowest (s.accessFaults c.engine c.desc reads writes touch ++ raised c)) = some st) :
    s.enterEngine c j reads writes touch go = (s.disturb c).finish c.engine c.desc st 0 c.cycles
      (if j.isSome then [] else s.accessFaults c.engine c.desc reads writes touch ++ raised c) := by
  unfold State.enterEngine; rw [if_neg (fun g => g h)]; dsimp only; rw [k]

/-- A line that cannot be read ends the command with BUS_ERROR. -/
theorem enterEngine_unreadable {s : State} {c : EngCall} {j : Option Half} {reads writes touch : List Foot} (go : State → State)
    (h : s.engines[c.engine].role = .inService)
    (k : j.or (lowest (s.accessFaults c.engine c.desc reads writes touch ++ raised c)) = none)
    (l : ((s.disturb c).readLines (touchLines touch)).2 = false) :
    s.enterEngine c j reads writes touch go = (s.reading c touch).finish c.engine c.desc stBusError 0 c.cycles := by
  unfold State.enterEngine; rw [if_neg (fun g => g h)]; dsimp only; rw [k]; dsimp only; rw [l]; rfl

/-- The stores that the counts and reports at a command's end leave as they were. -/
theorem countEngine_storesOk (s : State) (e : Fin 7) (i k : Nat) (h : s.storesOk = true) :
    (s.countEngine e i k).storesOk = true := by
  have q := (storesOk_iff s).1 h
  rw [storesOk_iff]
  refine ⟨q.1, fun g => ?_, q.2.2⟩
  simp only [State.countEngine, State.onEngine, vmod]
  by_cases hg : e = g
  · subst hg; simpa using q.2.1 e
  · have hv : e.val ≠ g.val := fun h => hg (Fin.ext h)
    simpa [Vector.getElem_set, hv] using q.2.1 g

/-- The end of a command keeps every store canonical. -/
theorem finish_storesOk (s : State) (e : Fin 7) (d : List Byte) (st : Half) (flags : Nat) (cycles : Word) (seen : List Half)
    (h : s.storesOk = true) : (s.finish e d st flags cycles seen).storesOk = true := by
  have eng (x : State) (f : Engine → Engine) (hf : ∀ g, (f g).paddock = g.paddock) (hx : x.storesOk = true) :
      (x.onEngine e f).storesOk = true := by
    have q := (storesOk_iff x).1 hx
    rw [storesOk_iff]
    refine ⟨q.1, fun g => ?_, q.2.2⟩
    simp only [State.onEngine, vmod]
    by_cases hg : e = g
    · subst hg; simpa [hf] using q.2.1 e
    · have hv : e.val ≠ g.val := fun h => hg (Fin.ext h)
      simpa [Vector.getElem_set, hv] using q.2.1 g
  have step (x : State) (p : Fin 6) (f : StepRun → StepRun) (hx : x.storesOk = true) : (x.onStep p f).storesOk = true :=
    (storesOk_iff _).2 ((storesOk_iff x).1 hx)
  have pick (c : Prop) [Decidable c] (x y : State) (hx : x.storesOk = true) (hy : y.storesOk = true) :
      (if c then x else y).storesOk = true := by split <;> assumption
  have h1 := countEngine_storesOk _ e Eng.busyCycles cycles.toNat (countEngine_storesOk s e Eng.commands 1 h)
  unfold State.finish
  extract_lets a b c d' f g i
  have hb : b.storesOk = true := pick _ _ _ (countEngine_storesOk _ _ _ _ h1) h1
  have hc : c.storesOk = true := pick _ _ _ (countEngine_storesOk _ _ _ _ hb) hb
  have hd : d'.storesOk = true := pick _ _ _ (countEngine_storesOk _ _ _ _ hc) hc
  have hf : f.storesOk = true := by
    refine pick _ _ _ hd (eng _ _ (fun _ => rfl) ?_)
    unfold State.dropHeld
    exact pick _ _ _ (eng _ _ (fun _ => rfl) hd) hd
  have hi : i.storesOk = true := by
    show State.storesOk (match f.engines[e].part with | some p => f.onStep p _ | none => f) = true
    split
    · exact step _ _ _ hf
    · exact hf
  exact pick _ _ _ (pokeSpace_storesOk _ _ _ _ _ hi) hi

end Sys2Proof.Machine
end

