-- ==== Sys2Proof/Machine/Availability.lean ====
section
/-!
DEFINITION. Availability: the time that each Studbook record charges, and the operating time it is charged against (13, R412 to
R415).
-/
namespace Sys2Proof.Machine

/-- The charge that one occurrence of an event carries in its record, in us, by its code (R413, R415, R451). -/
def chargeOf (code : Half) (payload : List Byte) : Nat :=
  match code.toNat with
  | 0x0407 => leAt payload 2 4        -- STEP_REPLAY
  | 0x0409 => leAt payload 2 4        -- REMOUNT
  | 0x0606 => leAt payload 8 4        -- BRIDLE_TAKEOVER
  | 0x0111 => leAt payload 0 4        -- HOLD_END
  | 0x0402 => leAt payload 8 4        -- BOUND_MISS
  | _ => 0

/-- The charge of a record: that of each occurrence it stands for. -/
def StudRec.charge (r : StudRec) : Nat := r.repeats * chargeOf r.code r.payload

/-- The charged time of the records whose first occurrence lies in an interval, in us. -/
def chargedIn (l : List StudRec) (a b : Nat) : Nat :=
  ((l.filter fun r => decide (a ≤ r.time) && decide (r.time < b)).map StudRec.charge).sum

/-- Whether the present instant is operating time: RUNNING is set and a partition that serves GALLOP or CANTER is bound (R412).
The ratings lie outside the model. -/
def State.operating (s : State) : Bool :=
  s.up && (List.finRange 6).any fun p => match s.parts[p].desc with
    | some d => bit d.gaits 0 || bit d.gaits 1
    | none => false

/-- Availability over an interval, in parts per 10^9: 1 less charged time, in us, over operating time, in ns. -/
def availabilityPpb (charged operatingNs : Nat) : Nat := 1000000000 - ceilDiv (charged * 1000 * 1000000000) operatingNs

/-- Whether the charged time keeps the promise of 99.9999 % (R414). -/
def availableEnough (charged operatingNs : Nat) : Bool := decide (charged * 1000 * 1000000 ≤ operatingNs)

end Sys2Proof.Machine
end

