-- ==== Sys2Proof/Tests/Slice0.lean ====
section
/-!
SUPPORT. The row's own tests: the well-formedness smoke, and for each obligation named witnesses that its hypotheses hold
together on a concrete state, clause by clause, with what the command answers there. Expected values are worked from spec/.
-/
namespace Sys2Proof.Tests
set_option Elab.async false
open Sys2Proof Sys2Proof.Machine

/-- The state after a command. -/
def after (c : Instr) (s : State) : State :=
  match exec c s with
  | .next t => t
  | _ => s

/-- A Rein in a role. -/
def rein (r : ReinRole) : Rein := ⟨r, 0, [], false, false, false⟩

/-- A chip that runs: Rein A holds the Bridle under epoch 1, the link is up, the window frames are valid. -/
def upS : State := { State.reset with
  boot := { Boot.reset with running := true, frozen := true }
  bridle := { Bridle.reset with
    held := true, settled := true, healthA := true, healthB := true, epoch := 1, nodeEpoch := 1
    reins := Vector.ofFn fun r : Fin 2 => if r = 0 then rein .holder else rein .shadow }
  host := { HostIf.reset with linkUp := true }
  mem := { Memory.reset with windowOn := true }
  stud := { Studbook.reset with booted := true } }

/-- Partition `p` of a state set. -/
def withPart (s : State) (p : Fin 6) (f : Partition → Partition) : State := s.onPart p f

/-! ## Well-formedness: each check refuses an ill-formed command and passes a well-formed one -/

/-- An engine command of a 24-byte descriptor, shorter than its header (R132). -/
def shortCall : EngCall := ⟨0, List.replicate 24 0, [], 0, 0, [], [], 0⟩

theorem wf_window_offset : wellFormed (.broadcastWrite 1 0x10000 0 0) = false ∧ wellFormed (.broadcastWrite 1 2 0 0) = false
    ∧ wellFormed (.groupRead 1 0 0xFFFC) = true := by decide
theorem wf_space_addr : wellFormed (.scriptWrite 0x100000000000 0 0) = false
    ∧ wellFormed (.scriptWriteMasked 0xF0001000002 0 0 0) = false ∧ wellFormed (.scriptWrite 0xF0001000000 0 0) = true := by decide
theorem wf_reg_write : wellFormed (.registerWrite (.bar0 0x10000 4) 0 0) = false
    ∧ wellFormed (.registerWrite (.bar0 0x108 4) 0x100000000 0) = false
    ∧ wellFormed (.registerWrite (.dev 0xF0001000000) 0x100000000 0) = false
    ∧ wellFormed (.registerWrite (.bar0 0x108 8) 0x100000000 0) = true := by decide
theorem wf_engine_call : wellFormed (.matmul shortCall) = false
    ∧ wellFormed (.move { shortCall with desc := List.replicate 33 0 }) = false
    ∧ wellFormed (.move { shortCall with desc := List.replicate 40 0 }) = true := by decide
theorem wf_item : wellFormed (.recordReady 0 [.textLine 0 0 ⟨0, 0, 0, 0⟩ 2 0 [] [1]] 0) = false
    ∧ wellFormed (.recordReady 0 [.textLine 0 0 ⟨0, 0, 0, 0⟩ 1 0 [65] [1]] 0) = true := by decide
theorem wf_line_samples : wellFormed (.lineBoundary 0 true [[4096]] 0) = false
    ∧ wellFormed (.lineBoundary 0 true [[], [], [], [], []] 0) = false
    ∧ wellFormed (.lineBoundary 0 true [[4095]] 0) = true := by decide
theorem wf_dev_addr : wellFormed (.memRead .other 0x100000000000 [] 0) = false ∧ wellFormed (.memRead .other 0 [] 0) = true := by decide
theorem wf_line_write : wellFormed (.memWrite .other 60 ⟨[1, 2, 3, 4, 5], []⟩ 0) = false ∧ wellFormed (.memWrite .other 0 ⟨[], []⟩ 0) = false
    ∧ wellFormed (.memWrite .other 60 ⟨[1, 2, 3, 4], []⟩ 0) = true := by decide
theorem wf_recovery : wellFormed (.lineRecovery 0 [true, true, true] none true 0) = false
    ∧ wellFormed (.lineRecovery 0 [] (some [1]) true 0) = false ∧ wellFormed (.lineRecovery 0 [true] none true 0) = true := by decide
theorem wf_entries : wellFormed (.entryFetchDone (some [([1], [])]) 0) = false
    ∧ wellFormed (.entryFetchDone (some [(List.replicate 64 0, [])]) 0) = true := by decide
theorem wf_temps : wellFormed (.thermalSample [1] 0) = false ∧ wellFormed (.thermtripRelease (List.replicate 16 128) 0) = false
    ∧ wellFormed (.thermalSample (List.replicate 16 (-128)) 0) = true := by decide
theorem wf_reports : wellFormed (.stepRetire 0 [⟨1048576, 0, false⟩] 0) = false
    ∧ wellFormed (.stepRetire 0 [⟨1048575, 0, false⟩] 0) = true := by decide
theorem wf_bucket_class : wellFormed (.bandwidthTokenRefill .other 0) = false ∧ wellFormed (.bandwidthTokenRefill (.slot 0 0) 0) = false
    ∧ wellFormed (.bandwidthTokenRefill .recovery 0) = true := by decide
theorem wf_mr4 : wellFormed (.mr4Poll 0 [] 0) = false ∧ wellFormed (.mr4Poll 0 [3] 0) = true := by decide
theorem wf_rails : wellFormed (.supplyHoldStart 0 0) = false ∧ wellFormed (.supplyHoldStart 1 0) = true := by decide
theorem wf_unknown_verb : wellFormed (.verbUnknown 7 0 0) = false ∧ wellFormed (.verbUnknown 8 0 0) = true := by decide
theorem wf_script_delay : wellFormed (.scriptDelay 0 0) = false ∧ wellFormed (.scriptDelay 10001 0) = false
    ∧ wellFormed (.scriptDelay 10000 0) = true := by decide

/-- A boot in which everything passes, with a NOR of 256 MiB. -/
def goodEnv : BootEnv :=
  ⟨true, true, true, 256, List.replicate 12 (false, false), false, [], [], false, false, false, false, false, []
  , List.replicate 4 ⟨.noResponse, .noResponse, .noResponse⟩, 0⟩

theorem wf_boot_env : wellFormed (.boot { goodEnv with dies := [] }) = false
    ∧ wellFormed (.boot { goodEnv with rtc := [none, none, none, none] }) = false
    ∧ wellFormed (.boot { goodEnv with rtc := [some [0]] }) = false
    ∧ wellFormed (.boot { goodEnv with carts := [] }) = false ∧ wellFormed (.boot goodEnv) = true := by decide

/-! ## States that the witnesses share -/

/-- A scanned side of transport 0 on partition 0, gait TROT, that has reached stage 5. -/
def side0 : Side where
  key := 5
  host := false
  stream := 0
  sideDef := 0
  transport := 0
  sideId := 0x77
  sheetId := 0x11
  part := 0
  gait := 2
  stage := .arriving
  tStart := some 1000
  tArrive := 2000
  arrived := false
  status := []
  images := []
  reserve := 4096
  conforming := false
  recoveries := 0
  holdSeen := false
  duringBind := false
  switched := false
  switchSp := 0
  switchFp := 0
  recipe := 0
  newRecipe := false
  overlay := false
  statusOnly := false
  substitute := false
  aug := []
  truth := []
  stageAt := 0
  stageBytes := 0
  fuseStreams := []
  visRows := []
  irRows := []
  uvRows := []
  assembled := 0
  emitted := 0
  skew := none

/-- A recipe of two templates of one engine: two steps for a side, one for a line, no KV state. -/
def recipe0 : Recipe where
  bytes := [1, 2, 3, 4]
  digest := [9]
  copy := 0
  abiMajor := 1
  abiMinor := 0
  contractRev := 1
  rflags := 0
  svn := 3
  seq := 4
  keyIndex := 0
  gaits := 15
  flags := 0
  sizes := 1
  rate := 2000
  burst := 4
  ctxPerSide := 1
  deadline := 60000
  assembly := 10
  bwMinDecl := 0
  recordMax := 4096
  tokenCap := 10
  tokenCapFb := 0
  timeMax := 1
  timeMaxFb := 0
  residentBytes := 0
  carryMax := 0
  layouts := [⟨[0, 1], [0], [], []⟩]
  templates := [⟨5000, 4, 1, 2, 0, 0, [(0, 0)]⟩, ⟨6000, 4, 1, 2, 0, 0, [(0, 0)]⟩]
  rbP := []
  rbF := []
  switchPoints := []
  budgets := [(4096, 4096, 2000), (4096, 4096, 2000)]
  kvClasses := []
  clipAlarms := []
  adapters := []

/-- A MANAGED partition 0 of one engine that serves every gait with recipe slot 0. -/
def desc0 : PartDesc where
  verMajor := 1
  verMinor := 0
  part := 0
  engines := 1
  mode := 0
  gaits := 15
  shadow := 0
  ports := 1
  wCanter := 100
  wTrot := 100
  wWalk := 100
  tagQuota := 16
  maxBatch := 4
  maxContexts := 8
  bwMin := 1000
  recipes := [0, 0, 0, 0]
  captureBase := 0x20000000
  captureFrames := 64
  kvBase := 0x21000000
  kvFrames := 64
  workBase := 0x22000000
  workFrames := 64
  paddockDyn := 0
  arenaDyn := 0
  slotPlan := 0
  reservedZero := true

/-- A side context of TROT of side 5 on partition 0. -/
def ctx0 : Context where
  id := 3
  state := .ready
  gait := 2
  part := 0
  line := false
  fromReserve := false
  fallback := false
  parent := 3
  reread := false
  trunc := false
  chainPos := 0
  side := 5
  sideId := 0x77
  tStart := 1000
  kvRoots := 0
  image := 0
  aux := 0
  lastUse := 0
  readySince := 100

/-- A running chip whose partition 0 is bound to engine 0 with recipe 0. -/
def busyS : State := { upS with
  engines := State.reset.engines.set 0 { Engine.reset with role := .inService, part := some 0, logical := 0 }
  parts := State.reset.parts.set 0 { Partition.reset with desc := some desc0, bound := true, engines := 1 }
  boot := { upS.boot with
    recipes := Boot.reset.recipes.set 0 { RecipeSlot.empty with bound := some recipe0 }
    limits := { Limits.empty with
      spoolBase := 0x10000000, spoolBytes := 0x100000, sideReserve := 65536, inputStageBase := 0x30000000
      inputStageBytes := 0x100000 } } }

/-- That chip with side 5 in flight, as `f` makes it. -/
def sideS (f : Side → Side) : State := { busyS with sides := [f side0] }

/-- That chip whose Rein does not act: its position is not settled. -/
def quietS (s : State) : State := { s with bridle := { s.bridle with settled := false } }

/-! ## Registers -/

/-- A chip whose script still runs: ports 0 and 2 form group 3 of the sensor ports, engines 0 and 6 group 3 of the engines;
engine 6 is fenced. -/
def regS : State := { upS with
  boot := { upS.boot with frozen := false }
  groupMask := (State.reset.groupMask.set 1 ((State.reset.groupMask[1]).set 3 5)).set 0 ((State.reset.groupMask[0]).set 3 0x41)
  engines := State.reset.engines.set 6 { Engine.reset with role := .fenced }
  ports := State.reset.ports.set 2 { Port.reset with ttPeriod := 7 } }

theorem witness_StepRunsFront : ({ upS with pending := [.inRingDisable] } : State).pending = .inRingDisable :: [] := rfl

theorem witness_EmptyGroupAccess : (upS.groupMask[(1 : Fin 4)])[(2 : Fin 8)] = 0
    ∧ (after (.groupWrite 1 2 0xFFFC 5 0) upS).kindStatus[(1 : Fin 4)].groupEmpty = true
    ∧ (after (.groupRead 1 2 4) upS).reply = .value 0
    ∧ upS.reachesRegs = true ∧ (quietS upS).reachesRegs = false
    ∧ (after (.groupWrite 1 2 0xFFFC 5 0) (quietS upS)).reply = .busError := by decide

/-- TT_PERIOD at offset 0x04 (R36): PERIOD in bits 17 to 0, MCLK_DIV in bits 27 to 20. -/
theorem witness_BroadcastWriteReachesEveryPort :
    regS.boot.frozen = false ∧ (unitRule 1 4).map (·.rw) = some 0x0FF3FFFF
    ∧ (after (.broadcastWrite 1 4 0xFFFF1234 0) regS).ports[(3 : Fin 4)].ttPeriod = 0x0FF31234 := by decide

theorem witness_GroupWriteReachesMembers :
    regS.boot.frozen = false ∧ (regS.groupMask[(1 : Fin 4)])[(3 : Fin 8)] ≠ 0 ∧ (unitRule 1 4).map (·.rw) = some 0x0FF3FFFF
    ∧ (after (.groupWrite 1 3 4 1000 0) regS).ports[(2 : Fin 4)].ttPeriod = 1000
    ∧ (after (.groupWrite 1 3 4 1000 0) regS).ports[(1 : Fin 4)].ttPeriod = 0
    ∧ (regS.groupMask[(0 : Fin 4)])[(3 : Fin 8)] ≠ 0
    ∧ (after (.groupWrite 0 3 4 1 0) regS).kindStatus[(0 : Fin 4)].fencedSkip = true := by decide

theorem witness_GroupReadComparesMembers :
    unitRule 1 4 ≠ none
    ∧ (List.range (built 1)).filter (fun i => !regS.unitFenced 1 i) = 0 :: [1, 2, 3]
    ∧ regS.unitReg 1 2 4 ≠ regS.unitReg 1 0 4 ∧ regS.unitReg 1 1 4 = regS.unitReg 1 0 4
    ∧ (after (.broadcastRead 1 4) regS).kindStatus[(1 : Fin 4)] = { KindStatus.reset with mismatch := true, firstDiffer := 2 }
    ∧ (regS.groupMask[(1 : Fin 4)])[(3 : Fin 8)] ≠ 0
    ∧ ((List.range (built 1)).filter fun i => ((regS.groupMask[(1 : Fin 4)])[(3 : Fin 8)]).getLsbD i) = [0, 2]
    ∧ (after (.groupRead 1 3 4) regS).reply = .value 0 ∧ regS.reachesRegs = true
    ∧ (after (.broadcastRead 1 4) (quietS upS)).reply = .busError := by decide

/-- TT_PERIOD of port 0 in its unicast window. -/
theorem witness_FrozenConfigurationIgnoresWrites :
    upS.boot.frozen = true ∧ locateReg 0xF0001000004 = some (.unit 1 0, 4) ∧ upS.emptyWindow (.unit 1 0) = none
    ∧ ((RegWindow.unit 1 0).rule 4).map (fun r => decide (r.rw ≠ 0)) = some true
    ∧ (after (.registerWrite (.dev 0xF0001000004) 1000 9) upS).stud.ring.map (fun r => (r.code, r.payload.take 6))
      = [(0x0106, [0x04, 0x00, 0x00, 0x01, 0x00, 0x0F])]
    ∧ upS.holderActs = true ∧ (quietS upS).holderActs = false
    ∧ (after (.registerWrite (.dev 0xF0001000004) 1000 9) (quietS upS)).reply = .busError := by decide

theorem witness_ScriptEntriesTakeEffect :
    regS.boot.frozen = false ∧ (unitRule 1 4).map (fun r => decide (r.rw ≠ 0)) = some true
    ∧ scriptWriteOk 0xF0001010004 1000 0xFFFFFFFF = true ∧ scriptWriteOk (broadcastAddr 1 4) 1000 0x3FFFF = true
    ∧ (after (.scriptWrite 0xF0001010004 1000 0) regS).ports[(1 : Fin 4)].ttPeriod = 1000
    ∧ (after (.scriptWriteMasked (broadcastAddr 1 4) 1000 0x3FFFF 0) regS).ports[(2 : Fin 4)].ttPeriod = 1000
    ∧ (after (.scriptDelay 10000 5) regS).now = 10000005 := by decide

/-! ## Sides, admission, records and rings -/

theorem witness_TokenBucketsRefill :
    busyS.gallopRecipe 0 = some recipe0 ∧ busyS.parts[(0 : Fin 6)].desc = some desc0 ∧ busyS.parts[(0 : Fin 6)].bound = true
    ∧ (after (.gallopTokenRefill 0 1000) busyS).parts[(0 : Fin 6)].tokens = 2000000
    ∧ (after (.bandwidthTokenRefill (.part 0) 1000) { busyS with mem := { busyS.mem with bwPart := Vector.replicate 6 0 } }).mem.bwPart[(0 : Fin 6)]
      = 15625000000 := by decide

/-- Sides at stage 5 while no Rein acts: a TROT side, a GALLOP side with a full bucket, and one with an empty bucket. -/
def arriveS (g : Fin 4) (tokens : Nat) : State :=
  quietS { sideS (fun x => { x with gait := g }) with
    parts := vmod busyS.parts 0 fun x => { x with tokens := tokens, tokenTime := 3000 } }

theorem witness_ArrivalIsMeteredAndQueued :
    (arriveS 0 tokenUnit).side? 5 = some { side0 with gait := 0 } ∧ side0.stage = .arriving ∧ side0.statusOnly = false
    ∧ (arriveS 0 0).parts[(0 : Fin 6)].bound = true ∧ (arriveS 0 0).holderActs = false ∧ (arriveS 0 0).queueUsed < 4096
    ∧ ((after (.sideArrival 5 3000) (arriveS 0 tokenUnit)).queue.map fun w => (w.side, w.conforming)) = [(5, true)]
    ∧ (after (.sideArrival 5 3000) (arriveS 0 tokenUnit)).parts[(0 : Fin 6)].tokens = 0
    ∧ ((after (.sideArrival 5 3000) (arriveS 0 0)).sides.map fun x => (x.status, x.stage)) = [([(0x0305, 0)], .queued)]
    ∧ ((after (.sideArrival 5 3000) (arriveS 2 0)).queue.map fun w => (w.arrival, w.conforming)) = [(3000, false)] := by decide

/-- A full admission queue: 4,096 requests of other sides. -/
def fullS : State := { arriveS 2 0 with queue := List.replicate 4096 ⟨9, false, 0, 2, 1, 0, false, true⟩ }

theorem witness_ArrivalIsMeteredAndQueued_full :
    fullS.side? 5 = some side0 ∧ side0.stage = .arriving ∧ side0.statusOnly = false ∧ side0.host = false
    ∧ fullS.parts[(0 : Fin 6)].bound = true ∧ fullS.holderActs = false ∧ 4096 ≤ fullS.queueUsed := by decide +kernel

def waiting0 : Waiting := ⟨5, false, 0, 2, 0, 2000, false, true⟩

/-- A side that waits for its context, with `n` shared contexts of the partition already. -/
def admitS (n : Nat) : State := { sideS (fun x => { x with stage := .queued }) with
  queue := [waiting0], contexts := (List.range n).map fun i => { ctx0 with id := i, side := 100 + i } }

theorem witness_AdmissionFollowsTheTable :
    (admitS 2).holderActs = true ∧ (admitS 2).queue = [waiting0] ∧ (admitS 2).side? 5 = some { side0 with stage := .queued }
    ∧ (admitS 2).parts[(0 : Fin 6)].bound = true ∧ (admitS 2).parts[(0 : Fin 6)].rebinding = false
    ∧ (admitS 2).recipeFor 0 2 = some recipe0 ∧ recipe0.kvClass false = none
    ∧ (admitS 2).usedIn 0 false < (admitS 2).parts[(0 : Fin 6)].maxContexts
    ∧ (admitS 2).sharedUsed < 1048576 - (admitS 2).boot.limits.gallopReserve
    ∧ ((after (.admitFromQueue 4000) (admitS 2)).contexts.map fun c => (c.id, c.side, c.state))
      = [(0, 100, .ready), (1, 101, .ready), (2, 5, .ready)]
    ∧ (admitS 8).parts[(0 : Fin 6)].maxContexts ≤ (admitS 8).usedIn 0 false
    ∧ (after (.admitFromQueue 4000) (admitS 8)).queue = [waiting0] := by decide

/-- A side whose context is done. -/
def doneS : State := { sideS (fun x => { x with stage := .active }) with contexts := [{ ctx0 with state := .done }] }

theorem witness_ReadyRecordEntersTheSpool :
    doneS.side? 5 = some { side0 with stage := .active } ∧ doneS.contexts = [{ ctx0 with state := .done }] ∧ ctx0.side = 5
    ∧ (sideS fun x => { x with stage := .active, statusOnly := true }).side? 5
      = some { side0 with stage := .active, statusOnly := true }
    ∧ ((after (.recordReady 5 [] 3001) doneS).host.out[(0 : Fin 6)].records.map fun r => (r.side, r.delta, r.sideId)) = [(5, 3, 0x77)]
    ∧ (after (.recordReady 5 [] 3001) doneS).contexts = [] ∧ (after (.recordReady 5 [] 3001) doneS).host.spoolUsed = 32 := by decide

def rec0 : Rec where
  part := 0
  gait := 2
  sideDef := 0
  host := false
  overlay := false
  recipe := 0
  sideId := 0x77
  sheetId := 0x11
  delta := 3
  tCapture := 1000
  status := []
  items := []
  exports := []
  used := 32
  side := 5
  at_ := 0x10000000

/-- An enabled ring of 64 KiB with one record ready; the producer stands at `prod`. -/
def ringS (prod : DWord) : State := { busyS with host := { busyS.host with
  spoolUsed := 32
  out := vmod busyS.host.out 0 fun r => { r with
    en := true, base := 0x8000, prodAddr := 0x100, size := 64, records := [rec0], prod := prod, consSeen := prod
    firstUnsig := some 0, unsignalled := 1, stallStart := some 0 } } }

theorem witness_PublicationWritesRecordThenCount :
    (ringS 0).host.out[(0 : Fin 6)].en = true ∧ (ringS 0).host.linkUp = true ∧ (ringS 0).host.out[(0 : Fin 6)].records = [rec0]
    ∧ rec0.exports = [] ∧ recordBytes rec0.status rec0.items = 32 ∧ 32 ≤ (ringS 0).recordLimit (ringS 0).host.out[(0 : Fin 6)]
    ∧ 32 ≤ (ringS 0).host.out[(0 : Fin 6)].bytes
    ∧ (∀ v : Fin 32, (ringS 0).host.msix[v].ctrl.getLsbD 0 = true)
    ∧ (after (.recordPublish 0 9) (ringS 0)).host.out[(0 : Fin 6)].prod = 32
    ∧ cellsSlice 0 (after (.recordPublish 0 9) (ringS 0)).host.mem 0x100 2 = [32, 0]
    ∧ (65536 - 65528 : Nat) < 32 ∧ 65528 + 8 + 32 ≤ 65528 + (ringS 65528).host.out[(0 : Fin 6)].bytes
    ∧ (after (.recordPublish 0 9) (ringS 65528)).host.out[(0 : Fin 6)].prod = 65568 := by decide

theorem witness_RingsFollowTheConsumer :
    (ringS 40).host.out[(0 : Fin 6)].en = true ∧ (ringS 40).host.linkUp = true ∧ (ringS 40).host.out[(0 : Fin 6)].records ≠ []
    ∧ (ringS 40).host.out[(0 : Fin 6)].consSeen ≤ 40 ∧ (40 : DWord) ≤ (ringS 40).host.out[(0 : Fin 6)].prod
    ∧ (after (.outConsPoll 0 40 9) (ringS 40)).host.out[(0 : Fin 6)].consSeen = 40
    ∧ (ringS 40).host.out[(0 : Fin 6)].prod < 41 ∧ (39 : DWord) < (ringS 40).host.out[(0 : Fin 6)].consSeen
    ∧ (after (.outConsPoll 0 41 9) (ringS 40)).host.chip[(16 : Fin 32)] = 1
    ∧ (ringS 40).host.out[(0 : Fin 6)].firstUnsig = some 0 ∧ 0 + (ringS 40).host.out[(0 : Fin 6)].coalUs.toNat * 1000 ≤ 20000
    ∧ (after (.coalesceTimeout 0 20000) (ringS 40)).host.out[(0 : Fin 6)].unsignalled = 0
    ∧ (ringS 40).host.out[(0 : Fin 6)].stallStart = some 0 ∧ (ringS 40).host.out[(0 : Fin 6)].stalledOut = false
    ∧ 0 + (ringS 40).host.stallMs.toNat * 1000000 ≤ 100000000
    ∧ (after (.hostStallTimeout 0 100000000) (ringS 40)).host.out[(0 : Fin 6)].stalledOut = true := by decide

/-! ## Scan front end -/

/-- Port 0 scans 8 pixels of one plane into side definition 0 (4 lines of 8 pixels) of transport 0, and is bound to
partition 0; its cartridge has passed; cover 0 is watched and guards transport 0. -/
def frontS : State := { busyS with
  feCtrl := (8 <<< 13) ||| 1
  covers := State.reset.covers.set 0 true
  sideDefA := State.reset.sideDefA.set 0 (1 ||| (4 <<< 16))
  sideDefB := State.reset.sideDefB.set 0 (8 ||| (50 <<< 14) ||| (24 <<< 20))
  ports := State.reset.ports.set 0 { Port.reset with
    portCfg := 1 ||| (8 <<< 16), ttPeriod := 1000 ||| (2 <<< 20), enabled := true, trained := true, boundPart := some 0
    cart := { Cart.reset with present := true, result := some .passed } } }

/-- That port while its lanes still align. -/
def alignS : State := { frontS with ports := vmod frontS.ports 0 fun p => { p with enabled := false, trained := false } }

theorem witness_LaneTrainingDecidesAPort :
    alignS.aligning 0 = true ∧ (0 : Fin 8).val < alignS.ports[(0 : Fin 4)].lanes
    ∧ (after (.laneAlignmentDone 0 0) alignS).ports[(0 : Fin 4)].enabled = true
    ∧ (after (.laneTrainTimeout 0 0 0) alignS).ports[(0 : Fin 4)].refused = true
    ∧ (after (.laneTrainTimeout 0 0 0) alignS).transports[(0 : Fin 4)].hold = 0
    ∧ (after (.lineBoundary 0 false [] 0) (after (.laneTrainTimeout 0 0 0) alignS)).transports[(0 : Fin 4)].hold = 0x40 := by decide

/-- A gap boundary with nothing amiss, and one with the cover open and CAL_FAIL_LIMIT reached. -/
def gapBadS : State := { frontS with
  covers := State.reset.covers, ports := vmod frontS.ports 0 fun p => { p with calFailRun := 8 } }

theorem witness_GapBoundaryReportsEveryCause :
    frontS.up = true ∧ frontS.tports 0 = [0] ∧ frontS.transports[(0 : Fin 4)].phase = .gap
    ∧ frontS.transports[(0 : Fin 4)].calNow = false ∧ frontS.transports[(0 : Fin 4)].pendBind = false
    ∧ (after (.lineBoundary 0 false [] 0) frontS).transports[(0 : Fin 4)].hold = 0
    ∧ (after (.lineBoundary 0 false [] 0) frontS).transports[(0 : Fin 4)].feedHold = false
    ∧ (after (.lineBoundary 0 false [] 0) frontS).transports[(0 : Fin 4)].enable = true
    ∧ (after (.lineBoundary 0 false [] 0) gapBadS).transports[(0 : Fin 4)].hold = 0x14
    ∧ (after (.lineBoundary 0 false [] 0) gapBadS).transports[(0 : Fin 4)].enable = false := by decide

theorem witness_SheetIsCommittedWhole :
    frontS.sidesOf 0 = [0] ∧ (frontS.takeSheet (frontS.sidesOf 0)).isSome = true
    ∧ frontS.sideReserve * (frontS.sidesOf 0).length ≤ frontS.spoolFree
    ∧ (after (.lineBoundary 0 true [] 0) frontS).transports[(0 : Fin 4)].sheets = 1
    ∧ (after (.lineBoundary 0 true [] 0) frontS).transports[(0 : Fin 4)].phase = .calib true .dark 0
    ∧ ((after (.lineBoundary 0 true [] 0) frontS).sides.map fun x => (x.sideId, x.sheetId, x.gait)) = [(32, 4, 0)]
    ∧ (after (.lineBoundary 0 true [] 0) gapBadS).transports[(0 : Fin 4)].sheets = 0
    ∧ (after (.lineBoundary 0 true [] 0) gapBadS).sides = [] := by decide

/-- A committed sheet whose capture line 0 is being read. -/
def captureS : State := { frontS with
  sides := [{ side0 with stage := .capturing, tStart := none }]
  transports := vmod frontS.transports 0 fun x => { x with phase := .capture 0, sheetSides := [5] } }

/-- An 8-bit sample of 100 is 1,600 of 12 bits; with the default table it is corrected to 95 of 243 at full scale (R48, R50). -/
theorem witness_CaptureLineIsTaken :
    captureS.up = true ∧ captureS.tports 0 ≠ [] ∧ captureS.transports[(0 : Fin 4)].phase = .capture 0
    ∧ captureS.transports[(0 : Fin 4)].pendCover = false ∧ captureS.transports[(0 : Fin 4)].pendCart = []
    ∧ 0 + 1 < captureS.sheetLines 0 ∧ captureS.maxDelay 0 ≤ 0 ∧ (captureS.sideDef 0).lines = 4
    ∧ captureS.lineInput 0 [[100, 100, 100]] = [(0, [100, 100, 100])]
    ∧ (after (.lineBoundary 0 true [[100, 100, 100]] 0) captureS).transports[(0 : Fin 4)].phase = .capture 1
    ∧ (after (.lineBoundary 0 true [[100, 100, 100]] 0) captureS).ports[(0 : Fin 4)].underrunLines = 1
    ∧ ((after (.lineBoundary 0 true [[100, 100, 100]] 0) captureS).sides.map fun x => (x.assembled, (x.visRows.getD 0 []).take 4))
      = [(1, [95, 95, 95, 0])] := by decide

/-- A side past its T_START with one of its four lines still held. -/
def flushS : State := { frontS with sides := [{ side0 with
  stage := .capturing, assembled := 4, emitted := 3, images := [⟨0, false, 8, 4, 64, 0x20000000⟩]
  visRows := [[1], [2], [3], [4, 5]] }] }

theorem witness_DeskewBufferFlushes :
    ((flushS.side? 5).map fun x => (x.stage, x.tStart.isSome, decide (x.emitted < x.assembled))) = some (.capturing, true, true)
    ∧ ((after (.deskewFlushLine 5 0) flushS).sides.map fun x => (x.emitted, x.stage)) = [(4, .arriving)]
    ∧ (after (.deskewFlushLine 5 0) flushS).mem.bytes 0x200000C0 3 = [4, 5, 0] := by decide +kernel

theorem witness_CoversActOnTheirTransport :
    frontS.up = true ∧ frontS.feCtrl.getLsbD 0 = true ∧ frontS.covers[(0 : Fin 4)] = true
    ∧ (after (.coverLevelAccept 0 false 0) frontS).transports[(0 : Fin 4)].pendCover = true
    ∧ gapBadS.covers[(0 : Fin 4)] = false ∧ gapBadS.up = true ∧ gapBadS.feCtrl.getLsbD 0 = true
    ∧ (after (.coverLevelAccept 0 true 0) gapBadS).ports[(0 : Fin 4)].cart.pending = true := by decide

/-- No cartridge, a known one entered in the store, and a transport whose calibrations have failed. -/
def cartS (c : Cart) : State := { frontS with
  ports := vmod frontS.ports 0 fun p => { p with cart := c, lines := 7, calFailRun := 8 }
  store := { frontS.store with carts := modAt frontS.store.carts 2 fun x => { x with used := true, serial := 0x55 } }
  transports := vmod frontS.transports 0 fun x => { x with calDue := some 1000 } }

def knownCart : Cart := { Cart.reset with present := true, known := true, serial := 0x55, result := some .passed }

theorem witness_CartridgesComeAndGo :
    (cartS Cart.reset).up = true ∧ (cartS Cart.reset).ports[(0 : Fin 4)].cfgEn = true
    ∧ (cartS Cart.reset).ports[(0 : Fin 4)].cart.present = false
    ∧ (after (.cartInsert 0 0) (cartS Cart.reset)).ports[(0 : Fin 4)].cart.pending = true
    ∧ (cartS knownCart).ports[(0 : Fin 4)].cart = knownCart ∧ knownCart.present = true ∧ knownCart.pending = false
    ∧ (after (.cartRemoval 0 0) (cartS knownCart)).transports[(0 : Fin 4)].pendCart = [0]
    ∧ (after (.cartReauthTimer 0 0) (cartS knownCart)).ports[(0 : Fin 4)].cart.periodicDue = true
    ∧ (cartS knownCart).cartIndex 0x55 = some 2
    ∧ ((after (.cartCounterCommit 0 .noResponse 0) (cartS knownCart)).store.carts.map (·.lines)).take 3 = [0, 0, 7]
    ∧ (cartS knownCart).transports[(0 : Fin 4)].calDue = some 1000 ∧ (cartS knownCart).calOut 0 = true
    ∧ (after (.calRetryTimer 0 1000) (cartS knownCart)).transports[(0 : Fin 4)].calNow = true := by decide

/-- A challenge whose GET_DESCRIPTOR fails, in an authentication that holds the transport and in one between sheets. -/
def exchBad (a : ChipAnswer) : CartExchange := ⟨a, .noResponse, .noResponse⟩

theorem witness_CartridgeAuthenticationEnds :
    (cartS { knownCart with pending := true, failures := 2 }).up = true
    ∧ (after (.cartI2cRetry 0 none 0) (cartS { knownCart with pending := true, failures := 1 })).ports[(0 : Fin 4)].cart.failures = 2
    ∧ (after (.cartI2cRetry 0 none 0) (cartS { knownCart with pending := true, failures := 2 })).ports[(0 : Fin 4)].cart.exhausted
      = some .noResponse
    ∧ responseOk [0, 1, 2, 3] = false
    ∧ (after (.cartI2cRetry 0 (some [0, 1, 2, 3]) 0) (cartS { knownCart with periodicRun := true, failures := 2 })).ports[(0 : Fin 4)].cart.exhausted
      = some .badCheck
    ∧ (after (.cartAuthDone 0 (exchBad .noResponse) 0) (cartS { Cart.reset with pending := true })).ports[(0 : Fin 4)].cart.result
      = some .absent
    ∧ (after (.cartAuthDone 0 (exchBad .error) 0) (cartS { knownCart with pending := true })).ports[(0 : Fin 4)].cart.result
      = some .chipError
    ∧ (after (.cartAuthDone 0 (exchBad .badCheck) 0) (cartS { knownCart with pending := true })).ports[(0 : Fin 4)].cart.result
      = some .badCheck
    ∧ (byteAt (sliceAt [2, 0] 0 216) 0 ≠ 1)
    ∧ (after (.cartAuthDone 0 (exchBad (.ok [2, 0])) 0) (cartS { knownCart with periodicRun := true })).ports[(0 : Fin 4)].cart.waiting
      = some .version := by decide

/-! ## Input decode -/

/-- A G4 entry of 4 x 2 pixels on stream 1. -/
def entry0 : Entry where
  index := none
  stream := 1
  format := 1
  eos := false
  augPresent := false
  part := 0
  gait := 2
  tag := 9
  timestamp := 0
  width := 4
  height := 2
  truthLen := 0
  payload := 0x9000
  length := 3
  aug := []

/-- Its T.6 payload: white 1, black 2, white 1; then a pass code and white to the end. -/
def staged0 : Staged := ⟨entry0, [0x23, 0xF1, 0x80], [], 500, 5, false⟩

/-- Stream 1 with that sample, or an empty one, pending; its side waits at stage 5. -/
def pendS (len : Nat) : State := { sideS (fun x => { x with host := true, stream := 1, stage := .capturing, tStart := some 500 }) with
  streams := vmod busyS.streams 1 fun x => { x with
    enabled := true, queue := [{ staged0 with entry := { entry0 with length := len } }] } }

theorem witness_DecodeStartsTheNextSample :
    (pendS 3).up = true ∧ (pendS 3).decoders[(1 : Fin 8)].run = none ∧ (pendS 3).power.hold = none ∧ isVideo 1 = false
    ∧ streamUnit 1 = 1 ∧ decoderUnit .image 1 = 1 ∧ (pendS 3).streams[(1 : Fin 64)].queue = [staged0]
    ∧ (pendS 3).recipeFor (Fin.ofNat 6 ((pendS 3).streamPart 1)) ((pendS 3).streamGait 1) = some recipe0
    ∧ (pendS 3).parts[Fin.ofNat 6 ((pendS 3).streamPart 1)].desc = some desc0
    ∧ (∀ m : Fin 64, m ≠ 1 → streamUnit m = 1 → (pendS 3).streams[m].queue = [])
    ∧ limitFault staged0.entry (lookStill staged0.entry staged0.payload) 4096 = none
    ∧ (pendS 3).framePlaceIn 0 desc0.captureBase desc0.captureFrames 1 = some 0x20000000
    ∧ ((after (.decodeStart .image 1 600) (pendS 3)).decoders[(1 : Fin 8)].run.map fun r =>
        (r.width, r.height, r.started, r.budget)) = some (4, 2, 600, 2000000)
    ∧ (pendS 0).streams[(1 : Fin 64)].queue.map (·.entry.length) = [0]
    ∧ ((after (.decodeStart .image 1 600) (pendS 0)).sides.map fun x => (x.stage, x.status))
      = [(.arriving, [(0x0201, 1)])] := by decide

/-- A unit that decodes that sample, on a stream that substitutes STATUS_ONLY. -/
def decodingS : State := { pendS 3 with
  streamA := (pendS 3).streamA.set 1 ((1 <<< 24) ||| (1 <<< 16))
  streams := vmod (pendS 3).streams 1 fun x => { x with queue := [] }
  frames := [⟨0, 0x20000000, 1, 5, false⟩]
  decoders := (pendS 3).decoders.set 1 { Decoder.reset with
    run := some ⟨1, staged0, 4, 2, 600, 2000000, 0, ⟨0, false, 4, 2, 64, 0x20000000⟩, none, 5, true⟩ } }

/-- The same unit on a payload that ends early. -/
def shortS (payload : List Byte) : State := { decodingS with
  decoders := vmod decodingS.decoders 1 fun x => { x with
    run := x.run.map fun r => { r with staged := { staged0 with payload := payload } } } }

/-- T.6: black is 0, white 255 (R84); a payload that ends before the last line is short (R92). -/
theorem witness_DecodeEndsWithAnImageOrAStatus :
    (decodingS.decoders[(1 : Fin 8)].run.map fun r => (decide (r.stream < 32), r.staged.entry.format, r.height, decide (r.width ≤ r.image.stride)))
      = some (true, 1, 2, true)
    ∧ (decodingS.side? 5).isSome = true ∧ decodingS.substStatus 1 = true ∧ decodingS.power.hold = none
    ∧ (decodingS.decoders[(1 : Fin 8)].run.map stillRows).isSome = true
    ∧ (after (.decodeDone 1 (.fail false) 700) decodingS).mem.bytes 0x20000000 4 = [255, 0, 0, 255]
    ∧ (after (.decodeDone 1 (.fail false) 700) decodingS).decoders[(1 : Fin 8)].pixels = 8
    ∧ ((after (.decodeDone 1 (.fail false) 700) (shortS [0x23])).sides.map fun x => (x.statusOnly, x.status)) = [(true, [(0x0205, 1)])]
    ∧ 600 + 0 + 2000000 ≤ 2000600
    ∧ ((after (.decodeBudgetExpire 1 2000600) decodingS).sides.map fun x => (x.statusOnly, x.status)) = [(true, [(0x0207, 1)])]
    ∧ (after (.decodeBudgetExpire 1 2000600) decodingS).frames = [] := by decide +kernel

/-- A side that waits for the picture of stream 32, whose window is 20 us; the pictures lie 5 us after and 6 us before. -/
def fuseS (pics : List Picture) (entered : List (DWord × Option Bool)) : State :=
  { sideS (fun x => { x with stage := .fusing, fuseStreams := [32], tStart := some 100000 }) with
    streamB := busyS.streamB.set 32 2
    streams := vmod busyS.streams 32 fun x => { x with pictures := pics, entered := entered } }

def pic (ts : DWord) : Picture := ⟨7, ts, true, ⟨0, true, 4, 4, 64, 0x20001000⟩, false⟩

theorem witness_FuseWindowSelectsAPicture :
    ((fuseS [] []).side? 5).map (fun x => (x.stage, x.statusOnly, x.fuseStreams, x.tStart))
      = some (.fusing, false, [32], some 100000)
    ∧ (fuseS [] []).fuseOffset 32 = 0 ∧ (fuseS [] []).fuseWindow 32 = 20000
    ∧ ((after (.fuseWindowExpire 5 120000) (fuseS [] [])).sides.map fun x => (x.stage, x.status)) = [(.arriving, [(0x020A, 32)])]
    ∧ fuseDist (pic 105000).timestamp 100000 = 5000 ∧ fuseDist (pic 94000).timestamp 100000 = 6000
    ∧ ((after (.fuseWindowExpire 5 120000) (fuseS [pic 94000, pic 105000] [])).sides.map fun x => (x.status, x.images.map (·.role)))
      = [([], [3])]
    ∧ ((after (.fuseWindowExpire 5 120000) (fuseS [pic 94000, pic 105000] [(101000, some false)])).sides.map (·.status))
      = [[(0x0208, 32)]] := by decide

/-! ## Engine commands -/

/-- The bytes from `pos` to `n` that hold the fields (offset, bytes, value), in ascending order of offset. -/
def fields (n : Nat) : Nat → List (Nat × Nat × Nat) → List Byte
  | pos, [] => List.replicate (n - pos) 0
  | pos, (o, k, v) :: rest => List.replicate (o - pos) 0 ++ leBytes k v ++ fields n (o + k) rest

/-- A descriptor of `op` in `len` 8-byte units with its fields; COMPL is at 0x4000 of the own paddock (R132). -/
def descr (op len : Nat) (l : List (Nat × Nat × Nat)) : List Byte :=
  fields (8 * len) 0 ([(0, 1, op), (1, 1, 1), (4, 2, len), (16, 8, 0x4000 + 2 <<< 44)] ++ l)

/-- A tensor reference at `o` of a descriptor: `d0` x `d1` x `d2` elements of format `f` (`w` bytes each) in rows at `a` of
the own paddock (R136). -/
def tref (o a f w d0 : Nat) (d1 d2 : Nat := 1) : List (Nat × Nat × Nat) :=
  [(o, 8, a + 2 <<< 44 + f <<< 48), (o + 8, 4, d0), (o + 12, 4, d1), (o + 16, 4, d2), (o + 20, 4, 1), (o + 24, 4, w * d0)
  , (o + 28, 4, w * d0 * d1), (o + 32, 4, w * d0 * d1 * d2)]

def call (d : List Byte) : EngCall := ⟨0, d, [], 7, 0, [], [], 0⟩

/-- Partition 0's engine with bytes in its paddock. -/
def paddockS (l : List (Nat × List Byte)) : State :=
  busyS.onEngine 0 fun g => { g with paddock := l.foldl (fun c x => cellsWrite 0 c x.1 x.2) [] }

/-- Whether an engine command issues, passes its checks and accesses, and can read its operands, on a state. -/
def passes (i : Instr) (s : State) : Bool :=
  match engineCmd i s with
  | none => false
  | some x => s.engines[x.call.engine].role == .inService && !x.other
    && decide (s.issueOf x.call.engine x.call.desc = .goes []) && x.judged.isNone
    && (faultsOf s x.call x.reads x.writes x.touch []).isEmpty
    && ((touchLines x.touch).all fun l => !(s.disturb x.call).mem.lineBad l) && (((x.start s).badAccesses x.touch).isEmpty)

/-- Bytes of the paddock of engine 0 after a command. -/
def pad (i : Instr) (s : State) (a n : Nat) : List Byte := cellsSlice 0 (after i s).engines[(0 : Fin 7)].paddock a n

/-- Status and flags of the completion word after a command. -/
def compl (i : Instr) (s : State) : List Byte := pad i s 0x4000 6

/-- MATMUL of a 1 x 2 by a 1 x 2 INT8 tensor into INT32, drained or not. -/
def matD (drain : Nat) : EngCall :=
  call (descr 0x01 32 (tref 32 0x100 1 1 2 ++ tref 80 0x200 1 1 2 ++ (if drain = 1 then tref 128 0x300 8 4 1 else [])
    ++ [(224, 4, 1), (228, 4, 1), (232, 4, 2), (237, 1, drain)]))

def matS : State := paddockS [(0x100, [3, 4]), (0x200, [5, 0xFA])]

/-- 3 x 5 + 4 x (-6) = -9 (R116). -/
theorem witness_MatmulHoldsItsAccumulators :
    passes (.matmul (matD 0)) matS = true ∧ (matDesc (matD 0).desc).drain = 0
    ∧ trefPair (matDesc (matD 0).desc).a (matDesc (matD 0).desc).b = some true
    ∧ (matS.scaleRows 0 (matDesc (matD 0).desc).a).isSome = true ∧ (matS.tensorBytes 0 (matDesc (matD 0).desc).a).isSome = true
    ∧ (matS.tensorBytes 0 (matDesc (matD 0).desc).b).isSome = true ∧ (matS.tensorBytes 0 (matDesc (matD 0).desc).bias).isSome = true
    ∧ (matS.epiSources 0 (matDesc (matD 0).desc).epi).isSome = true
    ∧ (after (.matmul (matD 0)) matS).engines[(0 : Fin 7)].held = some ⟨1, 1, .ints [-9], [5], []⟩
    ∧ mod7 (-9) = 5
    ∧ passes (.matmul (matD 1)) matS = true ∧ pad (.matmul (matD 1)) matS 0x300 4 = [0xF7, 0xFF, 0xFF, 0xFF] := by decide +kernel

/-- A VECTOR that adds its two FP32 inputs of `n` elements: FADD v4 = v0 + v1 (R145). -/
def vecD (n : Nat) : EngCall :=
  call (descr 0x02 61 (tref 32 0x100 7 4 n ++ tref 80 0x140 7 4 n ++ tref 224 0x180 7 4 n
    ++ [(320, 1, 1), (321, 1, 4), (324, 1, 2), (360, 4, 0x00040401)]))

/-- MOVE of `n` INT8 elements into FP16 (R147). -/
def movD (n : Nat) : EngCall := call (descr 0x03 17 (tref 32 0x100 1 1 n ++ tref 80 0x180 6 2 n))

/-- CONV of an image `w` pixels wide with one 1 x 1 weight (R152); POOL of one by a 1 x 1 window (R160); ARGMAX of two values
at each pixel (R166); BOXNMS of one candidate in corner form (R167). -/
def conD (w : Nat) : EngCall :=
  call (descr 0x10 34 (tref 32 0x100 1 1 1 w ++ tref 80 0x200 1 1 1 ++ tref 128 0x300 8 4 1 w
    ++ [(224, 4, 0x10001), (228, 4, 0x1010101), (240, 4, 1)]))
def poolD (w : Nat) : EngCall :=
  call (descr 0x11 19 (tref 32 0x100 1 1 1 w ++ tref 80 0x300 1 1 1 w ++ [(128, 4, 0x10001), (132, 4, 0x1010101)]))
def argD (w : Nat) : EngCall := call (descr 0x12 23 (tref 32 0x100 7 4 2 w ++ tref 80 0x300 8 4 1 w))
def nmsD : EngCall :=
  call (descr 0x13 40 (tref 32 0x100 7 4 4 ++ tref 80 0x200 7 4 1 ++ tref 176 0x300 7 4 8 ++ tref 224 0x380 8 4 1
    ++ [(272, 4, 1), (276, 2, 1), (278, 2, 1), (282, 2, 1), (284, 4, 0x3F000000)]))

/-- QUANTIZE of `n` FP32 values into INT8 with the static scale 0.5 (R178). -/
def quaD (n : Nat) : EngCall :=
  call (descr 0x20 23 (tref 32 0x100 7 4 n ++ tref 80 0x180 1 1 n
    ++ [(120, 8, 0x200 + 2 <<< 44 + 1 <<< 47), (128, 1, 2), (134, 2, 0x3800)]))

/-- ATTEND of one row over one FP16 key, and over the partial results of the partition's one member (R206, R214). -/
def attD : EngCall :=
  call (descr 0x30 61 (tref 32 0x100 7 4 16 ++ tref 80 0x300 7 4 16 ++ tref 128 0x180 6 2 16 ++ tref 176 0x1C0 6 2 16
    ++ [(464, 4, 0x3F800000), (469, 1, 6)]))
def mrgD : EngCall :=
  call (descr 0x30 61 (tref 80 0x300 7 4 16 ++ [(464, 4, 0x3F800000), (468, 1, 2), (469, 1, 6), (476, 4, 0x100)]))

/-- A paged reference to the KV root at 0x1000 of main memory (R206). -/
def kvRef (o : Nat) : List (Nat × Nat × Nat) := [(o, 8, 0x1000 + 6 <<< 52), (o + 8, 4, 16), (o + 16, 4, 1), (o + 20, 4, 1)]

/-- KV_APPEND of `n` tokens and KV_EDITs of every operation over page 0 (R217, R220). -/
def appD (n : Nat) : EngCall :=
  call (descr 0x31 42 (tref 32 0x100 7 4 16 n ++ tref 80 0x140 7 4 16 n ++ kvRef 128))
def editD (op : Nat) : EngCall := call (descr 0x32 19 (kvRef 32 ++ [(80, 1, op)]))

/-- A root of one layer, one head of 16, one level, INT8 pages of one frame, a budget of one page (R199). -/
def rootB : List Byte :=
  fields 512 0 [(0, 1, 1), (3, 1, 1), (5, 1, 1), (6, 1, 1), (7, 1, 1), (11, 1, 1), (12, 2, 16), (14, 1, 1)
    , (15, 1, 1), (16, 2, 1), (18, 2, 128), (24, 8, 0x100000), (32, 4, 4), (36, 2, 1), (40, 8, 0x200000)
    , (48, 4, 0x3F800000), (64, 8, 0x2000)]

/-- That root with no page: no entry of its layer block is valid. -/
def kvS : State := busyS.mainPut 0x1000 rootB

/-- ROUTE of `t` tokens to one expert (R233). -/
def rouD (t : Nat) : EngCall :=
  call (descr 0x40 31 (tref 32 0x100 7 4 1 t ++ tref 128 0x300 2 1 32 t
    ++ [(176, 1, 1), (177, 1, 1), (180, 2, 1), (182, 2, 1), (184, 4, t)]))

/-- ADAPT_UPDATE in each mode over `n` elements (R248). -/
def augD (n : Nat) : EngCall := call (descr 0x42 50 (tref 32 0x100 2 1 1 n ++ tref 80 0x200 2 1 16 ++ tref 224 0x300 2 1 1 n))
def graD (n : Nat) : EngCall :=
  call (descr 0x42 50 (tref 32 0x100 7 4 1 n ++ tref 176 0x200 2 1 16 ++ tref 224 0x300 4 1 1 n ++ tref 320 0x380 2 1 4
    ++ [(368, 1, 1)]))
def stpD (n : Nat) : EngCall :=
  call (descr 0x42 50 (tref 32 0x100 5 2 1 n ++ tref 80 0x140 4 1 1 n ++ tref 128 0x800 2 1 (520 * n) ++ tref 176 0x200 2 1 16
    ++ tref 224 0x300 5 2 1 n ++ tref 272 0x1000 2 1 (520 * n) ++ tref 320 0x380 2 1 12
    ++ [(368, 1, 2), (384, 4, 0x3F800000)]))

theorem witness_EngineCommandsComplete :
    ([.matmul (matD 1), .vector (vecD 1), .move (movD 2), .conv (conD 1), .pool (poolD 1), .argmax (argD 1), .boxnms nmsD
      , .quantize (quaD 2), .attend attD, .attendMerge mrgD, .route (rouD 1), .adaptAugment (augD 1), .adaptGrad (graD 1)
      , .adaptStep (stpD 1)] : List Instr).all (fun i => passes i busyS) = true := by decide +kernel

theorem witness_EngineCommandsComplete_kv :
    ([.kvAppend (appD 1), .kvEditPin (editD 0), .kvEditUnpin (editD 1), .kvEditDrop (editD 2), .kvEditConvert (editD 3)
      , .kvEditReset (editD 4), .kvEditSetGlobals (editD 5)] : List Instr).all (fun i => passes i kvS) = true := by decide +kernel

/-- What some rows compute: 1.0 + 2.0 = 3.0 in FP32; the larger of 1.0 and 2.0 is at index 1; 1.0 by the scale 0.5 is 2 (R180);
the one key's value is the attention (R210); the router's one expert has weight 1.0 (R235). -/
theorem test_engine_rows_compute :
    pad (.vector (vecD 1)) (paddockS [(0x100, [0, 0, 0x80, 0x3F]), (0x140, [0, 0, 0, 0x40])]) 0x180 4 = [0, 0, 0x40, 0x40]
    ∧ pad (.argmax (argD 1)) (paddockS [(0x100, [0, 0, 0x80, 0x3F, 0, 0, 0, 0x40])]) 0x300 4 = [1, 0, 0, 0]
    ∧ pad (.quantize (quaD 2)) (paddockS [(0x100, [0, 0, 0x80, 0x3F, 0, 0, 0, 0xC0])]) 0x180 2 = [2, 0xFC]
    ∧ pad (.conv (conD 1)) (paddockS [(0x100, [3]), (0x200, [0xFE])]) 0x300 4 = [0xFA, 0xFF, 0xFF, 0xFF]
    ∧ pad (.pool (poolD 1)) (paddockS [(0x100, [3])]) 0x300 1 = [3]
    ∧ pad (.attend attD) (paddockS [(0x1C0, [0, 0x3C, 0, 0x40])]) 0x300 8 = [0, 0, 0x80, 0x3F, 0, 0, 0, 0x40] := by decide +kernel

/-- A MATMUL with DESC_LEN 31 ends with DESC_LENGTH; one whose hardware raised a fault ends with it; one whose operand in
main memory is poisoned ends with BUS_ERROR (R133, R402, R139). -/
def longD : EngCall := call (descr 0x01 31 [])
def raisedD : EngCall := { matD 1 with hw := [0x0203, 0x0181] }
def mainD : EngCall :=
  call (descr 0x03 17 ([(32, 8, 0x3000 + 1 <<< 48), (40, 4, 2), (44, 4, 1), (48, 4, 1), (52, 4, 1)] ++ tref 80 0x180 1 1 2))
def poisonS : State :=
  let s := busyS.mainPut 0x3000 [1, 2]
  { s with mem := s.mem.poison 0x3000 }

theorem witness_EngineCommandsFail :
    ((engineCmd (.matmul longD) busyS).map fun x => (x.other, x.judged)) = some (false, some 4)
    ∧ busyS.engines[(0 : Fin 7)].role = .inService ∧ compl (.matmul longD) busyS = [4, 0, 0, 0, 0, 0]
    ∧ ((engineCmd (.matmul raisedD) busyS).map fun x => (x.other, x.judged, lowest (faultsOf busyS x.call x.reads x.writes x.touch [])))
      = some (false, none, some 0x0181)
    ∧ compl (.matmul raisedD) busyS = [0x81, 1, 0, 0, 0, 0]
    ∧ ((engineCmd (.move mainD) poisonS).map fun x => (x.other, x.judged, (touchLines x.touch).map poisonS.mem.lineBad)) = some (false, none, [true])
    ∧ compl (.move mainD) poisonS = [9, 0, 0, 0, 0, 0] := by decide +kernel

theorem witness_EmptyExtentsWriteNothing :
    ([.vector (vecD 0), .move (movD 0), .conv (conD 0), .pool (poolD 0), .argmax (argD 0), .quantize (quaD 0), .route (rouD 0)
      , .adaptAugment (augD 0), .adaptGrad (graD 0), .adaptStep (stpD 0)] : List Instr).all (fun i => passes i busyS) = true
    ∧ passes (.kvAppend (appD 0)) kvS = true
    ∧ (vecDesc (vecD 0).desc).out0.empty = true ∧ (convDesc (conD 0).desc).nothing = true
    ∧ (routeDesc (rouD 0).desc).t = 0 ∧ (appDesc (appD 0).desc).count = 0
    ∧ ([movD 0, quaD 0, poolD 0, argD 0, augD 0, graD 0, stpD 0].all fun c => (trefAt c.desc 32).empty) = true
    ∧ compl (.conv (conD 0)) busyS = [0, 0, 0, 0, 1, 0] := by decide +kernel

theorem witness_MoveCopiesAVector :
    passes (.move (movD 2)) busyS = true ∧ moveSwaps (movD 2).desc = false ∧ (trefAt (movD 2).desc 32).layout ≠ 5
    ∧ ((fun b : Tref => (b.layout, b.space, b.d0, b.d1, b.d2, b.d3, b.addr + b.footBytes)) (trefAt (movD 2).desc 80))
      = (0, 2, 2, 1, 1, 1, 0x184)
    ∧ (trefAt (movD 2).desc 80).fmt ≠ .int4
    ∧ busyS.locate 0 (dComplSpace (movD 2).desc) (dComplAddr (movD 2).desc) 16 = .ok ⟨.paddock 0, 0x4000, 0x4010⟩
    ∧ pad (.move (movD 2)) (paddockS [(0x100, [3, 0xFE])]) 0x180 4 = [0, 0x42, 0, 0xC0] := by decide +kernel

theorem witness_KvEditOfNothingChangesNothing :
    ([0, 1, 2, 3, 4].all fun op =>
      let x := editDesc (editD op).desc
      let r := kvS.memberRoot 0 x.kv
      x.op == op && (r.fault 1 0).isNone && r.dim == x.kv.d0 && r.heads == x.kv.d2 && decide (x.layer < r.layers)
        && (r.legal x.newFmt).isSome && ascending r.globals && r.globals.isEmpty
        && x.deepOk r r.globals && (match kvS.editPages 0 r x with
          | .ok l => l.isEmpty
          | .error _ => false)) = true
    ∧ kvS.engines[(0 : Fin 7)].part = some 0 ∧ kvS.parts[(0 : Fin 6)].engines = 1 ∧ kvS.engines[(0 : Fin 7)].logical = 0
    ∧ compl (.kvEditDrop (editD 2)) kvS = [0, 0, 0, 0, 0, 1] := by decide +kernel

/-- A step of partition 0 in progress with context 3. -/
def run0 : StepRun where
  gait := 2
  template := 0
  line := false
  stepId := 7
  contexts := [3]
  started := 1000
  bound := 5000
  mode := .first
  retired := []
  done := []
  faults := []
  previous := []
  faultCount := 0
  fencing := []
  faultAt := 0
  waitRemount := false
  lists := []
  members := [0]
  recovered := false
  exchanges := []
  exchAreas := []
  exchCounts := []
  masters := []
  roots := []
  takenSlots := []
  freedSlots := []
  takenBlocks := []
  freedBlocks := []
  spareDraws := []
  heldFill := []
  excluded := []
  oldestReady := 900
  scratch := (0, 0)
  spill := 0

/-- The chip with a step in progress; its partition has 64 KiB of the arena. -/
def stepS (f : StepRun → StepRun) : State :=
  let s := withPart busyS 0 fun x => { x with step := some (f run0) }
  { s with boot := { s.boot with limits := { s.boot.limits with arenaBase := [0], arenaBytes := [0x10000] } } }

/-- EXCHANGE of one token in a partition of one member; `cap` 0 is out of range (R238). -/
def dspD (cap : Nat) : EngCall :=
  call (descr 0x41 31 (tref 32 0x100 1 1 16 ++ tref 80 0x200 2 1 32 ++ tref 128 0x300 1 1 16
    ++ [(176, 8, 0x1000 + 1 <<< 44 + 1 <<< 48), (184, 4, 16), (188, 4, 8), (192, 4, 1), (196, 4, 1), (200, 4, 16), (204, 4, 128)
      , (208, 4, 128), (224, 4, 0x800), (228, 2, 5), (231, 1, 1), (232, 4, 1), (236, 2, cap), (238, 2, 1)]))
def cmbD : EngCall :=
  call (descr 0x41 31 ([(32, 8, 0x1000 + 1 <<< 44 + 7 <<< 48), (40, 4, 16), (44, 4, 8), (48, 4, 1), (52, 4, 1), (56, 4, 64)
      , (60, 4, 512), (64, 4, 512)] ++ tref 80 0x200 2 1 32 ++ tref 128 0x300 7 4 16 ++ tref 176 0x380 7 4 16
    ++ [(224, 4, 0x800), (228, 2, 5), (230, 1, 1), (231, 1, 1), (232, 4, 1), (236, 2, 1), (238, 2, 1)]))

theorem witness_ExchangeIsIssued :
    otherPhase (dspD 1).desc 0 = false ∧ otherPhase cmbD.desc 1 = false
    ∧ (stepS id).engines[(0 : Fin 7)].role = .inService ∧ (stepS id).engines[(0 : Fin 7)].part = some 0
    ∧ (stepS id).parts[(0 : Fin 6)].step = some run0
    ∧ ([dspD 1, cmbD].all fun c =>
        let x := exchDesc c.desc
        decide ((stepS id).issueOf 0 c.desc = .goes []) && ((stepS id).judgeExch 0 c.desc).isNone
          && (faultsOf (stepS id) c ((stepS id).exchReads 0 x) ((stepS id).exchWrites 0 x ++ (stepS id).rowFields 0 x)
              ((stepS id).exchTouch 0 x) []).isEmpty
          && (stepS id).rowsValid 0 x) = true
    ∧ touchLines ((stepS id).exchTouch 0 (exchDesc (dspD 1).desc)) = []
    ∧ ((stepS id).reading (dspD 1) ((stepS id).exchTouch 0 (exchDesc (dspD 1).desc))).badAccesses ((stepS id).exchTouch 0 (exchDesc (dspD 1).desc)) = []
    ∧ ((after (.exchangeDispatch (dspD 1)) (stepS id)).parts[(0 : Fin 6)].step.map (·.exchanges.length)) = some 1
    ∧ (stepS id).judgeExch 0 (dspD 0).desc = some 6
    ∧ compl (.exchangeDispatch (dspD 0)) (stepS id) = [6, 0, 0, 0, 0, 0] := by decide +kernel

/-- A DISPATCH whose rows take their scales from the entries at 0x900, the first picked; its scale is 0 or 1.0 (R177). -/
def rowD : EngCall :=
  call (descr 0x41 31 (tref 32 0x100 1 1 16 ++ [(72, 8, 0x900 + 2 <<< 44 + 1 <<< 47)] ++ tref 80 0x200 2 1 32 ++ tref 128 0x300 1 1 16
    ++ [(168, 8, 0x980 + 2 <<< 44 + 1 <<< 47), (176, 8, 0x1000 + 1 <<< 44 + 1 <<< 48), (184, 4, 16), (188, 4, 8), (192, 4, 1)
      , (196, 4, 1), (200, 4, 16), (204, 4, 128), (208, 4, 128), (216, 8, 0x8000 + 1 <<< 44 + 1 <<< 47), (224, 4, 0x800)
      , (228, 2, 5), (231, 1, 1), (232, 4, 1), (236, 2, 1), (238, 2, 1)]))
def rowS (scale : Nat) : State := (stepS id).onEngine 0 fun g => { g with
  paddock := cellsWrite 0 (cellsWrite 0 g.paddock 0x900 (leBytes 2 scale)) 0x200 [1, 0] }

/-- A partition of two members whose first, or both, have issued; the second may disagree in CAPACITY. -/
def rdvS (n cap : Nat) : State :=
  let s := stepS fun r => { r with
    members := [0, 1], exchanges := ([⟨0, (dspD 1).desc, 7⟩, ⟨1, (dspD cap).desc, 7⟩] : List ExchIssue).take n }
  { s with
    engines := s.engines.set 1 { Engine.reset with role := .inService, part := some 0, logical := 1 }
    parts := vmod s.parts 0 fun x => { x with engines := 2 } }

theorem witness_RendezvousLandsTheExchange :
    ((rdvS 1 1).waiting 0).length = 1 ∧ ((rdvS 1 1).stepMembers 0) = [0, 1] ∧ (rdvS 1 1).parts[(0 : Fin 6)].step.isSome = true
    ∧ (((rdvS 2 2).waiting 0).map fun k => (k.engine, k.x.exchId, k.x.phase)) = [(0, 5, 0), (1, 5, 0)]
    ∧ (((rdvS 2 2).waiting 0).map (·.x.cap)) = [1, 2]
    ∧ (after (.exchangeRendezvous 0 5 0) (rdvS 2 2)).engines[(1 : Fin 7)].lastFault = 0x0140
    ∧ ((rdvS 2 1).waiting 0).length = 2 ∧ (∀ e ∈ ([0, 1] : List (Fin 7)), (rdvS 2 1).engines[e].part = some 0)
    ∧ ((after (.exchangeRendezvous 0 5 0) (rdvS 2 1)).parts[(0 : Fin 6)].step.map fun r => (r.exchanges.length, r.retired))
      = some (0, [(0, 0), (1, 0)]) := by decide +kernel

theorem witness_ExchangeIsIssued_scales :
    (stepS id).judgeExch 0 rowD.desc = none
    ∧ ([rowS 0x3C00, rowS 0x7C00].map fun s => (s.readRows 0 (exchDesc rowD.desc), s.rowsValid 0 (exchDesc rowD.desc)))
      = [([0], true), ([0], false)]
    ∧ (let x := exchDesc rowD.desc
      faultsOf (rowS 0x7C00) rowD ((rowS 0x7C00).exchReads 0 x) ((rowS 0x7C00).exchWrites 0 x ++ (rowS 0x7C00).rowFields 0 x) ((rowS 0x7C00).exchTouch 0 x) []) = []
    ∧ compl (.exchangeDispatch rowD) (rowS 0x7C00) = [0x20, 1, 0, 0, 0, 0]
    ∧ ((after (.exchangeDispatch rowD) (rowS 0x3C00)).parts[(0 : Fin 6)].step.map (·.exchanges.length)) = some 1 := by decide +kernel

/-- A MOVE from the arena, one byte of which has flipped: its step faults and it does not retire (R333). -/
def arenaD : EngCall := { call (descr 0x03 17 ([(32, 8, 0x100 + 1 <<< 44 + 1 <<< 48), (40, 4, 2), (44, 4, 1), (48, 4, 1), (52, 4, 1)]
  ++ tref 80 0x180 1 1 2)) with sram := [⟨.arena, 0x101, 1, false⟩] }

theorem witness_EngineCommandsFail_scratch :
    ((engineCmd (.move arenaD) (stepS id)).map fun x => (x.other, x.judged
      , (((stepS id).reading x.call x.touch).badAccesses x.touch).map fun b => decide (b.1 = .arena))) = some (false, none, [true])
    ∧ ((after (.move arenaD) (stepS id)).parts[(0 : Fin 6)].step.map fun r => (r.retired, r.faults.length)) = some ([], 1)
    ∧ (after (.move arenaD) (stepS id)).host.chip[Chip.sramFailures] = 1 := by decide +kernel
/-! ## Steps, binding and recovery -/

/-- Ready contexts of TROT, the second the elder, and nothing else. -/
def readyS (l : List Context) : State := { sideS (fun x => { x with stage := .active }) with contexts := l }

theorem witness_StepIsFormedAndIssued :
    let s := readyS [ctx0, { ctx0 with id := 4, side := 6, tStart := 500 }]
    s.mayStep 0 = true ∧ (readyS []).mayStep 0 = true ∧ (readyS []).readyGaits 0 = []
    ∧ s.readyGaits 0 = [2] ∧ (s.readyOf 0 2).map (·.id) = [4, 3] ∧ s.parts[(0 : Fin 6)].desc = some desc0
    ∧ s.recipeFor 0 2 = some recipe0 ∧ s.templateOf ctx0 = some 0 ∧ recipe0.templates[0]? = some ⟨5000, 4, 1, 2, 0, 0, [(0, 0)]⟩
    ∧ s.slotFor 0 2 = some 0 ∧ 1 ≤ desc0.maxBatch ∧ s.logAllowOf ⟨5000, 4, 1, 2, 0, 0, [(0, 0)]⟩ ctx0 ≤ 16384
    ∧ desc0.scratchFits (scratchOf [] 1) = true ∧ desc0.scratchFits (scratchOf [(1, 0)] 1) = false
    ∧ (after (.stepIssue ⟨0, [(300, 0), (300, 0)]⟩ 9) s).parts[(0 : Fin 6)].step = none
    ∧ ((after (.stepIssue ⟨0, [(1, 0), (0, 0)]⟩ 9) (readyS [ctx0])).parts[(0 : Fin 6)].step.map fun r => (r.contexts, r.spill)) = some ([3], 1)
    ∧ ((after (.stepIssue ⟨0, []⟩ 9) s).parts[(0 : Fin 6)].step.map fun r => (r.contexts, r.gait, r.template, r.bound)) = some ([4, 3], 2, 0, 5000)
    ∧ (after (.stepIssue ⟨0, []⟩ 9) s).parts[(0 : Fin 6)].vTime[(2 : Fin 4)] = 12800 := by decide +kernel

/-- A step of context 3 whose engine has retired its last command, or not. -/
def retireS (d : List (Fin 7)) : State :=
  { readyS [{ ctx0 with state := .inStep }] with
    parts := vmod busyS.parts 0 fun x => { x with step := some { run0 with done := d } } }

theorem witness_StepRetires :
    (retireS []).stepDone 0 run0 = false ∧ (retireS [0]).stepDone 0 { run0 with done := [0] } = true
    ∧ (retireS [0]).parts[(0 : Fin 6)].step = some { run0 with done := [0] }
    ∧ (retireS [0]).context? 3 = some { ctx0 with state := .inStep }
    ∧ (retireS [0]).side? 5 = some { side0 with stage := .active } ∧ side0.switched = false ∧ (retireS [0]).linesOpen 5 = false
    ∧ (after (.stepRetire 0 [] 7000) (retireS [0])).parts[(0 : Fin 6)].step = none
    ∧ (after (.stepRetire 0 [] 7000) (retireS [0])).parts[(0 : Fin 6)].spur[(2 : Fin 4)].window = [(6100, 5000)]
    ∧ ((after (.stepRetire 0 [] 7000) (retireS [0])).contexts.map fun c => (c.chainPos, c.state)) = [(1, .ready)]
    ∧ (after (.stepRetire 0 [] 7000) (retireS [])).parts[(0 : Fin 6)].step.isSome = true := by decide +kernel

/-- A rebinding to plan 0, which binds partition 0, at a stage; a step in progress, an engine on, or a supply hold. -/
def rebindS (st : RebindStage) (run : Option StepRun) (on : DWord) : State := { busyS with
  rebind := ⟨st, 0, [0, 1], true, [(0, 42, false)]⟩
  parts := vmod busyS.parts 0 fun x => { x with rebinding := true, step := run }
  power := { busyS.power with domains := on.setWidth _ }
  boot := { busyS.boot with plans := [[some desc0]] } }

theorem witness_RebindingDrainsThenBinds :
    (rebindS .draining none 1).holderActs = true ∧ (rebindS .draining (some run0) 1).rebind.stage = .draining
    ∧ (rebindS .draining (some run0) 1).parts[(0 : Fin 6)].step ≠ none
    ∧ (after (.rebindDrained 9) (rebindS .draining (some run0) 1)).rebind.stage = .draining
    ∧ ((List.finRange 6).all fun p => (rebindS .draining none 1).parts[p].step.isNone) = true
    ∧ (after (.rebindDrained 9) (rebindS .draining none 1)).rebind.stage = .loading
    ∧ (rebindS .loading none 0).engines[(0 : Fin 7)].part ≠ none ∧ (rebindS .loading none 0).power.domains.getLsbD 0 = false
    ∧ (after (.rebindComplete 9) (rebindS .loading none 0)).rebind.stage = .loading
    ∧ ((List.finRange 7).all fun e => (rebindS .loading none 1).engines[e].part.isNone
        || (rebindS .loading none 1).power.domains.getLsbD e.val) = true
    ∧ (rebindS .loading none 1).power.hold = none ∧ descIn ((rebindS .loading none 1).planAt 0) 0 = some desc0
    ∧ (after (.rebindComplete 9) (rebindS .loading none 1)).rebind.stage = .idle
    ∧ (after (.rebindComplete 9) (rebindS .loading none 1)).parts[(0 : Fin 6)].lWorst = 42
    ∧ (after (.rebindComplete 9) (rebindS .loading none 1)).host.box.outcome = some (0, 0) := by decide +kernel

/-- Partition 0 leaves its binding: slot 0 stages a recipe for it and slot 1 one for it and partition 1. -/
def switchS (f : Side → Side) (run : Option StepRun) : State := { sideS f with
  parts := vmod busyS.parts 0 fun x => { x with binding := true, nextRecipes := some [1, 1, 1, 1], step := run }
  boot := { busyS.boot with
    recipes := (busyS.boot.recipes.set 0 { RecipeSlot.empty with
      bound := some recipe0, staged := some { recipe0 with seq := 5 }, pendPart := [0] }).set 1 { RecipeSlot.empty with staged := some { recipe0 with seq := 6 }, pendPart := [0, 1] } } }

theorem witness_PartitionSwitchesItsRecipes :
    (switchS id none).holderActs = true ∧ (switchS id none).power.hold = none
    ∧ (switchS id none).parts[(0 : Fin 6)].binding = true ∧ (switchS id none).parts[(0 : Fin 6)].desc = some desc0
    ∧ ((switchS id none).sides.map fun x => (x.part, x.newRecipe, decide (x.stage ≠ .ready))) = [(0, false, true)]
    ∧ (after (.recipeBindSwitch 0 9) (switchS id none)).parts[(0 : Fin 6)].binding = true
    ∧ ((switchS (fun x => { x with newRecipe := true }) none).sides.map (·.newRecipe)) = [true]
    ∧ (after (.recipeBindSwitch 0 9) (switchS (fun x => { x with newRecipe := true }) none)).parts[(0 : Fin 6)].binding = false
    ∧ ((after (.recipeBindSwitch 0 9) (switchS (fun x => { x with newRecipe := true }) none)).boot.recipes[(0 : Fin 16)].bound.map (·.seq))
      = some 5
    ∧ (after (.recipeBindSwitch 0 9) (switchS (fun x => { x with newRecipe := true }) none)).boot.recipes[(1 : Fin 16)].pendPart = [1]
    ∧ (after (.recipeBindSwitch 0 9) (switchS (fun x => { x with newRecipe := true }) (some run0))).parts[(0 : Fin 6)].binding = true
    := by decide +kernel

/-- A step whose one posted command is a MOVE with DONE_BY 3,000, in a SCHEDULED partition. -/
def postedS : State :=
  let s := busyS.mainPut 0x3000 (patchAt (movD 2).desc 3 [2])
  let b := fields 240 0 [(176, 4, 200), (180, 4, 32), (184, 4, 240), (188, 4, 136), (220, 4, 3000)] ++ (movD 2).desc
  { s with
    parts := vmod s.parts 0 fun x => { x with desc := some { desc0 with mode := 1 }, step := some { run0 with lists := [0x3000] } }
    boot := { s.boot with recipes := s.boot.recipes.set 0 { RecipeSlot.empty with bound := some { recipe0 with
      bytes := b
      templates := [⟨5000, 4, 1, 2, 0, 0, [(0, 17)]⟩] } } } }

def postedRun : StepRun := { run0 with lists := [0x3000] }

theorem witness_WatchdogAndOverrunEndCommands :
    postedS.parts[(0 : Fin 6)].step = some postedRun ∧ postedRun.waitRemount = false ∧ postedS.power.hold = none
    ∧ ((postedS.members 0).flatMap fun e => (postedS.unretired postedRun e).map fun d => (e, dIndex d)) = [(0, 0)]
    ∧ (max postedS.now 15999 < postedRun.started + postedRun.bound + 10000)
    ∧ ((after (.stepWatchdog 0 15999) postedS).parts[(0 : Fin 6)].step.map (·.faults.length)) = some 0
    ∧ ((after (.stepWatchdog 0 16000) postedS).parts[(0 : Fin 6)].step.map fun r => r.faults.map (·.code)) = some [0x000B]
    ∧ postedS.engines[(0 : Fin 7)].part = some 0 ∧ postedS.parts[(0 : Fin 6)].scheduled = true ∧ postedRun.mode ≠ .managed
    ∧ ((postedS.entryOf 0 postedRun 0 0).map (·.doneBy)) = some 3000 ∧ postedRun.recovered = false
    ∧ ((after (.cmdOverrun 0 0 3999) postedS).parts[(0 : Fin 6)].step.map (·.faults.length)) = some 0
    ∧ ((after (.cmdOverrun 0 0 4000) postedS).parts[(0 : Fin 6)].step.map fun r => r.faults.map (·.code)) = some [0x0204] := by
  decide +kernel

def fault0 (st : Half) : FaultRec := ⟨0, 0, 0, st, 3, false⟩

/-- A step of side 5 with a fault, and a spare. -/
def faultS (f : StepRun → StepRun) : State :=
  { readyS [{ ctx0 with state := .inStep }] with
    engines := busyS.engines.set 1 { Engine.reset with role := .spare }
    parts := vmod busyS.parts 0 fun x => { x with step := some (f { run0 with faults := [fault0 9] }) } }

theorem witness_FaultedStepIsReplayed :
    let s := faultS id
    s.parts[(0 : Fin 6)].step = some { run0 with faults := [fault0 9] } ∧ s.power.hold = none ∧ s.holderActs = true
    ∧ (quietS s).holderActs = false ∧ s.members 0 = [0] ∧ s.engines[(0 : Fin 7)].needFence = false
    ∧ s.engines[(0 : Fin 7)].faultTimes = [] ∧ (fault0 9).code.toNat < 0x0130 ∧ s.parts[(0 : Fin 6)].desc = some desc0
    ∧ s.recipeFor 0 2 = some recipe0 ∧ s.slotFor 0 2 = some 0
    ∧ ((after (.stepFault 0 2000) s).parts[(0 : Fin 6)].step.map fun r => (r.mode, r.faultCount, r.contexts, r.started, r.faults.length))
      = some (.replay, 1, [3], 2000, 0)
    ∧ ((after (.stepFault 0 2000) s).sides.map (·.recoveries)) = [1] := by decide +kernel

/-- A replay that the same engine's residue ends again, and the step that then waits for a Remount. -/
def againS : State := faultS fun r => { r with faults := [fault0 10], previous := [fault0 10], faultCount := 1, mode := .replay }
def waitS : State :=
  let s := faultS fun r => { r with faults := [], waitRemount := true, fencing := [(0, 0)] }
  { s with engines := s.engines.set 0 { Engine.reset with role := .fenced } }

theorem witness_RemountPutsTheSpareIn :
    againS.spare = some 1 ∧ againS.holderActs = true ∧ againS.power.hold = none
    ∧ againS.blamed 0 { run0 with faults := [fault0 10], previous := [fault0 10], faultCount := 1, mode := .replay } = [0]
    ∧ againS.engines[(0 : Fin 7)].role = .inService ∧ (fault0 10).code = 0x000A
    ∧ (after (.stepFault 0 2000) againS).engines[(0 : Fin 7)].role = .fenced
    ∧ ((after (.stepFault 0 2000) againS).parts[(0 : Fin 6)].step.map (·.waitRemount)) = some true
    ∧ waitS.spare = some 1 ∧ waitS.engines[(1 : Fin 7)].part = none ∧ (waitS.parts[(0 : Fin 6)].step.map (·.fencing)) = some [(0, 0)]
    ∧ (after (.remount 0 true 3000) waitS).engines[(1 : Fin 7)].part = some 0
    ∧ (after (.remount 0 false 3000) waitS).engines[(1 : Fin 7)].role = .fenced
    ∧ (after (.spareCheck false 3000) waitS).engines[(1 : Fin 7)].role = .fenced
    ∧ (after (.spareCheck true 3000) waitS).engines[(1 : Fin 7)].role = .spare := by decide +kernel
/-! ## Main memory -/

/-- The chip with 8 bytes in the line at 0x3000; that line poisoned; that line in recovery. -/
def lineS : State := busyS.mainPut 0x3000 [1, 2, 3, 4, 5, 6, 7, 8]
def sickS : State := { lineS with mem := lineS.mem.poison 0x3000 }
def recS : State := { lineS with mem := { lineS.mem with recovering := [0x3000] } }

/-- The first 8 bytes of the line that the last command answered. -/
def reply8 (c : Instr) (s : State) : Option (List Byte) :=
  match (after c s).reply with
  | .line l => some (l.take 8)
  | _ => none

theorem witness_LineReadsDeliver :
    busyS.mem.dataEnd ≤ 0x600000000 ∧ (after (.memRead .frontEnd 0x600000000 [] 9) lineS).reply = .busError
    ∧ lineS.mem.frameValid 0x20000000 = false ∧ reply8 (.memRead .frontEnd 0x20000000 [] 9) lineS = some (List.replicate 8 0)
    ∧ lineS.mem.frameValid 0x3000 = true ∧ reply8 (.memRead .frontEnd 0x3004 [] 9) lineS = some [1, 2, 3, 4, 5, 6, 7, 8]
    ∧ (after (.memRead .frontEnd 0x3004 [(0, 0, 1)] 9) lineS).mem.recovering = [0x3000]
    ∧ sickS.mem.storedCheck 0x3000 = ~~~(lineCheck 0x3000 (sickS.mem.lineBytes 0x3000))
    ∧ (after (.memRead .frontEnd 0x3000 [] 9) sickS).reply = .busError
    ∧ (after (.memRead .frontEnd 0x3000 [] 9) recS).reply = .none
    ∧ (after (.memRead .frontEnd 0xF0001000000 [] 9) lineS).reply = .busError
    ∧ lineOf 0x80000200004 = 0x80000000000 + 0x200000 ∧ lineS.mem.flipped = []
    ∧ reply8 (.memRead .frontEnd 0x80000200004 [] 9) { lineS with mem := { lineS.mem with arena := [(0x200002, 7)] } }
      = some [0, 0, 7, 0, 0, 0, 0, 0]
    ∧ lineOf 0x90000000100 = 0x90000000000 + (0 : Fin 7).val * 0x4000000 + 0x100
    ∧ reply8 (.memRead .frontEnd 0x90000000100 [] 9) (lineS.onEngine 0 fun g => { g with paddock := [(0x101, 5)] })
      = some [0, 5, 0, 0, 0, 0, 0, 0]
    ∧ (after (.memRead .frontEnd 0x90000000100 [] 9) (lineS.onEngine 0 fun g => { g with role := .fenced })).reply = .busError := by
  decide +kernel

theorem witness_LineWritesStore :
    lineS.mem.recovering = [] ∧ lineS.mem.lineBad 0x3000 = false ∧ sickS.mem.lineBad 0x3000 = true
    ∧ (after (.memWrite .frontEnd 0x3001 ⟨[9, 8], []⟩ 9) lineS).mem.bytes 0x3000 4 = [1, 9, 8, 4]
    ∧ (after (.memWrite .frontEnd 0x3001 ⟨[9, 8], []⟩ 9) sickS).reply = .busError
    ∧ (after (.memWrite .frontEnd 0x3000 ⟨List.replicate 64 7, []⟩ 9) sickS).mem.lineBad 0x3000 = false
    ∧ (after (.memWrite .frontEnd 0x3001 ⟨[9, 8], []⟩ 9) sickS).mem.lineBad 0x3000 = true
    ∧ lineCheck 0x3000 (lineS.mem.lineSeen 0x3000 []) = lineS.mem.storedCheck 0x3000
    ∧ lineCheck 0x3000 (lineS.mem.lineSeen 0x3000 [(0, 0, 1)]) ≠ lineS.mem.storedCheck 0x3000
    ∧ (after (.memWrite .frontEnd 0x3001 ⟨[9, 8], [(0, 0, 1)]⟩ 9) lineS).mem.waiting = [(0x3001, [9, 8])]
    ∧ (after (.memWrite .frontEnd 0x3001 ⟨[9, 8], []⟩ 9) recS).mem.waiting = [(0x3001, [9, 8])] := by decide +kernel

theorem witness_RecoveryDeliversRestoresOrPoisons :
    recS.mem.recovering = [0x3000] ∧ lineS.mem.recovering = [] ∧ recS.mem.remapUsed (halfOf (recS.mem.place 0x3000).channel) < 32
    ∧ reply8 (.lineRecovery 0x3000 [false, true] none true 9) recS = some [1, 2, 3, 4, 5, 6, 7, 8]
    ∧ reply8 (.lineRecovery 0x3000 [false, false] (some (List.replicate 64 7)) true 9) recS = some (List.replicate 8 7)
    ∧ (after (.lineRecovery 0x3000 [] (some (List.replicate 64 7)) false 9) recS).mem.remaps.length = 1
    ∧ (after (.lineRecovery 0x3000 [] none true 9) recS).reply = .busError
    ∧ (after (.lineRecovery 0x3000 [] none true 9) recS).mem.lineBad 0x3000 = true
    ∧ recS.mem.waiting = [] ∧ ((List.finRange 6).all fun p => recS.parts[p].masters.isEmpty) = true
    ∧ (after (.lineRecovery 0x3000 [true] none true 9) { recS with mem := { recS.mem with waiting := [(0x3001, [9, 8])] } }).mem.bytes 0x3000 4
      = [1, 9, 8, 4] := by decide +kernel

/-- Partition 0 SCHEDULED under a plan that grants slot 0 of frame 0 of channel 0 for reading and slot 1 for writing. -/
def slotS (r w : List SlotReq) : State := { lineS with
  parts := vmod lineS.parts 0 fun x => { x with desc := some { desc0 with mode := 1 } }
  boot := { lineS.boot with slotPlans := [⟨0, 1, 0, 1, 0, 0, 1, true, [9]⟩] }
  mem := { lineS.mem with
    slotPlans := [⟨0, 1, 0, 1, 0, 0, 1, true, [9]⟩]
    channels := vmod lineS.mem.channels 0 fun c => { c with fifoRead := r, fifoWrite := w } } }

theorem witness_SlotsCarryRequestsInOrder :
    (slotS [] []).slotRules 0 = some ⟨0, 1, 0, 1, 0, 0, 1, true, [9]⟩
    ∧ (slotS [] []).requestFaults ⟨0, 1, 0, 1, 0, 0, 1, true, [9]⟩ 1 [0x3000] = []
    ∧ ((after (.memRead (.slot 0 0) 0x3000 [] 9) (slotS [] [])).mem.channels[(0 : Fin 12)].fifoRead) = [⟨0, 0x3000, []⟩]
    ∧ (after (.memWrite (.slot 0 0) 0x3000 ⟨[1], []⟩ 9) (slotS [] [])).reply = .refused 0x0208
    ∧ ((slotS [] []).mem.planOn 0).map (fun p => (p.code 0 0 0, p.code 0 0 1, p.code 0 0 2)) = some (1, 2, 0)
    ∧ reply8 (.memSlot 0 ⟨0, 0⟩ [] 9) (slotS [⟨0, 0x3000, []⟩] []) = some [1, 2, 3, 4, 5, 6, 7, 8]
    ∧ (0x3000 < (slotS [] []).mem.dataEnd) ∧ (slotS [] []).mem.recovering = [] ∧ (slotS [] []).mem.lineBad 0x3000 = false
    ∧ ((after (.memSlot 0 ⟨0, 1⟩ [] 9) (slotS [] [⟨0, 0x3000, List.replicate 64 7⟩])).mem.bytes 0x3000 2) = [7, 7]
    ∧ (after (.memSlot 0 ⟨0, 2⟩ [] 9) (slotS [⟨0, 0x3000, []⟩] [])).mem.channels[(0 : Fin 12)].fifoRead.length = 1 := by decide +kernel

/-- A SCHEDULED step that runs under that plan, its one command posted and not retired. -/
def slotRunS : State := { postedS with mem := { postedS.mem with slotPlans := [⟨0, 1, 0, 1, 0, 0, 1, true, [9]⟩] } }

theorem witness_SlotsCarryRequestsInOrder_fault :
    slotRunS.slotRules 0 = some ⟨0, 1, 0, 1, 0, 0, 1, true, [9]⟩ ∧ slotRunS.parts[(0 : Fin 6)].step = some postedRun
    ∧ ((slotRunS.unretired postedRun 0).map dIndex) = [0] ∧ slotRunS.engines[(0 : Fin 7)].part = some 0
    ∧ (after (.memWrite (.slot 0 0) 0x3000 ⟨[1], []⟩ 9) slotRunS).reply = .refused 0x0208
    ∧ ((after (.memWrite (.slot 0 0) 0x3000 ⟨[1], []⟩ 9) slotRunS).parts[(0 : Fin 6)].step.map fun r => (r.retired, r.faults.map (·.code)))
      = some ([(0, 0)], [0x0208])
    ∧ ((after (.tagGrant 5 ⟨0, 0, 0⟩ 3 9) slotRunS).parts[(0 : Fin 6)].step.map fun r => (r.retired, r.faults.map (·.code)))
      = some ([(0, 0)], [0x0203]) := by decide +kernel

/-- A trained channel 0. -/
def chanS : State := { busyS with mem := { busyS.mem with
  channels := vmod busyS.mem.channels 0 fun c => { c with trained := true, refresh := 1 } } }

/-- The chip whose partition 0 serves no GALLOP. -/
def walkS : State := withPart busyS 0 fun x => { x with desc := some { desc0 with gaits := 14 } }

theorem witness_ChannelsAreKept :
    (after (.tagGrant 5 ⟨0, 0, 0⟩ 3 9) busyS).mem.tagWait[(5 : Fin 12)] = 3 ∧ busyS.parts[(0 : Fin 6)].scheduled = false
    ∧ (slotS [] []).parts[(0 : Fin 6)].scheduled = true ∧ (after (.tagGrant 5 ⟨0, 0, 0⟩ 3 9) (slotS [] [])).mem.tagWait[(5 : Fin 12)] = 0
    ∧ (slotS [] []).slotRules 0 ≠ none ∧ (slotS [] []).engines[(0 : Fin 7)].part = some 0
    ∧ walkS.parts[(0 : Fin 6)].bound = true ∧ walkS.parts[(0 : Fin 6)].gallop = false
    ∧ (after (.tagGrant 11 ⟨0, 0, 0⟩ 3 9) busyS).mem.tagWait[(11 : Fin 12)] = 0 ∧ (after (.tagGrant 11 ⟨0, 0, 0⟩ 3 9) walkS).mem.tagWait[(11 : Fin 12)] = 3
    ∧ (after (.refreshWindow 0 1) chanS).mem.channels[(0 : Fin 12)].refreshes = 1
    ∧ (after (.refreshWindow 0 0) chanS).mem.channels[(0 : Fin 12)].refreshes = 0
    ∧ (after (.dqsRetrain 0 9) chanS).mem.channels[(0 : Fin 12)].retrains = 1
    ∧ (after (.mr4Poll 0 [1, 3] 9) chanS).mem.channels[(0 : Fin 12)].refresh = 0
    ∧ (after (.mr4Poll 0 [1, 4] 9) chanS).mem.channels[(0 : Fin 12)].refresh = 1
    ∧ (after (.mr4Poll 0 [7] 9) chanS).mem.channels[(0 : Fin 12)].hot = true
    ∧ (after (.mr4Poll 0 [7] 9) busyS).mem.channels[(0 : Fin 12)].hot = false := by decide +kernel

/-- That chip with the paddocks of engines 0 and 1 and the arena on, scrubbing on, a step of partition 0 in progress in the arena
from 3 MiB on, its shadow valid at 2 MiB, and the arena's walk at `o`. -/
def scrubS (o : Nat) : State := { lineS with
  power := { lineS.power with domains := lineS.power.domains ||| (1 <<< 7) ||| (1 <<< 8) ||| (1 <<< 14) }
  boot := { lineS.boot with
    limits := { lineS.boot.limits with shadowBase := 0x200000, arenaBase := [0x300000], arenaBytes := [0x10000] }
    recipes := Boot.reset.recipes.set 0 { RecipeSlot.empty with bound := some { recipe0 with residentBytes := 4096 } } }
  parts := vmod lineS.parts 0 fun x => { x with shadow := true, step := some run0 }
  mem := { lineS.mem with scrubNext := 0x3000, sramNext := [(.arena, o)] } }

/-- A byte read wrongly the first time, or in both reads, and in the verify read or not. -/
def upset (second verify : Bool) : SramReads :=
  ⟨[], [(3, 1)], if second then [(3, 1)] else [], if verify then [(0, 1)] else []⟩

theorem witness_ScrubbersReadAndRepair :
    let s := scrubS 0x300000
    bit s.mem.scrubCfg.toNat 20 = true ∧ s.power.hold = none ∧ s.up = true ∧ s.reloadingWeights = false
    ∧ s.mem.nextLine 0x3000 = some 0x3000 ∧ 0x3000 < s.mem.dataEnd ∧ s.mem.recovering = []
    ∧ s.mem.lineBad 0x3000 = false ∧ s.mem.frameValid 0x3000 = true
    ∧ (after (.currycombLine [] 9) s).mem.scrubNext = 0x3040
    ∧ (after (.currycombLine [] 9) { s with mem := { s.mem with scrubCfg := 0 } }).mem.scrubNext = 0x3000
    ∧ s.power.domains.getLsbD (sramDomain (.paddock 1)) = true ∧ s.power.domains.getLsbD (sramDomain .arena) = true
    ∧ s.power.domains.getLsbD (sramDomain (.paddock 2)) = false
    ∧ (after (.sramScrub (.paddock 1) ⟨[], [], [], []⟩ 9) s).mem.sramAt (.paddock 1) = 128
    ∧ (after (.sramScrub (.paddock 1) (upset false false) 9) s).host.chip[Chip.sramTransients] = 1
    ∧ (after (.sramScrub (.paddock 2) (upset true true) 9) s).host.chip[Chip.sramFailures] = 0
    ∧ s.engines[(1 : Fin 7)].remaps = [] ∧ s.engines[(1 : Fin 7)].part = none ∧ s.engines[(1 : Fin 7)].needFence = false
    ∧ s.mem.badBytes (.paddock 1) 0 128 (upset true true).second = [3]
    ∧ (after (.sramScrub (.paddock 1) (upset true false) 9) s).engines[(1 : Fin 7)].remaps = []
    ∧ (after (.sramScrub (.paddock 1) (upset true true) 9) s).engines[(1 : Fin 7)].remaps = [⟨0, 0⟩]
    ∧ s.arenaContent 0x300003 = .arenaScratch 0
    ∧ ((after (.sramScrub .arena (upset true false) 9) s).parts[(0 : Fin 6)].step.map (·.faults.length)) = some 1
    ∧ (scrubS 0x200000).arenaContent 0x200003 = .shadow 0 ∧ s.parts[(0 : Fin 6)].shadow = true
    ∧ (after (.sramScrub .arena (upset true false) 9) (scrubS 0x200000)).mem.reloading = [0]
    ∧ (after (.shadowReloadDone 0 9) { s with mem := { s.mem with reloading := [0] } }).mem.reloading = [] := by
  decide +kernel
/-! ## Host interface -/

/-- The input ring and output ring 0 laid out in host memory, with HOST_CAPS 1.0. -/
def ifS (f : InRing → InRing) : State := { busyS with
  boot := { busyS.boot with plans := [[some desc0]] }
  streamA := busyS.streamA.set 1 0x1004
  streams := vmod busyS.streams 1 fun x => { x with enabled := true }
  host := { busyS.host with
    recVer := 0x0100
    inRing := f { busyS.host.inRing with base := 0x1000, prodAddr := 0x100, consAddr := 0x108, entries := 16 }
    out := vmod busyS.host.out 0 fun r => { r with base := 0x8000, prodAddr := 0x200, consAddr := 0x208, size := 64 } } }

theorem witness_RingEnableIsChecked :
    (ifS id).hostWrites = true ∧ State.reset.hostWrites = false ∧ (16 : Nat) = 2 ^ 4 ∧ (64 : Nat) = 2 ^ 6
    ∧ (after (.inRingEnable 9) busyS).host.inRing.error = 3
    ∧ (after (.inRingEnable 9) (ifS fun r => { r with entries := 17 })).host.inRing.error = 1
    ∧ (after (.inRingEnable 9) (ifS fun r => { r with base := 0x1008 })).host.inRing.error = 2
    ∧ (after (.inRingEnable 9) (ifS id)).host.inRing.en = true
    ∧ (after .inRingDisable (ifS fun r => { r with en := true })).host.inRing.en = false
    ∧ (after (.outRingEnable 0 0 20 9) (ifS id)).host.out[(0 : Fin 6)].error = 4
    ∧ (after (.outRingEnable 0 8 20 9) (ifS id)).host.out[(0 : Fin 6)].en = true
    ∧ (after (.outRingEnable 1 8 20 9) (ifS id)).host.out[(1 : Fin 6)].error = 1 := by decide +kernel

/-- A good entry of stream 1 (G4, gait TROT of partition 0, 16 bytes), and one of a stream that is off. -/
def entryB (stream : Nat) : List Byte :=
  fields 64 0 [(0, 1, 1), (2, 1, stream), (3, 1, 1), (4, 1, 0x10), (8, 8, 9), (24, 2, 4), (26, 2, 2), (32, 8, 0x9000), (40, 4, 16)]

/-- A sample whose side has 64 bytes of the staging area at 0x30000000. -/
def stagedS : State :=
  let s := ifS fun r => { r with staging := [staged0], stageUsed := 64 }
  { s with sides := [{ side0 with host := true, stream := 1, stage := .capturing, stageAt := 0x30000000, stageBytes := 64 }] }

theorem witness_EntriesComeFromTheInputRing :
    let on := ifS fun r => { r with en := true }
    let one := ifS fun r => { r with en := true, fetching := 1, fetchTo := 1 }
    let seen := ifS fun r => { r with en := true, fetched := [(ringEntry (entryB 1) 0, [])] }
    on.host.linkUp = true ∧ on.host.inRing.consWrite = false ∧ on.queueUsed + on.boot.limits.hostAdmitMin ≤ 4096
    ∧ (after (.inPoll 17 9) on).host.chip[(16 : Fin 32)] = 1 ∧ (after (.inPoll 3 9) on).host.inRing.fetching = 3
    ∧ (entryB 1).length = 64 ∧ one.entryFault (entryB 1) [] (ringEntry (entryB 1) 0) = none
    ∧ one.entryFault (entryB 2) [] (ringEntry (entryB 2) 0) = some 2
    ∧ (after (.entryFetchDone (some [(entryB 1, [])]) 9) one).host.inRing.fetched = [(ringEntry (entryB 1) 0, [])]
    ∧ (after (.entryFetchDone (some [(entryB 2, [])]) 9) one).host.chip[(0 : Fin 32)] = 1
    ∧ (after (.entryFetchDone none 9) one).host.inRing.failures = 1
    ∧ (after (.entryFetchDone none 9) (ifS fun r => { r with en := true, fetching := 1, fetchTo := 1, failures := 2 })).host.inRing.error = 4
    ∧ seen.spoolReserve + seen.sideReserve ≤ seen.spoolFree ∧ seen.oversized (ringEntry (entryB 1) 0) = false ∧ seen.sides = []
    ∧ seen.host.inRing.stageUsed + seen.stageNeed (ringEntry (entryB 1) 0) ≤ seen.boot.limits.inputStageBytes
    ∧ ((after (.entryObserve 9) seen).sides.map fun x => (x.sideId, x.gait, x.stage)) = [(9, 2, .capturing)]
    ∧ stagedS.host.inRing.staging = [staged0] ∧ (stagedS.side? 5).map (fun y => y.stageAt % 64) = some 0
    ∧ ((linesOf 0x30000000 3).map stagedS.mem.lineBad) = [false]
    ∧ (after (.payloadStaged (some (List.replicate 3 7)) none 9) stagedS).mem.bytes 0x30000000 2 = [7, 7]
    ∧ isVideo 1 = false
    ∧ ((after (.payloadStaged none none 9) stagedS).sides.map fun z => (z.statusOnly, z.status)) = [(true, [(0x0402, 0)])] := by
  decide +kernel

/-- An access unit of stream 32 whose data cannot be fetched, behind others of its stream or alone. -/
def lostS (queue : List Staged) : State :=
  let u : Staged := { staged0 with entry := { entry0 with stream := 32, format := 3 } }
  let s := ifS fun r => { r with staging := [u], stageUsed := 64 }
  { s with
    sides := [{ side0 with host := true, stream := 32, stage := .capturing, stageAt := 0x30000000, stageBytes := 64 }]
    streams := vmod s.streams 32 fun x => { x with enabled := true, queue := queue } }

theorem witness_EntriesComeFromTheInputRing_lost :
    isVideo 32 = true ∧ ((lostS []).side? 5).isSome = true ∧ (lostS []).decoding 32 = false
    ∧ (after (.payloadStaged none none 9) (lostS [])).streams[(32 : Fin 64)].counters[Strm.framesDropped] = 1
    ∧ (after (.payloadStaged none none 9) (lostS [])).streams[(32 : Fin 64)].dropping = true
    ∧ ((after (.payloadStaged none none 9) (lostS [staged0])).streams[(32 : Fin 64)].queue.map (·.lost)) = [false, true] := by
  decide +kernel

/-- A host that has written, with three records in the Studbook's ring. -/
def linkS : State :=
  let s := ifS fun r => { r with en := true }
  { s with stud := ((s.stud.event 1 0x0501 0 []).event 2 0x0501 1 []).event 3 0x0501 2 [], host := { s.host with pollUs := 77 } }

theorem witness_LinkResetsAndWindows :
    linkS.host.linkUp = true ∧ linkS.hostWrites = true ∧ linkS.boot.running = true
    ∧ (after (.functionLevelReset 9) linkS).host.pollUs = 10 ∧ (after (.functionLevelReset 9) linkS).host.linkUp = true
    ∧ (after (.linkDown 9) linkS).host.linkUp = false ∧ (after (.perstAssert 9) linkS).host.chip[(20 : Fin 32)] = 1
    ∧ (after (.linkUp 9) { linkS with host := { linkS.host with linkUp := false } }).host.linkUp = true
    ∧ linkS.stud.produced = 3 ∧ linkS.stud.ring.length = 3
    ∧ (after (.evtSelect 1) linkS).host.evtValid = true ∧ (after (.evtSelect 3) linkS).host.evtValid = false
    ∧ (after (.evtSelect 0) { linkS with stud := { linkS.stud with produced := 5000 } }).host.evtGone = true := by decide +kernel

/-- Both values of R354 at the ends of their ranges: 1,000 is taken, 1,001 is not. -/
theorem witness_LinkResetsAndWindows_registers : linkS.host.linkUp = true ∧ linkS.hostWrites = true
    ∧ (after (.registerWrite (.bar0 0x108 4) 1000 0) linkS).host.pollUs = 1000
    ∧ (after (.registerWrite (.bar0 0x108 4) 1001 0) linkS).host.pollUs = 77
    ∧ (after (.registerWrite (.bar0 0x10C 4) 60000 0) linkS).host.stallMs = 60000
    ∧ (after (.registerWrite (.bar0 0x10C 4) 60001 0) linkS).host.stallMs = 100 := by decide

theorem witness_HostTimeTakesEffectOnce :
    linkS.hostWrites = true
    ∧ linkS.boot.timeSource = 0 ∧ linkS.boot.anySheet = false ∧ linkS.boot.anyEntry = false ∧ linkS.boot.hostTimed = false
    ∧ max linkS.now 9 < 1000 ∧ (after (.hostTime 1000 9) linkS).now = 1000
    ∧ (after (.registerWrite (.bar0 0x128 8) 1000 9) linkS).now = 1000
    ∧ (after (.hostTime 9 9) linkS).now = 9 ∧ (after (.hostTime 9 9) linkS).boot.timeSource = 0 := by decide +kernel
/-! ## Verbs -/

/-- The running chip with ARG0 to ARG7 and the mailbox as `f` makes it. -/
def boxS (args : List DWord) (f : Mailbox → Mailbox) : State := { busyS with
  host := { busyS.host with box := f { busyS.host.box with arg := Vector.ofFn fun i : Fin 8 => args.getD i.val 0 } } }

/-- A verb in progress, with its outcome or waiting for partition 0. -/
def verbS (o : Option (Byte × DWord)) (w : List Nat) : State :=
  boxS [] fun b => { b with busy := true, verb := some (.pauseGait 1 2), outcome := o, waitFor := w }

theorem witness_MailboxRunsOneVerb :
    (verbS none [0]).hostWrites = true ∧ (verbS none [0]).host.box.busy = true
    ∧ (after (.verbOverrun 5 7 9) (verbS none [0])).host.verbOverrun = true
    ∧ (boxS [0x201] id).host.box.busy = false ∧ (boxS [0x201] id).hostWrites = true
    ∧ (after (.verbUnknown 9 7 9) (boxS [] id)).host.box.outcome = some (rvUnknown, 0)
    ∧ (after (.pauseGait 7 9) (boxS [0x1000] id)).host.box.outcome = some (reReserved, 0)
    ∧ (after (.pauseGait 7 9) (boxS [0x101] id)).host.box.outcome = some (rvPauseGallop, 0)
    ∧ (after (.pauseGait 7 9) (boxS [0x201] id)).parts[(0 : Fin 6)].paused = 2
    ∧ (after (.resumeGait 7 9) (withPart (boxS [0x201] id) 0 fun x => { x with paused := 6 })).parts[(0 : Fin 6)].paused = 4
    ∧ (after (.pauseGait 7 9) (withPart (boxS [0x201] id) 0 fun x => { x with step := some run0 })).host.box.waitFor = [0]
    ∧ (after (.verbComplete 9) (verbS (some (3, 0)) [])).host.box.result = 3
    ∧ (after (.verbComplete 9) (verbS none [])).host.box.done = true
    ∧ (withPart (verbS none [0]) 0 fun x => { x with step := some run0 }).host.box.waitFor = [0]
    ∧ (after (.verbComplete 9) (withPart (verbS none [0]) 0 fun x => { x with step := some run0 })).host.box.busy = true := by
  decide +kernel

/-- Plan 0 is in force and plan 1, which binds nothing, is declared; ARG0 is the plan. -/
def planS (n : DWord) : State :=
  let s := boxS [n] id
  { s with boot := { s.boot with plans := [[some desc0], []], planCount := 2 } }

theorem witness_PlansRecipesAndOverlaysAreTaken_plan :
    (planS 1).hostWrites = true ∧ (planS 1).host.box.busy = false ∧ (planS 1).argsZero 1 = true ∧ (planS 1).arg 0 = 1
    ∧ (planS 1).boot.planCount = 2 ∧ (planS 1).rebind.stage = .idle ∧ (planS 1).parts[(0 : Fin 6)].plan = 0
    ∧ selectReason ((((planS 1).at 9).startVerb 7 (fun x => x)).evalPlan []) = none
    ∧ (after (.selectPlan 7 9) (planS 1)).rebind.target = 1 ∧ (after (.selectPlan 7 9) (planS 1)).rebind.stage = .draining
    ∧ (after (.selectPlan 7 9) (planS 1)).parts[(0 : Fin 6)].rebinding = true
    ∧ (after (.selectPlan 7 9) (planS 0)).host.box.outcome = some (0, 0)
    ∧ (after (.selectPlan 7 9) (planS 5)).host.box.outcome = some (rvRange, 0) := by decide +kernel

/-- The smallest recipe: one template for a partition of one engine, TROT, no patches (R428 to R431). `sig` is the first byte of
its signature. The key is the encoding of the neutral point, under which R = that point and S = 0 sign every message. -/
def recipeB (sig : Nat) : List Byte :=
  fields 496 0 [(0, 4, 0x4C534F4D), (4, 1, 1), (8, 4, 496), (16, 8, 9), (25, 1, 4), (27, 1, 1), (34, 2, 1), (48, 4, 32), (52, 2, 1)
    , (80, 4, 256), (84, 4, 40), (88, 4, 296), (92, 4, 72), (96, 4, 368), (100, 4, 8), (256, 4, 32), (260, 4, 1)
    , (296, 4, 1), (304, 4, 5000), (308, 2, 1), (310, 1, 1), (376, 1, sig)]

/-- ARG0 to ARG2 of a staging of that recipe into slot 3, in main memory, on a chip with a provisioning key. -/
def stageS : State :=
  let s := boxS [0x9000, 496, 3] id
  { s with boot := { s.boot with
    provision := true, bundleKey := 1 :: List.replicate 56 0
    limits := { s.boot.limits with stageBase := 0x8000000, stageBytes := 4096 } } }

theorem witness_PlansRecipesAndOverlaysAreTaken_recipe :
    stageS.argsZero 3 = true ∧ stageS.arg 1 = 496 ∧ stageS.arg 0 % 4096 = 0 ∧ stageS.arg 2 < 32
    ∧ stageS.arg 1 ≤ stageS.boot.limits.stageBytes ∧ (recipeB 1).length = 496
    ∧ (recipeImage (recipeB 1) 2).fault [] false = none ∧ stageS.otp.recipeSvn ≤ (recipeImage (recipeB 1) 2).svn
    ∧ stageS.usersOf 3 = [] ∧ stageS.boot.recipes[(3 : Fin 16)].bound = none
    ∧ (after (.stageRecipe 7 none 9) stageS).host.box.outcome = some (rvStageFetch, 0) := by decide +kernel

theorem witness_PlansRecipesAndOverlaysAreTaken_signed :
    ((stageS.at 9).startVerb 7 (fun x => x)).recipeSigned (recipeB 1) = true := by decide +kernel

/-- A WALK recipe that declares adapter 2 for itself, with masters of `n` of its tensors, each of two BF16 values in the paddock at
0x300; NOR is busy. -/
def overS (arg : DWord) (n : Nat) (bytes : List Byte) : State :=
  let s := boxS [arg] id
  { s with
    norBusy := some (.erase true 0 1)
    engines := vmod s.engines 0 fun g => { g with paddock := cellsWrite 0 g.paddock 0x300 bytes }
    parts := vmod s.parts 0 fun x => { x with masters := ([⟨2, 0, 0, (stpD 2).desc⟩, ⟨2, 1, 0, (stpD 2).desc⟩] : List Master).take n }
    boot := { s.boot with recipes := s.boot.recipes.set 0 { RecipeSlot.empty with
      bound := some { recipe0 with adapters := [⟨2, 0, 4, 8, 8, 0x3F800000, 0, 36, [9]⟩] }
      overlay := if arg = 0 then some ⟨1, [5], [7]⟩ else none } } }

theorem witness_PlansRecipesAndOverlaysAreTaken_overlay :
    (overS 0x302 2 []).argsZero 1 = true ∧ (overS 0x302 2 []).arg 0 < 32768 ∧ (overS 0x302 2 []).arg 0 / 4096 % 8 = 0
    ∧ (overS 0x302 2 []).parts[(0 : Fin 6)].bound = true
    ∧ ((overS 0x302 2 []).recipeFor 0 3).bind (·.adapter 2) = some ⟨2, 0, 4, 8, 8, 0x3F800000, 0, 36, [9]⟩
    ∧ ((overS 0x302 2 []).targetSlot [9]).map (·.1) = some 0
    ∧ (overS 0x302 2 []).slotFor 0 3 = some 0
    ∧ (overS 0x302 1 []).adapterWeights 0 2 = none ∧ (after (.activateOverlay 7 9) (overS 0x302 1 [])).host.box.outcome = some (rvOverlayEmpty, 0)
    ∧ (overS 0x302 2 [3, 0]).adapterWeights 0 2 = some [3, 0, 0, 0, 3, 0, 0, 0]
    ∧ badMaster [3, 0, 0, 0, 3, 0, 0, 0] = false ∧ badMaster [0x80, 0x7F] = true
    ∧ (after (.activateOverlay 7 9) (overS 0x302 2 [0x80, 0x7F])).host.box.outcome = some (rvOverlayNan, 0)
    ∧ (overS 0x302 2 []).usersOf 0 = [0] ∧ (overS 0x302 2 []).norBusy ≠ none
    ∧ (after (.activateOverlay 7 9) (withPart (overS 0x302 2 []) 0 fun x => { x with step := some run0 })).host.box.overlayWait
      = some (0, 2, 3)
    ∧ (after (.verbComplete 9) (withPart (after (.activateOverlay 7 9) (withPart (overS 0x302 1 []) 0 fun x => { x with step := some run0 })) 0
        fun x => { x with step := none })).host.box.result = rvOverlayEmpty
    ∧ (overS 0 2 []).boot.recipes[(0 : Fin 16)].overlay = some ⟨1, [5], [7]⟩ ∧ (overS 0 2 []).arg 0 = 0 ∧ (overS 0 2 []).argsZero 1 = true
    ∧ (after (.activateOverlay 7 9) (overS 0x302 2 [])).norOps.length = 3
    ∧ (after (.deactivateOverlay 7 9) (overS 0 2 [])).boot.recipes[(0 : Fin 16)].pendPart = [0] := by decide +kernel

/-- A report buffer of 4 GiB less one byte. -/
def attestS : State := boxS [1, 2, 3, 4, 0x9000, 0xFFFFFFFF] id

theorem witness_PlansRecipesAndOverlaysAreTaken_attestation :
    attestS.hostWrites = true ∧ attestS.host.box.busy = false ∧ attestS.argsZero 6 = true ∧ attestS.arg 5 = 4294967295
    ∧ attestS.arg 4 % 8 = 0 := by decide

theorem witness_PlansRecipesAndOverlaysAreTaken_fits (nonce : List Byte) :
    (((attestS.at 9).notePower).bouquet nonce).length ≤ attestS.arg 5 := by
  have hm : ((attestS.at 9).notePower).measurements.length = 7 := by decide +kernel
  have hd : ((attestS.at 9).notePower).otp.deviceCert.length = 0 := by decide
  have ha : attestS.arg 5 = 4294967295 := by decide
  have hl := (Config.makerCertLength ((attestS.at 9).notePower).otp.stepping.toNat).isLt
  rw [bouquet_length, hm, hd, ha]
  simp only [Config.makerCert, List.length_map, List.length_range, roundUp, ceilDiv]
  omega
/-! ## Reins -/

/-- The running chip with its arbiter as `f` makes it. -/
def brS (f : Bridle → Bridle) : State := { upS with bridle := f upS.bridle }

/-- Rein B OFF, its latch clear. -/
def offB (b : Bridle) : Bridle := { b with healthB := false, reins := b.reins.set 1 (rein .off) }

/-- Rein A, the holder, lost; Rein B its shadow. -/
def lostA (b : Bridle) : Bridle :=
  { b with held := false, healthA := false, lossTime := some 5, nodesReject := true, reins := b.reins.set 0 (rein .off) }

theorem witness_ReinsWatchEachOther :
    upS.bridle.held = true ∧ upS.bridle.holder = 0 ∧ upS.bridle.health 0 = true ∧ upS.bridle.health 1 = true
    ∧ upS.bridle.reins[(0 : Fin 2)].role = .holder ∧ upS.bridle.reins[(1 : Fin 2)].role = .shadow ∧ upS.holderActs = true
    ∧ (after (.heartbeat 1 9) upS).bridle.reins[(1 : Fin 2)].lastBeat = 9
    ∧ (after (.heartbeatLost 0 19999) upS).bridle.held = true ∧ (after (.heartbeatLost 0 20000) upS).bridle.held = false
    ∧ (after (.journalEntry 1 1 9) upS).bridle.journal = 1 ∧ (after (.journalEntry 1 2 9) upS).bridle.journal = 0
    ∧ (after (.journalAckTimeout 9) upS).bridle.healthB = false ∧ (after (.clearOther 0 2 9) upS).bridle.healthB = true
    ∧ (after (.setOther 0 1 9) (brS offB)).bridle.healthB = true ∧ (after (.setOther 1 1 9) (brS offB)).bridle.healthB = false
    ∧ (after (.staleEpoch 1 3 4 9) upS).bridle.reins[(1 : Fin 2)].stopped = true
    ∧ (brS offB).holderActs = true ∧ (brS offB).bridle.reins[(1 : Fin 2)].role = .off
    ∧ (after (.reinRestart 1 true 9) (brS offB)).bridle.reins[(1 : Fin 2)].restarting = true
    ∧ (after (.reinRestart 1 false 9) (brS offB)).bridle.reins[(1 : Fin 2)].lostForGood = true
    ∧ (after (.reinRestored 1 9) (after (.reinRestart 1 true 9) (brS offB))).bridle.reins[(1 : Fin 2)].role = .shadow := by
  decide +kernel

theorem witness_ClaimsMoveTheBridle :
    (after (.bridleClaim (some 2) (some 3) 9) upS).bridle.holder = 1 ∧ (after (.bridleClaim (some 3) (some 3) 9) upS).bridle.holder = 0
    ∧ (after (.bridleClaim (some 1) none 9) upS).bridle.epoch = 1
    ∧ (after (.epochSettled 9) (brS fun b => { b with epoch := 7, settled := false })).bridle.nodeEpoch = 7
    ∧ (brS lostA).bridle.health 1 = true ∧ (brS lostA).bridle.health 0 = false ∧ (brS lostA).bridle.lossTime = some 5
    ∧ (after (.takeover ⟨[], 9⟩) (brS lostA)).bridle.holder = 1 ∧ (after (.takeover ⟨[], 9⟩) (brS lostA)).bridle.epoch = 2
    ∧ (brS fun b => { lostA (offB b) with bothLostAt := some 5 }).bridle.bothLostAt = some 5
    ∧ (after (.reinDoubleLoss true true 10000004) (brS fun b => { lostA (offB b) with bothLostAt := some 5 })).bridle.held = false
    ∧ (after (.reinDoubleLoss false true 10000005) (brS fun b => { lostA (offB b) with bothLostAt := some 5 })).bridle.holder = 1 := by
  decide +kernel

/-- Rein A lost, with partition 0's step posted and no command of it retired. -/
def lostPostedS : State := { postedS with bridle := lostA postedS.bridle }

theorem witness_ClaimsMoveTheBridle_takeover :
    lostPostedS.slotFor 0 0 = some 0 ∧ (lostPostedS.recipeFor 0 0).isSome = true
    ∧ (lostPostedS.parts[(0 : Fin 6)].step.map (·.partlyPosted)) = some true
    ∧ ((after (.takeover ⟨[0], 9⟩) lostPostedS).parts[(0 : Fin 6)].step.map fun q => (q.faultCount, q.recovered, q.mode == .replay))
      = some (1, true, true)
    ∧ ((after (.takeover ⟨[], 9⟩) lostPostedS).parts[(0 : Fin 6)].step.map fun q => (q.faultCount, q.recovered)) = some (0, true) := by
  decide +kernel
/-! ## Boot, NOR, the store and the fuses -/

/-- The smallest bundle: a script of one delay, one plan that names no partition, the limits, an empty recipe table, and the
signature of the key of `recipeB`, which it provisions (R421 to R423, R427). -/
def bundleB : List Byte :=
  fields 1880 0 [(0, 4, 0x4F4E4E44), (4, 1, 1), (8, 4, 1880), (12, 4, 1), (25, 1, 2), (32, 1, 1), (96, 4, 192), (100, 4, 24)
    , (104, 4, 216), (108, 4, 776), (112, 4, 992), (116, 4, 256), (120, 4, 1248), (124, 4, 512)
    , (192, 4, 1), (200, 8, 3), (208, 4, 1), (216, 1, 1), (992, 1, 1), (1012, 2, 1), (1024, 8, 0x4000000), (1032, 4, 65536)
    , (1048, 4, 0x1000000), (1760, 1, 1)]

/-- The chip after power-up with that bundle in slot A. -/
def bootS : State := { State.reset with nor := cellsWrite 0xFF [] 0 bundleB }

theorem bundleB_length : bundleB.length = 1880 := by decide +kernel

/-- What such a chip reads of its slots. -/
theorem bundleB_slots (s : State) (h : s.nor = cellsWrite 0xFF [] 0 bundleB) :
    s.norBytes 0 4 = bundleB.take 4 ∧ s.slotBundle 0 = bundleB
    ∧ s.norBytes (slotBase 1) 4 = [0xFF, 0xFF, 0xFF, 0xFF] := by
  have hl := bundleB_length
  have h1 (n : Nat) (hn : n ≤ 1880) : s.norBytes 0 n = bundleB.take n := by
    rw [State.norBytes, h, cellsSlice_write_prefix _ _ _ _ _ (by omega)]
  refine ⟨h1 4 (by omega), ?_, ?_⟩
  · have hb : bundleLength (bundleB.take 192) = 1880 := by decide +kernel
    have ha : bundleB.take 1880 = bundleB := by rw [← hl, List.take_length]
    simp only [State.slotBundle, slotBase, Nat.zero_mul]
    rw [h1 192 (by omega), hb, if_pos (by decide), h1 1880 (by omega), ha]
  · rw [State.norBytes, h, cellsSlice_write_apart _ _ _ _ _ _ (by rw [hl]; decide)]
    decide

/-- The same key and signature as in `recipeB`. -/
theorem bundleB_signed : bundleSigned bundleB = true := by decide +kernel

/-- Slot A of that chip is valid and slot B empty; the boot chooses slot A, and the memory found is that of MEM_CFG. -/
theorem witness_BootStopsOrRuns :
    bootS.canBoot = true ∧ bootS.bridle = Bridle.reset ∧ bootS.stud = Studbook.reset
    ∧ (let s1 := { bootS.bootReins goodEnv with norMiB := 256 }
      s1.slotResult 0 = 0 ∧ s1.slotResult 1 = 1 ∧ s1.chosenSlot = some 0
      ∧ (s1.markSlots.bootScript 0).memConfigOk goodEnv.dies = true) := by
  refine ⟨by decide, rfl, rfl, ?_⟩
  intro s1
  have hn : s1.nor = cellsWrite 0xFF [] 0 bundleB := rfl
  obtain ⟨h4, hb, h1⟩ := bundleB_slots s1 hn
  have r0 : s1.slotResult 0 = 0 := by
    simp only [State.slotResult, slotBase, Nat.zero_mul, h4, hb, bundleB_signed]
    decide +kernel
  have r1 : s1.slotResult 1 = 1 := by
    simp only [State.slotResult, h1]
    decide
  have hc : s1.chosenSlot = some 0 := by
    simp only [State.chosenSlot, r0, r1]
    decide
  refine ⟨r0, r1, hc, ?_⟩
  have hm := (bundleB_slots (s1.markSlots.applyBundle 0) hn).2.1
  simp only [State.bootScript, hm]
  decide +kernel

theorem test_boot_stops :
    upS.canBoot = false ∧ State.reset.bridle = Bridle.reset ∧ State.reset.canBoot = true
    ∧ (after (.boot { goodEnv with reinPassA := false, reinPassB := false }) State.reset).bridle.held = false
    ∧ (after (.boot { goodEnv with sfdp := false }) State.reset).boot.stopReason = 2
    ∧ (after (.boot { goodEnv with norMiB := 128 }) State.reset).boot.stopReason = 3
    ∧ (after (.boot goodEnv) State.reset).boot.stopReason = 1
    ∧ ((after (.boot goodEnv) State.reset).stud.ring.getLast?.map fun r => (r.code, r.payload.take 3)) = some (0x0102, [1, 1, 1]) := by
  decide +kernel

/-- NOR with three cells of the recipe store listed, and an operation that ends. -/
def norS (op : Option NorOp) : State := { upS with
  nor := [(0x1900000, 0x0F), (0x1900001, 0xF0), (0x1A00000, 1)], norBusy := op, store := { upS.store with page := 3 } }

def studRec0 : StudRec := ⟨7, 7, 0x0501, 1, 0, List.replicate 13 1⟩

/-- That NOR with a record that waits, a write point inside a sector, and an open record in the ring. -/
def studS (op : Option NorOp) : State :=
  let s := norS op
  { s with stud := { s.stud with queue := [studRec0], point := 5, ring := [studRec0], openRec := true } }

theorem witness_NorStoreAndFuses_nor :
    (norS none).norAnswers = true ∧ cellsOk 0xFF (norS none).nor = true ∧ (norS none).stud.queue = [] ∧ (norS none).stud.wipeLeft = 0
    ∧ (norS none).norOps = []
    ∧ (after (.norOpDone 9) (norS (some (.recipe 0x1900000 [0x3C, 0xFF])))).nor = [(0x1900000, 0x0C), (0x1900001, 0xF0), (0x1A00000, 1)]
    ∧ (after (.norOpDone 9) (norS (some (.overlay 0x1A00001 [2])))).nor.length = 4
    ∧ (after (.norOpDone 9) (norS (some (.erase false 0x1900000 1)))).nor = [(0x1A00000, 1)]
    ∧ (studS (some .studbook)).stud.point % 2048 ≠ 0 ∧ (studS (some .studbook)).stud.point < studSlots
    ∧ (studS (some .studbook)).slotErased 5 = true ∧ (studS (some .studbook)).stud.queue = [studRec0]
    ∧ (after (.norOpDone 9) (studS (some .studbook))).stud.point = 6
    ∧ (after (.norOpDone 9) { studS (some (.erase true 0x1B00000 1)) with norOps := [.erase true 0x1900000 1] }).norBusy = some .studbook
    ∧ (after (.norOpDone 9) { norS (some (.erase true 0x1B00000 1)) with norOps := [.recipe 9 [], .overlay 5 []] }).norBusy = some (.overlay 5 []) := by
  decide +kernel

/-- A page of the store of 4,096 bytes at page 16, the first of a sector. -/
theorem witness_NorStoreAndFuses_page :
    (16 < 256) ∧ (norS none).store.page4k.length = 4096
    ∧ (after (.norOpDone 9) (norS (some (.store (storeBase + 4096 * 16) (List.replicate 4096 0xFF))))).norBusy = none := by
  decide +kernel

def fuseOtpS : State := { upS with
  otp := { upS.otp with ownerKeys := [[], [], [], []], bundleSvn := 1 }
  boot := { upS.boot with
    advance := true, svn := 4, revokeMask := 3, keyIndex := 1, provision := true, bundleKey := [1]
    recipes := upS.boot.recipes.set 0 { RecipeSlot.empty with bound := some { recipe0 with rflags := 1 } } } }

theorem witness_NorStoreAndFuses_timers :
    upS.storeReady = true ∧ State.reset.storeReady = false ∧ upS.store.urgent = false
    ∧ (after (.storeCommitTimer true 9) upS).store.page = upS.store.page
    ∧ (norS (some .studbook)).norBusy ≠ none
    ∧ (after (.storeCommitTimer false 9) (norS (some .studbook))).store.page = 4
    ∧ (after (.storeCommitTimer false 9) (norS (some .studbook))).norOps.length = 1
    ∧ (after (.studbookRecordClose 9) (studS none)).stud.openRec = true
    ∧ (studS none).stud.missed = 0 ∧ (studS none).stud.queue.length < norQueueMax
    ∧ (after (.studbookRecordClose 1000000007) (studS none)).stud.openRec = false
    ∧ State.reset.up = false ∧ fuseOtpS.up = true ∧ fuseOtpS.boot.keysFused = false
    ∧ (after (.svnAdvance 9) fuseOtpS).otp.bundleSvn = 4 ∧ (after (.svnAdvance 9) fuseOtpS).otp.recipeSvn = 3
    ∧ (after (.keyFuse 9) fuseOtpS).otp.revoked = 1 ∧ ((after (.keyFuse 9) fuseOtpS).otp.ownerKeys.map List.length) = [64, 0, 0, 0]
    := by decide +kernel
/-! ## Resets, power and the whole machine -/

/-- A supply hold in force since 100 us; partition 0 runs a step. -/
def holdS : State :=
  let s := stepS id
  { s with power := { s.power with hold := some ⟨100000, 1⟩, belowWarn := 1 } }

theorem witness_ResetsAndHolds :
    (after (.resetNAssert 9) upS).boot.inReset = true ∧ (after (.resetNAssert 9) upS).boot.running = false
    ∧ (after (.thermtrip 3 9) upS).power.tripped = true ∧ (List.replicate 16 (99 : Int)).length = 16
    ∧ (after (.thermtripRelease (List.replicate 16 99) 9) (after (.thermtrip 3 9) upS)).power.tripped = false
    ∧ (after (.thermtripRelease (100 :: List.replicate 15 99) 9) (after (.thermtrip 3 9) upS)).power.tripped = true
    ∧ upS.up = true ∧ State.reset.up = false ∧ upS.power.hold = none ∧ upS.stud.booted = true
    ∧ (norS (some .studbook)).up = true ∧ (norS (some .studbook)).norBusy ≠ none
    ∧ ((after (.supplyHoldStart 2 9) (norS (some .studbook))).power.hold.map fun h => (h.start, h.rails)) = some (9, 2)
    ∧ (after (.supplyHoldStart 2 9) (norS (some .studbook))).norOps.length = 1
    ∧ ((after (.supplyHoldStart 2 100001) holdS).power.hold.map fun h => (h.start, h.rails)) = some (100000, 3)
    ∧ (after (.supplyHoldEnd 149999) holdS).power.hold.isSome = true ∧ (after (.supplyHoldEnd 150000) holdS).power.hold = none
    ∧ ((after (.supplyHoldEnd 150000) holdS).parts[(0 : Fin 6)].step.map (·.started)) = some 51000 := by decide +kernel

/-- The running chip with its power state as `f` makes it. -/
def powS (f : Power → Power) : State := { upS with power := f upS.power }

theorem witness_VoltageThrottleAndDomains :
    upS.up = true ∧ upS.holderActs = true ∧ State.reset.up = false
    ∧ (after (.vidAdjust 9) (powS fun x => { x with tjMax := -1 })).power.bump = 2
    ∧ (after (.vidAdjust 9) (powS fun x => { x with tjMax := 27, bump := 2 })).power.bump = 1
    ∧ (after (.vidStep 9) (powS fun x => { x with vid := 3, target := 4 })).power.vid = 4
    ∧ (after (.vidStep 9) (powS fun x => { x with vid := 4, target := 3 })).now = 1009
    ∧ (after (.vidStep 9) (powS fun x => { x with vid := 4, target := 3 })).power.lastStep = some 1009
    ∧ (after (.vidStep 100008) (powS fun x => { x with vid := 3, target := 4, lastStep := some 9 })).power.vid = 3
    ∧ (after (.vidWarnTrack 50009) (powS fun x => { x with vid := 4, stepping := true, lastStep := some 9 })).power.warnCode = 4
    ∧ (after (.vidWarnTrack 50008) (powS fun x => { x with vid := 4, stepping := true, lastStep := some 9 })).power.stepping = true
    ∧ (after (.thermalSample (90 :: 101 :: 101 :: List.replicate 13 20) 9) upS).power.hottest = 1
    ∧ (after (.thermalSample (90 :: 101 :: 101 :: List.replicate 13 20) 9) upS).power.throttle = 1
    ∧ (after (.thermalSample (List.replicate 16 105) 9) upS).power.throttle = 3
    ∧ (after (.domainSwitch 9) (powS fun x => { x with requests := [(20, true), (21, false)], switching := [(3, true)] })).power.requests
      = [(20, true)]
    ∧ (after (.domainSwitch 9) (powS fun x => { x with requests := [(20, true)], switching := [(3, true)] })).power.requests = [(20, true)]
    ∧ (after (.domainSwitchDone 9) (powS fun x => { x with switching := [(3, true)] })).power.domains.getLsbD 10 = true
    ∧ ((after (.domainSwitchDone 9) { matS with power := { matS.power with switching := [(0, false)] } }).engines[(0 : Fin 7)].paddock) = []
    := by decide +kernel

/-- A step of the queue's front, and the stores' canonical form on a state that lists bytes in each store. -/
theorem test_step_takes_the_front :
    ({ upS with pending := [.linkUp 9, .linkDown 9] } : State).pending = .linkUp 9 :: [.linkDown 9]
    ∧ (match step { upS with pending := [.linkDown 9, .linkUp 9] } with
      | .next t => (t.pending, t.host.linkUp)
      | _ => ([], true)) = ([.linkUp 9], false)
    ∧ (match step upS with
      | .next t => decide (t = upS)
      | _ => false) = true := by decide +kernel

theorem witness_EveryStepKeepsStoresCanonical :
    lineS.storesOk = true ∧ (norS none).storesOk = true ∧ matS.storesOk = true
    ∧ (match step { lineS with pending := [.memWrite .frontEnd 0x3001 ⟨[0, 9], []⟩ 9] } with
      | .next t => t.storesOk
      | _ => false) = true := by decide +kernel

theorem witness_EveryCommandReportsWhatItChanges :
    (after (.staleEpoch 1 3 4 9) upS).host.evtNew = true ∧ upS.host.evtNew = false
    ∧ upS.stud.produced < (after (.staleEpoch 1 3 4 9) upS).stud.produced := by decide +kernel

/-- The worked example of R415: a year of 365 days with its five kinds of events. -/
theorem test_availability_of_R415 :
    (StudRec.charge ⟨0, 0, 0x0407, 8760, 0, payload13 (0 :: 0 :: leBytes 4 200)⟩ : Nat) = 1752000
    ∧ 1752000 + 600 + 140 + 120 * 40000 + 6000 = 6558740 ∧ availabilityPpb 6558740 (31536000 * second) = 999999792
    ∧ availableEnough 6558740 (31536000 * second) = true ∧ busyS.operating = true ∧ upS.operating = false := by
  decide +kernel

end Sys2Proof.Tests
end

/-! ## The register space: where the broadcast and group windows lie (R7, R8) -/

namespace Sys2Proof.Machine

@[simp] theorem State.at_reachesRegs (s : State) (t : Nat) : (s.at t).reachesRegs = s.reachesRegs := rfl

theorem reachesRegs_of_unfrozen {s : State} (h : s.boot.frozen = false) : s.reachesRegs = true := by
  simp [State.reachesRegs, h]

/-- An offset in a kind block lies in that kind's block. -/
theorem locateReg_kindBlock (k : Fin 4) (o : Nat) (h : o < 0x1000000) :
    locateReg (0xF0000000000 + k.val * 0x1000000 + o) = locateKind k o := by
  have hk := k.isLt
  have hq : (0xF0000000000 + k.val * 0x1000000 + o - 0xF0000000000) / 0x1000000 = k.val := by omega
  have hr : (0xF0000000000 + k.val * 0x1000000 + o) % 0x1000000 = o := by omega
  unfold locateReg
  rw [if_pos (by omega), hq, hr, Fin.ofNat_val_eq_self]

theorem locateReg_broadcastAddr (k : Fin 4) (off : Nat) :
    locateReg (broadcastAddr k off) = some (.broadcast k, off % 0x10000) := by
  have h : broadcastAddr k off = 0xF0000000000 + k.val * 0x1000000 + (0x800000 + off % 0x10000) := by
    unfold broadcastAddr; omega
  rw [h, locateReg_kindBlock k _ (by omega), locateKind, if_neg (by omega), if_pos (by omega), Nat.add_sub_cancel_left]

theorem locateReg_groupAddr (k : Fin 4) (g : Fin 8) (off : Nat) :
    locateReg (groupAddr k g off) = some (.group k g, off % 0x10000) := by
  have hg := g.isLt
  have h : groupAddr k g off = 0xF0000000000 + k.val * 0x1000000 + (0x900000 + g.val * 0x10000 + off % 0x10000) := by
    unfold groupAddr; omega
  have hq : (0x900000 + g.val * 0x10000 + off % 0x10000 - 0x900000) / 0x10000 = g.val := by omega
  have hr : (0x900000 + g.val * 0x10000 + off % 0x10000) % 0x10000 = off % 0x10000 := by omega
  rw [h, locateReg_kindBlock k _ (by omega), locateKind, if_neg (by omega), if_neg (by omega), if_pos (by omega), hq, hr,
    Fin.ofNat_val_eq_self]

/-! ## What a write to the register space does, by case -/

theorem writeReg_unreached {s : State} (a : Nat) (v m : Word) (h : s.reachesRegs = false) :
    s.writeReg a v m = s.answer .busError := by
  simp [State.writeReg, h]

theorem writeReg_empty {s : State} {a off : Nat} {w : RegWindow} {k : Fin 4} (v m : Word) (h : s.reachesRegs = true)
    (hl : locateReg a = some (w, off)) (he : s.emptyWindow w = some k) :
    s.writeReg a v m = (s.emptyGroup k).answer .none := by
  simp [State.writeReg, h, hl, he]

/-- A write to a register that is not frozen. -/
theorem writeReg_applies {s : State} {a off : Nat} {w : RegWindow} {r : RegRule} (v m : Word) (h : s.reachesRegs = true)
    (hl : locateReg a = some (w, off)) (he : s.emptyWindow w = none) (hr : w.rule off = some r)
    (hf : (s.applyReg w off r v m).boot.frozen = false ∨ r.rw = 0) :
    s.writeReg a v m = (s.applyReg w off r v m).answer .none := by
  simp only [State.writeReg, h, hl, he, hr]
  rcases hf with hf | hf <;> simp [hf]

@[simp] theorem emptyWindow_broadcast (s : State) (k : Fin 4) : s.emptyWindow (.broadcast k) = none := rfl

theorem emptyWindow_group (s : State) (k : Fin 4) (g : Fin 8) :
    s.emptyWindow (.group k g) = if (s.groupMask[k])[g] = 0 then some k else none := rfl

/-- A replacement that another hides. -/
theorem vmod_hides {α : Type} {n : Nat} (v : Vector α n) (i : Fin n) (f g : α → α) (h : ∀ x, g (f x) = g x) :
    vmod (vmod v i f) i g = vmod v i g := by
  simp [vmod, h]

theorem quiet_answer (s : State) (r : BusReply) : (s.answer r).quiet = s.quiet.answer r := rfl

theorem quiet_at (s : State) (t : Nat) : (s.at t).quiet = s.quiet := rfl

theorem quiet_onKind (s : State) (k : Fin 4) (f : KindStatus → KindStatus) : (s.onKind k f).quiet = s.quiet.onKind k f := rfl

/-- A command that ends in a bus error changes nothing but the answer. -/
theorem kept_busError (o s n : State) (h : n.quiet = s.quiet.answer .busError) :
    (commit o n).reply = .busError ∧ Kept (fun x => { x with reply := .none }) s (commit o n) := by
  have hr : n.reply = .busError := congrArg State.reply h
  refine ⟨by simpa using hr, ?_⟩
  unfold Kept
  rw [commit_quiet, h]
  rfl

/-- Settles O2: the window of the address is the group's, and its empty mask ends the access before any register is sought. -/
theorem emptyGroupAccess : Obligations.EmptyGroupAccess := by
  intro s kind g off value t hmask erase
  have kept (n : State) (r : BusReply)
      (h : n.quiet = (s.quiet.emptyGroup kind).answer r) : Kept erase s (commit s n) := by
    unfold Kept
    rw [commit_quiet, h]
    have hk := vmod_hides s.kindStatus kind (fun k => { k with groupEmpty := true })
      (fun k => { k with groupEmpty := false }) fun _ => rfl
    exact congrArg (fun v => { s.quiet with reply := .none, kindStatus := v }) hk
  refine ⟨fun hreach => ⟨⟨_, rfl, ?_⟩, _, rfl, ?_⟩, fun hreach c hc => ?_⟩
  · have hw : (s.at t).writeReg (groupAddr kind g off) value 0xFFFFFFFF = ((s.at t).emptyGroup kind).answer .none :=
      writeReg_empty _ _ hreach (locateReg_groupAddr kind g off) (if_pos hmask)
    rw [hw]
    exact ⟨by simp [State.emptyGroup, State.onKind], by simp, kept _ _ rfl⟩
  · simp only [hreach, hmask]
    exact ⟨by simp [State.emptyGroup, State.onKind], by simp, kept _ _ rfl⟩
  · simp only [List.mem_cons, List.not_mem_nil, or_false] at hc
    obtain rfl | rfl := hc
    · exact ⟨_, rfl, kept_busError _ _ _ (congrArg State.quiet (writeReg_unreached (s := s.at t) _ _ _ hreach))⟩
    · refine ⟨_, rfl, kept_busError _ _ _ ?_⟩
      simp only [hreach]
      rfl

/-! ## A port's registers -/

/-- A register of a port, as the unit window of the sensor ports shows it. -/
def Port.reg (p : Port) (off : Nat) : Word :=
  if off = 0 then p.portCfg
  else if off = 4 then p.ttPeriod
  else if off = 8 then p.sampleStart
  else if 0x10 ≤ off ∧ off < 0x20 then p.plane[Fin.ofNat 4 ((off - 0x10) / 4)]
  else if 0x100 ≤ off ∧ off < 0x180 then p.ttEdge[Fin.ofNat 32 ((off - 0x100) / 4)]
  else if off = 0x200 then p.calCfg
  else if off = 0x204 then p.calLimits
  else if off = 0x300 then p.status
  else 0

theorem unitReg_port (s : State) (n : Fin 4) (off : Nat) : s.unitReg 1 n.val off = s.ports[n].reg off := by
  have hn : (Fin.ofNat 4 n.val) = n := Fin.ofNat_val_eq_self n
  show State.unitReg s 1 n.val off = _
  simp only [State.unitReg, Port.reg, hn]
  rfl

/-- The configuration registers of a port. -/
inductive PortSlot where
  | cfg | period | start | plane (i : Fin 4) | edge (i : Fin 32) | cal | limits

/-- Where a configuration register lies in its unit window (R35, R36, R47, R51). -/
def PortSlot.offset : PortSlot → Nat
  | .cfg => 0
  | .period => 4
  | .start => 8
  | .plane i => 0x10 + 4 * i.val
  | .edge i => 0x100 + 4 * i.val
  | .cal => 0x200
  | .limits => 0x204

/-- The value of a configuration register. -/
def PortSlot.get (p : Port) : PortSlot → Word
  | .cfg => p.portCfg
  | .period => p.ttPeriod
  | .start => p.sampleStart
  | .plane i => p.plane[i]
  | .edge i => p.ttEdge[i]
  | .cal => p.calCfg
  | .limits => p.calLimits

/-- An aligned offset is that of a slot, or shows PORT_STATUS or zero and has no bits that software may write. -/
theorem slot_or_readOnly (o : Nat) (ho : o % 4 = 0) :
    (∃ t : PortSlot, o = t.offset)
    ∨ (∀ p : Port, p.reg o = if o = 0x300 then p.status else 0) ∧ ∀ r, unitRule 1 o = some r → r.rw = 0 := by
  by_cases h0 : o = 0
  · exact .inl ⟨.cfg, h0⟩
  by_cases h4 : o = 4
  · exact .inl ⟨.period, h4⟩
  by_cases h8 : o = 8
  · exact .inl ⟨.start, h8⟩
  by_cases hp : 0x10 ≤ o ∧ o < 0x20
  · exact .inl ⟨.plane ⟨(o - 0x10) / 4, by omega⟩, by simp only [PortSlot.offset]; omega⟩
  by_cases he : 0x100 ≤ o ∧ o < 0x180
  · exact .inl ⟨.edge ⟨(o - 0x100) / 4, by omega⟩, by simp only [PortSlot.offset]; omega⟩
  by_cases hc : o = 0x200
  · exact .inl ⟨.cal, hc⟩
  by_cases hl : o = 0x204
  · exact .inl ⟨.limits, hl⟩
  · refine .inr ⟨fun p => by simp only [Port.reg, h0, h4, h8, hp, he, hc, hl, if_false], fun r h => ?_⟩
    simp only [unitRule, Fin.val_one, ho, h0, h4, h8, hp, he, hc, hl, if_false, ne_eq, not_true] at h
    split at h
    · cases h; rfl
    · cases h

/-- A register with bits that software may write is a configuration register. -/
theorem slot_of_rule {off : Nat} {r : RegRule} (h : unitRule 1 off = some r) (hr : r.rw ≠ 0) :
    ∃ t : PortSlot, off = t.offset := by
  have h4 : off % 4 = 0 := by
    by_contra h4
    simp [unitRule, h4] at h
  rcases slot_or_readOnly off h4 with ht | ⟨_, hro⟩
  · exact ht
  · exact absurd (hro r h) hr

/-- A read of a slot's register. -/
theorem reg_slot (p : Port) (t : PortSlot) : p.reg t.offset = t.get p := by
  cases t with
  | plane i =>
    have := i.isLt
    have hi : Fin.ofNat 4 ((0x10 + 4 * i.val - 0x10) / 4) = i := Fin.ext (by simp)
    simp only [Port.reg, PortSlot.offset, PortSlot.get, hi]
    rw [if_neg (by omega), if_neg (by omega), if_neg (by omega), if_pos (by omega)]
  | edge i =>
    have := i.isLt
    have hi : Fin.ofNat 32 ((0x100 + 4 * i.val - 0x100) / 4) = i := Fin.ext (by simp)
    simp only [Port.reg, PortSlot.offset, PortSlot.get, hi]
    rw [if_neg (by omega), if_neg (by omega), if_neg (by omega), if_neg (by omega), if_pos (by omega)]
  | _ => rfl

/-- A write to a slot's register: that slot takes the value, the other slots and the rest of the port stay. -/
theorem setReg_slot (p : Port) (t : PortSlot) (v : Word) :
    t.get (p.setReg t.offset v) = v ∧ (∀ u : PortSlot, u.offset ≠ t.offset → u.get (p.setReg t.offset v) = u.get p)
    ∧ (p.setReg t.offset v).status = p.status ∧ (p.setReg t.offset v).bare = p.bare := by
  cases t with
  | plane i =>
    have := i.isLt
    have hs : p.setReg (PortSlot.plane i).offset v = { p with plane := p.plane.set i v } := by
      have hi : Fin.ofNat 4 ((0x10 + 4 * i.val - 0x10) / 4) = i := Fin.ext (by simp)
      simp only [Port.setReg, PortSlot.offset, hi]
      rw [if_neg (by omega), if_neg (by omega), if_neg (by omega), if_pos (by omega)]
    rw [hs]
    refine ⟨by simp [PortSlot.get], fun u hu => ?_, rfl, rfl⟩
    cases u with
    | plane j =>
      have : i.val ≠ j.val := fun e => hu (by rw [Fin.ext e])
      simp [PortSlot.get, this]
    | _ => rfl
  | edge i =>
    have := i.isLt
    have hs : p.setReg (PortSlot.edge i).offset v = { p with ttEdge := p.ttEdge.set i v } := by
      have hi : Fin.ofNat 32 ((0x100 + 4 * i.val - 0x100) / 4) = i := Fin.ext (by simp)
      simp only [Port.setReg, PortSlot.offset, hi]
      rw [if_neg (by omega), if_neg (by omega), if_neg (by omega), if_neg (by omega), if_pos (by omega)]
    rw [hs]
    refine ⟨by simp [PortSlot.get], fun u hu => ?_, rfl, rfl⟩
    cases u with
    | edge j =>
      have : i.val ≠ j.val := fun e => hu (by rw [Fin.ext e])
      simp [PortSlot.get, this]
    | _ => rfl
  | _ =>
    refine ⟨rfl, fun u hu => ?_, rfl, rfl⟩
    cases u <;> first | rfl | exact absurd rfl hu

theorem Port.reg_setReg_ne (p : Port) (t : PortSlot) (v : Word) {o : Nat} (ho : o % 4 = 0) (hne : o ≠ t.offset) :
    (p.setReg t.offset v).reg o = p.reg o := by
  obtain ⟨_, hget, hstatus, _⟩ := setReg_slot p t v
  rcases slot_or_readOnly o ho with ⟨u, rfl⟩ | ⟨h, _⟩
  · rw [reg_slot, reg_slot, hget u hne]
  · rw [h, h, hstatus]

/-! ## Writes to member ports (R8) -/

theorem mix_full (r : RegRule) (old v : Word) :
    r.mix old v 0xFFFFFFFF = (old &&& ~~~(BitVec.ofNat 32 r.rw)) ||| (v &&& BitVec.ofNat 32 r.rw) := by
  have h : (0xFFFFFFFF : Word) &&& BitVec.ofNat 32 r.rw = BitVec.ofNat 32 r.rw := BitVec.allOnes_and
  simp only [RegRule.mix, h]

/-- A port with a register written in the bits that software may write. -/
def Port.mixed (p : Port) (off : Nat) (r : RegRule) (v : Word) : Port := p.setReg off (r.mix (p.reg off) v 0xFFFFFFFF)

/-- A write to one port's configuration register, before the configuration is frozen. -/
theorem writeUnit_port {s : State} {off : Nat} {r : RegRule} (n : Fin 4) (v : Word) (h : unitRule 1 off = some r) (hr : r.rw ≠ 0)
    (hf : s.boot.frozen = false) :
    s.writeUnit 1 n.val off v 0xFFFFFFFF = s.onPort n fun p => p.mixed off r v := by
  have hn : Fin.ofNat 4 n.val = n := Fin.ofNat_val_eq_self n
  simp only [State.writeUnit, h, if_true, if_pos hr, hf, hn, unitReg_port]
  simp only [State.onPort, vmod, Port.mixed]
  rfl

/-- A write to distinct ports writes each of them once and nothing else. -/
theorem writeMembers_ports {off : Nat} {r : RegRule} (v : Word) (h : unitRule 1 off = some r) (hr : r.rw ≠ 0)
    (us : List (Fin 4)) (hd : us.Nodup) (s : State) (hf : s.boot.frozen = false) :
    ∃ ports : Vector Port 4, s.writeMembers 1 (us.map Fin.val) off v 0xFFFFFFFF = { s with ports := ports }
      ∧ ∀ n : Fin 4, ports[n] = if n ∈ us then (s.ports[n]).mixed off r v else s.ports[n] := by
  induction us generalizing s with
  | nil => exact ⟨s.ports, rfl, fun n => by simp⟩
  | cons m us ih =>
    obtain ⟨hm, hd⟩ := List.nodup_cons.1 hd
    obtain ⟨ports, hw, hp⟩ := ih hd (s.onPort m fun p => p.mixed off r v) hf
    refine ⟨ports, ?_, fun n => ?_⟩
    · show State.writeMembers (s.writeUnit 1 m.val off v 0xFFFFFFFF) 1 (us.map Fin.val) off v 0xFFFFFFFF = _
      rw [writeUnit_port m v h hr hf, hw]
      rfl
    · simp only [hp n, State.onPort_ports, List.mem_cons, Fin.getElem_fin, vmod_get]
      by_cases hn : n = m
      · subst hn; simp [hm]
      · simp [hn, Ne.symm hn]

theorem range_built_ports : List.range (built 1) = (List.finRange 4).map Fin.val := by decide

/-- What a broadcast or group write to distinct sensor ports does, from the state in which the access takes effect. -/
theorem portsWritten {s : State} {t off : Nat} {r : RegRule} (v : Word) (h : unitRule 1 off = some r) (hr : r.rw ≠ 0)
    (us : List (Fin 4)) (hd : us.Nodup) (hf : s.boot.frozen = false) :
    let u := commit s (((s.at t).writeMembers 1 (us.map Fin.val) off v 0xFFFFFFFF).answer .none)
    u.reply = .none
    ∧ (∀ n : Fin 4, u.unitReg 1 n.val off = if n ∈ us then
          (s.unitReg 1 n.val off &&& ~~~(BitVec.ofNat 32 r.rw)) ||| (v &&& BitVec.ofNat 32 r.rw)
        else s.unitReg 1 n.val off)
    ∧ (∀ (n : Fin 4) (o : Nat), o % 4 = 0 → o ≠ off → u.unitReg 1 n.val o = s.unitReg 1 n.val o)
    ∧ Kept (fun x => { x with ports := x.ports.map Port.bare, reply := .none }) s u := by
  intro u
  obtain ⟨slot, rfl⟩ := slot_of_rule h hr
  obtain ⟨ports, hw, hp⟩ := writeMembers_ports v h hr us hd (s.at t) hf
  have hports : u.ports = ports := by
    simp only [u, commit_ports, State.answer_ports, hw]
  refine ⟨commit_reply _ _, fun n => ?_, fun n o ho hne => ?_, ?_⟩
  · rw [unitReg_port, unitReg_port, hports, hp n]
    split
    · simp only [Port.mixed, reg_slot, (setReg_slot _ _ _).1, mix_full, State.at_ports]
    · rfl
  · rw [unitReg_port, unitReg_port, hports, hp n]
    split
    · exact Port.reg_setReg_ne _ slot _ ho hne
    · rfl
  · have hbare : ports.map Port.bare = s.ports.map Port.bare := by
      refine Vector.ext fun k hk => ?_
      have hn : ports[k].bare = s.ports[k].bare := by
        rw [show ports[k] = _ from hp ⟨k, hk⟩]
        split
        · exact (setReg_slot _ _ _).2.2.2
        · rfl
      simpa only [Vector.getElem_map] using hn
    unfold Kept
    rw [commit_quiet, hw]
    exact congrArg (fun p => { s.quiet with ports := p, reply := .none }) hbare

/-- Settles O3: the members are the four ports, each written once. -/
theorem broadcastWriteReachesEveryPort : Obligations.BroadcastWriteReachesEveryPort := by
  intro s off r value t hf hoff h hr
  have hw : (s.at t).writeReg (broadcastAddr 1 off) value 0xFFFFFFFF
      = ((s.at t).writeMembers 1 ((List.finRange 4).map Fin.val) off value 0xFFFFFFFF).answer .none := by
    obtain ⟨_, hp, _⟩ := writeMembers_ports value h hr _ (List.nodup_finRange 4) (s.at t) hf
    have hl : locateReg (broadcastAddr 1 off) = some (.broadcast 1, off) := by
      rw [locateReg_broadcastAddr, Nat.mod_eq_of_lt hoff]
    rw [writeReg_applies (s := s.at t) _ _ (reachesRegs_of_unfrozen hf) hl rfl h ?_]
    · rw [State.applyReg, range_built_ports]
    · rw [State.applyReg, range_built_ports, hp]
      exact .inl hf
  obtain ⟨hreply, hsame, hne, hkept⟩ := portsWritten (t := t) value h hr _ (List.nodup_finRange 4) hf
  refine ⟨_, rfl, ?_⟩
  rw [hw]
  exact ⟨hreply, fun n => (hsame n).trans (if_pos (List.mem_finRange n)), hne, hkept⟩

/-! ## Group writes (R8, R11) -/

theorem groupMembers_ports (s : State) (g : Fin 8) :
    s.groupMembers 1 g
      = ((List.finRange 4).filter fun n => ((s.groupMask[(1 : Fin 4)])[g]).getLsbD n.val).map Fin.val := by
  rw [State.groupMembers, range_built_ports, List.filter_map]
  rfl

theorem groupMembers_engines (s : State) (g : Fin 8) :
    s.groupMembers 0 g
      = ((List.finRange 7).filter fun e => ((s.groupMask[(0 : Fin 4)])[g]).getLsbD e.val).map Fin.val := by
  rw [State.groupMembers, show List.range (built 0) = (List.finRange 7).map Fin.val by decide, List.filter_map]
  rfl

/-- Software writes no bit of an engine's registers. -/
theorem writeUnit_engine (s : State) (u off : Nat) (v m : Word) : s.writeUnit 0 u off v m = s := by
  unfold State.writeUnit
  split <;> rfl

/-- A write to engines reaches none, and notes a fenced one. -/
theorem writeMembers_engines (s : State) (us : List Nat) (off : Nat) (v m : Word) :
    s.writeMembers 0 us off v m
      = if us.any (s.unitFenced 0) then s.onKind 0 fun k => { k with fencedSkip := true } else s := by
  induction us generalizing s with
  | nil => rfl
  | cons u us ih =>
    show State.writeMembers (if s.unitFenced 0 u then _ else _) 0 us off v m = _
    rw [writeUnit_engine, List.any_cons]
    cases hu : s.unitFenced 0 u
    · simp [ih]
    · have hk : (s.onKind 0 fun k => { k with fencedSkip := true }).onKind 0 (fun k => { k with fencedSkip := true })
          = s.onKind 0 fun k => { k with fencedSkip := true } := by
        simp [State.onKind, vmod_hides]
      simp [ih, hk]

/-- A group write with a member, at the offset of a register, is a write to the members. -/
theorem execGroupWrite_members {s : State} {k : Fin 4} {g : Fin 8} {off : Nat} {r : RegRule} (v : Word) (t : Nat)
    (hreach : s.reachesRegs = true) (hm : (s.groupMask[k])[g] ≠ 0) (hoff : off < 0x10000) (h : unitRule k off = some r)
    (hf : ((s.at t).writeMembers k (s.groupMembers k g) off v 0xFFFFFFFF).boot.frozen = false ∨ r.rw = 0) :
    exec (.groupWrite k g off v t) s
      = done s (((s.at t).writeMembers k (s.groupMembers k g) off v 0xFFFFFFFF).answer .none) := by
  have hl : locateReg (groupAddr k g off) = some (.group k g, off) := by
    rw [locateReg_groupAddr, Nat.mod_eq_of_lt hoff]
  exact congrArg (done s) (writeReg_applies (s := s.at t) _ _ hreach hl (if_neg hm) h hf)

/-- A group of engines with a fenced member. -/
theorem any_fenced_iff (s : State) (g : Fin 8) :
    (s.groupMembers 0 g).any (s.unitFenced 0) = true
      ↔ ∃ e : Fin 7, ((s.groupMask[(0 : Fin 4)])[g]).getLsbD e.val = true ∧ s.engines[e].role = .fenced := by
  have hf (e : Fin 7) : s.unitFenced 0 e.val = true ↔ s.engines[e].role = .fenced := by
    simp [State.unitFenced]
  simp only [groupMembers_engines, List.any_map, List.any_eq_true, List.mem_filter, List.mem_finRange, true_and,
    Function.comp_apply, hf]

/-- Settles O4: a group's members are written as a broadcast writes every port; no register of an engine takes a write. -/
theorem groupWriteReachesMembers : Obligations.GroupWriteReachesMembers := by
  refine ⟨fun s g off r value t hf hm hoff h hr => ?_, fun s g off value t hreach hm hoff => ?_⟩
  · have hd := (List.nodup_finRange 4).filter fun n => ((s.groupMask[(1 : Fin 4)])[g]).getLsbD n.val
    obtain ⟨_, hp, _⟩ := writeMembers_ports value h hr _ hd (s.at t) hf
    obtain ⟨hreply, hsame, hne, hkept⟩ := portsWritten (t := t) value h hr _ hd hf
    refine ⟨_, execGroupWrite_members value t (reachesRegs_of_unfrozen hf) hm hoff h (.inl ?_), ?_⟩
    · rw [groupMembers_ports, hp]; exact hf
    · rw [groupMembers_ports]
      exact ⟨hreply, fun n => (hsame n).trans (by simp), hne, hkept⟩
  · have h : ∃ r, unitRule 0 off = some r ∧ r.rw = 0 := by
      rcases hoff with rfl | rfl <;> exact ⟨_, rfl, rfl⟩
    obtain ⟨r, h, hr⟩ := h
    refine ⟨_, execGroupWrite_members value t hreach hm (by omega) h (.inr hr), ?_⟩
    rw [writeMembers_engines]
    have hany := any_fenced_iff s g
    have kept (n : State) (hn : n.quiet = s.quiet
        ∨ n.quiet = s.quiet.onKind 0 fun k => { k with fencedSkip := true }) :
        Kept (fun x => { x with
          reply := .none, kindStatus := vmod x.kindStatus 0 fun k => { k with fencedSkip := false } }) s
          (commit s (n.answer .none)) := by
      unfold Kept
      rw [commit_quiet, quiet_answer]
      rcases hn with hn | hn <;> rw [hn]
      · rfl
      · have hk := vmod_hides s.kindStatus 0 (fun k => { k with fencedSkip := true })
          (fun k => { k with fencedSkip := false }) fun _ => rfl
        exact congrArg (fun v => { s.quiet with reply := .none, kindStatus := v }) hk
    split
    · next hfenced =>
      exact ⟨commit_reply _ _, ⟨fun _ => .inr (hany.1 hfenced), fun _ => by simp [State.onKind, vmod]⟩, kept _ (.inr rfl)⟩
    · next hnone =>
      exact ⟨commit_reply _ _, ⟨fun h => .inl (by simpa using h), fun h => by simpa using h.resolve_right fun e => hnone (hany.2 e)⟩
      , kept _ (.inl rfl)⟩

/-! ## Reads of members (R9) -/

/-- The first member of an ascending list that differs is the one with none lower that differs. -/
theorem find?_eq_lowest {l : List Nat} {f : Nat → Bool} {w : Nat} (hl : l.Pairwise (· < ·)) (hw : w ∈ l) (hf : f w = true)
    (hlow : ∀ v ∈ l, v < w → f v = false) : l.find? f = some w := by
  induction l with
  | nil => cases hw
  | cons x l ih =>
    obtain ⟨hx, hl⟩ := List.pairwise_cons.1 hl
    rcases List.mem_cons.1 hw with rfl | hw
    · rw [List.find?_cons, hf]
    · rw [List.find?_cons, hlow x List.mem_cons_self (hx w hw)]
      exact ih hl hw fun v hv => hlow v (List.mem_cons_of_mem _ hv)

/-- What a read of ascending members answers: the lowest value, and the lowest that differs from it. -/
theorem membersRead {s : State} {kind : Fin 4} {off : Nat} {us : List Nat} (hus : us.Pairwise (· < ·)) {m : Nat} {rest : List Nat}
    (h : us.filter (fun i => !s.unitFenced kind i) = m :: rest) :
    let u := commit s (s.readMembers kind us off)
    u.reply = .value ((s.unitReg kind m off).setWidth 64)
    ∧ (∀ w ∈ rest, s.unitReg kind w off ≠ s.unitReg kind m off →
        (∀ v ∈ rest, v < w → s.unitReg kind v off = s.unitReg kind m off) →
        u.kindStatus[kind].mismatch = true ∧ u.kindStatus[kind].firstDiffer = BitVec.ofNat 5 w)
    ∧ ((∀ w ∈ rest, s.unitReg kind w off = s.unitReg kind m off) → u.kindStatus = s.kindStatus)
    ∧ Kept (fun x => { x with
        reply := .none
        kindStatus := vmod x.kindStatus kind fun k => { k with mismatch := false, firstDiffer := 0 } }) s u := by
  intro u
  have hrest : rest.Pairwise (· < ·) := (List.pairwise_cons.1 (h ▸ hus.filter _)).2
  let differs (w : Nat) : Bool := s.unitReg kind w off != s.unitReg kind m off
  have hu : u = commit s ((match rest.find? differs with
      | some w => s.onKind kind fun k => { k with mismatch := true, firstDiffer := BitVec.ofNat 5 w }
      | none => s).answer (.value ((s.unitReg kind m off).setWidth 64))) := by
    simp only [u, State.readMembers, h]
    rfl
  refine ⟨by rw [hu]; exact commit_reply _ _, fun w hw hne hlow => ?_, fun hsame => ?_, ?_⟩
  · have hfind : rest.find? differs = some w :=
      find?_eq_lowest hrest hw (by simpa [differs] using hne) fun v hv hvw => by simp [differs, hlow v hv hvw]
    simp [hu, hfind, State.onKind]
  · have hfind : rest.find? differs = none := by
      simpa [differs, List.find?_eq_none] using hsame
    simp [hu, hfind]
  · unfold Kept
    rw [hu, commit_quiet, quiet_answer]
    split
    · next w _ =>
      have hk := vmod_hides s.kindStatus kind
        (fun k => { k with mismatch := true, firstDiffer := BitVec.ofNat 5 w })
        (fun k => { k with mismatch := false, firstDiffer := 0 }) fun _ => rfl
      exact congrArg (fun v => { s.quiet with reply := .none, kindStatus := v }) hk
    · rfl

/-- Settles O5: both reads are reads of their members in ascending order. -/
theorem groupReadComparesMembers : Obligations.GroupReadComparesMembers := by
  intro s kind off hrule Reads
  obtain ⟨r, hr⟩ := Option.ne_none_iff_exists'.1 hrule
  have hrange : (List.range (built kind)).Pairwise (· < ·) := List.pairwise_lt_range
  refine ⟨fun m rest hm hreach => ⟨_, rfl, ?_⟩, fun g hg m rest hm hreach => ⟨_, rfl, ?_⟩, fun hreach g c hc => ?_⟩
  · simp only [hreach, hr]
    exact membersRead hrange hm
  · simp only [hreach, hr, hg]
    exact membersRead (hrange.filter _) hm
  · simp only [List.mem_cons, List.not_mem_nil, or_false] at hc
    obtain rfl | rfl := hc
    · refine ⟨_, rfl, kept_busError _ _ _ ?_⟩
      simp only [hreach]
      rfl
    · refine ⟨_, rfl, kept_busError _ _ _ ?_⟩
      simp only [hreach]
      rfl

end Sys2Proof.Machine

/-! ## Where a line lies (R3 to R6) -/

namespace Sys2Proof.Machine

/-- The data range ends at 15/16 of 24, 48 or 96 GiB (R4, R315). -/
theorem dataEnd_eq (m : Memory) : m.dataEnd = 24159191040 ∨ m.dataEnd = 48318382080 ∨ m.dataEnd = 96636764160 := by
  have h1 : m.memCfg.toNat % 2 < 2 := Nat.mod_lt _ (by decide)
  have h2 : m.memCfg.toNat / 2 % 2 < 2 := Nat.mod_lt _ (by decide)
  unfold Memory.dataEnd Memory.channelBytes
  generalize m.memCfg.toNat % 2 = b1 at *
  generalize m.memCfg.toNat / 2 % 2 = b2 at *
  interval_cases b1 <;> interval_cases b2 <;> simp

theorem lineOf_le (a : Nat) : lineOf a ≤ a ∧ a < lineOf a + 64 ∧ lineOf a % 64 = 0 := by
  unfold lineOf; omega

theorem deviceBytes_none {s : State} {a len : Nat} (h : ∀ st o, s.devicePlace a ≠ .bytes st o) : s.deviceBytes a len = none := by
  unfold State.deviceBytes
  split
  · next h' _ => exact absurd h' (h _ _)
  · rfl

/-- A line whose two ends lie in one store. -/
theorem deviceBytes_some {s : State} {a b : Nat} {st : Store} {o p : Nat} (hab : a + 63 = b) (h : s.devicePlace a = .bytes st o)
    (h' : s.devicePlace b = .bytes st p) : s.deviceBytes a 64 = some (st, o) := by
  rw [← hab] at h'
  simp only [State.deviceBytes, h, Nat.add_one_sub_one, h', if_true]

theorem devicePlace_main {s : State} {a : Nat} (h : a < s.mem.dataEnd) : s.devicePlace a = .bytes .main a := by
  have := dataEnd_eq s.mem
  rw [State.devicePlace, if_pos (by omega), if_pos h]

theorem devicePlace_gap {s : State} {a : Nat} (h : s.mem.dataEnd ≤ a) (h' : a < 0x80000000000) : s.devicePlace a = .unmapped := by
  unfold State.devicePlace
  split
  · rw [if_neg (by omega)]
  · rw [if_neg (by omega), if_neg (by omega), if_neg (by omega)]

theorem devicePlace_registers {s : State} {a : Nat} (h : 0xF0000000000 ≤ a) (st : Store) (o : Nat) :
    s.devicePlace a ≠ .bytes st o := by
  unfold State.devicePlace
  rw [if_neg (by omega), if_neg (by unfold arenaBytes; omega), if_neg (by omega)]
  split <;> exact DevicePlace.noConfusion

theorem devicePlace_arena {s : State} {o : Nat} (h : o < arenaBytes) : s.devicePlace (0x80000000000 + o) = .bytes .arena o := by
  rw [State.devicePlace, if_neg (by omega), if_pos (by omega), Nat.add_sub_cancel_left]

/-- The aperture of an engine (R4), which answers as an unmapped address does when the engine is fenced. -/
theorem devicePlace_paddock (s : State) (e : Fin 7) {o : Nat} (h : o < paddockBytes) :
    s.devicePlace (0x90000000000 + e.val * 0x4000000 + o)
      = if s.engines[e].role ≠ .fenced then .bytes (.paddock e) o else .unmapped := by
  have he := e.isLt
  unfold paddockBytes at h
  have hn : (0x90000000000 + e.val * 0x4000000 + o - 0x90000000000) / 0x4000000 = e.val := by omega
  have ho : (0x90000000000 + e.val * 0x4000000 + o - 0x90000000000) % 0x4000000 = o := by omega
  have hb : o < paddockBytes := by unfold paddockBytes; omega
  rw [State.devicePlace, if_neg (by omega), if_neg (by unfold arenaBytes; omega), if_pos (by omega)]
  simp only [hn, ho, Fin.ofNat_val_eq_self, he, hb, true_and]

/-! ## What a read of a line counts (R328, R329, R348) -/

/-- A channel after an update of one channel. -/
theorem onChannel_channel (s : State) (c x : Fin 12) (f : Channel → Channel) :
    (s.onChannel c f).mem.channels[x] = if c = x then f s.mem.channels[c] else s.mem.channels[x] :=
  vmod_get s.mem.channels c x f

/-- A counter of a block after a count. -/
theorem bumpAt_get {n : Nat} (v : Vector DWord n) (i k j : Nat) (hj : j < n) :
    (bumpAt v i k)[j] = if i = j then v[j] + BitVec.ofNat 64 k else v[j] := by
  unfold bumpAt
  split
  · rw [Vector.getElem_set]
    split
    · next h => subst h; rfl
    · rfl
  · rw [if_neg (by omega)]

/-- The counters of a channel after a count on a channel. -/
theorem countChannel_counter (s : State) (c x : Fin 12) (i k j : Nat) (hj : j < 9) :
    (s.countChannel c i k).mem.channels[x].counters[j]
      = if c = x ∧ i = j then s.mem.channels[x].counters[j] + BitVec.ofNat 64 k else s.mem.channels[x].counters[j] := by
  rw [State.countChannel, onChannel_channel]
  by_cases hc : c = x
  · subst hc
    simp only [if_true, bumpAt_get, true_and]
  · simp only [hc, false_and, if_false]

/-- A check line that is wanted counts misses alone. -/
theorem touchCheck_counter (s : State) (a : Nat) (x : Fin 12) (j : Nat) (hj : j < 7) :
    (s.touchCheck a).mem.channels[x].counters[j] = s.mem.channels[x].counters[j] := by
  have counted (y : State) (hy : y.mem.channels[x].counters[j] = s.mem.channels[x].counters[j]) (c : Fin 12) (k : Nat) :
      (y.onChannel c fun z => { z with cache := cacheTouch z.cache k }).mem.channels[x].counters[j]
        = s.mem.channels[x].counters[j] := by
    rw [onChannel_channel, ← hy]
    split
    · next h => subst h; rfl
    · rfl
  unfold State.touchCheck
  split
  · rfl
  · refine counted _ ?_ _ _
    split
    · rfl
    · rw [countChannel_counter, if_neg fun h => Nat.ne_of_gt hj h.2]

theorem readCheck_channels (s : State) (a : Nat) : (s.readCheck a).mem.channels = s.mem.channels := by
  unfold State.readCheck
  dsimp only
  split <;> rfl

/-! ## What stays of main memory under reads -/

theorem place_bare (m : Memory) (a : Nat) : m.bare.place a = m.place a := rfl

theorem OnlyRead.place {s u : State} (h : OnlyRead s u) (a : Nat) : u.mem.place a = s.mem.place a :=
  (congrArg (fun z : State => z.mem.place a) h.1 :)

theorem OnlyRead.storedCheck {s u : State} (h : OnlyRead s u) (a : Nat) : u.mem.storedCheck a = s.mem.storedCheck a := by
  obtain ⟨_, hcells, _, hchecks⟩ := h
  unfold Memory.storedCheck Memory.lineBytes
  rw [hcells, hchecks]

theorem OnlyRead.poisoned {s u : State} (h : OnlyRead s u) (a : Nat) : u.mem.poisoned a = s.mem.poisoned a := by
  unfold Memory.poisoned Memory.lineBytes
  rw [h.storedCheck, h.2.1]

theorem OnlyRead.lineSeen {s u : State} (h : OnlyRead s u) (a : Nat) (d : Disturb) :
    u.mem.lineSeen a d = s.mem.lineSeen a d := by
  have hr : u.mem.remapped a = s.mem.remapped a := (congrArg (fun z : State => z.mem.remapped a) h.1 :)
  unfold Memory.lineSeen Memory.lineBytes
  rw [hr, h.2.1]

/-- A read of a line of a valid frame: its check line is wanted and read, and a poisoned line counts a hit. -/
theorem noteRead_valid {s : State} {a : Nat} (hv : s.mem.frameValid a = true) :
    s.noteRead a = if s.mem.poisoned a then
        ((s.touchCheck a).readCheck a).countChannel (s.mem.place a).channel Chan.poisonHits 1
      else (s.touchCheck a).readCheck a := by
  have hread : OnlyRead s ((s.touchCheck a).readCheck a) := (onlyNoted_touchCheck s a).read.trans (onlyRead_readCheck _ a)
  unfold State.noteRead
  simp only [if_pos hv, hread.poisoned, hread.place]

/-- Of the counters below the misses, a read of a line touches the hits alone. -/
theorem noteRead_counter (s : State) (a j : Nat) (hj : j < 7) (hv : s.mem.frameValid a = true) :
    (s.noteRead a).mem.channels[(s.mem.place a).channel].counters[j]
      = s.mem.channels[(s.mem.place a).channel].counters[j]
        + BitVec.ofNat 64 (if s.mem.poisoned a = true ∧ 3 = j then 1 else 0) := by
  have hsame : ((s.touchCheck a).readCheck a).mem.channels[(s.mem.place a).channel].counters[j]
      = s.mem.channels[(s.mem.place a).channel].counters[j] := by
    simp only [readCheck_channels, touchCheck_counter s a _ j hj]
  rw [noteRead_valid hv]
  by_cases hp : s.mem.poisoned a = true
  · simp only [hp, if_true, countChannel_counter, hsame, true_and]
    split <;> simp
  · rw [if_neg hp, hsame, if_neg fun h => hp h.1]
    exact (BitVec.add_zero _).symm

/-! ## Reads of a line, by case (R325, R328, R329) -/

/-- What a read may touch besides what it counts: the answer, the token buckets, the lines in recovery. -/
def State.calm (z : State) : State :=
  { z.unread with
    reply := .none
    mem := { z.unread.mem with bwFront := 0, bwPart := Vector.replicate 6 0, bwRecover := 0, recovering := [] } }

/-- How a read of a line leaves the state: what it counted on the line's channel, whether it put the line in recovery, and every
byte as it was. -/
def ReadLeaves (s n : State) (l : Nat) (hits mism : Nat) (start : Bool) : Prop :=
  let ch := (s.mem.place l).channel
  n.mem.channels[ch].counters[3] = s.mem.channels[ch].counters[3] + BitVec.ofNat 64 hits
  ∧ n.mem.channels[ch].counters[0] = s.mem.channels[ch].counters[0] + BitVec.ofNat 64 mism
  ∧ n.mem.recovering = (if start then l :: s.mem.recovering else s.mem.recovering)
  ∧ n.mem.cells = s.mem.cells ∧ n.mem.valid = s.mem.valid ∧ n.mem.checks = s.mem.checks ∧ n.calm = s.calm

theorem readLeaves_answer (s : State) (l : Nat) (r : BusReply) : ReadLeaves s (s.answer r) l 0 0 false := by
  refine ⟨?_, ?_, rfl, rfl, rfl, rfl, rfl⟩ <;> simp

/-- A line that was noted and then answered. -/
theorem readLeaves_noted {s : State} {l : Nat} (hv : s.mem.frameValid l = true) (r : BusReply) :
    ReadLeaves s ((s.noteRead l).answer r) l (if s.mem.poisoned l = true then 1 else 0) 0 false := by
  have h := onlyRead_noteRead s l
  have hcalm : (s.noteRead l).calm = s.calm :=
    congrArg (fun z : State => { z with reply := .none, mem := { z.mem with
      bwFront := 0, bwPart := Vector.replicate 6 0, bwRecover := 0, recovering := [] } }) h.1
  exact ⟨(noteRead_counter s l 3 (by decide) hv).trans (by simp only [and_true])
  , (noteRead_counter s l 0 (by decide) hv).trans (by simp), (congrArg (fun z : State => z.mem.recovering) h.1 :)
  , h.2.1, h.2.2.1, h.2.2.2, hcalm⟩

/-- A line that was noted and fails its check enters recovery. -/
theorem readLeaves_failed {s : State} {l : Nat} (hv : s.mem.frameValid l = true) (hp : s.mem.poisoned l = false) (r : BusReply) :
    ReadLeaves s (((s.noteRead l).startRecovery l).answer r) l 0 1 true := by
  have h := onlyRead_noteRead s l
  obtain ⟨hhits, hmism, hrec, hcells, hvalid, hchecks, hcalm⟩ := readLeaves_noted hv r
  have hcalm' : ((s.noteRead l).startRecovery l).calm = (s.noteRead l).calm :=
    congrArg (fun m : Memory => { (s.noteRead l).calm with mem := { m with
      bwFront := 0, bwPart := Vector.replicate 6 0, bwRecover := 0, recovering := [] } })
      (countChannel_bare (s.noteRead l) ((s.noteRead l).mem.place l).channel Chan.lineMismatches 1)
  have hch : ((s.noteRead l).mem.place l).channel = (s.mem.place l).channel := congrArg Place.channel (h.place l)
  have count (j : Nat) (hj : j < 9) := countChannel_counter (s.noteRead l) ((s.noteRead l).mem.place l).channel
    (s.mem.place l).channel Chan.lineMismatches 1 j hj
  refine ⟨(count 3 (by decide)).trans ?_, (count 0 (by decide)).trans ?_, congrArg (l :: ·) hrec, hcells, hvalid, hchecks
  , hcalm'.trans hcalm⟩
  · rw [if_neg fun h => nomatch h.2]
    exact hhits.trans (by simp [hp])
  · rw [if_pos ⟨hch, rfl⟩]
    exact congrArg (· + BitVec.ofNat 64 1) (hmism.trans (BitVec.add_zero _))

/-- A read of a line of a valid frame that is not in recovery. -/
theorem readLine_valid {s : State} {l : Nat} (d : Disturb) (hv : s.mem.frameValid l = true) (hr : l ∉ s.mem.recovering) :
    s.readLine l d = if s.mem.poisoned l then (s.noteRead l).answer .busError
      else if lineCheck l (s.mem.lineSeen l d) = s.mem.storedCheck l then (s.noteRead l).answer (.line (s.mem.lineSeen l d))
      else ((s.noteRead l).startRecovery l).answer .none := by
  have h := onlyRead_noteRead s l
  have hr' : s.mem.recovering.contains l = false := by simpa using hr
  unfold State.readLine
  simp only [hv, hr', Bool.not_true, Bool.false_eq_true, if_false, h.poisoned, h.lineSeen, h.storedCheck]

/-! ## Reads at a device address (R5, R6, R325) -/

theorem readLine_invalid {s : State} {l : Nat} (d : Disturb) (hv : s.mem.frameValid l = false) :
    s.readLine l d = s.answer (.line (List.replicate 64 0)) := by
  simp [State.readLine, hv]

theorem readLine_recovering {s : State} {l : Nat} (d : Disturb) (hv : s.mem.frameValid l = true) (hr : l ∈ s.mem.recovering) :
    s.readLine l d = s.answer .none := by
  simp [State.readLine, hv, hr]

/-- A read at an address where nothing is mapped, or that no such request reaches. -/
theorem serveRead_unmapped {s : State} {a : Nat} (d : Disturb) (h : ∀ st o, s.devicePlace (lineOf a) ≠ .bytes st o) :
    s.serveRead a d = s.answer .busError := by
  simp only [State.serveRead, deviceBytes_none h]

theorem serveRead_main {s : State} {a : Nat} (d : Disturb) (h : a < s.mem.dataEnd) :
    s.serveRead a d = s.readLine (lineOf a) d := by
  have hend := dataEnd_eq s.mem
  obtain ⟨hle, hlt, hmod⟩ := lineOf_le a
  have hb : s.deviceBytes (lineOf a) 64 = some (.main, lineOf a) :=
    deviceBytes_some rfl (devicePlace_main (by omega)) (devicePlace_main (by omega))
  simp only [State.serveRead, hb]

/-- SRAM whose bytes pass their checks is delivered. -/
theorem readSram_sound {s : State} {st : Store} {u : SramUnit} {o : Nat}
    (h : ∀ x ∈ s.mem.flipped, x.1 = u → x.2 < o ∨ o + 64 ≤ x.2) (ho : st = .arena → 0x160000 ≤ o) :
    s.readSram st u o = s.answer (.line (s.peek st o 64)) := by
  have hnone : (s.mem.flipped.filter fun x => x.1 == u && inSpan x.2 (o, 64)) = [] := by
    rw [List.filter_eq_nil_iff]
    intro x hx hbad
    simp only [inSpan, Bool.and_eq_true, beq_iff_eq, decide_eq_true_eq] at hbad
    have := h x hx hbad.1
    omega
  have hbytes : s.sramBytes st o 64 = (s, s.peek st o 64) := by
    unfold State.sramBytes
    rw [if_neg fun h => by have := ho h.1; omega, if_neg fun h => by have := ho h.1; omega]
  simp only [State.readSram, hnone, List.map_nil, hbytes]

theorem serveRead_arena {s : State} {a o : Nat} (d : Disturb) (hl : lineOf a = 0x80000000000 + o) (hlo : 0x200000 ≤ o)
    (ho : o < arenaBytes) (h : ∀ x ∈ s.mem.flipped, x.1 = .arena → x.2 < o ∨ o + 64 ≤ x.2) :
    s.serveRead a d = s.answer (.line (s.peek .arena o 64)) := by
  obtain ⟨_, _, hmod⟩ := lineOf_le a
  have hb : s.deviceBytes (lineOf a) 64 = some (.arena, o) := by
    rw [hl]
    exact deviceBytes_some (Nat.add_assoc _ _ _) (devicePlace_arena ho) (devicePlace_arena (by unfold arenaBytes at *; omega))
  simp only [State.serveRead, hb]
  rw [if_neg (by omega), readSram_sound h fun _ => by omega]

theorem serveRead_paddock {s : State} {a o : Nat} {e : Fin 7} (d : Disturb) (hl : lineOf a = 0x90000000000 + e.val * 0x4000000 + o)
    (ho : o < paddockBytes) (hrole : s.engines[e].role ≠ .fenced)
    (h : ∀ x ∈ s.mem.flipped, x.1 = .paddock e → x.2 < o ∨ o + 64 ≤ x.2) :
    s.serveRead a d = s.answer (.line (s.peek (.paddock e) o 64)) := by
  obtain ⟨_, _, hmod⟩ := lineOf_le a
  have hp (q : Nat) (hq : q < paddockBytes) :
      s.devicePlace (0x90000000000 + e.val * 0x4000000 + q) = .bytes (.paddock e) q :=
    (devicePlace_paddock s e hq).trans (if_pos hrole)
  have hb : s.deviceBytes (lineOf a) 64 = some (.paddock e, o) := by
    rw [hl]
    exact deviceBytes_some (Nat.add_assoc _ _ _) (hp o ho) (hp (o + 63) (by unfold paddockBytes at *; omega))
  simp only [State.serveRead, hb]
  exact readSram_sound h fun h => nomatch h

/-- A token taken changes the level of a bucket alone. -/
theorem takeToken_eq (s : State) (c : MemClass) : ∃ f p r,
    s.takeToken c = { s with mem := { s.mem with bwFront := f, bwPart := p, bwRecover := r } } := by
  unfold State.takeToken
  split
  · cases c <;> exact ⟨_, _, _, rfl⟩
  · exact ⟨_, _, _, rfl⟩

/-- Settles O41: a read is served from the state that a token was taken from, by the store that the address names. -/
theorem lineReadsDeliver : Obligations.LineReadsDeliver := by
  intro s cls a d t hcls l ch seen sound calm P
  obtain ⟨f, p, r, hx⟩ := takeToken_eq (s.at t) cls
  generalize hxdef : (s.at t).takeToken cls = x at hx
  have hexec : exec (.memRead cls a d t) s = done s (x.serveRead a d) := by
    subst hxdef
    cases cls with
    | slot e i => exact absurd rfl (hcls e i)
    | _ => rfl
  have answers {n : State} {hits mism : Nat} {start : Bool} (reply : BusReply) (hserve : x.serveRead a d = n)
      (hreply : n.reply = reply) (h : ReadLeaves x n l hits mism start) : P reply hits mism start := by
    obtain ⟨hhits, hmism, hrec, hcells, hvalid, hchecks, hcalm⟩ := h
    refine ⟨_, hexec, ?_⟩
    rw [hserve]
    subst hx
    simp only [commit_reply, commit_mem]
    refine ⟨hreply, hhits, hmism, hrec, hcells, hvalid, hchecks, ?_⟩
    unfold Kept
    rw [commit_quiet]
    exact congrArg State.quiet hcalm
  have answered (reply : BusReply) (h : x.serveRead a d = x.answer reply) : P reply 0 0 false :=
    answers reply h rfl (readLeaves_answer x l reply)
  have hend : x.mem.dataEnd = s.mem.dataEnd := by subst hx; rfl
  have hvalid : x.mem.frameValid l = s.mem.frameValid l := by subst hx; rfl
  have hrecov : x.mem.recovering = s.mem.recovering := by subst hx; rfl
  have hflip : x.mem.flipped = s.mem.flipped := by subst hx; rfl
  have hengines : x.engines = s.engines := by subst hx; rfl
  obtain ⟨hle, hlt, hmod⟩ := lineOf_le a
  refine ⟨fun h h' => ?_, fun h => ?_, fun h hv => ?_, fun h hv hr => ?_, fun h hv hr => ?_, fun o hl hlo ho hs => ?_,
    fun e o hl ho => ⟨fun hrole => ?_, fun hrole hs => ?_⟩⟩
  · have hline : x.mem.dataEnd ≤ lineOf a := by have := dataEnd_eq x.mem; omega
    refine answered _ (serveRead_unmapped d fun st o hst => ?_)
    rw [devicePlace_gap hline (by omega)] at hst
    cases hst
  · exact answered _ (serveRead_unmapped d fun st o => devicePlace_registers (by omega) st o)
  · exact answered _ ((serveRead_main d (hend ▸ h)).trans (readLine_invalid d (hvalid.trans hv)))
  · exact answered _ ((serveRead_main d (hend ▸ h)).trans (readLine_recovering d (hvalid.trans hv) (hrecov ▸ hr)))
  · have hpoisoned : x.mem.poisoned l = true ↔ s.mem.storedCheck l = ~~~(lineCheck l (s.mem.lineBytes l)) := by
      subst hx; exact beq_iff_eq
    have hsound : lineCheck l (x.mem.lineSeen l d) = x.mem.storedCheck l ↔ lineCheck l seen = s.mem.storedCheck l := by
      subst hx; rfl
    have hseen : x.mem.lineSeen l d = seen := by subst hx; rfl
    have hv := hvalid.trans hv
    have hread := (serveRead_main d (hend ▸ h)).trans (readLine_valid d hv (hrecov ▸ hr))
    refine ⟨fun hp => ?_, fun hp => ?_⟩
    · rw [if_pos (hpoisoned.2 hp)] at hread
      have hleaves := readLeaves_noted hv .busError
      rw [if_pos (hpoisoned.2 hp)] at hleaves
      exact answers _ hread rfl hleaves
    · have hp : ¬ x.mem.poisoned l = true := fun h => hp (hpoisoned.1 h)
      rw [if_neg hp] at hread
      refine ⟨fun hs => ?_, fun hs => ?_⟩
      · rw [if_pos (hsound.2 hs), hseen] at hread
        have hleaves := readLeaves_noted hv (.line seen)
        rw [if_neg hp] at hleaves
        exact answers _ hread rfl hleaves
      · rw [if_neg fun h => hs (hsound.1 h)] at hread
        exact answers _ hread rfl (readLeaves_failed hv (Bool.not_eq_true _ ▸ hp) _)
  · have hpeek : x.peek .arena o 64 = s.peek .arena o 64 := by subst hx; rfl
    exact answered _ (hpeek ▸ serveRead_arena d hl hlo ho fun y hy => hs y (hflip ▸ hy))
  · refine answered _ (serveRead_unmapped d fun st q hst => ?_)
    rw [show lineOf a = _ from hl, devicePlace_paddock x e ho, hengines, if_neg (not_not_intro hrole)] at hst
    cases hst
  · have hpeek : x.peek (.paddock e) o 64 = s.peek (.paddock e) o 64 := by subst hx; rfl
    exact answered _ (hpeek ▸ serveRead_paddock d hl ho (hengines ▸ hrole) fun y hy => hs y (hflip ▸ hy))

end Sys2Proof.Machine

section
/-!
Every step keeps every store canonical (SPEC R4, R324, R417). Each function of the model that answers a state
  has one lemma
here, `<function>_storesOk`, in the order of the model: from a state whose stores are canonical it answers
  such a state. The
stores change only by the rules that `Laws` states
  (`mainWrite_storesOk`, `poke_storesOk`, `norProgram_storesOk`, …) and by the
few functions below that clear a store or carry a paddock over; a lemma of a function that touches none
  follows the branches
of its definition, and a change of other fields is the same stores by unfolding.
-/
namespace Sys2Proof.Machine
variable {s : State}

/-! ### Branches, pairs and folds -/

theorem ite_storesOk {c : Prop} [Decidable c] {a b : State} (ha : a.storesOk = true) (hb : b.storesOk = true) :
    (if c then a else b).storesOk = true := by
  split
  · exact ha
  · exact hb

theorem ite_fst_storesOk {β : Type} {c : Prop} [Decidable c] {a b : State × β} (ha : a.1.storesOk = true)
    (hb : b.1.storesOk = true) : (if c then a else b).1.storesOk = true := by
  split
  · exact ha
  · exact hb

theorem ite_eff_storesOk {c : Prop} [Decidable c] {a b : Effect} (ha : a.s.storesOk = true)
    (hb : b.s.storesOk = true) :
    (if c then a else b).s.storesOk = true := by
  split
  · exact ha
  · exact hb

/-- The state of a pair taken apart. -/
theorem fst_storesOk {β : Type} {x : State × β} {b : β} (h : x.1.storesOk = true) (e : x = (s, b)) :
    s.storesOk = true := by
  subst e
  exact h

/-- A fold keeps what each of its steps keeps. -/
theorem foldl_keeps {α β : Type} {P : β → Prop} {f : β → α → β} {l : List α} {b : β}
    (hf : ∀ b a, P b → P (f b a)) (h : P b) :
    P (l.foldl f b) :=
  List.foldlRecOn l f h fun b hb a _ => hf b a hb

theorem foldl_storesOk {α : Type} {f : State → α → State} {l : List α}
    (hf : ∀ x a, x.storesOk = true → (f x a).storesOk = true)
    (h : s.storesOk = true) : (l.foldl f s).storesOk = true :=
  foldl_keeps (P := fun x : State => x.storesOk = true) hf h

theorem foldl_fst_storesOk {α β : Type} {f : State × β → α → State × β} {l : List α} {x : State × β}
    (hf : ∀ x a, x.1.storesOk = true → (f x a).1.storesOk = true) (h : x.1.storesOk = true) :
      (l.foldl f x).1.storesOk = true :=
  foldl_keeps (P := fun x : State × β => x.1.storesOk = true) hf h

/-- A fold that stops at the first error keeps what each of its steps keeps. -/
theorem foldExcept_keeps {α β : Type} {P : β → Prop} {f : β → α → Except Half β} {l : List α} {b c : β}
    (hf : ∀ b a d, P b → f b a = .ok d → P d) (h : P b) (e : foldExcept f l b = .ok c) : P c := by
  induction l generalizing b with
  | nil =>
    cases e
    exact h
  | cons a rest ih =>
    unfold foldExcept at e
    split at e
    · cases e
    next d hd => exact ih (hf b a d h hd) e

/-! ### Changes of one store -/

theorem mem_wf_of_storesOk (h : s.storesOk = true) : s.mem.wf = true := ((storesOk_iff s).1 h).1

theorem withMem_storesOk {m : Memory} (hm : m.wf = true) (h : s.storesOk = true) :
    ({ s with mem := m } : State).storesOk = true :=
  (storesOk_iff _).2 ⟨hm, ((storesOk_iff s).1 h).2⟩

theorem Memory.flipCheck_wf (m : Memory) (u : SramUnit) (o : Nat) (flip : NineFlip) :
    (m.flipCheck u o flip).wf = m.wf := by
  unfold Memory.flipCheck
  split
  · rfl
  · split <;> rfl

theorem Memory.setTokens_wf (m : Memory) (n : Nat) (c : MemClass) : (m.setTokens n c).wf = m.wf := by
  cases c <;> rfl

theorem onEngine_storesOk {e : Fin 7} {f : Engine → Engine}
    (hf : ∀ g, cellsOk 0 g.paddock = true → cellsOk 0 (f g).paddock = true)
    (h : s.storesOk = true) : (s.onEngine e f).storesOk = true := by
  obtain ⟨hmem, hpad, hnor, hhost⟩ := (storesOk_iff s).1 h
  refine (storesOk_iff _).2 ⟨hmem, fun g => ?_, hnor, hhost⟩
  simp only [State.onEngine, vmod]
  by_cases hg : e = g
  · subst hg
    simpa using hf _ (hpad e)
  · have hv : e.val ≠ g.val := fun h => hg (Fin.ext h)
    simpa [Vector.getElem_set, hv] using hpad g

/-- A change that leaves every store as it was. -/
theorem storesOk_congr {u : State} (h : s.storesOk = true) (hm : u.mem = s.mem) (he : u.engines = s.engines)
    (hn : u.nor = s.nor)
    (hh : u.host.mem = s.host.mem) : u.storesOk = true := by
  rw [storesOk_iff] at h ⊢
  rwa [hm, he, hn, hh]

theorem withStore_storesOk {x : Store443} (h : s.storesOk = true) :
    ({ s with store := x } : State).storesOk = true := h

/-! ### `Machine/Ops.lean` -/

theorem at_storesOk {t} (h : s.storesOk = true) : (s.at t).storesOk = true := h

theorem answer_storesOk {r} (h : s.storesOk = true) : (s.answer r).storesOk = true := h

theorem onPort_storesOk {n f} (h : s.storesOk = true) : (s.onPort n f).storesOk = true := h

theorem onTransport_storesOk {t f} (h : s.storesOk = true) : (s.onTransport t f).storesOk = true := h

theorem onPart_storesOk {p f} (h : s.storesOk = true) : (s.onPart p f).storesOk = true := h

theorem onStream_storesOk {n f} (h : s.storesOk = true) : (s.onStream n f).storesOk = true := h

theorem onDecoder_storesOk {d f} (h : s.storesOk = true) : (s.onDecoder d f).storesOk = true := h

theorem onChannel_storesOk {c f} (h : s.storesOk = true) : (s.onChannel c f).storesOk = true := h

theorem onOut_storesOk {p f} (h : s.storesOk = true) : (s.onOut p f).storesOk = true := h

theorem onSide_storesOk {k f} (h : s.storesOk = true) : (s.onSide k f).storesOk = true := h

theorem onContext_storesOk {i f} (h : s.storesOk = true) : (s.onContext i f).storesOk = true := h

theorem onSlot_storesOk {n f} (h : s.storesOk = true) : (s.onSlot n f).storesOk = true := h

theorem onStep_storesOk {p f} (h : s.storesOk = true) : (s.onStep p f).storesOk = true := onPart_storesOk h

theorem countChip_storesOk {c k} (h : s.storesOk = true) : (s.countChip c k).storesOk = true := h

theorem countPart_storesOk {p c k} (h : s.storesOk = true) : (s.countPart p c k).storesOk = true :=
  onPart_storesOk h

theorem countChannel_storesOk {ch c k} (h : s.storesOk = true) : (s.countChannel ch c k).storesOk = true :=
  onChannel_storesOk h

theorem countStream_storesOk {n c k} (h : s.storesOk = true) : (s.countStream n c k).storesOk = true :=
  onStream_storesOk h

theorem countLife_storesOk {c k} (h : s.storesOk = true) : (s.countLife c k).storesOk = true := h

theorem log_storesOk {code source p} (h : s.storesOk = true) : (s.log code source p).storesOk = true := h

/-! ### `Machine/Nor.lean` -/

theorem writeRecord_storesOk {n} (h : s.storesOk = true) : (s.writeRecord n).storesOk = true := by
  induction n generalizing s with
  | zero => exact h
  | succ fuel ih =>
    unfold State.writeRecord
    split
    · exact h
    · extract_lets +onlyGivenNames k s1 next moved
      have hs1 : s1.storesOk = true := ite_storesOk (norErase_storesOk _ _ _ h) h
      clear_value s1
      split
      · extract_lets +onlyGivenNames s2
        have hs2 : s2.storesOk = true := norProgram_storesOk _ _ _ hs1
        clear_value s2
        exact storesOk_congr hs2 rfl rfl rfl rfl
      · exact ih (storesOk_congr hs1 rfl rfl rfl rfl)

theorem studWork_storesOk (h : s.storesOk = true) : s.studWork.storesOk = true := by
  unfold State.studWork
  split
  · extract_lets +onlyGivenNames s1
    have hs1 : s1.storesOk = true := norErase_storesOk _ _ _ h
    clear_value s1
    exact storesOk_congr hs1 rfl rfl rfl rfl
  · exact writeRecord_storesOk h

theorem locateWritePoint_storesOk (h : s.storesOk = true) : s.locateWritePoint.storesOk = true := by
  unfold State.locateWritePoint
  extract_lets +onlyGivenNames used set
  split
  · exact h
  · extract_lets +onlyGivenNames valid
    split
    · exact h
    · extract_lets +onlyGivenNames prev found heads newest
      split
      next s1 _ e1 =>
        have hs1 : s1.storesOk = true := by
          refine fst_storesOk ?_ e1
          clear_value found
          split
          · exact h
          · exact norErase_storesOk _ _ _ h
        extract_lets +onlyGivenNames w inW full s2
        have hs2 : s2.storesOk = true := ite_storesOk (norErase_storesOk _ _ _ hs1) hs1
        exact hs2

theorem startNor_storesOk (h : s.storesOk = true) : s.startNor.storesOk = true := by
  unfold State.startNor
  split
  · exact h
  · split
    · exact h
    · split
      · exact h
      · exact h

theorem queueNor_storesOk {o} (h : s.storesOk = true) : (s.queueNor o).storesOk = true := startNor_storesOk h

theorem NorOp.apply_storesOk {o} (h : s.storesOk = true) : (NorOp.apply o s).storesOk = true := by
  unfold NorOp.apply
  split
  · exact studWork_storesOk h
  · exact norProgram_storesOk _ _ _ (ite_storesOk (norErase_storesOk _ _ _ h) h)
  · exact norProgram_storesOk _ _ _ h
  · exact norProgram_storesOk _ _ _ h
  · exact norErase_storesOk _ _ _ h

theorem norDoneEffect_storesOk (h : s.storesOk = true) : (norDoneEffect s).storesOk = true := by
  unfold norDoneEffect
  extract_lets +onlyGivenNames s1
  have hs1 : s1.storesOk = true := startNor_storesOk h
  split
  · exact startNor_storesOk (NorOp.apply_storesOk hs1)
  · exact hs1

theorem recordCloseEffect_storesOk (h : s.storesOk = true) : (recordCloseEffect s).storesOk = true := by
  unfold recordCloseEffect
  split
  · exact ite_storesOk (startNor_storesOk h) h
  · exact h

theorem notePower_storesOk (h : s.storesOk = true) : s.notePower.storesOk = true := by
  unfold State.notePower
  exact storesOk_congr h rfl rfl rfl rfl

theorem commitStore_storesOk (h : s.storesOk = true) : s.commitStore.storesOk = true := by
  unfold State.commitStore
  extract_lets +onlyGivenNames s1 x s2 page y s3
  have hs1 : s1.storesOk = true := notePower_storesOk h
  have hs2 : s2.storesOk = true := withStore_storesOk hs1
  have hs3 : s3.storesOk = true := withStore_storesOk hs2
  exact queueNor_storesOk hs3

theorem commitTimerEffect_storesOk {fast} (h : s.storesOk = true) :
    (commitTimerEffect fast s).storesOk = true :=
  ite_storesOk h (ite_storesOk (ite_storesOk (commitStore_storesOk h) h) (commitStore_storesOk h))

theorem readStore_storesOk (h : s.storesOk = true) : s.readStore.storesOk = true := by
  unfold State.readStore
  extract_lets +onlyGivenNames pages seq
  clear_value pages
  split
  · exact log_storesOk (withStore_storesOk h)
  · exact withStore_storesOk h

/-! ### `Machine/MainMem.lean` -/

theorem touchCheck_storesOk {a} (h : s.storesOk = true) : (s.touchCheck a).storesOk = true :=
  ite_storesOk h (onChannel_storesOk (ite_storesOk h (countChannel_storesOk h)))

theorem readCheck_storesOk {a} (h : s.storesOk = true) : (s.readCheck a).storesOk = true :=
  (onlyRead_readCheck s a).storesOk h

theorem noteRead_storesOk {a} (h : s.storesOk = true) : (s.noteRead a).storesOk = true := by
  unfold State.noteRead
  split
  · extract_lets +onlyGivenNames s1
    have hs1 : s1.storesOk = true := readCheck_storesOk (touchCheck_storesOk h)
    exact ite_storesOk (countChannel_storesOk hs1) hs1
  · exact h

theorem mainPut_storesOk {a bs} (h : s.storesOk = true) : (s.mainPut a bs).storesOk = true :=
  mainWrite_storesOk _ _ _ h

/-! ### `Machine/Operands.lean` -/

theorem paddockWrite_storesOk {e a bs} (h : s.storesOk = true) : (s.paddockWrite e a bs).storesOk = true :=
  poke_storesOk s (.paddock e) a bs h

theorem arenaWrite_storesOk {a bs} (h : s.storesOk = true) : (s.arenaWrite a bs).storesOk = true :=
  poke_storesOk s .arena a bs h

theorem writeTensor_storesOk {e t f keep} (h : s.storesOk = true) :
    (s.writeTensor e t f keep).1.storesOk = true := by
  unfold State.writeTensor
  split
  · exact h
  · exact pokes_storesOk _ _ _ h

/-! ### `Machine/Flags.lean` -/

theorem plain_storesOk {flags} (h : s.storesOk = true) : (plain s flags).s.storesOk = true := h

theorem noted_storesOk {e ok n flags} (h : s.storesOk = true) : (noted s e ok n flags).s.storesOk = true :=
  ite_storesOk (countEngine_storesOk _ _ _ _ h) h

theorem dropHeld_storesOk {e d} (h : s.storesOk = true) : (s.dropHeld e d).storesOk = true :=
  ite_storesOk (onEngine_storesOk (fun _ hp => hp) h) h

theorem flipSram_storesOk {u o flip} (h : s.storesOk = true) : (s.flipSram u o flip).storesOk = true := by
  unfold State.flipSram
  extract_lets +onlyGivenNames m s1
  have hs1 : s1.storesOk = true := by
    unfold s1
    split
    · exact onEngine_storesOk (fun _ hp => cellsOk_write 0 _ _ _ hp) h
    · exact arenaWrite_storesOk (bs := [_]) h
    · exact h
  refine withMem_storesOk ?_ hs1
  exact (Memory.flipCheck_wf ..).trans (mem_wf_of_storesOk hs1)

theorem remapAccess_storesOk {e o} (h : s.storesOk = true) : (s.remapAccess e o).storesOk = true :=
  ite_storesOk h (ite_storesOk (log_storesOk (countChip_storesOk (onEngine_storesOk (fun _ hp => hp) h)))
    (onEngine_storesOk (fun _ hp => hp) h))

theorem reloadAccess_storesOk {e o} (h : s.storesOk = true) : (s.reloadAccess e o).storesOk = true := by
  unfold State.reloadAccess
  refine foldl_storesOk (fun _ i h => ?_) h
  split
  · exact paddockWrite_storesOk h
  · exact h

theorem repairAccess_storesOk {c acc} (h : s.storesOk = true) : (s.repairAccess c acc).1.storesOk = true := by
  unfold State.repairAccess
  extract_lets +onlyGivenNames s1
  have hs1 : s1.storesOk = true := countChip_storesOk h
  extract_lets +onlyGivenNames stuck
  split
  · extract_lets +onlyGivenNames weights s2
    have hs2 : s2.storesOk = true := ite_storesOk (reloadAccess_storesOk hs1) hs1
    exact ite_storesOk (remapAccess_storesOk hs2) hs2
  · exact hs1

theorem repairAll_storesOk {c l} (h : s.storesOk = true) : (s.repairAll c l).1.storesOk = true := by
  unfold State.repairAll
  refine foldl_fst_storesOk (fun _ x h => ?_) h
  split
  next _ _ e => exact fst_storesOk (repairAccess_storesOk h) e

theorem scratchFault_storesOk {e d} (h : s.storesOk = true) : (s.scratchFault e d).storesOk = true := by
  unfold State.scratchFault
  split
  · exact onStep_storesOk h
  · exact h

theorem disturb_storesOk {c} (h : s.storesOk = true) : (s.disturb c).storesOk = true := by
  unfold State.disturb
  extract_lets +onlyGivenNames s1
  have hs1 : s1.storesOk = true := countEngine_storesOk _ _ _ _ h
  extract_lets +onlyGivenNames s2
  have hs2 : s2.storesOk = true := foldl_storesOk (fun _ _ h => flipSram_storesOk h) hs1
  exact ite_storesOk hs2 (countChip_storesOk hs2)

theorem enterEngine_storesOk {c judged reads writes touch} {go : State → State}
    (hgo : ∀ x : State, x.storesOk = true → (go x).storesOk = true) (h : s.storesOk = true) :
    (s.enterEngine c judged reads writes touch go).storesOk = true := by
  unfold State.enterEngine
  split
  · exact h
  · extract_lets +onlyGivenNames faults s1
    have hs1 : s1.storesOk = true := disturb_storesOk h
    split
    · exact finish_storesOk _ _ _ _ _ _ _ hs1
    · split
      next s2 ok e1 =>
        have hs2 : s2.storesOk = true := fst_storesOk (readLines_storesOk _ _ hs1) e1
        split
        · split
          next s3 scratch e2 =>
            have hs3 : s3.storesOk = true := fst_storesOk (repairAll_storesOk hs2) e2
            exact ite_storesOk (scratchFault_storesOk hs3) (hgo _ hs3)
        · exact finish_storesOk _ _ _ _ _ _ _ hs2

theorem runEngine_storesOk {c judged reads writes touch} {eff : State → Effect}
    (heff : ∀ x : State, x.storesOk = true → (eff x).s.storesOk = true) (h : s.storesOk = true) :
    (s.runEngine c judged reads writes touch eff).storesOk = true :=
  enterEngine_storesOk (fun x hx => finish_storesOk _ _ _ _ _ _ _ (heff x hx)) h

/-! ### `Machine/Vector.lean` -/

theorem residueStatus_storesOk {bad} {x : Effect} (h : x.s.storesOk = true) :
    (residueStatus bad x).s.storesOk = true :=
  ite_eff_storesOk h h

theorem vectorEffect_storesOk {e d v ups} (h : s.storesOk = true) :
    (vectorEffect e d v ups s).s.storesOk = true := by
  unfold vectorEffect
  split
  · exact plain_storesOk h
  · split
    · exact h
    · extract_lets +onlyGivenNames sat one out0 out1 bad keep keep1 n n1
      split
      next s1 _ e2 =>
        have hs1 : s1.storesOk = true := fst_storesOk (writeTensor_storesOk h) e2
        split
        next _ _ e1 =>
          exact residueStatus_storesOk (noted_storesOk
            (fst_storesOk (ite_fst_storesOk (writeTensor_storesOk hs1) hs1) e1))

theorem runVector_storesOk {c} (h : s.storesOk = true) : (runVector c s).storesOk = true :=
  runEngine_storesOk (fun _ h => vectorEffect_storesOk h) h

/-! ### `Machine/Engine.lean` -/

theorem drainTo_storesOk {e out epi outSat ups acc cols at_ n0 flags} (h : s.storesOk = true) :
    (drainTo s e out epi outSat ups acc cols at_ n0 flags).s.storesOk = true := by
  unfold drainTo
  extract_lets +onlyGivenNames read vals one bad kept keep n sats s1
  have hs1 : s1.storesOk = true := ite_storesOk (countEngine_storesOk _ _ _ _ h) h
  split
  next _ _ e1 => exact residueStatus_storesOk (noted_storesOk (fst_storesOk (writeTensor_storesOk hs1) e1))

theorem holdTile_storesOk {e x acc} (h : s.storesOk = true) : (s.holdTile e x acc).storesOk = true :=
  onEngine_storesOk (fun _ hp => hp) h

theorem matmulEffect_storesOk {e d x ups} (h : s.storesOk = true) :
    (matmulEffect e d x ups s).s.storesOk = true := by
  unfold matmulEffect
  split
  · exact plain_storesOk (holdTile_storesOk h)
  · split
    · exact h
    · exact ite_eff_storesOk (drainTo_storesOk (holdTile_storesOk h)) (noted_storesOk (holdTile_storesOk h))
    · exact h

theorem runMatmul_storesOk {c} (h : s.storesOk = true) : (runMatmul c s).storesOk = true :=
  runEngine_storesOk (fun _ h => matmulEffect_storesOk h) h

theorem moveEffect_storesOk {e d} (h : s.storesOk = true) : (moveEffect e d s).s.storesOk = true := by
  unfold moveEffect
  extract_lets +onlyGivenNames a b
  split
  · exact plain_storesOk h
  · split
    · exact h
    · extract_lets +onlyGivenNames one n
      split
      next _ _ e1 => exact noted_storesOk (fst_storesOk (writeTensor_storesOk h) e1)

theorem runMove_storesOk {c} (h : s.storesOk = true) : (runMove c s).storesOk = true :=
  runEngine_storesOk (fun _ h => moveEffect_storesOk h) h

/-! ### `Machine/Conv.lean` -/

theorem convEffect_storesOk {e d x ups} (h : s.storesOk = true) :
    (convEffect e d x ups s).s.storesOk = true := by
  unfold convEffect
  extract_lets +onlyGivenNames s1
  have hs1 : s1.storesOk = true := dropHeld_storesOk h
  split
  · exact plain_storesOk (countEngine_storesOk _ _ _ _ hs1)
  · split
    · exact hs1
    · split
      · exact drainTo_storesOk hs1
    · exact hs1

theorem runConv_storesOk {c} (h : s.storesOk = true) : (runConv c s).storesOk = true :=
  runEngine_storesOk (fun _ h => convEffect_storesOk h) h

theorem poolEffect_storesOk {e d x} (h : s.storesOk = true) : (poolEffect e d x s).s.storesOk = true := by
  unfold poolEffect
  split
  · exact plain_storesOk (countEngine_storesOk _ _ _ _ h)
  · split
    · exact h
    · exact h
    · extract_lets +onlyGivenNames one code n blank scales
      split
      next s1 _ e2 =>
        have hs1 : s1.storesOk = true := fst_storesOk (writeTensor_storesOk h) e2
        split
        next _ _ e1 =>
          exact noted_storesOk (fst_storesOk (ite_fst_storesOk (pokeSpace_storesOk _ _ _ _ _ hs1) hs1) e1)

theorem runPool_storesOk {c} (h : s.storesOk = true) : (runPool c s).storesOk = true :=
  runEngine_storesOk (fun _ h => poolEffect_storesOk h) h

theorem argmaxEffect_storesOk {e d} (h : s.storesOk = true) : (argmaxEffect e d s).s.storesOk = true := by
  unfold argmaxEffect
  extract_lets +onlyGivenNames a o v valEn
  split
  · exact plain_storesOk (countEngine_storesOk _ _ _ _ h)
  · split
    · exact h
    · extract_lets +onlyGivenNames win idx val ix n n1
      split
      next s1 _ e2 =>
        have hs1 : s1.storesOk = true := fst_storesOk (writeTensor_storesOk h) e2
        split
        next _ _ e1 => exact noted_storesOk (fst_storesOk (ite_fst_storesOk (writeTensor_storesOk hs1) hs1) e1)

theorem runArgmax_storesOk {c} (h : s.storesOk = true) : (runArgmax c s).storesOk = true :=
  runEngine_storesOk (fun _ h => argmaxEffect_storesOk h) h

/-! ### `Machine/Boxes.lean` -/

theorem nmsEffect_storesOk {e x} (h : s.storesOk = true) : (nmsEffect e x s).s.storesOk = true := by
  unfold nmsEffect
  split
  · extract_lets +onlyGivenNames imgs flags inf s1
    have hs1 : s1.storesOk = true := ite_storesOk (countEngine_storesOk _ _ _ _ h) h
    extract_lets +onlyGivenNames drops s2
    have hs2 : s2.storesOk = true := ite_storesOk (countEngine_storesOk _ _ _ _ hs1) hs1
    extract_lets +onlyGivenNames rows put
    have hput : put.1.storesOk = true := foldl_fst_storesOk
      (fun _ _ h => ite_fst_storesOk (pokeSpace_storesOk _ _ _ _ _ h) h) hs2
    exact noted_storesOk (ite_fst_storesOk (writeTensor_storesOk hput) hput)
  · exact h

theorem runBoxnms_storesOk {c} (h : s.storesOk = true) : (runBoxnms c s).storesOk = true :=
  runEngine_storesOk (fun _ h => nmsEffect_storesOk h) h

/-! ### `Machine/Quant.lean` -/

theorem clipAdd_storesOk {e id seen sat} (h : s.storesOk = true) : (s.clipAdd e id seen sat).storesOk = true :=
  onEngine_storesOk (fun _ hp => hp) h

theorem rotateEffect_storesOk {e d x vecs} (h : s.storesOk = true) :
    (rotateEffect e d x vecs s).s.storesOk = true := by
  unfold rotateEffect
  extract_lets +onlyGivenNames val code n seen s1
  have hs1 : s1.storesOk = true := ite_storesOk (clipAdd_storesOk h) h
  split
  next _ _ e1 => exact noted_storesOk (fst_storesOk (writeTensor_storesOk hs1) e1)

theorem quantEffect_storesOk {e d x} (h : s.storesOk = true) : (quantEffect e d x s).s.storesOk = true := by
  unfold quantEffect
  split
  · exact plain_storesOk h
  · split
    · exact h
    · extract_lets +onlyGivenNames vecs
      split
      · exact rotateEffect_storesOk h
      · extract_lets +onlyGivenNames f rows qs elems clips zeros consts val code s1
        have hs1 : s1.storesOk = true := ite_storesOk (clipAdd_storesOk h) h
        extract_lets +onlyGivenNames s2
        have hs2 : s2.storesOk = true := countEngine_storesOk _ _ _ _ (countEngine_storesOk _ _ _ _ hs1)
        split
        next s3 _ e2 =>
          have hs3 : s3.storesOk = true := fst_storesOk (writeTensor_storesOk hs2) e2
          split
          next _ _ e1 =>
            exact noted_storesOk (fst_storesOk (ite_fst_storesOk (pokeSpace_storesOk _ _ _ _ _ hs3) hs3) e1)

theorem runQuantize_storesOk {c} (h : s.storesOk = true) : (runQuantize c s).storesOk = true :=
  runEngine_storesOk (fun _ h => quantEffect_storesOk h) h

/-! ### `Machine/Kv.lean` -/

theorem onPool_storesOk {p root f} (h : s.storesOk = true) : (s.onPool p root f).storesOk = true :=
  onPart_storesOk h

theorem giveSlots_storesOk {p root l} (h : s.storesOk = true) : (s.giveSlots p root l).storesOk = true :=
  onPool_storesOk h

theorem giveBlocks_storesOk {p root l} (h : s.storesOk = true) : (s.giveBlocks p root l).storesOk = true :=
  onPool_storesOk h

/-! #### Changes to a root (R222): a change keeps the stores of the state it carries -/

theorem KvEdit.write_storesOk {x : KvEdit} {a bs} (h : x.s.storesOk = true) :
    (x.write a bs).s.storesOk = true := by
  unfold KvEdit.write
  split
  · exact mainWrite_storesOk _ _ _ h
  · exact h

theorem KvEdit.newBlock_storesOk {x : KvEdit} {content y} (h : x.s.storesOk = true)
    (e : x.newBlock content = .ok y) : y.1.s.storesOk = true := by
  unfold KvEdit.newBlock at e
  split at e
  · cases e
  · split at e
    · cases e
    · cases e
      exact KvEdit.write_storesOk (onPool_storesOk h)

theorem KvEdit.block_storesOk {x : KvEdit} {old y} (h : x.s.storesOk = true) (e : x.block old = .ok y) :
    y.1.s.storesOk = true := by
  unfold KvEdit.block at e
  split at e
  · exact KvEdit.newBlock_storesOk h e
  · split at e
    · cases e
      exact h
    · split at e
      · cases e
      next x1 n e1 =>
        cases e
        exact KvEdit.newBlock_storesOk (y := (x1, n)) h e1

theorem KvEdit.put_storesOk {w path} {x : KvEdit} {b y} (h : x.s.storesOk = true)
    (e : KvEdit.put w path x b = .ok y) : y.1.s.storesOk = true := by
  induction path generalizing x b y with
  | nil =>
    cases e
    exact h
  | cons i rest ih =>
    cases rest with
    | nil =>
      unfold KvEdit.put at e
      split at e
      · cases e
      next x1 n e1 =>
        cases e
        exact KvEdit.write_storesOk (KvEdit.block_storesOk (y := (x1, n)) h e1)
    | cons j rest =>
      unfold KvEdit.put at e
      split at e
      · cases e
      next x1 n e1 =>
        have hx1 : x1.s.storesOk = true := KvEdit.block_storesOk (y := (x1, n)) h e1
        split at e
        · cases e
        next x2 c e2 =>
          cases e
          exact KvEdit.write_storesOk (ih (y := (x2, c)) hx1 e2)

theorem KvEdit.slot_storesOk {x : KvEdit} {r spare y} (h : x.s.storesOk = true) (e : x.slot r spare = .ok y) :
    y.1.s.storesOk = true := by
  unfold KvEdit.slot at e
  extract_lets drawn at e
  split at e
  · cases e
  · split at e
    · cases e
      exact onStep_storesOk (onPool_storesOk h)
    · cases e

theorem KvEdit.release_storesOk {x : KvEdit} {r slot} (h : x.s.storesOk = true) :
    (x.release r slot).s.storesOk = true := by
  unfold KvEdit.release
  split
  · exact onStep_storesOk h
  · exact giveSlots_storesOk h

theorem KvEdit.shadow_storesOk {x : KvEdit} {r stepId} (h : x.s.storesOk = true) :
    (x.shadow r stepId).1.s.storesOk = true := by
  unfold KvEdit.shadow
  split
  · exact h
  · exact onStep_storesOk (KvEdit.write_storesOk h)

theorem KvEdit.account_storesOk {x : KvEdit} {freed} (h : x.s.storesOk = true) :
    (x.account freed).storesOk = true := by
  unfold KvEdit.account
  split
  · exact onStep_storesOk h
  · exact giveBlocks_storesOk h

theorem KvEdit.publish_storesOk {x : KvEdit} {r e changed} (h : x.s.storesOk = true) :
    (x.publish r e changed).1.storesOk = true := by
  unfold KvEdit.publish
  extract_lets +onlyGivenNames x1
  have hx1 : x1.s.storesOk = true := KvEdit.write_storesOk h
  exact ite_fst_storesOk (onEngine_storesOk (fun _ hp => hp) (KvEdit.account_storesOk hx1))
    (KvEdit.account_storesOk hx1)

theorem KvEdit.setEntry_storesOk {x : KvEdit} {r layer l w y} (h : x.s.storesOk = true)
    (e : x.setEntry r layer l w = .ok y) : y.1.s.storesOk = true := by
  unfold KvEdit.setEntry at e
  split at e
  · cases e
  next x1 b e1 =>
    cases e
    exact KvEdit.put_storesOk (y := (x1, b)) h e1

theorem KvEdit.drop_storesOk {x : KvEdit} {r layer l p y} (h : x.s.storesOk = true)
    (e : x.drop r layer l p = .ok y) : y.1.s.storesOk = true := by
  unfold KvEdit.drop at e
  split at e
  · cases e
  next x1 r1 e1 =>
    cases e
    exact KvEdit.release_storesOk (KvEdit.setEntry_storesOk (y := (x1, r1)) h e1)

theorem setHeldFill_storesOk {p root layer page fill} (h : s.storesOk = true) :
    (s.setHeldFill p root layer page fill).storesOk = true :=
  onStep_storesOk h

theorem holdGeneration_storesOk {p root} (h : s.storesOk = true) : (s.holdGeneration p root).storesOk = true :=
  onStep_storesOk h

theorem labWalk_storesOk {e root layer page snapshot p} (h : s.storesOk = true) :
    (s.labWalk e root layer page snapshot p).storesOk = true := by
  unfold State.labWalk
  extract_lets +onlyGivenNames inRange lab
  split
  · exact countEngine_storesOk _ _ _ _ (onEngine_storesOk (fun _ hp => hp) h)
  · exact countEngine_storesOk _ _ _ _ (onEngine_storesOk (fun _ hp => hp) h)

theorem ScoreRun.put_storesOk {a : ScoreRun} {layer l p score} (h : a.x.s.storesOk = true) :
    (a.put layer l p score).x.s.storesOk = true := by
  unfold ScoreRun.put
  split
  next x1 r1 e => exact KvEdit.setEntry_storesOk (y := (x1, r1)) h e
  · exact h

theorem ScoreRun.halve_storesOk {a : ScoreRun} {e layer} (h : a.x.s.storesOk = true) :
    (a.halve e layer).x.s.storesOk = true := by
  unfold ScoreRun.halve
  split
  · exact h
  · exact countEngine_storesOk _ _ _ _
      (foldl_keeps (P := fun a : ScoreRun => a.x.s.storesOk = true) (fun _ _ h => ScoreRun.put_storesOk h) h)

theorem applyScore_storesOk {e} {a : ScoreRun} {se} (h : a.x.s.storesOk = true) :
    (applyScore e a se).x.s.storesOk = true := by
  unfold applyScore
  split
  · exact h
  · extract_lets +onlyGivenNames a1
    have ha1 : a1.x.s.storesOk = true := by
      dsimp only [a1]
      split
      · exact ScoreRun.halve_storesOk h
      · exact h
    split
    · exact ha1
    · exact ScoreRun.put_storesOk ha1

theorem applyLog_storesOk {p e stepId} (h : s.storesOk = true) : (s.applyLog p e stepId).storesOk = true := by
  unfold State.applyLog
  extract_lets +onlyGivenNames log one s1
  have hone (x : State) (root : Nat) (hx : x.storesOk = true) : (one x root).storesOk = true :=
    KvEdit.publish_storesOk (foldl_keeps (P := fun a : ScoreRun => a.x.s.storesOk = true)
      (fun _ _ h => applyScore_storesOk h)
        (KvEdit.shadow_storesOk (x := { x.beginEdit p root with fresh := _ }) hx))
  have hs1 : s1.storesOk = true := foldl_storesOk hone h
  exact onEngine_storesOk (fun _ hp => hp) hs1

/-! ### `Machine/Attend.lean` -/

theorem logScores_storesOk {e r entries} (h : s.storesOk = true) :
    (s.logScores e r entries).storesOk = true := by
  unfold State.logScores
  extract_lets +onlyGivenNames used take s1
  have hs1 : s1.storesOk = true := onEngine_storesOk (fun _ hp => hp) h
  exact ite_storesOk (countEngine_storesOk _ _ _ _ hs1) hs1

theorem writeRows_storesOk {e d x rows flags n0} (h : s.storesOk = true) :
    (writeRows e d x rows flags n0 s).s.storesOk = true := by
  unfold writeRows
  extract_lets +onlyGivenNames vals x1 x2 code n blank s1
  have hs1 : s1.storesOk = true := ite_storesOk (countEngine_storesOk _ _ _ _ h) h
  split
  next _ _ e1 => exact noted_storesOk (fst_storesOk (writeTensor_storesOk hs1) e1)

theorem kvFault_storesOk {e st} (h : s.storesOk = true) : (kvFault s e st).s.storesOk = true :=
  ite_storesOk (countEngine_storesOk _ _ _ _ h) h

theorem pagedEffect_storesOk {e d x w segs poss qs n0} (h : s.storesOk = true) :
    (pagedEffect e d x w segs poss qs n0 s).s.storesOk = true := by
  unfold pagedEffect
  split
  · exact kvFault_storesOk h
  · extract_lets +onlyGivenNames a r engines chk
    clear_value chk
    split
    · exact kvFault_storesOk h
    · split
      · exact kvFault_storesOk h
      · extract_lets +onlyGivenNames rows flags
        split
        · extract_lets +onlyGivenNames s1
          have hs1 : s1.storesOk = true := foldl_storesOk (fun _ _ h => labWalk_storesOk h) h
          exact writeRows_storesOk (holdGeneration_storesOk (ite_storesOk (logScores_storesOk hs1) hs1))

theorem attendEffect_storesOk {e d x} (h : s.storesOk = true) : (attendEffect e d x s).s.storesOk = true := by
  unfold attendEffect
  extract_lets +onlyGivenNames s1
  have hs1 : s1.storesOk = true := dropHeld_storesOk h
  split
  · exact plain_storesOk (countEngine_storesOk _ _ _ _ hs1)
  · extract_lets +onlyGivenNames w segs poss
    split
    · exact kvFault_storesOk hs1
    · extract_lets +onlyGivenNames qB qs n0
      split
      · exact pagedEffect_storesOk hs1
      · extract_lets +onlyGivenNames segK posK
        split
        · exact kvFault_storesOk hs1
        · exact writeRows_storesOk hs1

theorem runAttend_storesOk {c} (h : s.storesOk = true) : (runAttend c s).storesOk = true :=
  runEngine_storesOk (fun _ h => attendEffect_storesOk h) h

theorem mergeEffect_storesOk {e d x} (h : s.storesOk = true) : (mergeEffect e d x s).s.storesOk = true := by
  unfold mergeEffect
  extract_lets +onlyGivenNames s1
  have hs1 : s1.storesOk = true := dropHeld_storesOk h
  split
  · exact plain_storesOk (countEngine_storesOk _ _ _ _ hs1)
  · extract_lets +onlyGivenNames parts vals x1 code n blank
    split
    next _ _ e1 => exact noted_storesOk (fst_storesOk (writeTensor_storesOk hs1) e1)

theorem runAttendMerge_storesOk {c} (h : s.storesOk = true) : (runAttendMerge c s).storesOk = true :=
  runEngine_storesOk (fun _ h => mergeEffect_storesOk h) h

/-! ### `Machine/KvEdit.lean` -/

theorem KvEdit.putVector_storesOk {x : KvEdit} {r p f hd kv t codes scales} (h : x.s.storesOk = true) :
    (x.putVector r p f hd kv t codes scales).s.storesOk = true :=
  KvEdit.write_storesOk (KvEdit.write_storesOk h)

theorem AppState.newPage_storesOk {a : AppState} {e layer l pos pin y} (h : a.x.s.storesOk = true)
    (hy : a.newPage e layer l pos pin = .ok y) : y.1.x.s.storesOk = true := by
  unfold AppState.newPage at hy
  extract_lets full room at hy
  have hroom {b : AppState} (hb : room = .ok b) : b.x.s.storesOk = true := by
    unfold room at hb
    split at hb
    · cases hb
      exact h
    · split at hb
      · cases hb
      · split at hb
        · cases hb
        · split at hb
          · cases hb
          next x1 r1 e1 =>
            cases hb
            exact countEngine_storesOk _ _ _ _ (KvEdit.drop_storesOk (y := (x1, r1)) h e1)
  clear_value room
  split at hy
  · cases hy
  next b =>
    split at hy
    · cases hy
    next x1 slot e1 =>
      cases hy
      have hx1 : x1.s.storesOk = true := KvEdit.slot_storesOk (y := (x1, slot)) (hroom rfl) e1
      exact setHeldFill_storesOk (countEngine_storesOk _ _ _ _
        (KvEdit.write_storesOk (KvEdit.write_storesOk hx1)))

theorem AppState.copyPage_storesOk {a : AppState} {e layer l t p y} (h : a.x.s.storesOk = true)
    (heq : a.copyPage e layer l t p = .ok y) : y.1.x.s.storesOk = true := by
  unfold AppState.copyPage at heq
  split at heq
  · cases heq
    exact setHeldFill_storesOk h
  · split at heq
    · cases heq
    next x1 slot e1 =>
      cases heq
      have hx1 : x1.s.storesOk = true := KvEdit.slot_storesOk (y := (x1, slot)) h e1
      refine KvEdit.release_storesOk (setHeldFill_storesOk (countEngine_storesOk _ _ _ _ ?_))
      exact KvEdit.write_storesOk (KvEdit.write_storesOk hx1)

theorem AppState.token_storesOk {a : AppState} {e d pos seg k v y} (h : a.x.s.storesOk = true)
    (hy : a.token e d pos seg k v = .ok y) : y.x.s.storesOk = true := by
  unfold AppState.token at hy
  split at hy
  · cases hy
    exact h
  · extract_lets t at hy
    split at hy
    · cases hy
    next found _ =>
      extract_lets page at hy
      have hpage {b : AppState × Pte} (hb : page = .ok b) : b.1.x.s.storesOk = true := by
        unfold page at hb
        split at hb
        · exact AppState.copyPage_storesOk h hb
        · exact AppState.newPage_storesOk h hb
      clear_value page
      split at hy
      · cases hy
      next b p =>
        have hx : b.x.s.storesOk = true := hpage rfl
        split at hy
        · cases hy
        · extract_lets put at hy
          have hput (acc : KvEdit × Note) (i : Nat) (hacc : acc.1.s.storesOk = true) :
              (put acc i).1.s.storesOk = true :=
            KvEdit.putVector_storesOk (KvEdit.putVector_storesOk hacc)
          split at hy
          next x1 note e1 =>
            have hx1 : x1.s.storesOk = true := by
              have := foldl_keeps (P := fun acc : KvEdit × Note => acc.1.s.storesOk = true)
                (l := List.range b.r.heads)
                (b := (b.x, b.note)) hput hx
              rw [e1] at this
              exact this
            extract_lets x2 a2 at hy
            have hx2 : x2.s.storesOk = true := KvEdit.write_storesOk hx1
            split at hy
            · exact Except.ok.inj hy ▸ hx2
            · split at hy
              · cases hy
              next x3 r3 e3 =>
                cases hy
                exact KvEdit.setEntry_storesOk (y := (x3, r3)) hx2 e3

theorem appendEffect_storesOk {e d x} (h : s.storesOk = true) : (appendEffect e d x s).s.storesOk = true := by
  unfold appendEffect
  split
  · exact plain_storesOk (countEngine_storesOk _ _ _ _ h)
  · split
    · exact kvFault_storesOk h
    next p _ =>
      extract_lets +onlyGivenNames engines r segs poss badPage chk
      clear_value chk
      split
      · exact kvFault_storesOk h
      · extract_lets +onlyGivenNames kB vB row labs
        have hlabs : labs.storesOk = true := by
          refine foldl_storesOk (fun _ l h => ?_) h
          split
          · exact labWalk_storesOk h
          · exact h
        split
        next ed r1 e1 =>
          have hed : ed.s.storesOk = true := by
            have := KvEdit.shadow_storesOk (x := labs.beginEdit p r.addr) (r := r) (stepId := dStepId d) hlabs
            rw [e1] at this
            exact this
          extract_lets +onlyGivenNames start one
          have hstart : start.x.s.storesOk = true := hed
          split
          · exact kvFault_storesOk h
          next a e2 =>
            have ha : a.x.s.storesOk = true :=
              foldExcept_keeps (P := fun a : AppState => a.x.s.storesOk = true)
                (fun _ _ _ h heq => AppState.token_storesOk h heq) hstart e2
            split
            · exact plain_storesOk hlabs
            · split
              next s1 ok e3 => exact noted_storesOk (fst_storesOk (KvEdit.publish_storesOk ha) e3)

theorem runKvAppend_storesOk {c} (h : s.storesOk = true) : (runKvAppend c s).storesOk = true :=
  runEngine_storesOk (fun _ h => appendEffect_storesOk h) h

/-- A change of a page keeps the stores of the state it carries. -/
def PageChange.Keeps (change : PageChange) : Prop :=
  ∀ x r layer l p y n, x.s.storesOk = true → change (x, r) layer l p = .ok (some (y, n)) → y.1.s.storesOk = true

theorem quietly_ok {r : Except Half (KvEdit × KvRoot)} {y n} (e : quietly r = .ok (some (y, n))) :
    r = .ok y := by
  unfold quietly at e
  cases r with
  | error st => cases e
  | ok z => cases e; rfl

/-- The shape of a change that sets an entry unless a condition holds. -/
theorem quietly_setEntry_storesOk {c : Prop} [Decidable c] {x : KvEdit} {r layer l w y n} (h : x.s.storesOk = true)
    (e : (if c then .ok none else quietly (x.setEntry r layer l w)) = .ok (some (y, n))) : y.1.s.storesOk = true := by
  split at e
  · cases e
  · exact KvEdit.setEntry_storesOk h (quietly_ok e)

theorem changePin_keeps : PageChange.Keeps changePin := fun _ _ _ _ _ _ _ h e => quietly_setEntry_storesOk h e

theorem changeUnpin_keeps : PageChange.Keeps changeUnpin := fun _ _ _ _ _ _ _ h e => quietly_setEntry_storesOk h e

theorem changeGlobal_keeps : PageChange.Keeps changeGlobal := fun _ _ _ _ _ _ _ h e => quietly_setEntry_storesOk h e

theorem changeDrop_keeps : PageChange.Keeps changeDrop := fun _ _ _ _ _ _ _ h e => KvEdit.drop_storesOk h (quietly_ok e)

theorem convertPage_storesOk {newFmt} {x : KvEdit} {r layer l p f g y} (h : x.s.storesOk = true)
    (e : convertPage newFmt x r layer l p f g = .ok y) : y.1.1.s.storesOk = true := by
  unfold convertPage at e
  split at e
  · cases e
  next x1 slot e1 =>
    have hx1 : x1.s.storesOk = true := KvEdit.slot_storesOk (y := (x1, slot)) h e1
    extract_lets q old x2 at e
    have hx2 : x2.s.storesOk = true := KvEdit.write_storesOk (KvEdit.write_storesOk hx1)
    split at e
    next x3 note e3 =>
      have hx3 : x3.s.storesOk = true := by
        have := congrArg (fun a : KvEdit × Note => a.1.s.storesOk) e3
        rw [← show _ = x3.s.storesOk from this]
        exact foldl_keeps (P := fun a : KvEdit × Note => a.1.s.storesOk = true)
          (fun _ _ h => KvEdit.putVector_storesOk h) hx2
      cases e4 : (x3.release r (r.slotOf p)).setEntry r layer l q.word with
      | error st =>
        rw [e4] at e
        cases e
      | ok z =>
        rw [e4] at e
        cases e
        exact KvEdit.setEntry_storesOk (KvEdit.release_storesOk hx3) e4

theorem changeConvert_keeps (newFmt : Nat) : PageChange.Keeps (changeConvert newFmt) := by
  intro x r layer l p y n h e
  unfold changeConvert at e
  dsimp only at e
  split at e
  next f g _ _ =>
    cases e1 : convertPage newFmt x r layer l p f g with
    | error st =>
      rw [e1] at e
      cases e
    | ok z =>
      rw [e1] at e
      cases e
      exact convertPage_storesOk h e1
  · cases e

theorem editEffect_storesOk {e d x} {change : PageChange} (hc : change.Keeps) (h : s.storesOk = true) :
    (editEffect e d x change s).s.storesOk = true := by
  unfold editEffect
  split
  · exact kvFault_storesOk h
  next p _ =>
    extract_lets +onlyGivenNames engines r globals globalsOk chk
    clear_value chk
    split
    · exact kvFault_storesOk h
    · split
      · exact kvFault_storesOk h
      · split
        next ed r1 e1 =>
          have hed : ed.s.storesOk = true := by
            have := KvEdit.shadow_storesOk (x := s.beginEdit p r.addr) (r := r) (stepId := dStepId d) h
            rw [e1] at this
            exact this
          extract_lets +onlyGivenNames r2 one
          have hone (a q b) (ha : a.1.1.1.s.storesOk = true) (hb : one a q = .ok b) :
              b.1.1.1.s.storesOk = true := by
            unfold one at hb
            split at hb
            · cases hb
            · cases hb
              exact ha
            next y n ey =>
              cases hb
              exact hc _ _ _ _ _ _ _ ha ey
          split
          · exact kvFault_storesOk h
          next ed2 r3 n changed e2 =>
            have hed2 : ed2.s.storesOk = true :=
              foldExcept_keeps (P := fun a : ((KvEdit × KvRoot) × Note) × List (Nat × Nat) =>
                a.1.1.1.s.storesOk = true)
                hone hed e2
            split
            · exact plain_storesOk h
            · split
              next s1 ok e3 => exact noted_storesOk (fst_storesOk (KvEdit.publish_storesOk hed2) e3)

theorem runKvEdit_storesOk {c} {change : PageChange} (hc : change.Keeps) (h : s.storesOk = true) :
    (runKvEdit c change s).storesOk = true :=
  runEngine_storesOk (fun _ hx => editEffect_storesOk hc hx) h

/-! ### `Machine/Moe.lean` -/

theorem routeEffect_storesOk {e d x} (h : s.storesOk = true) : (routeEffect e d x s).s.storesOk = true := by
  unfold routeEffect
  extract_lets +onlyGivenNames s1
  have hs1 : s1.storesOk = true := dropHeld_storesOk h
  split
  · exact plain_storesOk (countEngine_storesOk _ _ _ _ hs1)
  · extract_lets +onlyGivenNames ctxs
    split
    · exact hs1
    · extract_lets +onlyGivenNames bs toks v picks s2
      have hs2 : s2.storesOk = true := countEngine_storesOk _ _ _ _
        (countEngine_storesOk _ _ _ _ (countEngine_storesOk _ _ _ _ (countEngine_storesOk _ _ _ _ hs1)))
      extract_lets +onlyGivenNames s3
      have hs3 : s3.storesOk = true := onEngine_storesOk (fun _ hp => hp) hs2
      split
      next _ _ e1 => exact noted_storesOk (fst_storesOk (pokes_storesOk _ _ _ hs3) e1)

theorem runRoute_storesOk {c} (h : s.storesOk = true) : (runRoute c s).storesOk = true :=
  runEngine_storesOk (fun _ h => routeEffect_storesOk h) h

theorem exchClaim_storesOk {p e x} (h : s.storesOk = true) : (s.exchClaim p e x).storesOk = true :=
  onStep_storesOk h

theorem issueExch_storesOk {c} (h : s.storesOk = true) : (s.issueExch c).storesOk = true := by
  unfold State.issueExch
  split
  · exact h
  · exact onStep_storesOk (exchClaim_storesOk (dropHeld_storesOk h))

theorem runExchange_storesOk {c} (h : s.storesOk = true) : (runExchange c s).storesOk = true := by
  unfold runExchange
  exact enterEngine_storesOk (fun _ h => ite_storesOk (issueExch_storesOk h)
    (finish_storesOk _ _ _ _ _ _ _ h)) h

theorem putRow_storesOk {e t r codes entry} (h : s.storesOk = true) :
    (s.putRow e t r codes entry).1.storesOk = true := by
  unfold State.putRow
  split
  next s1 _ e1 =>
    have hs1 : s1.storesOk = true := fst_storesOk (ite_fst_storesOk h (writeTensor_storesOk h)) e1
    exact ite_fst_storesOk (pokeSpace_storesOk _ _ _ _ _ hs1) hs1

theorem foldWrites_storesOk {α : Type} {f : State → α → State × Bool} {l : List α}
    (hf : ∀ (x : State) a, x.storesOk = true → (f x a).1.storesOk = true) (h : s.storesOk = true) :
    (foldWrites f l s).1.storesOk = true := by
  induction l generalizing s with
  | nil => exact h
  | cons a rest ih =>
    have ha := hf s a h
    unfold foldWrites
    split
    next s1 e => exact ih (fst_storesOk ha e)
    next s1 e => exact fst_storesOk ha e

theorem placeRows_storesOk {sent} (h : s.storesOk = true) : (s.placeRows sent).1.storesOk = true :=
  foldWrites_storesOk (fun _ _ h => ite_fst_storesOk (putRow_storesOk h) h) h

theorem dispatchMember_storesOk {sent m} (h : s.storesOk = true) :
    (s.dispatchMember sent m).1.storesOk = true := by
  unfold State.dispatchMember
  exact foldWrites_storesOk (fun _ _ h => by
    extract_lets +onlyGivenNames picks rows
    split
    next s1 _ e =>
      have hs1 : s1.storesOk = true := fst_storesOk (pokes_storesOk _ _ _ h) e
      exact ite_fst_storesOk (putRow_storesOk hs1) (putRow_storesOk hs1)) h

theorem fillBlocks_storesOk {sent m} (h : s.storesOk = true) : (s.fillBlocks sent m).1.storesOk = true := by
  unfold State.fillBlocks
  exact foldWrites_storesOk (fun _ _ h => by
    extract_lets +onlyGivenNames b n
    split
    next _ _ e =>
      exact foldWrites_storesOk (fun _ _ h => putRow_storesOk h)
        (fst_storesOk (pokeSpace_storesOk _ _ _ _ _ h) e)) h

theorem combineMember_storesOk {m} (h : s.storesOk = true) : (s.combineMember m).1.storesOk = true := by
  unfold State.combineMember
  extract_lets +onlyGivenNames x rows
  split
  next _ _ e => exact fst_storesOk (foldWrites_storesOk (fun _ _ h => putRow_storesOk h) h) e

theorem finishExch_storesOk {m ok n} (h : s.storesOk = true) : (s.finishExch m ok n).storesOk = true := by
  unfold State.finishExch
  extract_lets +onlyGivenNames r
  have hr : r.s.storesOk = true := noted_storesOk h
  exact finish_storesOk _ _ _ _ _ _ _ (ite_storesOk (countEngine_storesOk _ _ _ _ hr) hr)

theorem dispatchAll_storesOk {p ms} (h : s.storesOk = true) : (s.dispatchAll p ms).storesOk = true := by
  unfold State.dispatchAll
  extract_lets +onlyGivenNames sent
  split
  next _ _ e3 =>
    extract_lets +onlyGivenNames fill
    split
    next s4 _ e2 =>
      have hs4 : s4.storesOk = true := by
        refine fst_storesOk ?_ e2
        refine foldl_fst_storesOk (fun _ m h => ?_) (fst_storesOk (placeRows_storesOk h) e3)
        unfold fill
        split
        next _ _ e1 =>
          split
          next _ _ e =>
            exact countEngine_storesOk _ _ _ _
              (fst_storesOk (fillBlocks_storesOk (fst_storesOk (dispatchMember_storesOk h) e1)) e)
      exact foldl_storesOk (fun _ _ h => finishExch_storesOk h) (onStep_storesOk hs4)

theorem combineAll_storesOk {ms} (h : s.storesOk = true) : (s.combineAll ms).storesOk = true := by
  unfold State.combineAll
  refine foldl_storesOk (fun _ m h => ?_) h
  split
  next _ _ _ e => exact finishExch_storesOk (fst_storesOk (combineMember_storesOk h) e)

theorem rendezvous_storesOk {p exchId phase} (h : s.storesOk = true) :
    (rendezvous p exchId phase s).storesOk = true := by
  unfold rendezvous
  extract_lets +onlyGivenNames ms
  clear_value ms
  split
  · exact h
  · split
    · exact h
    · split
      · exact h
      · extract_lets +onlyGivenNames s1
        have hs1 : s1.storesOk = true := onStep_storesOk h
        exact ite_storesOk (ite_storesOk (dispatchAll_storesOk hs1) (combineAll_storesOk hs1))
          (foldl_storesOk (fun _ _ h => finish_storesOk _ _ _ _ _ _ _ h) hs1)

/-! ### `Machine/Adapt.lean` -/

theorem augEffect_storesOk {e d x} (h : s.storesOk = true) : (augEffect e d x s).s.storesOk = true := by
  unfold augEffect
  extract_lets +onlyGivenNames s1
  have hs1 : s1.storesOk = true := dropHeld_storesOk h
  split
  · exact plain_storesOk (countEngine_storesOk _ _ _ _ hs1)
  · split
    · exact hs1
    · extract_lets +onlyGivenNames bs w h1 px ys
      split
      next _ _ e1 =>
        exact noted_storesOk (countEngine_storesOk _ _ _ _ (fst_storesOk (writeTensor_storesOk hs1) e1))

theorem gradEffect_storesOk {e d x} (h : s.storesOk = true) : (gradEffect e d x s).s.storesOk = true := by
  unfold gradEffect
  extract_lets +onlyGivenNames s1
  have hs1 : s1.storesOk = true := dropHeld_storesOk h
  split
  · exact plain_storesOk (countEngine_storesOk _ _ _ _ hs1)
  · split
    · exact hs1
    · extract_lets +onlyGivenNames bs val n s2
      have hs2 : s2.storesOk = true := ite_storesOk (clipAdd_storesOk hs1) hs1
      split
      next s3 _ e2 =>
        have hs3 : s3.storesOk = true := fst_storesOk (writeTensor_storesOk hs2) e2
        split
        next _ _ e1 =>
          exact noted_storesOk (fst_storesOk (ite_fst_storesOk (pokeSpace_storesOk _ _ _ _ _ hs3) hs3) e1)

theorem noteMaster_storesOk {e d} (h : s.storesOk = true) : (s.noteMaster e d).storesOk = true := by
  unfold State.noteMaster
  split
  · exact h
  · exact onStep_storesOk h

theorem skipEffect_storesOk {e d x recB} (h : s.storesOk = true) :
    (skipEffect e d x recB s).s.storesOk = true := by
  unfold skipEffect
  extract_lets +onlyGivenNames bs st s1
  have hs1 : s1.storesOk = true := countEngine_storesOk _ _ _ _ h
  split
  next s2 _ e3 =>
    have hs2 : s2.storesOk = true := fst_storesOk (writeTensor_storesOk hs1) e3
    split
    next s3 _ e2 =>
      have hs3 : s3.storesOk = true := fst_storesOk (ite_fst_storesOk (pokeSpace_storesOk _ _ _ _ _ hs2) hs2) e2
      split
      next _ _ e1 =>
        exact noted_storesOk (noteMaster_storesOk
          (fst_storesOk (ite_fst_storesOk (pokeSpace_storesOk _ _ _ _ _ hs3) hs3) e1))

theorem stepEffect_storesOk {e d x} (h : s.storesOk = true) : (stepEffect e d x s).s.storesOk = true := by
  unfold stepEffect
  extract_lets +onlyGivenNames s1
  have hs1 : s1.storesOk = true := dropHeld_storesOk h
  split
  · exact plain_storesOk (countEngine_storesOk _ _ _ _ hs1)
  · extract_lets +onlyGivenNames recB stB n blocks
    split
    · exact hs1
    · split
      · exact hs1
      · extract_lets +onlyGivenNames w0 g0 ms vs p1n p2n ix codes ups sat
        split
        · exact skipEffect_storesOk hs1
        · extract_lets +onlyGivenNames outs pos
          split
          next s2 _ e3 =>
            have hs2 : s2.storesOk = true := fst_storesOk (writeTensor_storesOk hs1) e3
            extract_lets +onlyGivenNames blocks1
            split
            next s3 _ e2 =>
              have hs3 : s3.storesOk = true := fst_storesOk
                (ite_fst_storesOk (pokeSpace_storesOk _ _ _ _ _ hs2) hs2) e2
              split
              next _ _ e1 =>
                exact noted_storesOk (noteMaster_storesOk
                  (fst_storesOk (ite_fst_storesOk (pokeSpace_storesOk _ _ _ _ _ hs3) hs3) e1))

theorem runAdapt_storesOk {c} {eff : AdaptDesc → State → Effect}
    (heff : ∀ d (x : State), x.storesOk = true → (eff d x).s.storesOk = true) (h : s.storesOk = true) :
    (runAdapt c eff s).storesOk = true :=
  runEngine_storesOk (fun x hx => heff _ x hx) h

/-! ### `Machine/Contexts.lean` -/

theorem addStatus_storesOk {k code detail} (h : s.storesOk = true) :
    (s.addStatus k code detail).storesOk = true :=
  onSide_storesOk h

theorem buildRoot_storesOk {p k n lo m} (h : s.storesOk = true) : (s.buildRoot p k n lo m).storesOk = true :=
  onPart_storesOk (mainPut_storesOk (mainPut_storesOk h))

theorem buildRoots_storesOk {p k lo} (h : s.storesOk = true) : (s.buildRoots p k lo).1.storesOk = true :=
  foldl_storesOk (fun _ _ h => buildRoot_storesOk h) h

theorem freeKv_storesOk {c} (h : s.storesOk = true) : (s.freeKv c).storesOk = true :=
  ite_storesOk h (foldl_storesOk (fun _ _ h => onEngine_storesOk (fun _ hp => hp) h) (onPart_storesOk h))

theorem resetKv_storesOk {c} (h : s.storesOk = true) : (s.resetKv c).storesOk = true := by
  unfold State.resetKv
  split
  · exact buildRoots_storesOk (freeKv_storesOk h)
  · exact h

theorem holdDescriptor_storesOk {id} (h : s.storesOk = true) : (s.holdDescriptor id).storesOk = true := by
  unfold State.holdDescriptor
  extract_lets +onlyGivenNames l put
  split
  · exact h
  · split
    · exact h
    · extract_lets +onlyGivenNames busy
      split
      · exact mainPut_storesOk h
      · exact h

theorem freeContext_storesOk {c} (h : s.storesOk = true) : (s.freeContext c).storesOk = true :=
  freeKv_storesOk h

theorem freeSide_storesOk {k} (h : s.storesOk = true) : (s.freeSide k).storesOk = true :=
  foldl_storesOk (fun _ _ h => freeContext_storesOk h) h

theorem requeue_storesOk {k} (h : s.storesOk = true) : (s.requeue k).storesOk = true := by
  unfold State.requeue
  split
  · exact h
  · exact h

theorem restartSide_storesOk {k detail} (h : s.storesOk = true) : (s.restartSide k detail).storesOk = true := by
  unfold State.restartSide
  split
  · exact h
  · exact requeue_storesOk (countPart_storesOk (addStatus_storesOk (onSide_storesOk (freeSide_storesOk h))))

theorem switchSide_storesOk {c r} (h : s.storesOk = true) (e : s.switchSide c = some r) :
    r.storesOk = true := by
  unfold State.switchSide at e
  split at e
  · split at e
    · cases e
    · split at e
      · cases e
      · extract_lets s1 s2 at e
        have hs2 : s2.storesOk = true := countPart_storesOk (addStatus_storesOk (onSide_storesOk h))
        cases e
        exact hs2
  · cases e

theorem settleSwitch_storesOk {id} (h : s.storesOk = true) : (s.settleSwitch id).storesOk = true := by
  unfold State.settleSwitch
  split
  · exact h
  · split
    · exact h
    · exact ite_storesOk (onContext_storesOk h) h

theorem predict_storesOk {id} (h : s.storesOk = true) : (s.predict id).storesOk = true := by
  unfold State.predict
  split
  · exact h
  · split
    · split
      · exact h
      · extract_lets +onlyGivenNames rb f
        split
        · split
          next _ e => exact settleSwitch_storesOk (switchSide_storesOk h e)
          · exact countPart_storesOk h
        · exact h
    · exact h

theorem takeContext_storesOk {w reserve} (h : s.storesOk = true) :
    (s.takeContext w reserve).storesOk = true := by
  unfold State.takeContext
  split
  · exact h
  · extract_lets +onlyGivenNames id
    split
    next s1 _ e =>
      have hs1 : s1.storesOk = true := by
        refine fst_storesOk ?_ e
        split
        · exact buildRoots_storesOk h
        · exact h
      extract_lets +onlyGivenNames img fused c s2
      have hs2 : s2.storesOk = true := holdDescriptor_storesOk (storesOk_congr hs1 rfl rfl rfl rfl)
      exact ite_storesOk hs2 (predict_storesOk (countPart_storesOk (onSide_storesOk hs2)))

theorem countFull_storesOk {w} (h : s.storesOk = true) : (s.countFull w).storesOk = true := by
  unfold State.countFull
  split
  · exact h
  · extract_lets +onlyGivenNames x
    have hx : x.storesOk = true := countChip_storesOk h
    exact hx

theorem admitOne_storesOk {w} (h : s.storesOk = true) : (s.admitOne w).1.storesOk = true := by
  unfold State.admitOne
  split
  · exact h
  · extract_lets +onlyGivenNames out
    split
    · exact takeContext_storesOk h
    · exact takeContext_storesOk h
    · exact takeContext_storesOk (restartSide_storesOk (countChip_storesOk h))
    · exact h
    · exact countFull_storesOk h

theorem admitLoop_storesOk {l blocked} (h : s.storesOk = true) : (admitLoop l blocked s).storesOk = true := by
  induction l generalizing s blocked with
  | nil => exact h
  | cons w rest ih =>
    unfold admitLoop
    split
    · exact ih h
    · split
      · exact ih h
      · split
        next s1 e => exact ih (fst_storesOk (admitOne_storesOk h) e)
        next s1 e => exact ih (fst_storesOk (admitOne_storesOk h) e)

theorem admitAll_storesOk (h : s.storesOk = true) : s.admitAll.storesOk = true :=
  ite_storesOk (admitLoop_storesOk h) h

/-! ### `Machine/Records.lean` -/

theorem reserveSpool_storesOk {bytes} (h : s.storesOk = true) : (s.reserveSpool bytes).storesOk = true := h

theorem spoolEnterHigh_storesOk (h : s.storesOk = true) : s.spoolEnterHigh.storesOk = true :=
  ite_storesOk h (countChip_storesOk h)

theorem spoolSettle_storesOk (h : s.storesOk = true) : s.spoolSettle.storesOk = true := ite_storesOk h h

theorem freeFrames_storesOk {k} (h : s.storesOk = true) : (s.freeFrames k).storesOk = true := h

theorem freeStage_storesOk {bytes} (h : s.storesOk = true) : (s.freeStage bytes).storesOk = true := h

theorem abandonSide_storesOk {k code detail} (h : s.storesOk = true) :
    (s.abandonSide k code detail).storesOk = true :=
  onSide_storesOk (addStatus_storesOk (freeSide_storesOk h))

theorem settleRing_storesOk {p} (h : s.storesOk = true) : (s.settleRing p).storesOk = true := by
  unfold State.settleRing
  extract_lets +onlyGivenNames r
  split
  · exact onOut_storesOk h
  · extract_lets +onlyGivenNames s1
    have hs1 : s1.storesOk = true := countChip_storesOk (onOut_storesOk h)
    exact ite_storesOk (log_storesOk hs1) hs1
  · exact h

theorem settleRings_storesOk (h : s.storesOk = true) : s.settleRings.storesOk = true :=
  foldl_storesOk (fun _ _ h => settleRing_storesOk h) h

theorem judgeLate_storesOk {x} (h : s.storesOk = true) : (s.judgeLate x).storesOk = true := by
  unfold State.judgeLate
  split
  · split
    · split
      · extract_lets +onlyGivenNames s1
        have hs1 : s1.storesOk = true := addStatus_storesOk h
        exact ite_storesOk (log_storesOk hs1) hs1
    · exact h
  · exact h

theorem readyEffect_storesOk {k items} (h : s.storesOk = true) : (readyEffect k items s).storesOk = true := by
  unfold readyEffect
  split
  · exact h
  · split
    · exact h
    · extract_lets +onlyGivenNames s1
      have hs1 : s1.storesOk = true := judgeLate_storesOk h
      extract_lets +onlyGivenNames st body
      split
      · extract_lets +onlyGivenNames s2
        have hs2 : s2.storesOk = true := ite_storesOk (countChip_storesOk hs1) hs1
        extract_lets +onlyGivenNames t0 r s3
        have hs3 : s3.storesOk = true := mainPut_storesOk hs2
        extract_lets +onlyGivenNames s4
        have hs4 : s4.storesOk = true := freeSide_storesOk hs3
        extract_lets +onlyGivenNames s5
        have hs5 : s5.storesOk = true := onSide_storesOk (freeStage_storesOk hs4)
        extract_lets +onlyGivenNames host s6
        have hs6 : s6.storesOk = true := by
          clear_value s5
          exact storesOk_congr hs5 rfl rfl rfl rfl
        exact settleRing_storesOk (spoolSettle_storesOk (onOut_storesOk hs6))

theorem putSkip_storesOk {p n} (h : s.storesOk = true) : (s.putSkip p n).storesOk = true :=
  ite_storesOk h (onOut_storesOk (hostWrite_storesOk _ _ _ h))

theorem putImage_storesOk {p i} (h : s.storesOk = true) : (s.putImage p i).storesOk = true :=
  hostWrite_storesOk _ _ _ h

theorem coalesce_storesOk {p} (h : s.storesOk = true) : (s.coalesce p).storesOk = true :=
  ite_storesOk (signal_storesOk _ _ (onOut_storesOk h)) (onOut_storesOk h)

theorem publishNext_storesOk {p} (h : s.storesOk = true) : (s.publishNext p).storesOk = true := by
  unfold State.publishNext
  extract_lets +onlyGivenNames r
  split
  · exact h
  · extract_lets +onlyGivenNames d all len s1
    have hs1 : s1.storesOk = true := putSkip_storesOk h
    extract_lets +onlyGivenNames s2
    have hs2 : s2.storesOk = true := foldl_storesOk (fun _ _ h => putImage_storesOk h) hs1
    extract_lets +onlyGivenNames r1 bytes s3
    have hs3 : s3.storesOk = true := hostWrite_storesOk _ _ _ hs2
    extract_lets +onlyGivenNames prod s4
    have hs4 : s4.storesOk = true := hostWrite_storesOk _ _ _ hs3
    extract_lets +onlyGivenNames s5
    have hs5 : s5.storesOk = true := onOut_storesOk hs4
    extract_lets +onlyGivenNames host s6
    have hs6 : s6.storesOk = true := by
      clear_value s5
      exact storesOk_congr hs5 rfl rfl rfl rfl
    extract_lets +onlyGivenNames s7
    have hs7 : s7.storesOk = true := countChip_storesOk (countChip_storesOk hs6)
    extract_lets +onlyGivenNames s8
    have hs8 : s8.storesOk = true := ite_storesOk (countChip_storesOk hs7) hs7
    extract_lets +onlyGivenNames s9
    have hs9 : s9.storesOk = true := ite_storesOk (countChip_storesOk hs8) hs8
    extract_lets +onlyGivenNames s10
    have hs10 : s10.storesOk = true := freeFrames_storesOk hs9
    exact spoolSettle_storesOk (coalesce_storesOk (countLife_storesOk hs10))

theorem publishEffect_storesOk {p} (h : s.storesOk = true) : (publishEffect p s).storesOk = true :=
  settleRing_storesOk (ite_storesOk (publishNext_storesOk h) h)

theorem consEffect_storesOk {p count} (h : s.storesOk = true) : (consEffect p count s).storesOk = true :=
  ite_storesOk h (ite_storesOk (countChip_storesOk h) (settleRing_storesOk (onOut_storesOk h)))

theorem coalesceEffect_storesOk {p} (h : s.storesOk = true) : (coalesceEffect p s).storesOk = true := by
  unfold coalesceEffect
  extract_lets +onlyGivenNames r
  split
  · exact ite_storesOk (signal_storesOk _ _ (onOut_storesOk h)) h
  · exact h

theorem stallEffect_storesOk {p} (h : s.storesOk = true) : (stallEffect p s).storesOk = true := by
  unfold stallEffect
  extract_lets +onlyGivenNames r
  split
  · exact ite_storesOk (log_storesOk (countChip_storesOk (onOut_storesOk h))) h
  · exact h

/-! ### `Machine/Steps.lean` -/

theorem refillTokens_storesOk {p} (h : s.storesOk = true) : (s.refillTokens p).storesOk = true := by
  unfold State.refillTokens
  split
  · exact onPart_storesOk h
  · exact h

theorem fillTokens_storesOk {p} (h : s.storesOk = true) : (s.fillTokens p).storesOk = true := by
  unfold State.fillTokens
  split
  · exact onPart_storesOk h
  · exact onPart_storesOk h

theorem meter_storesOk {x} (h : s.storesOk = true) : (s.meter x).storesOk = true := by
  unfold State.meter
  split
  · exact h
  · extract_lets +onlyGivenNames s1
    have hs1 : s1.storesOk = true := refillTokens_storesOk h
    exact ite_storesOk (onSide_storesOk (onPart_storesOk hs1)) (addStatus_storesOk (onSide_storesOk hs1))

theorem arrivalEffect_storesOk {k} (h : s.storesOk = true) : (arrivalEffect k s).storesOk = true := by
  unfold arrivalEffect
  split
  · exact h
  · split
    · exact h
    · split
      · exact freeFrames_storesOk (abandonSide_storesOk h)
      · split
        · exact ite_storesOk h (countChip_storesOk (freeFrames_storesOk (abandonSide_storesOk h)))
        · extract_lets +onlyGivenNames s1
          have hs1 : s1.storesOk = true := meter_storesOk h
          extract_lets +onlyGivenNames conf s2
          have hs2 : s2.storesOk = true := onSide_storesOk hs1
          exact admitAll_storesOk hs2

theorem chargeTime_storesOk {p g bound} (h : s.storesOk = true) : (s.chargeTime p g bound).storesOk = true := by
  unfold State.chargeTime
  split
  · exact ite_storesOk h (onPart_storesOk h)
  · exact h

theorem writePosting_storesOk {x cs rows} (h : s.storesOk = true) :
    (s.writePosting x cs rows).storesOk = true :=
  foldl_storesOk (fun _ _ h => mainPut_storesOk h) (mainPut_storesOk (mainPut_storesOk (mainPut_storesOk h)))

theorem issueStep_storesOk {p run} (h : s.storesOk = true) : (s.issueStep p run).storesOk = true := by
  unfold State.issueStep
  split
  · split
    · exact h
    · extract_lets +onlyGivenNames cs stepId s1
      have hs1 : s1.storesOk = true := chargeTime_storesOk h
      extract_lets +onlyGivenNames x s2
      have hs2 : s2.storesOk = true := writePosting_storesOk hs1
      extract_lets +onlyGivenNames s3
      have hs3 : s3.storesOk = true := by
        refine foldl_storesOk (fun _ l h => ?_) hs2
        split
        · exact onEngine_storesOk (fun _ hp => hp) h
        · exact h
      exact onPart_storesOk (foldl_storesOk (fun _ _ h => holdDescriptor_storesOk (onContext_storesOk h)) hs3)
  · exact h

theorem startAdapters_storesOk {p slot r new} (h : s.storesOk = true) :
    (s.startAdapters p slot r new).storesOk = true := by
  unfold State.startAdapters
  refine foldl_storesOk (fun _ t h => ?_) h
  refine foldl_fst_storesOk (fun _ x h => ?_) h
  split
  · exact h
  · extract_lets +onlyGivenNames s1
    have hs1 : s1.storesOk = true := by
      unfold s1
      split
      · exact ite_storesOk (pokeSpace_storesOk _ _ _ _ _ h) h
      · exact h
    exact hs1

theorem syncTimes_storesOk {p} (h : s.storesOk = true) : (s.syncTimes p).storesOk = true := by
  unfold State.syncTimes
  extract_lets +onlyGivenNames x now old
  clear_value old
  split
  · exact onPart_storesOk h
  · exact onPart_storesOk h

theorem tagSide_storesOk {p g k} (h : s.storesOk = true) : (s.tagSide p g k).storesOk = true :=
  onSide_storesOk h

theorem formStep_storesOk {p scratch} (h : s.storesOk = true) : (s.formStep p scratch).storesOk = true := by
  unfold State.formStep
  extract_lets +onlyGivenNames s1
  have hs1 : s1.storesOk = true := syncTimes_storesOk h
  split
  · split
    · split
      · exact hs1
      · split
        · exact hs1
        · exact ite_storesOk hs1 (issueStep_storesOk (foldl_storesOk (fun _ _ h => tagSide_storesOk h) hs1))
    · exact hs1
  · exact hs1

theorem wakeSide_storesOk {k} (h : s.storesOk = true) : (s.wakeSide k).storesOk = true := by
  unfold State.wakeSide
  split
  · exact h
  · split
    · exact onContext_storesOk h
    · exact h

theorem endLine_storesOk {c} (h : s.storesOk = true) : (s.endLine c).storesOk = true :=
  wakeSide_storesOk (freeContext_storesOk h)

theorem lineOverrun_storesOk {c} (h : s.storesOk = true) : (s.lineOverrun c).storesOk = true :=
  ite_storesOk (onContext_storesOk (countPart_storesOk (resetKv_storesOk h)))
    (endLine_storesOk (countPart_storesOk (addStatus_storesOk (onContext_storesOk h))))

theorem lineAfter_storesOk {c final} (h : s.storesOk = true) : (s.lineAfter c final).storesOk = true :=
  ite_storesOk (endLine_storesOk (onPart_storesOk h))
    (ite_storesOk (lineOverrun_storesOk h) (onContext_storesOk h))

theorem sideAfter_storesOk {c lines} (h : s.storesOk = true) : (s.sideAfter c lines).storesOk = true := by
  unfold State.sideAfter
  extract_lets +onlyGivenNames s1
  have hs1 : s1.storesOk = true := settleSwitch_storesOk h
  exact onContext_storesOk (ite_storesOk hs1 (predict_storesOk hs1))

theorem contextAfter_storesOk {reports id} (h : s.storesOk = true) :
    (s.contextAfter reports id).storesOk = true := by
  unfold State.contextAfter
  extract_lets +onlyGivenNames s1
  have hs1 : s1.storesOk = true := holdDescriptor_storesOk (onContext_storesOk h)
  split
  · exact hs1
  · exact ite_storesOk (lineAfter_storesOk hs1) (sideAfter_storesOk hs1)

theorem addClips_storesOk {p alarms} (h : s.storesOk = true) : (s.addClips p alarms).storesOk = true := by
  unfold State.addClips
  extract_lets +onlyGivenNames es
  refine foldl_storesOk (fun _ i h => ?_) h
  extract_lets +onlyGivenNames seen sat
  split
  · exact h
  · extract_lets +onlyGivenNames s1
    have hs1 : s1.storesOk = true := onPart_storesOk h
    exact ite_storesOk (log_storesOk hs1) hs1

theorem addLoads_storesOk {p counts} (h : s.storesOk = true) : (s.addLoads p counts).storesOk = true :=
  foldl_storesOk (fun _ _ h => onPart_storesOk h) h

theorem returnFreed_storesOk {p r} (h : s.storesOk = true) : (s.returnFreed p r).storesOk = true :=
  foldl_storesOk (fun _ _ h => giveBlocks_storesOk h) (foldl_storesOk (fun _ _ h => giveSlots_storesOk h) h)

theorem closeStep_storesOk {p r} (h : s.storesOk = true) : (s.closeStep p r).storesOk = true := by
  unfold State.closeStep
  extract_lets +onlyGivenNames s1
  have hs1 : s1.storesOk = true := foldl_storesOk (fun _ _ h => applyLog_storesOk h) h
  extract_lets +onlyGivenNames s2
  have hs2 : s2.storesOk = true := by
    unfold s2
    split
    · exact returnFreed_storesOk hs1
    · exact hs1
  exact foldl_storesOk (fun _ _ h => onEngine_storesOk (fun _ hp => hp) h) hs2

theorem failContext_storesOk {id code logical} (h : s.storesOk = true) :
    (s.failContext id code logical).storesOk = true := by
  unfold State.failContext
  split
  · exact h
  · split
    · exact abandonSide_storesOk h
    · split
      · exact lineOverrun_storesOk h
      · split
        next _ e =>
          exact settleSwitch_storesOk (onContext_storesOk (addStatus_storesOk (switchSide_storesOk h e)))
        · exact abandonSide_storesOk h

theorem retireEffect_storesOk {p reports} (h : s.storesOk = true) :
    (retireEffect p reports s).storesOk = true := by
  unfold retireEffect
  split
  · exact h
  · exact ite_storesOk h (foldl_storesOk (fun _ _ h => contextAfter_storesOk h)
      (foldl_storesOk (fun _ _ h => failContext_storesOk h)
        (countPart_storesOk (onPart_storesOk (addLoads_storesOk (addClips_storesOk (closeStep_storesOk h)))))))

/-! ### `Machine/Commands.lean` -/

theorem issueCommand_storesOk {c other} {run : EngCall → State → State}
    (hrun : ∀ k (x : State), x.storesOk = true → (run k x).storesOk = true) (h : s.storesOk = true) :
    (s.issueCommand c other run).storesOk = true := by
  unfold State.issueCommand
  split
  · exact h
  · split
    · exact h
    · exact hrun _ _ h

/-! ### `Machine/Plans.lean` -/

theorem rejectPart_storesOk {p reason plan} (h : s.storesOk = true) :
    (s.rejectPart p reason plan).storesOk = true :=
  log_storesOk (onPart_storesOk h)

theorem reportRejects_storesOk {plan fault vs} (h : s.storesOk = true) :
    (s.reportRejects plan fault vs).storesOk = true := by
  unfold State.reportRejects
  refine foldl_storesOk (fun _ v h => ?_) h
  split
  · split
    · exact rejectPart_storesOk h
    · exact h
  · exact h

theorem askDomain_storesOk {bit_ on} (h : s.storesOk = true) : (s.askDomain bit_ on).storesOk = true := h

theorem giveEngine_storesOk {e p logical} (h : s.storesOk = true) :
    (s.giveEngine e p logical).storesOk = true :=
  askDomain_storesOk (onEngine_storesOk (fun _ hp => hp) h)

theorem dropEngine_storesOk {e} (h : s.storesOk = true) : (s.dropEngine e).storesOk = true :=
  askDomain_storesOk (onEngine_storesOk (fun _ hp => hp) h)

theorem keepEngines_storesOk {counts} (h : s.storesOk = true) : (s.keepEngines counts).storesOk = true :=
  foldl_storesOk (fun _ _ h => foldl_storesOk (fun _ _ h => dropEngine_storesOk h) h) h

theorem growTo_storesOk {p count n} (h : s.storesOk = true) : (s.growTo p count n).storesOk = true := by
  induction n generalizing s with
  | zero => exact h
  | succ fuel ih =>
    unfold State.growTo
    split
    · split
      · exact ih (giveEngine_storesOk h)
      · exact h
    · exact h

theorem growEngines_storesOk {counts} (h : s.storesOk = true) : (s.growEngines counts).storesOk = true :=
  foldl_storesOk (fun _ _ h => growTo_storesOk h) h

theorem countEngines_storesOk (h : s.storesOk = true) : s.countEngines.storesOk = true :=
  foldl_storesOk (fun _ _ h => onPart_storesOk h) h

theorem loadResident_storesOk {e} (h : s.storesOk = true) : (s.loadResident e).storesOk = true :=
  foldl_storesOk (fun _ _ h => paddockWrite_storesOk h) h

theorem placeRecipe_storesOk {p slot r} (h : s.storesOk = true) :
    (s.placeRecipe p slot r).1.storesOk = true := by
  unfold State.placeRecipe
  split
  · exact h
  · split
    · exact h
    · split
      · exact h
      · exact onPart_storesOk (mainPut_storesOk (mainPut_storesOk h))

theorem logBound_storesOk {p slot r} (h : s.storesOk = true) : (s.logBound p slot r).storesOk = true :=
  log_storesOk h

theorem bindRecipe_storesOk {p slot r new} (h : s.storesOk = true) :
    (s.bindRecipe p slot r new).storesOk = true := by
  unfold State.bindRecipe
  extract_lets +onlyGivenNames s1
  have hs1 : s1.storesOk = true := logBound_storesOk (placeRecipe_storesOk h)
  exact ite_storesOk (startAdapters_storesOk hs1) hs1

theorem settleSlotPlans_storesOk (h : s.storesOk = true) : s.settleSlotPlans.storesOk = true := h

theorem freshTimes_storesOk {p} (h : s.storesOk = true) : (s.freshTimes p).storesOk = true :=
  fillTokens_storesOk (onPart_storesOk h)

theorem stopReload_storesOk {p} (h : s.storesOk = true) : (s.stopReload p).storesOk = true := h

theorem bindPart_storesOk {p d lw shadow} (h : s.storesOk = true) :
    (s.bindPart p d lw shadow).storesOk = true :=
  freshTimes_storesOk (foldl_storesOk (fun _ _ h => loadResident_storesOk h)
    (foldl_storesOk (fun _ _ h => bindRecipe_storesOk h) (onPart_storesOk (stopReload_storesOk h))))

theorem unbindPart_storesOk {p desc} (h : s.storesOk = true) : (s.unbindPart p desc).storesOk = true :=
  onPart_storesOk (stopReload_storesOk h)

theorem losePart_storesOk {p} (h : s.storesOk = true) : (s.losePart p).storesOk = true := by
  unfold State.losePart
  extract_lets +onlyGivenNames s3
  have hs3 : s3.storesOk = true := by
    refine foldl_storesOk (fun _ x h => ?_) h
    extract_lets +onlyGivenNames s1
    have hs1 : s1.storesOk = true := freeFrames_storesOk (abandonSide_storesOk h)
    extract_lets +onlyGivenNames s2
    have hs2 : s2.storesOk = true := onSide_storesOk hs1
    exact hs2
  exact spoolSettle_storesOk (onPart_storesOk hs3)

theorem startRebind_storesOk {n vs fromVerb} (h : s.storesOk = true) :
    (s.startRebind n vs fromVerb).storesOk = true :=
  foldl_storesOk (fun _ _ h => onPart_storesOk h) h

theorem selectPlan_storesOk {n} (h : s.storesOk = true) : (s.selectPlan n).1.storesOk = true := by
  unfold State.selectPlan
  split
  · exact reportRejects_storesOk h
  · extract_lets +onlyGivenNames e
    split
    · exact reportRejects_storesOk h
    · exact startRebind_storesOk (reportRejects_storesOk h)

theorem bindPoint_storesOk {p} (h : s.storesOk = true) : (s.bindPoint p).storesOk = true := onPart_storesOk h

theorem askBind_storesOk {p} (h : s.storesOk = true) : (s.askBind p).storesOk = true := by
  unfold State.askBind
  extract_lets +onlyGivenNames s1
  have hs1 : s1.storesOk = true := onPart_storesOk h
  exact ite_storesOk hs1 (bindPoint_storesOk hs1)

theorem drainedEffect_storesOk (h : s.storesOk = true) : (drainedEffect s).storesOk = true := by
  unfold drainedEffect
  extract_lets +onlyGivenNames rb aff
  split
  · exact h
  · extract_lets +onlyGivenNames plan counts s1
    have hs1 : s1.storesOk = true := foldl_storesOk
      (fun _ _ h => ite_storesOk h (ite_storesOk (losePart_storesOk h)
        (ite_storesOk (foldl_storesOk (fun _ _ h => restartSide_storesOk h) h) h))) h
    extract_lets +onlyGivenNames s2
    have hs2 : s2.storesOk = true := countEngines_storesOk (growEngines_storesOk (keepEngines_storesOk hs1))
    clear_value s2
    exact storesOk_congr hs2 rfl rfl rfl rfl

theorem completeEffect_storesOk (h : s.storesOk = true) : (completeEffect s).storesOk = true := by
  unfold completeEffect
  extract_lets +onlyGivenNames rb plan aff waiting
  split
  · exact h
  · extract_lets +onlyGivenNames s1
    have hs1 : s1.storesOk = true := by
      refine foldl_storesOk (fun _ p h => ?_) h
      split
      · exact bindPart_storesOk h
      · exact unbindPart_storesOk h
    extract_lets +onlyGivenNames s3
    have hs3 : s3.storesOk = true := by
      refine foldl_storesOk (fun _ p h => ?_) hs1
      extract_lets +onlyGivenNames d s2
      have hs2 : s2.storesOk = true := onPart_storesOk h
      exact ite_storesOk hs2 (askBind_storesOk (onPart_storesOk hs2))
    extract_lets +onlyGivenNames s4
    have hs4 : s4.storesOk = true := settleSlotPlans_storesOk hs3
    extract_lets +onlyGivenNames s5
    have hs5 : s5.storesOk = true := foldl_storesOk (fun _ _ h => onTransport_storesOk h) hs4
    clear_value s5
    extract_lets +onlyGivenNames s6
    have hs6 : s6.storesOk = true := storesOk_congr hs5 rfl rfl rfl rfl
    exact admitAll_storesOk (ite_storesOk (storesOk_congr hs6 rfl rfl rfl rfl) hs6)

theorem supersede_storesOk (h : s.storesOk = true) : s.supersede.storesOk = true := by
  unfold State.supersede
  split
  · extract_lets +onlyGivenNames s1
    have hs1 : s1.storesOk = true := foldl_storesOk (fun _ _ h => onPart_storesOk h) h
    clear_value s1
    exact storesOk_congr hs1 rfl rfl rfl rfl
  · exact h

theorem engineLoss_storesOk {p} (h : s.storesOk = true) : (s.engineLoss p).storesOk = true :=
  rejectPart_storesOk (settleSlotPlans_storesOk
    (countEngines_storesOk (unbindPart_storesOk
      (foldl_storesOk (fun _ _ h => dropEngine_storesOk h) (losePart_storesOk h)))))

/-! ### `Machine/Recover.lean` -/

theorem drawWord_storesOk (h : s.storesOk = true) : s.drawWord.1.storesOk = true := h

theorem cutShort_storesOk {e d st} (h : s.storesOk = true) : (s.cutShort e d st).storesOk = true := by
  unfold State.cutShort
  split
  next _ _ e1 => exact finish_storesOk _ _ _ _ _ _ _ (fst_storesOk (drawWord_storesOk h) e1)

theorem faultCommand_storesOk {e i st} (h : s.storesOk = true) : (s.faultCommand e i st).storesOk = true := by
  unfold State.faultCommand
  split
  · exact h
  · split
    · exact cutShort_storesOk h
    · exact h

theorem watchdogEffect_storesOk {p} (h : s.storesOk = true) : (watchdogEffect p s).storesOk = true := by
  unfold watchdogEffect
  split
  · exact h
  · split
    · exact h
    · extract_lets +onlyGivenNames late
      split
      · exact h
      · extract_lets +onlyGivenNames s1
        have hs1 : s1.storesOk = true := foldl_storesOk (fun _ _ h => cutShort_storesOk h) h
        exact countPart_storesOk (ite_storesOk (onStep_storesOk hs1) hs1)

theorem overrunEffect_storesOk {e i} (h : s.storesOk = true) : (overrunEffect e i s).storesOk = true := by
  unfold overrunEffect
  split
  · exact h
  · split
    · exact h
    · split
      · exact h
      · split
        · exact ite_storesOk (cutShort_storesOk h) h
        · exact h

theorem restoreRoot_storesOk {root} (h : s.storesOk = true) : (s.restoreRoot root).storesOk = true :=
  foldl_storesOk (fun _ _ h => onEngine_storesOk (fun _ hp => hp) h) (mainPut_storesOk h)

theorem restoreStep_storesOk {p r} (h : s.storesOk = true) : (s.restoreStep p r).storesOk = true :=
  foldl_storesOk (fun _ _ h => onEngine_storesOk (fun _ hp => hp) h)
    (foldl_storesOk (fun _ _ h => restoreRoot_storesOk h)
      (foldl_storesOk (fun _ _ h => giveBlocks_storesOk h)
        (foldl_storesOk (fun _ _ h => giveSlots_storesOk h) h)))

theorem readyAgain_storesOk {ids} (h : s.storesOk = true) : (s.readyAgain ids).storesOk = true := h

theorem dissolve_storesOk {p r} (h : s.storesOk = true) : (s.dissolve p r).storesOk = true :=
  readyAgain_storesOk (foldl_storesOk (fun _ _ h => failContext_storesOk h) (onPart_storesOk h))

theorem abortStep_storesOk {p} (h : s.storesOk = true) : (s.abortStep p).storesOk = true := by
  unfold State.abortStep
  split
  · exact dissolve_storesOk (restoreStep_storesOk h)
  · exact h

theorem blame_storesOk {r e} (h : s.storesOk = true) : (s.blame r e).storesOk = true :=
  log_storesOk (onEngine_storesOk (fun _ hp => hp) h)

theorem recoveryEvent_storesOk {p} (h : s.storesOk = true) : (s.recoveryEvent p).storesOk = true :=
  onStep_storesOk h

theorem fence_storesOk {e trigger} (h : s.storesOk = true) : (s.fence e trigger).storesOk = true :=
  countLife_storesOk (log_storesOk (onEngine_storesOk (fun _ hp => hp) h))

theorem spareFails_storesOk {e} (h : s.storesOk = true) : (s.spareFails e).storesOk = true :=
  askDomain_storesOk (log_storesOk (fence_storesOk h))

theorem sourceLost_storesOk {p} (h : s.storesOk = true) : (s.sourceLost p).storesOk = true :=
  rejectPart_storesOk (settleSlotPlans_storesOk
    (countEngines_storesOk (unbindPart_storesOk
      (foldl_storesOk (fun _ _ h => dropEngine_storesOk h) (losePart_storesOk h)))))

theorem dataLost_storesOk {p r} (h : s.storesOk = true) : (s.dataLost p r).storesOk = true := by
  unfold State.dataLost
  extract_lets +onlyGivenNames s1
  have hs1 : s1.storesOk = true := onPart_storesOk h
  split
  · exact sourceLost_storesOk hs1
  · extract_lets +onlyGivenNames cs one hit
    refine readyAgain_storesOk ?_
    refine foldl_storesOk (fun _ c h => ?_) hs1
    unfold one
    split
    · exact h
    · exact ite_storesOk (abandonSide_storesOk h)
        (ite_storesOk (abandonSide_storesOk h)
          (ite_storesOk (countPart_storesOk (restartSide_storesOk h)) (restartSide_storesOk h)))

theorem unstage_storesOk (h : s.storesOk = true) : s.unstage.storesOk = true :=
  foldl_storesOk (fun _ _ h => onPart_storesOk h) h

theorem dropStaged_storesOk (h : s.storesOk = true) : s.dropStaged.storesOk = true := by
  unfold State.dropStaged
  split
  · exact h
  · extract_lets +onlyGivenNames u
    have hu : u.storesOk = true := unstage_storesOk h
    clear_value u
    split
    · exact storesOk_congr hu rfl rfl rfl rfl
    · exact h

theorem alsoRebind_storesOk {p} (h : s.storesOk = true) : (s.alsoRebind p).storesOk = true := by
  unfold State.alsoRebind
  extract_lets +onlyGivenNames s1
  have hs1 : s1.storesOk = true := onPart_storesOk h
  exact ite_storesOk hs1 hs1

theorem noSpare_storesOk {p} (h : s.storesOk = true) : (s.noSpare p).storesOk = true := by
  unfold State.noSpare
  extract_lets +onlyGivenNames reached s1
  have hs1 : s1.storesOk = true := dropStaged_storesOk (supersede_storesOk h)
  split
  · extract_lets +onlyGivenNames s2
    have hs2 : s2.storesOk = true := foldl_storesOk (fun _ _ h => alsoRebind_storesOk h)
      (startRebind_storesOk hs1)
    exact ite_storesOk hs2 (alsoRebind_storesOk (abortStep_storesOk hs2))
  · exact engineLoss_storesOk (abortStep_storesOk hs1)

theorem logRecipeFaults_storesOk {p r} (h : s.storesOk = true) : (s.logRecipeFaults p r).storesOk = true :=
  foldl_storesOk (fun _ _ h => log_storesOk h) h

theorem contractFault_storesOk {p r} (h : s.storesOk = true) : (s.contractFault p r).storesOk = true := by
  unfold State.contractFault
  split
  · exact ite_storesOk (countPart_storesOk
      (log_storesOk (foldl_storesOk (fun _ _ h => addStatus_storesOk h) h))) h
  · exact h

theorem replay_storesOk {p r} (h : s.storesOk = true) : (s.replay p r).storesOk = true :=
  issueStep_storesOk (log_storesOk h)

theorem fenceAll_storesOk {p r l} (h : s.storesOk = true) : (s.fenceAll p r l).storesOk = true := by
  unfold State.fenceAll
  extract_lets +onlyGivenNames places s1
  have hs1 : s1.storesOk = true := foldl_storesOk (fun _ _ h => fence_storesOk h) h
  extract_lets +onlyGivenNames s2
  have hs2 : s2.storesOk = true := onPart_storesOk hs1
  exact ite_storesOk (noSpare_storesOk hs2) hs2

theorem recover_storesOk {p r} (h : s.storesOk = true) : (s.recover p r).storesOk = true := by
  unfold State.recover
  extract_lets +onlyGivenNames blamed s1
  have hs1 : s1.storesOk = true := foldl_storesOk (fun _ _ h => blame_storesOk h) h
  extract_lets +onlyGivenNames fences r1 first own s2
  have hs2 : s2.storesOk = true := ite_storesOk (recoveryEvent_storesOk hs1) hs1
  extract_lets +onlyGivenNames s3
  have hs3 : s3.storesOk = true := contractFault_storesOk (logRecipeFaults_storesOk hs2)
  exact ite_storesOk (fenceAll_storesOk hs3)
    (ite_storesOk (dataLost_storesOk hs3)
      (ite_storesOk (foldl_storesOk (fun _ _ h => restartSide_storesOk h) (onPart_storesOk hs3))
        (ite_storesOk (dissolve_storesOk hs3) (replay_storesOk hs3))))

theorem stepFaultEffect_storesOk {p} (h : s.storesOk = true) : (stepFaultEffect p s).storesOk = true := by
  unfold stepFaultEffect
  split
  · exact h
  · exact ite_storesOk h (recover_storesOk (restoreStep_storesOk h))

theorem noteReload_storesOk {p} (h : s.storesOk = true) : (s.noteReload p).storesOk = true := by
  unfold State.noteReload
  extract_lets +onlyGivenNames bytes
  split
  · exact h
  · extract_lets +onlyGivenNames s1
    have hs1 : s1.storesOk = true := countChip_storesOk h
    exact ite_storesOk (log_storesOk hs1) hs1

theorem mount_storesOk {p e old logical} (h : s.storesOk = true) :
    (s.mount p e old logical).storesOk = true := by
  unfold State.mount
  extract_lets +onlyGivenNames s1 s2 s3 s4
  have hs1 : s1.storesOk = true := by
    unfold s1
    split
    · exact ite_storesOk h (foldl_storesOk (fun _ _ h => restartSide_storesOk h) (abortStep_storesOk h))
    · exact h
  have hs2 : s2.storesOk = true := giveEngine_storesOk hs1
  have hs3 : s3.storesOk = true := onEngine_storesOk (fun _ _ => ((storesOk_iff s2).1 hs2).2.1 old) hs2
  have hs4 : s4.storesOk = true := hs3
  exact countEngines_storesOk (askDomain_storesOk (loadResident_storesOk hs4))

theorem remountEffect_storesOk {p copyOk} (h : s.storesOk = true) :
    (remountEffect p copyOk s).storesOk = true := by
  unfold remountEffect
  split
  · exact h
  · split
    · exact h
    · split
      · split
        · extract_lets +onlyGivenNames s1
          have hs1 : s1.storesOk = true := noteReload_storesOk (mount_storesOk h)
          extract_lets +onlyGivenNames us s2
          have hs2 : s2.storesOk = true := log_storesOk hs1
          exact ite_storesOk (issueStep_storesOk hs2) (onStep_storesOk hs2)
        · exact ite_storesOk (noSpare_storesOk (spareFails_storesOk h))
            (noSpare_storesOk (askDomain_storesOk (fence_storesOk h)))
      · exact h

theorem spareCheckEffect_storesOk {pass} (h : s.storesOk = true) :
    (spareCheckEffect pass s).storesOk = true := by
  unfold spareCheckEffect
  split
  · exact ite_storesOk h (spareFails_storesOk h)
  · exact h

/-! ### `Machine/Reins.lean` -/

theorem onBridle_storesOk {f} (h : s.storesOk = true) : (s.onBridle f).storesOk = true := h

theorem onRein_storesOk {r f} (h : s.storesOk = true) : (s.onRein r f).storesOk = true := onBridle_storesOk h

theorem noteBothLost_storesOk (h : s.storesOk = true) : s.noteBothLost.storesOk = true :=
  ite_storesOk (onBridle_storesOk h) (onBridle_storesOk h)

theorem loseLatch_storesOk {r} (h : s.storesOk = true) : (s.loseLatch r).storesOk = true := by
  unfold State.loseLatch
  extract_lets +onlyGivenNames s1
  have hs1 : s1.storesOk = true := onRein_storesOk (onBridle_storesOk h)
  exact noteBothLost_storesOk (ite_storesOk (log_storesOk (onRein_storesOk hs1)) hs1)

theorem loseShadow_storesOk {r} (h : s.storesOk = true) : (s.loseShadow r).storesOk = true :=
  log_storesOk (loseLatch_storesOk h)

theorem makeShadow_storesOk {r} (h : s.storesOk = true) : (s.makeShadow r).storesOk = true :=
  noteBothLost_storesOk (onRein_storesOk (onBridle_storesOk h))

theorem journalEffect_storesOk {seq epoch} (h : s.storesOk = true) :
    (journalEffect seq epoch s).storesOk = true :=
  ite_storesOk (onBridle_storesOk h) h

theorem beatLostEffect_storesOk {r} (h : s.storesOk = true) : (beatLostEffect r s).storesOk = true := by
  unfold beatLostEffect
  extract_lets +onlyGivenNames b holds
  split
  · exact h
  · extract_lets +onlyGivenNames last shadow s1
    have hs1 : s1.storesOk = true := onBridle_storesOk h
    extract_lets +onlyGivenNames s2
    have hs2 : s2.storesOk = true := ite_storesOk (onBridle_storesOk hs1) hs1
    exact ite_storesOk (loseShadow_storesOk hs2)
      (ite_storesOk (loseLatch_storesOk hs2) (noteBothLost_storesOk hs2))

theorem grant_storesOk {r e} (h : s.storesOk = true) : (s.grant r e).storesOk = true :=
  onRein_storesOk (onRein_storesOk (onBridle_storesOk h))

theorem rejectClaim_storesOk {r code} (h : s.storesOk = true) : (s.rejectClaim r code).storesOk = true :=
  log_storesOk (onBridle_storesOk h)

theorem judgeClaim_storesOk {b win r x} (h : s.storesOk = true) : (s.judgeClaim b win r x).storesOk = true := by
  unfold State.judgeClaim
  split
  · exact h
  · split
    · exact rejectClaim_storesOk h
    · exact ite_storesOk (onBridle_storesOk h) (rejectClaim_storesOk h)
    · exact h

theorem claimEffect_storesOk {a c} (h : s.storesOk = true) : (claimEffect a c s).storesOk = true := by
  unfold claimEffect
  extract_lets +onlyGivenNames b win s1
  have hs1 : s1.storesOk = true := by
    unfold s1
    clear_value win
    split
    · exact grant_storesOk h
    · exact h
  exact judgeClaim_storesOk (judgeClaim_storesOk hs1)

theorem settle_storesOk (h : s.storesOk = true) : s.settle.storesOk = true :=
  ite_storesOk (onBridle_storesOk h) h

theorem reinFault_storesOk {r} (h : s.storesOk = true) : (s.reinFault r).storesOk = true :=
  ite_storesOk h (ite_storesOk (loseShadow_storesOk h) (loseLatch_storesOk h))

theorem staleEffect_storesOk {r x y} (h : s.storesOk = true) : (staleEffect r x y s).storesOk = true :=
  ite_storesOk h (log_storesOk (onRein_storesOk h))

theorem recoveryAll_storesOk (h : s.storesOk = true) : s.recoveryAll.storesOk = true :=
  foldl_storesOk (fun _ _ h => recoveryEvent_storesOk h) h

theorem logTakeover_storesOk {since steps} (h : s.storesOk = true) :
    (s.logTakeover since steps).storesOk = true :=
  log_storesOk h

theorem claimNext_storesOk (h : s.storesOk = true) : s.claimNext.storesOk = true := by
  unfold State.claimNext
  split
  · exact h
  · split
    · exact claimEffect_storesOk h
    · exact h

theorem repost_storesOk {p} (h : s.storesOk = true) : (s.repost p).storesOk = true := by
  unfold State.repost
  split
  · exact ite_storesOk (issueStep_storesOk (restoreStep_storesOk h)) h
  · exact h

theorem takeoverEffect_storesOk {unposted} (h : s.storesOk = true) :
    (takeoverEffect unposted s).storesOk = true := by
  unfold takeoverEffect
  split
  · exact h
  · extract_lets +onlyGivenNames s1
    have hs1 : s1.storesOk = true := claimNext_storesOk h
    exact ite_storesOk hs1 (admitAll_storesOk
      (foldl_storesOk (fun _ _ h => repost_storesOk h)
        (countLife_storesOk (logTakeover_storesOk
          (recoveryAll_storesOk (onBridle_storesOk (settle_storesOk hs1)))))))

theorem restartEffect_storesOk {r pass} (h : s.storesOk = true) : (restartEffect r pass s).storesOk = true :=
  ite_storesOk h (ite_storesOk (onRein_storesOk h) (log_storesOk (onRein_storesOk h)))

theorem restoredEffect_storesOk {r} (h : s.storesOk = true) : (restoredEffect r s).storesOk = true :=
  ite_storesOk (log_storesOk (makeShadow_storesOk h)) h

theorem claimBoth_storesOk {passA passB} (h : s.storesOk = true) : (s.claimBoth passA passB).storesOk = true :=
  settle_storesOk (foldl_storesOk (fun _ _ h => ite_storesOk h (log_storesOk h))
    (claimEffect_storesOk (onRein_storesOk (onBridle_storesOk (onRein_storesOk (onBridle_storesOk h))))))

theorem rebuildTimes_storesOk {p} (h : s.storesOk = true) : (s.rebuildTimes p).storesOk = true :=
  ite_storesOk (fillTokens_storesOk (onPart_storesOk h)) h

theorem replayStep_storesOk {p} (h : s.storesOk = true) : (s.replayStep p).storesOk = true := by
  unfold State.replayStep
  split
  · exact ite_storesOk h (replay_storesOk (restoreStep_storesOk h))
  · exact h

theorem doubleLossEffect_storesOk {passA passB} (h : s.storesOk = true) :
    (doubleLossEffect passA passB s).storesOk = true := by
  unfold doubleLossEffect
  split
  · exact h
  · split
    · exact h
    · extract_lets +onlyGivenNames s1
      have hs1 : s1.storesOk = true := claimBoth_storesOk h
      exact ite_storesOk (noteBothLost_storesOk hs1)
        (admitAll_storesOk (foldl_storesOk (fun _ _ h => replayStep_storesOk h)
          (foldl_storesOk (fun _ _ h => rebuildTimes_storesOk h)
            (logTakeover_storesOk (recoveryAll_storesOk (onBridle_storesOk hs1))))))

/-! ### `Machine/Binding.lean` -/

theorem writeOverlay_storesOk {k entry} (h : s.storesOk = true) : (s.writeOverlay k entry).storesOk = true :=
  queueNor_storesOk (queueNor_storesOk (queueNor_storesOk h))

theorem decide_storesOk {code value} (h : s.storesOk = true) : (s.decide_ code value).storesOk = true := h

theorem logOverlay_storesOk {code p slot oslot reason dig} (h : s.storesOk = true) :
    (s.logOverlay code p slot oslot reason dig).storesOk = true :=
  log_storesOk h

theorem settleSlot_storesOk {n} (h : s.storesOk = true) : (s.settleSlot n).storesOk = true := by
  unfold State.settleSlot
  extract_lets +onlyGivenNames x
  split
  · exact h
  · split
    · exact decide_storesOk (onSlot_storesOk h)
    · extract_lets +onlyGivenNames s1
      have hs1 : s1.storesOk = true := onSlot_storesOk h
      extract_lets +onlyGivenNames part
      split
      · exact decide_storesOk (countPart_storesOk (logOverlay_storesOk hs1))
      · exact decide_storesOk (logOverlay_storesOk hs1)
    · exact h

theorem switchPart_storesOk {p} (h : s.storesOk = true) : (s.switchPart p).storesOk = true := by
  unfold State.switchPart
  extract_lets +onlyGivenNames changed before s1
  have hs1 : s1.storesOk = true := onPart_storesOk h
  extract_lets +onlyGivenNames s2
  have hs2 : s2.storesOk = true := foldl_storesOk (fun _ _ h => onSlot_storesOk h) hs1
  split
  · exact hs2
  · extract_lets +onlyGivenNames plan v rs s3
    have hs3 : s3.storesOk = true := onPart_storesOk hs2
    extract_lets +onlyGivenNames s4
    have hs4 : s4.storesOk = true := foldl_storesOk
      (fun _ _ h => ite_storesOk (bindRecipe_storesOk h) (placeRecipe_storesOk h)) hs3
    extract_lets +onlyGivenNames s5
    have hs5 : s5.storesOk = true := foldl_storesOk (fun _ _ h => loadResident_storesOk h) hs4
    extract_lets +onlyGivenNames s6
    have hs6 : s6.storesOk = true := by
      clear_value s5
      exact storesOk_congr hs5 rfl rfl rfl rfl
    exact ite_storesOk hs6 (freshTimes_storesOk hs6)

theorem switchEffect_storesOk {p} (h : s.storesOk = true) : (switchEffect p s).storesOk = true :=
  ite_storesOk h (admitAll_storesOk (foldl_storesOk (fun _ _ h => settleSlot_storesOk h)
    (switchPart_storesOk h)))

/-! ### `Machine/FrontEnd.lean` -/

theorem setHold_storesOk {t cause v} (h : s.storesOk = true) : (s.setHold t cause v).storesOk = true :=
  onTransport_storesOk h

theorem settlePins_storesOk {t} (h : s.storesOk = true) : (s.settlePins t).storesOk = true :=
  ite_storesOk h (onTransport_storesOk h)

theorem settleHolds_storesOk {t} (h : s.storesOk = true) : (s.settleHolds t).storesOk = true :=
  setHold_storesOk (setHold_storesOk (setHold_storesOk (onTransport_storesOk h)))

theorem onCart_storesOk {i f} (h : s.storesOk = true) : (s.onCart i f).storesOk = true := h

theorem markSheet_storesOk {t code detail f} (h : s.storesOk = true) :
    (s.markSheet t code detail f).storesOk = true :=
  foldl_storesOk (fun _ _ h => addStatus_storesOk h) h

theorem onOwnCart_storesOk {n f} (h : s.storesOk = true) : (s.onOwnCart n f).storesOk = true := by
  unfold State.onOwnCart
  split
  · exact onCart_storesOk h
  · exact h

theorem settleWear_storesOk {n} (h : s.storesOk = true) : (s.settleWear n).storesOk = true := by
  unfold State.settleWear
  extract_lets +onlyGivenNames p s1 s2
  have hs1 : s1.storesOk = true := onOwnCart_storesOk (onPort_storesOk h)
  have hs2 : s2.storesOk = true := ite_storesOk (log_storesOk hs1) h
  clear_value s2
  split
  · extract_lets +onlyGivenNames s3
    have hs3 : s3.storesOk = true := onOwnCart_storesOk hs2
    split
    · exact markSheet_storesOk hs3
    · exact hs3
  · exact hs2

theorem countLine_storesOk {n illum} (h : s.storesOk = true) : (s.countLine n illum).storesOk = true :=
  ite_storesOk h (settleWear_storesOk (onPort_storesOk h))

theorem saveCart_storesOk {n} (h : s.storesOk = true) : (s.saveCart n).storesOk = true :=
  ite_storesOk (onOwnCart_storesOk h) h

theorem sendCounters_storesOk {n} (h : s.storesOk = true) : (s.sendCounters n).storesOk = true :=
  onPort_storesOk h

theorem judgeCal_storesOk {n} (h : s.storesOk = true) : (s.judgeCal n).storesOk = true := by
  unfold State.judgeCal
  extract_lets +onlyGivenNames p pix bad worst s1
  have hs1 : s1.storesOk = true := onPort_storesOk h
  split
  · exact onPort_storesOk hs1
  · exact onPort_storesOk (ite_storesOk hs1 hs1)

theorem takeFrames_storesOk {p owner width height needs r} (h : s.storesOk = true)
    (e : s.takeFrames p owner width height needs = some r) : r.1.storesOk = true := by
  induction needs generalizing s r with
  | nil =>
    cases e
    exact h
  | cons i rest ih =>
    unfold State.takeFrames at e
    extract_lets n at e
    split at e
    · cases e
    · extract_lets fr at e
      split at e
      next s1 l e1 =>
        cases e
        exact ih (s := { s with frames := s.frames.filter s.frameLive ++ [fr] }) (r := (s1, l)) h e1
      · cases e

theorem takeSheet_storesOk {defs r} (h : s.storesOk = true) (e : s.takeSheet defs = some r) :
    r.1.storesOk = true := by
  induction defs generalizing s r with
  | nil =>
    cases e
    exact h
  | cons d rest ih =>
    unfold State.takeSheet at e
    split at e
    · cases e
    · extract_lets k at e
      split at e
      · cases e
      next s1 imgs e1 =>
        have hs1 : s1.storesOk = true := takeFrames_storesOk (s := { s with nextKey := k + 1 })
          (r := (s1, imgs)) h e1
        split at e
        next s2 l e2 =>
          cases e
          exact ih (r := (s2, l)) hs1 e2
        · cases e

theorem beginCal_storesOk {t sheet} (h : s.storesOk = true) : (s.beginCal t sheet).storesOk = true :=
  onTransport_storesOk (foldl_storesOk (fun _ _ h => onPort_storesOk h) h)

theorem commitSheet_storesOk {t l} (h : s.storesOk = true) : (s.commitSheet t l).storesOk = true :=
  beginCal_storesOk (onTransport_storesOk (countLife_storesOk (reserveSpool_storesOk h)))

theorem entrySheet_storesOk {t} (h : s.storesOk = true) : (s.entrySheet t).storesOk = true := by
  unfold State.entrySheet
  extract_lets +onlyGivenNames defs need
  split
  · exact h
  · split
    · exact ite_storesOk h (setHold_storesOk h)
    next s1 _ e =>
      have hs1 : s1.storesOk = true := takeSheet_storesOk h e
      exact ite_storesOk (setHold_storesOk (setHold_storesOk (ite_storesOk (spoolEnterHigh_storesOk h) h)))
        (ite_storesOk (commitSheet_storesOk
          (setHold_storesOk (ite_storesOk (spoolEnterHigh_storesOk hs1) hs1))) (setHold_storesOk h))

theorem recheckCapture_storesOk {t} (h : s.storesOk = true) : (s.recheckCapture t).storesOk = true :=
  ite_storesOk (setHold_storesOk h) h

theorem gapCart_storesOk {n} (h : s.storesOk = true) : (s.gapCart n).storesOk = true := onPort_storesOk h

theorem gapBind_storesOk {t} (h : s.storesOk = true) : (s.gapBind t).storesOk = true :=
  foldl_storesOk (fun _ _ h => bindPoint_storesOk h)
    (ite_storesOk (onTransport_storesOk (foldl_storesOk (fun _ _ h => onPort_storesOk h) h)) h)

theorem gapBoundary_storesOk {t} (h : s.storesOk = true) : (s.gapBoundary t).storesOk = true := by
  unfold State.gapBoundary
  extract_lets +onlyGivenNames s1
  have hs1 : s1.storesOk = true := foldl_storesOk (fun _ _ h => gapCart_storesOk h) h
  extract_lets +onlyGivenNames committed s2
  have hs2 : s2.storesOk = true := settleHolds_storesOk (ite_storesOk hs1 (gapBind_storesOk hs1))
  extract_lets +onlyGivenNames s3
  have hs3 : s3.storesOk = true := setHold_storesOk hs2
  extract_lets +onlyGivenNames s4
  have hs4 : s4.storesOk = true := setHold_storesOk hs3
  extract_lets +onlyGivenNames s5
  have hs5 : s5.storesOk = true := setHold_storesOk hs4
  extract_lets +onlyGivenNames s6
  have hs6 : s6.storesOk = true := setHold_storesOk hs5
  split
  · exact hs6
  · extract_lets +onlyGivenNames x s7
    have hs7 : s7.storesOk = true := ite_storesOk (onTransport_storesOk hs6) hs6
    extract_lets +onlyGivenNames s8
    have hs8 : s8.storesOk = true := ite_storesOk (entrySheet_storesOk hs7) (recheckCapture_storesOk hs7)
    exact ite_storesOk (beginCal_storesOk hs8) hs8

theorem assembleLine_storesOk {x} (h : s.storesOk = true) : (s.assembleLine x).storesOk = true :=
  onSide_storesOk h

theorem chooseSkew_storesOk {x} (h : s.storesOk = true) : (s.chooseSkew x).storesOk = true :=
  ite_storesOk (onSide_storesOk (addStatus_storesOk h))
    (ite_storesOk (onSide_storesOk h) (onSide_storesOk (addStatus_storesOk h)))

theorem writeBand_storesOk {x from_ to_} (h : s.storesOk = true) : (s.writeBand x from_ to_).storesOk = true :=
  foldl_storesOk (fun _ _ h => ite_storesOk h (mainPut_storesOk h)) h

theorem completeImage_storesOk {k} (h : s.storesOk = true) : (s.completeImage k).storesOk = true :=
  onSide_storesOk h

theorem emitLine_storesOk {k} (h : s.storesOk = true) : (s.emitLine k).storesOk = true := by
  unfold State.emitLine
  split
  · exact h
  · extract_lets +onlyGivenNames d n s1
    have hs1 : s1.storesOk = true := onSide_storesOk h
    extract_lets +onlyGivenNames s2
    have hs2 : s2.storesOk = true := ite_storesOk (writeBand_storesOk hs1) hs1
    exact ite_storesOk (completeImage_storesOk hs2) hs2

theorem selectPicture_storesOk {k n} (h : s.storesOk = true) : (s.selectPicture k n).storesOk = true := by
  unfold State.selectPicture
  split
  · exact h
  · extract_lets +onlyGivenNames ref st s1
    have hs1 : s1.storesOk = true := by
      unfold s1
      split
      · exact addStatus_storesOk h
      · extract_lets +onlyGivenNames image s2
        have hs2 : s2.storesOk = true := onSide_storesOk h
        exact ite_storesOk (countStream_storesOk (addStatus_storesOk hs2)) hs2
    exact onSide_storesOk hs1

theorem fuseSide_storesOk {k} (h : s.storesOk = true) : (s.fuseSide k).storesOk = true := by
  unfold State.fuseSide
  split
  · exact h
  · exact ite_storesOk h (foldl_storesOk (fun _ _ h => ite_storesOk (selectPicture_storesOk h) h) h)

theorem takeLine_storesOk {n illum xs} (h : s.storesOk = true) : (s.takeLine n illum xs).storesOk = true :=
  countLine_storesOk (ite_storesOk (onPort_storesOk h) h)

theorem calLine_storesOk {phase line x} (h : s.storesOk = true) : (s.calLine phase line x).storesOk = true := by
  unfold State.calLine
  split
  · exact onPort_storesOk (takeLine_storesOk h)

theorem dropSheet_storesOk {t} (h : s.storesOk = true) : (s.dropSheet t).storesOk = true :=
  spoolSettle_storesOk (onTransport_storesOk (foldl_storesOk (fun _ _ h => freeFrames_storesOk h) h))

theorem beginCapture_storesOk {t} (h : s.storesOk = true) : (s.beginCapture t).storesOk = true := by
  unfold State.beginCapture
  extract_lets +onlyGivenNames s1
  have hs1 : s1.storesOk = true := onTransport_storesOk h
  refine foldl_storesOk (fun _ n h => ?_) hs1
  extract_lets +onlyGivenNames p on s2
  have hs2 : s2.storesOk = true := ite_storesOk (markSheet_storesOk h) h
  extract_lets +onlyGivenNames s3
  have hs3 : s3.storesOk = true := ite_storesOk (markSheet_storesOk hs2) hs2
  extract_lets +onlyGivenNames s4
  have hs4 : s4.storesOk = true := ite_storesOk (markSheet_storesOk hs3) hs3
  exact ite_storesOk (markSheet_storesOk hs4) hs4

theorem endCal_storesOk {t sheet} (h : s.storesOk = true) : (s.endCal t sheet).storesOk = true := by
  unfold State.endCal
  extract_lets +onlyGivenNames s1
  have hs1 : s1.storesOk = true := foldl_storesOk (fun _ _ h => judgeCal_storesOk h) h
  extract_lets +onlyGivenNames due s2
  have hs2 : s2.storesOk = true := onTransport_storesOk hs1
  exact ite_storesOk (onTransport_storesOk hs2)
    (ite_storesOk (beginCapture_storesOk hs2) (dropSheet_storesOk hs2))

theorem sideLine_storesOk {k key} (h : s.storesOk = true) : (s.sideLine k key).storesOk = true := by
  unfold State.sideLine
  split
  · exact h
  · extract_lets +onlyGivenNames d delay
    split
    · exact h
    · extract_lets +onlyGivenNames s1
      have hs1 : s1.storesOk = true := assembleLine_storesOk h
      extract_lets +onlyGivenNames s2
      have hs2 : s2.storesOk = true := by
        unfold s2
        split
        · split
          · exact chooseSkew_storesOk hs1
          · exact hs1
        · exact hs1
      extract_lets +onlyGivenNames s3 s4
      have hs3 : s3.storesOk = true := onTransport_storesOk hs2
      have hs4 : s4.storesOk = true := ite_storesOk (fuseSide_storesOk (onSide_storesOk hs3)) hs2
      exact ite_storesOk (emitLine_storesOk hs4) hs4

theorem captureLine_storesOk {t k input} (h : s.storesOk = true) : (s.captureLine t k input).storesOk = true :=
  foldl_storesOk (fun _ _ h => sideLine_storesOk h)
    (foldl_storesOk (fun _ _ h => markSheet_storesOk h)
      (onTransport_storesOk (foldl_storesOk (fun _ _ h => takeLine_storesOk h) h)))

theorem abortSide_storesOk {t cover mask key} (h : s.storesOk = true) :
    (s.abortSide t cover mask key).storesOk = true := by
  unfold State.abortSide
  split
  · exact h
  · split
    · exact h
    · extract_lets +onlyGivenNames s1
      have hs1 : s1.storesOk = true := ite_storesOk (addStatus_storesOk h) h
      exact freeFrames_storesOk (onSide_storesOk
        (onTransport_storesOk (ite_storesOk (addStatus_storesOk hs1) hs1)))

theorem interrupt_storesOk {t} (h : s.storesOk = true) : (s.interrupt t).storesOk = true := by
  unfold State.interrupt
  extract_lets +onlyGivenNames x mask
  split
  · exact h
  · split
    · exact h
    · exact h
    · exact ite_storesOk (onTransport_storesOk h) (onTransport_storesOk h)
    · exact onTransport_storesOk (foldl_storesOk (fun _ _ h => abortSide_storesOk h) h)

theorem settleOutputs_storesOk {t was} (h : s.storesOk = true) : (s.settleOutputs t was).storesOk = true :=
  onTransport_storesOk (foldl_storesOk (fun _ _ h => onPort_storesOk h) h)

theorem lineBoundary_storesOk {t paper samples} (h : s.storesOk = true) :
    (s.lineBoundary t paper samples).storesOk = true := by
  unfold State.lineBoundary
  extract_lets +onlyGivenNames s1
  have hs1 : s1.storesOk = true := onTransport_storesOk h
  extract_lets +onlyGivenNames was input s2
  have hs2 : s2.storesOk = true := by
    unfold s2
    clear_value was
    split
    · exact hs1
    · exact hs1
    · exact foldl_storesOk (fun _ _ h => calLine_storesOk h) hs1
    · extract_lets +onlyGivenNames s2
      have hs2 : s2.storesOk = true := captureLine_storesOk hs1
      exact ite_storesOk (onTransport_storesOk hs2) (onTransport_storesOk hs2)
  extract_lets +onlyGivenNames s3
  have hs3 : s3.storesOk = true := settleHolds_storesOk (interrupt_storesOk (settleHolds_storesOk hs2))
  extract_lets +onlyGivenNames s4
  have hs4 : s4.storesOk = true := by
    unfold s4
    clear_value was
    split
    · split
      · exact onTransport_storesOk hs3
      · split
        · exact onTransport_storesOk hs3
        · exact endCal_storesOk hs3
    · exact ite_storesOk hs3 (beginCal_storesOk hs3)
    · exact hs3
  exact settlePins_storesOk (settleOutputs_storesOk
    (onTransport_storesOk (ite_storesOk hs4 (gapBoundary_storesOk hs4))))

theorem flushEffect_storesOk {k} (h : s.storesOk = true) : (flushEffect k s).storesOk = true := by
  unfold flushEffect
  split
  · exact h
  · exact ite_storesOk (emitLine_storesOk h) h

theorem refusePort_storesOk {n} (h : s.storesOk = true) : (s.refusePort n).storesOk = true := onPort_storesOk h

/-! ### `Machine/Cart.lean` -/

theorem onCartridge_storesOk {n f} (h : s.storesOk = true) : (s.onCartridge n f).storesOk = true :=
  onPort_storesOk h

theorem readDescriptor_storesOk {n d counters} (h : s.storesOk = true) :
    (s.readDescriptor n d counters).storesOk = true := by
  unfold State.readDescriptor
  extract_lets +onlyGivenNames serial p same i isNew blank e
  split
  · extract_lets +onlyGivenNames lines illum s1
    have hs1 : s1.storesOk = true := onCart_storesOk h
    extract_lets +onlyGivenNames store s2
    have hs2 : s2.storesOk = true := ite_storesOk hs1 hs1
    extract_lets +onlyGivenNames s3
    have hs3 : s3.storesOk = true := onPort_storesOk hs2
    exact settleWear_storesOk (ite_storesOk (sendCounters_storesOk hs3) hs3)

theorem logAuth_storesOk {n r descr} (h : s.storesOk = true) : (s.logAuth n r descr).storesOk = true :=
  log_storesOk h

theorem takeResult_storesOk {n r} (h : s.storesOk = true) : (s.takeResult n r).storesOk = true :=
  onCartridge_storesOk h

theorem runAuth_storesOk {n x} (h : s.storesOk = true) : (s.runAuth n x).storesOk = true := by
  unfold State.runAuth
  extract_lets +onlyGivenNames c
  split
  · exact takeResult_storesOk (logAuth_storesOk h)
  · extract_lets +onlyGivenNames key nonce f r s1
    have hs1 : s1.storesOk = true := onCartridge_storesOk h
    extract_lets +onlyGivenNames s2
    have hs2 : s2.storesOk = true := hs1
    extract_lets +onlyGivenNames s3
    have hs3 : s3.storesOk = true := by
      unfold s3
      split
      · exact readDescriptor_storesOk hs2
      · exact hs2
    exact takeResult_storesOk (logAuth_storesOk hs3)

theorem releaseCart_storesOk {n} (h : s.storesOk = true) : (s.releaseCart n).storesOk = true :=
  settlePins_storesOk (setHold_storesOk h)

theorem startAuth_storesOk {n} (h : s.storesOk = true) : (s.startAuth n).storesOk = true :=
  onCartridge_storesOk h

theorem removalEffect_storesOk {n} (h : s.storesOk = true) : (removalEffect n s).storesOk = true := by
  unfold removalEffect
  extract_lets +onlyGivenNames p
  split
  · exact h
  · extract_lets +onlyGivenNames known s1
    have hs1 : s1.storesOk = true := onCartridge_storesOk (saveCart_storesOk h)
    extract_lets +onlyGivenNames s2
    have hs2 : s2.storesOk = true := ite_storesOk (onTransport_storesOk hs1) hs1
    exact ite_storesOk (commitStore_storesOk hs2) hs2

theorem openCover_storesOk {c} (h : s.storesOk = true) : (s.openCover c).storesOk = true := by
  unfold State.openCover
  extract_lets +onlyGivenNames tr s1
  have hs1 : s1.storesOk = true := onTransport_storesOk h
  extract_lets +onlyGivenNames s2
  have hs2 : s2.storesOk = true := foldl_storesOk (fun _ _ h => sendCounters_storesOk (saveCart_storesOk h)) hs1
  exact ite_storesOk (commitStore_storesOk hs2) hs2

theorem closeCover_storesOk {c} (h : s.storesOk = true) : (s.closeCover c).storesOk = true :=
  foldl_storesOk (fun _ _ h => startAuth_storesOk h) h

theorem coverEffect_storesOk {c closed} (h : s.storesOk = true) : (coverEffect c closed s).storesOk = true :=
  ite_storesOk h (ite_storesOk h (ite_storesOk (closeCover_storesOk h) (openCover_storesOk h)))

/-! ### `Machine/Mem.lean` -/

theorem refillBandwidth_storesOk {c} (h : s.storesOk = true) : (s.refillBandwidth c).storesOk = true := by
  unfold State.refillBandwidth
  split
  · exact withMem_storesOk ((Memory.setTokens_wf ..).trans (mem_wf_of_storesOk h)) h
  · exact h

theorem takeToken_storesOk {c} (h : s.storesOk = true) : (s.takeToken c).storesOk = true :=
  ite_storesOk (withMem_storesOk ((Memory.setTokens_wf ..).trans (mem_wf_of_storesOk h)) h) h

theorem startRecovery_storesOk {l} (h : s.storesOk = true) : (s.startRecovery l).storesOk = true := by
  unfold State.startRecovery
  extract_lets +onlyGivenNames s1
  have hs1 : s1.storesOk = true := countChannel_storesOk h
  exact hs1

theorem readLine_storesOk {l d} (h : s.storesOk = true) : (s.readLine l d).storesOk = true := by
  unfold State.readLine
  split
  · exact answer_storesOk h
  · split
    · exact answer_storesOk h
    · extract_lets +onlyGivenNames s1
      have hs1 : s1.storesOk = true := noteRead_storesOk h
      exact ite_storesOk (answer_storesOk hs1)
        (ite_storesOk (answer_storesOk hs1) (answer_storesOk (startRecovery_storesOk hs1)))

theorem faultScratch_storesOk {p e} (h : s.storesOk = true) : (s.faultScratch p e).storesOk = true :=
  onStep_storesOk h

theorem remapVerified_storesOk {e o} (h : s.storesOk = true) : (s.remapVerified e o).storesOk = true := by
  unfold State.remapVerified
  extract_lets +onlyGivenNames s1
  have hs1 : s1.storesOk = true := remapAccess_storesOk h
  exact ite_storesOk (askDomain_storesOk (fence_storesOk hs1)) hs1

theorem freshSram_storesOk {u o len} (h : s.storesOk = true) :
    ({ s with mem := s.mem.rewritten u o len } : State).storesOk = true := h

theorem repairSram_storesOk {u o len content verify copy} (h : s.storesOk = true) :
    (s.repairSram u o len content verify copy).storesOk = true := by
  unfold State.repairSram
  cases content with
  | weights e =>
    exact ite_storesOk (freshSram_storesOk (reloadAccess_storesOk h))
      (remapVerified_storesOk (freshSram_storesOk (reloadAccess_storesOk h)))
  | scratch e =>
    have hs : (match s.engines[e].part with
        | some p => s.faultScratch p e
        | none => s).storesOk = true := by
      split
      · exact faultScratch_storesOk h
      · exact h
    exact ite_storesOk hs (remapVerified_storesOk hs)
  | arenaScratch p => exact faultScratch_storesOk h
  | shadow p => exact ite_storesOk (onPart_storesOk h) h
  | context id =>
    dsimp only
    split
    · exact ite_storesOk (freshSram_storesOk h) (restartSide_storesOk (freshSram_storesOk h))
    · exact freshSram_storesOk h
  | checkLine _ _ => exact freshSram_storesOk (ite_storesOk h (countChip_storesOk h))
  | validByte half => exact ite_storesOk h (freshSram_storesOk h)
  | remapEntry r =>
    extract_lets +onlyGivenNames a s1
    have hs1 : s1.storesOk = true := freshSram_storesOk h
    exact ite_storesOk hs1 hs1
  | rein r => exact reinFault_storesOk (freshSram_storesOk h)
  | unused => exact freshSram_storesOk h

theorem sramBytes_storesOk {st o len} (h : s.storesOk = true) : (s.sramBytes st o len).1.storesOk = true :=
  ite_fst_storesOk h (ite_fst_storesOk h h)

theorem readSram_storesOk {st u o} (h : s.storesOk = true) : (s.readSram st u o).storesOk = true := by
  unfold State.readSram
  split
  · split
    next _ _ e => exact answer_storesOk (fst_storesOk (sramBytes_storesOk h) e)
  · extract_lets +onlyGivenNames kinds s1
    have hs1 : s1.storesOk = true := foldl_storesOk (fun _ _ h => repairSram_storesOk h) (countChip_storesOk h)
    extract_lets +onlyGivenNames lost
    split
    · exact answer_storesOk hs1
    · split
      next _ _ e => exact answer_storesOk (fst_storesOk (sramBytes_storesOk hs1) e)

theorem serveRead_storesOk {a d} (h : s.storesOk = true) : (s.serveRead a d).storesOk = true := by
  unfold State.serveRead
  extract_lets +onlyGivenNames l
  split
  · exact answer_storesOk h
  · exact readLine_storesOk h
  · exact ite_storesOk (answer_storesOk h) (readSram_storesOk h)
  · exact readSram_storesOk h

theorem waitWrite_storesOk {a data} (h : s.storesOk = true) : (s.waitWrite a data).storesOk = true := h

theorem settleWaiting_storesOk {l} (h : s.storesOk = true) : (s.settleWaiting l).storesOk = true := by
  unfold State.settleWaiting
  split
  · exact foldl_storesOk (fun _ _ h => ite_storesOk h (mainPut_storesOk h)) h

theorem serveWrite_storesOk {a data d} (h : s.storesOk = true) : (s.serveWrite a data d).storesOk = true := by
  unfold State.serveWrite
  split
  · exact answer_storesOk h
  · extract_lets +onlyGivenNames l
    split
    · exact answer_storesOk (waitWrite_storesOk h)
    · split
      · exact answer_storesOk (waitWrite_storesOk (startRecovery_storesOk h))
      · split
        next _ e => exact answer_storesOk (fst_storesOk (mainWrite_storesOk _ _ _ h) e)
        next _ e1 => exact answer_storesOk (fst_storesOk (mainWrite_storesOk _ _ _ h) e1)
  · exact ite_storesOk (answer_storesOk h) (answer_storesOk (arenaWrite_storesOk h))
  · exact answer_storesOk (paddockWrite_storesOk h)

theorem slotRequest_storesOk {e i a data} {serve : State → State}
    (hserve : ∀ x : State, x.storesOk = true → (serve x).storesOk = true) (h : s.storesOk = true) :
    (s.slotRequest e i a data serve).storesOk = true := by
  unfold State.slotRequest
  split
  · exact hserve _ h
  · extract_lets +onlyGivenNames faults
    split
    · exact answer_storesOk (faultCommand_storesOk h)
    · exact answer_storesOk (onChannel_storesOk h)

theorem slotEffect_storesOk {ch frame slot d} (h : s.storesOk = true) :
    (slotEffect ch frame slot d s).storesOk = true := by
  unfold slotEffect
  split
  · exact h
  · extract_lets +onlyGivenNames code
    split
    · split
      · exact serveRead_storesOk (onChannel_storesOk h)
      · exact h
    · split
      · split
        · exact serveWrite_storesOk (onChannel_storesOk h)
        · exact h
      · exact h

theorem remapLine_storesOk {l} (h : s.storesOk = true) : (s.remapLine l).storesOk = true := by
  unfold State.remapLine
  extract_lets +onlyGivenNames p
  split
  · exact log_storesOk (countChip_storesOk h)

theorem loseSpool_storesOk {l} (h : s.storesOk = true) : (s.loseSpool l).storesOk = true := h

theorem loseMasters_storesOk {p l} (h : s.storesOk = true) : (s.loseMasters p l).storesOk = true := by
  unfold State.loseMasters
  extract_lets +onlyGivenNames lost
  split
  · exact h
  · extract_lets +onlyGivenNames s1
    have hs1 : s1.storesOk = true := onPart_storesOk h
    extract_lets +onlyGivenNames s2
    have hs2 : s2.storesOk = true := by
      unfold s2
      split
      · exact startAdapters_storesOk hs1
      · exact hs1
    exact foldl_storesOk (fun _ _ h => log_storesOk h) hs2

theorem poisonLine_storesOk {l} (h : s.storesOk = true) : (s.poisonLine l).storesOk = true := by
  unfold State.poisonLine
  have hp : ({ s with mem := s.mem.poison l } : State).storesOk = true := h
  exact foldl_storesOk (fun _ _ h => loseMasters_storesOk h)
    (loseSpool_storesOk (log_storesOk (countChannel_storesOk hp)))

theorem noteLineEvent_storesOk (h : s.storesOk = true) : s.noteLineEvent.storesOk = true :=
  ite_storesOk h (recoveryAll_storesOk h)

theorem recoverLine_storesOk {addr refetches source verifyOk} (h : s.storesOk = true) :
    (recoverLine addr refetches source verifyOk s).storesOk = true := by
  unfold recoverLine
  extract_lets +onlyGivenNames l c m s1
  have hs1 : s1.storesOk = true := h
  split
  · exact answer_storesOk (noteLineEvent_storesOk (countChannel_storesOk hs1))
  · split
    · extract_lets +onlyGivenNames data s2
      have hs2 : s2.storesOk = true := withMem_storesOk (Memory.put_wf _ _ _ (mem_wf_of_storesOk hs1)) hs1
      extract_lets +onlyGivenNames s3
      have hs3 : s3.storesOk = true := noteLineEvent_storesOk (countChip_storesOk (countChannel_storesOk hs2))
      exact ite_storesOk (answer_storesOk hs3)
        (ite_storesOk (answer_storesOk (ite_storesOk hs3 (remapLine_storesOk hs3)))
        (answer_storesOk (log_storesOk (poisonLine_storesOk hs3))))
    · exact answer_storesOk (poisonLine_storesOk (noteLineEvent_storesOk hs1))

theorem recoveryEffect_storesOk {addr refetches source verifyOk} (h : s.storesOk = true) :
    (recoveryEffect addr refetches source verifyOk s).storesOk = true :=
  ite_storesOk (settleWaiting_storesOk (recoverLine_storesOk h)) h

theorem mr4Effect_storesOk {ch codes} (h : s.storesOk = true) : (mr4Effect ch codes s).storesOk = true := by
  unfold mr4Effect
  extract_lets +onlyGivenNames worst
  split
  · exact h
  · extract_lets +onlyGivenNames s1
    have hs1 : s1.storesOk = true := onChannel_storesOk h
    exact ite_storesOk (log_storesOk hs1) hs1

theorem endPass_storesOk (h : s.storesOk = true) : s.endPass.storesOk = true := countChip_storesOk h

theorem withScrubNext_storesOk {n} (h : s.storesOk = true) :
    ({ s with mem := { s.mem with scrubNext := n } } : State).storesOk = true :=
  h

theorem scrubCheck_storesOk {k d} (h : s.storesOk = true) : (s.scrubCheck k d).storesOk = true := by
  unfold State.scrubCheck
  extract_lets +onlyGivenNames c seen s1
  have hs1 : s1.storesOk = true := countChannel_storesOk h
  extract_lets +onlyGivenNames s2 m s3
  have hs2 : s2.storesOk = true := ite_storesOk hs1 (countChip_storesOk hs1)
  have hs3 : s3.storesOk = true := withScrubNext_storesOk hs2
  exact ite_storesOk (endPass_storesOk hs3) hs3

theorem currycombEffect_storesOk {d} (h : s.storesOk = true) : (currycombEffect d s).storesOk = true := by
  unfold currycombEffect
  extract_lets +onlyGivenNames m
  split
  · exact h
  · split
    · exact scrubCheck_storesOk h
    · split
      · exact scrubCheck_storesOk h
      · exact ite_storesOk h (readLine_storesOk (countChannel_storesOk h))

theorem sramEffect_storesOk {u x} (h : s.storesOk = true) : (sramEffect u x s).storesOk = true := by
  unfold sramEffect
  split
  · exact h
  · extract_lets +onlyGivenNames o len s1
    have hs1 : s1.storesOk = true := foldl_storesOk (fun _ _ h => ite_storesOk (flipSram_storesOk h) h) h
    extract_lets +onlyGivenNames s2
    have hs2 : s2.storesOk = true := hs1
    split
    · exact hs2
    · split
      · exact countChip_storesOk hs2
      · exact foldl_storesOk (fun _ _ h => repairSram_storesOk h) (countChip_storesOk hs2)

theorem shadowReloadEffect_storesOk {p} (h : s.storesOk = true) : (shadowReloadEffect p s).storesOk = true := by
  unfold shadowReloadEffect
  split
  · extract_lets +onlyGivenNames m s1
    have hm : m.wf = true := by
      have hw := mem_wf_of_storesOk h
      unfold m
      split <;> exact hw
    have hs1 : s1.storesOk = true := withMem_storesOk
      (m := { m with reloading := m.reloading.filter fun q => q != p }) hm h
    exact ite_storesOk (onPart_storesOk hs1) hs1
  · exact h

/-! ### `Machine/Streams.lean` -/

theorem endUnit_storesOk {e v} (h : s.storesOk = true) : (s.endUnit e v).storesOk = true :=
  ite_storesOk h (onStream_storesOk h)

theorem enterUnit_storesOk {e} (h : s.storesOk = true) : (s.enterUnit e).storesOk = true :=
  ite_storesOk h (onStream_storesOk h)

theorem fuseStream_storesOk {n} (h : s.storesOk = true) : (s.fuseStream n).storesOk = true :=
  foldl_storesOk (fun _ _ h => fuseSide_storesOk h) h

theorem prunePictures_storesOk {n} (h : s.storesOk = true) : (s.prunePictures n).storesOk = true :=
  onStream_storesOk h

theorem closeUnit_storesOk {n e decoded} (h : s.storesOk = true) : (s.closeUnit n e decoded).storesOk = true :=
  prunePictures_storesOk (onStream_storesOk (fuseStream_storesOk (endUnit_storesOk h)))

theorem loseUnit_storesOk {n e} (h : s.storesOk = true) : (s.loseUnit n e).storesOk = true :=
  closeUnit_storesOk (onStream_storesOk (countStream_storesOk h))

theorem passLost_storesOk {n fuel} (h : s.storesOk = true) : (s.passLost n fuel).storesOk = true := by
  induction fuel generalizing s with
  | zero => exact h
  | succ fuel ih =>
    unfold State.passLost
    split
    · exact h
    · exact ite_storesOk (ih (loseUnit_storesOk (onStream_storesOk h))) h

theorem settleLost_storesOk {n} (h : s.storesOk = true) : (s.settleLost n).storesOk = true :=
  ite_storesOk (passLost_storesOk h) h

/-! ### `Machine/Verbs.lean` -/

theorem onBox_storesOk {f} (h : s.storesOk = true) : (s.onBox f).storesOk = true := h

theorem startVerb_storesOk {seq} {run : State → State}
    (hrun : ∀ x : State, x.storesOk = true → (run x).storesOk = true) (h : s.storesOk = true) :
    (s.startVerb seq run).storesOk = true := by
  unfold State.startVerb
  exact ite_storesOk h (ite_storesOk h (hrun _ (onBox_storesOk h)))

theorem failVerb_storesOk {code} (h : s.storesOk = true) : (s.failVerb code).storesOk = true :=
  decide_storesOk h

theorem setPauses_storesOk {v parts f} (h : s.storesOk = true) : (s.setPauses v parts f).storesOk = true :=
  onBox_storesOk (foldl_storesOk (fun _ _ h => onPart_storesOk h) h)

theorem pauseVerb_storesOk (h : s.storesOk = true) : (pauseVerb s).storesOk = true :=
  ite_storesOk (failVerb_storesOk h) (ite_storesOk (failVerb_storesOk h) (setPauses_storesOk h))

theorem resumeVerb_storesOk (h : s.storesOk = true) : (resumeVerb s).storesOk = true :=
  ite_storesOk (failVerb_storesOk h) (setPauses_storesOk h)

theorem selectVerb_storesOk (h : s.storesOk = true) : (selectVerb s).storesOk = true := by
  unfold selectVerb
  extract_lets +onlyGivenNames n
  split
  · exact failVerb_storesOk h
  · split
    · exact failVerb_storesOk h
    · split
      · exact decide_storesOk h
      · split
        next _ _ e => exact failVerb_storesOk (fst_storesOk (selectPlan_storesOk h) e)
        next _ e1 => exact onBox_storesOk (fst_storesOk (selectPlan_storesOk h) e1)

theorem failStage_storesOk {slot code} (h : s.storesOk = true) : (s.failStage slot code).storesOk = true :=
  failVerb_storesOk (log_storesOk h)

theorem writeRecipe_storesOk {slot copy image} (h : s.storesOk = true) :
    (s.writeRecipe slot copy image).storesOk = true :=
  queueNor_storesOk (queueNor_storesOk (queueNor_storesOk h))

theorem rejectStage_storesOk {slot code parts} (h : s.storesOk = true) :
    (s.rejectStage slot code parts).storesOk = true :=
  failStage_storesOk (foldl_storesOk (fun _ _ h => rejectPart_storesOk h) h)

theorem stageBind_storesOk {slot r} (h : s.storesOk = true) : (s.stageBind slot r).storesOk = true := by
  unfold State.stageBind
  extract_lets +onlyGivenNames users place
  split
  · exact rejectStage_storesOk h
  next s3 e2 =>
    have hs3 : s3.storesOk = true := by
      refine fst_storesOk ?_ e2
      refine foldl_fst_storesOk (fun _ p h => ?_) h
      unfold place
      split
      next _ e => exact fst_storesOk (placeRecipe_storesOk h) e
      next _ e1 => exact fst_storesOk (placeRecipe_storesOk h) e1
    extract_lets +onlyGivenNames s4
    have hs4 : s4.storesOk = true := onSlot_storesOk hs3
    exact ite_storesOk (settleSlot_storesOk hs4) (foldl_storesOk (fun _ _ h => askBind_storesOk h) hs4)

theorem stageImage_storesOk {slot nor image} (h : s.storesOk = true) :
    (s.stageImage slot nor image).storesOk = true := by
  unfold State.stageImage
  extract_lets +onlyGivenNames x copy
  split
  · exact failStage_storesOk h
  · extract_lets +onlyGivenNames r old
    split
    · exact failStage_storesOk h
    · split
      · exact failStage_storesOk h
      · extract_lets +onlyGivenNames s1
        have hs1 : s1.storesOk = true := ite_storesOk (writeRecipe_storesOk h) (mainPut_storesOk h)
        split
        · exact rejectStage_storesOk hs1
        · exact stageBind_storesOk hs1

theorem stageVerb_storesOk {image} (h : s.storesOk = true) : (stageVerb image s).storesOk = true := by
  unfold stageVerb
  extract_lets +onlyGivenNames bytes slot nor room s1
  have hs1 : s1.storesOk = true := onBox_storesOk h
  split
  · exact failStage_storesOk hs1
  · split
    · exact failStage_storesOk hs1
    · split
      · exact failStage_storesOk hs1
      · split
        · exact failStage_storesOk hs1
        · exact stageImage_storesOk hs1

theorem rejectOverlay_storesOk {p slot o code} (h : s.storesOk = true) :
    (s.rejectOverlay p slot o code).storesOk = true :=
  failVerb_storesOk (logOverlay_storesOk h)

theorem bindOverlay_storesOk {slot v} (h : s.storesOk = true) : (s.bindOverlay slot v).storesOk = true := by
  unfold State.bindOverlay
  extract_lets +onlyGivenNames users s1
  have hs1 : s1.storesOk = true := onSlot_storesOk h
  exact ite_storesOk (settleSlot_storesOk hs1) (foldl_storesOk (fun _ _ h => askBind_storesOk h) hs1)

theorem activate_storesOk {p train a oslot} (h : s.storesOk = true) :
    (s.activate p train a oslot).storesOk = true := by
  unfold State.activate
  split
  · exact rejectOverlay_storesOk h
  · split
    · extract_lets +onlyGivenNames same
      split
      · exact rejectOverlay_storesOk h
      · split
        · exact rejectOverlay_storesOk h
        · exact ite_storesOk (rejectOverlay_storesOk h)
            (bindOverlay_storesOk (writeOverlay_storesOk (onBox_storesOk h)))

theorem activateNow_storesOk {p n oslot} (h : s.storesOk = true) :
    (s.activateNow p n oslot).storesOk = true := by
  unfold State.activateNow
  split
  · exact activate_storesOk h
  · exact failVerb_storesOk h

theorem activateVerb_storesOk (h : s.storesOk = true) : (activateVerb s).storesOk = true :=
  ite_storesOk (failVerb_storesOk h) (ite_storesOk (failVerb_storesOk h)
    (ite_storesOk (onBox_storesOk h) (activateNow_storesOk h)))

theorem settleOverlay_storesOk (h : s.storesOk = true) : s.settleOverlay.storesOk = true := by
  unfold State.settleOverlay
  split
  · exact ite_storesOk h (activateNow_storesOk (onBox_storesOk h))
  · exact h

theorem verbCompleteEffect_storesOk (h : s.storesOk = true) : (verbCompleteEffect s).storesOk = true := by
  unfold verbCompleteEffect
  extract_lets +onlyGivenNames s1
  have hs1 : s1.storesOk = true := settleOverlay_storesOk h
  split
  · exact ite_storesOk (onBox_storesOk hs1) (signal_storesOk _ _ (onBox_storesOk hs1))
  · exact hs1

theorem deactivateVerb_storesOk (h : s.storesOk = true) : (deactivateVerb s).storesOk = true := by
  unfold deactivateVerb
  extract_lets +onlyGivenNames slot
  split
  · exact failVerb_storesOk h
  · split
    · split
      · split
        · exact bindOverlay_storesOk (writeOverlay_storesOk (onBox_storesOk h))
    · exact decide_storesOk h

theorem attestVerb_storesOk (h : s.storesOk = true) : (attestVerb s).storesOk = true := by
  unfold attestVerb
  extract_lets +onlyGivenNames bytes
  split
  · exact failVerb_storesOk h
  · split
    · exact failVerb_storesOk h
    · extract_lets +onlyGivenNames s1
      have hs1 : s1.storesOk = true := notePower_storesOk h
      exact ite_storesOk (failVerb_storesOk hs1)
        (decide_storesOk (log_storesOk (hostWrite_storesOk _ _ _ (onBox_storesOk hs1))))

/-! ### `Machine/Rings.lean` -/

theorem onIn_storesOk {f} (h : s.storesOk = true) : (s.onIn f).storesOk = true := h

theorem settleVersion_storesOk (h : s.storesOk = true) : s.settleVersion.storesOk = true := h

theorem inEnableEffect_storesOk (h : s.storesOk = true) : (inEnableEffect s).storesOk = true := by
  unfold inEnableEffect
  split
  · exact h
  · extract_lets +onlyGivenNames s1
    have hs1 : s1.storesOk = true := settleVersion_storesOk h
    split
    · exact onIn_storesOk hs1
    · extract_lets +onlyGivenNames s2
      have hs2 : s2.storesOk = true := onIn_storesOk hs1
      exact hs2

theorem inDisableEffect_storesOk (h : s.storesOk = true) : (inDisableEffect s).storesOk = true :=
  ite_storesOk (onIn_storesOk h) h

theorem outEnableEffect_storesOk {p coalRecords coalUs} (h : s.storesOk = true) :
    (outEnableEffect p coalRecords coalUs s).storesOk = true :=
  ite_storesOk h (settleRing_storesOk (onOut_storesOk (settleVersion_storesOk (onOut_storesOk h))))

theorem outDisableEffect_storesOk {p} (h : s.storesOk = true) : (outDisableEffect p s).storesOk = true :=
  ite_storesOk (settleRing_storesOk (onOut_storesOk h)) h

theorem fetchMore_storesOk (h : s.storesOk = true) : s.fetchMore.storesOk = true :=
  ite_storesOk (onIn_storesOk h) h

theorem writeCons_storesOk (h : s.storesOk = true) : s.writeCons.storesOk = true :=
  ite_storesOk (signal_storesOk _ _ (onIn_storesOk (hostWrite_storesOk _ _ _ h))) h

theorem pollEffect_storesOk {producer} (h : s.storesOk = true) : (pollEffect producer s).storesOk = true := by
  unfold pollEffect
  extract_lets +onlyGivenNames s1
  have hs1 : s1.storesOk = true := writeCons_storesOk h
  exact ite_storesOk hs1 (ite_storesOk (countChip_storesOk hs1) (fetchMore_storesOk (onIn_storesOk hs1)))

theorem advanceCons_storesOk (h : s.storesOk = true) : s.advanceCons.storesOk = true :=
  ite_storesOk h (onIn_storesOk h)

theorem rejectEntry_storesOk {stream reason index} (h : s.storesOk = true) :
    (s.rejectEntry stream reason index).storesOk = true :=
  log_storesOk (countChip_storesOk h)

theorem checkEntry_storesOk {index x} (h : s.storesOk = true) : (s.checkEntry index x).storesOk = true := by
  unfold State.checkEntry
  extract_lets +onlyGivenNames b e s1
  have hs1 : s1.storesOk = true := countChip_storesOk h
  split
  · exact rejectEntry_storesOk hs1
  · split
    · exact rejectEntry_storesOk hs1
    · exact onIn_storesOk hs1

theorem fetchFailed_storesOk (h : s.storesOk = true) : s.fetchFailed.storesOk = true := by
  unfold State.fetchFailed
  extract_lets +onlyGivenNames s1
  have hs1 : s1.storesOk = true := onIn_storesOk h
  split
  · exact hs1
  · extract_lets +onlyGivenNames s2
    have hs2 : s2.storesOk = true := onIn_storesOk hs1
    exact hs2

theorem fetchDoneEffect_storesOk {entries} (h : s.storesOk = true) :
    (fetchDoneEffect entries s).storesOk = true := by
  unfold fetchDoneEffect
  extract_lets +onlyGivenNames r
  split
  · exact h
  · split
    · exact fetchFailed_storesOk h
    · exact fetchMore_storesOk (advanceCons_storesOk
        (foldl_storesOk (fun _ _ h => checkEntry_storesOk h) (onIn_storesOk h)))

theorem observe_storesOk {e rest} (h : s.storesOk = true) : (s.observe e rest).storesOk = true := by
  unfold State.observe
  extract_lets +onlyGivenNames need k p fresh x st s1
  have hs1 : s1.storesOk = true := onIn_storesOk (reserveSpool_storesOk h)
  exact enterUnit_storesOk hs1

theorem releaseStage_storesOk {k n} (h : s.storesOk = true) : (s.releaseStage k n).storesOk = true := by
  unfold State.releaseStage
  split
  · exact h
  · exact onSide_storesOk (freeStage_storesOk h)

theorem hostFetchLost_storesOk {k detail} (h : s.storesOk = true) :
    (s.hostFetchLost k detail).storesOk = true :=
  countChip_storesOk (onSide_storesOk (addStatus_storesOk (releaseStage_storesOk h)))

theorem stageDone_storesOk {x rest payload truth} (h : s.storesOk = true) :
    (s.stageDone x rest payload truth).storesOk = true :=
  advanceCons_storesOk (onStream_storesOk
    (onSide_storesOk (onIn_storesOk (mainPut_storesOk (mainPut_storesOk h)))))

theorem stageLost_storesOk {x rest detail} (h : s.storesOk = true) :
    (s.stageLost x rest detail).storesOk = true := by
  unfold State.stageLost
  extract_lets +onlyGivenNames n s1
  have hs1 : s1.storesOk = true := hostFetchLost_storesOk (onIn_storesOk h)
  exact advanceCons_storesOk (ite_storesOk (settleLost_storesOk (onStream_storesOk hs1)) hs1)

theorem flushStaging_storesOk {fuel} (h : s.storesOk = true) : (s.flushStaging fuel).storesOk = true := by
  induction fuel generalizing s with
  | zero => exact h
  | succ fuel ih =>
    unfold State.flushStaging
    split
    · exact h
    · exact ite_storesOk (ih (stageLost_storesOk h)) (ite_storesOk (ih (stageDone_storesOk h)) h)

theorem settleStaging_storesOk (h : s.storesOk = true) : s.settleStaging.storesOk = true :=
  flushStaging_storesOk h

theorem observeEffect_storesOk (h : s.storesOk = true) : (observeEffect s).storesOk = true := by
  unfold observeEffect
  split
  · exact h
  · exact ite_storesOk (spoolEnterHigh_storesOk h)
      (ite_storesOk h (settleStaging_storesOk (observe_storesOk h)))

theorem stagedEffect_storesOk {payload truth} (h : s.storesOk = true) :
    (stagedEffect payload truth s).storesOk = true := by
  unfold stagedEffect
  split
  · exact h
  · extract_lets +onlyGivenNames e p q
    refine settleStaging_storesOk ?_
    clear_value q
    clear_value p
    split
    · exact stageDone_storesOk h
    · exact stageLost_storesOk h
    · exact stageLost_storesOk h

theorem clearInterface_storesOk (h : s.storesOk = true) : s.clearInterface.storesOk = true :=
  settleRings_storesOk h

theorem linkDownEffect_storesOk (h : s.storesOk = true) : (linkDownEffect s).storesOk = true :=
  ite_storesOk h (clearInterface_storesOk (countChip_storesOk h))

theorem evtSelectEffect_storesOk {number} (h : s.storesOk = true) :
    (evtSelectEffect number s).storesOk = true := by
  unfold evtSelectEffect
  split
  · exact h
  · extract_lets +onlyGivenNames n p h1
    split
    · split
      · exact h
      · exact h
    · exact h

theorem shiftTimes_storesOk {d} (h : s.storesOk = true) : (s.shiftTimes d).storesOk = true := h

theorem hostTimeEffect_storesOk {value} (h : s.storesOk = true) : (hostTimeEffect value s).storesOk = true :=
  ite_storesOk h (log_storesOk (shiftTimes_storesOk h))

/-! ### `Machine/Regs.lean` -/

theorem writeUnit_storesOk {kind u off value mask} (h : s.storesOk = true) :
    (s.writeUnit kind u off value mask).storesOk = true := by
  unfold State.writeUnit
  split
  · exact h
  · exact ite_storesOk (ite_storesOk (ite_storesOk h (onPort_storesOk h))
      (ite_storesOk (onPort_storesOk h) h)) h

theorem onKind_storesOk {k f} (h : s.storesOk = true) : (s.onKind k f).storesOk = true := h

theorem writeMembers_storesOk {kind us off value mask} (h : s.storesOk = true) :
    (s.writeMembers kind us off value mask).storesOk = true :=
  foldl_storesOk (fun _ _ h => ite_storesOk (onKind_storesOk h) (writeUnit_storesOk h)) h

theorem readMembers_storesOk {kind us off} (h : s.storesOk = true) :
    (s.readMembers kind us off).storesOk = true := by
  unfold State.readMembers
  split
  · exact answer_storesOk h
  · extract_lets +onlyGivenNames v s1
    have hs1 : s1.storesOk = true := by
      unfold s1
      split
      · exact onKind_storesOk h
      · exact h
    exact answer_storesOk hs1

theorem emptyGroup_storesOk {kind} (h : s.storesOk = true) : (s.emptyGroup kind).storesOk = true :=
  onKind_storesOk h

theorem setFront_storesOk {off v} (h : s.storesOk = true) : (s.setFront off v).storesOk = true :=
  ite_storesOk h (ite_storesOk h (ite_storesOk h h))

theorem setDecode_storesOk {off v} (h : s.storesOk = true) : (s.setDecode off v).storesOk = true :=
  ite_storesOk h (ite_storesOk h h)

theorem setMemory_storesOk {off v} (h : s.storesOk = true) : (s.setMemory off v).storesOk = true :=
  ite_storesOk h h

theorem logFrozen_storesOk {a} (h : s.storesOk = true) : (s.logFrozen a).storesOk = true := log_storesOk h

theorem applyReg_storesOk {w off r value mask} (h : s.storesOk = true) :
    (s.applyReg w off r value mask).storesOk = true := by
  unfold State.applyReg
  split
  · exact writeUnit_storesOk h
  · exact writeMembers_storesOk h
  · exact writeMembers_storesOk h
  · exact ite_storesOk h h
  · exact onKind_storesOk h
  · exact ite_storesOk h (setFront_storesOk h)
  · exact ite_storesOk h (setDecode_storesOk h)
  · exact ite_storesOk h (setMemory_storesOk h)
  · exact h

theorem writeReg_storesOk {a value mask} (h : s.storesOk = true) :
    (s.writeReg a value mask).storesOk = true := by
  unfold State.writeReg
  split
  · exact answer_storesOk h
  · split
    · exact answer_storesOk h
    · split
      · exact answer_storesOk (emptyGroup_storesOk h)
      · split
        · exact answer_storesOk h
        · extract_lets +onlyGivenNames s1
          have hs1 : s1.storesOk = true := answer_storesOk (applyReg_storesOk h)
          exact ite_storesOk (logFrozen_storesOk hs1) hs1

theorem writeControl_storesOk {o v} (h : s.storesOk = true) : (s.writeControl o v).storesOk = true :=
  ite_storesOk (ite_storesOk h h) (ite_storesOk (ite_storesOk h h)
    (ite_storesOk (ite_storesOk h h) (ite_storesOk h
      (ite_storesOk (hostTimeEffect_storesOk h) (ite_storesOk (hostTimeEffect_storesOk h) h)))))

theorem writeIn_storesOk {o v} (h : s.storesOk = true) : (s.writeIn o v).storesOk = true :=
  ite_storesOk (onIn_storesOk h) (ite_storesOk (onIn_storesOk h)
    (ite_storesOk (onIn_storesOk h) (ite_storesOk
      (ite_storesOk (inEnableEffect_storesOk h) (inDisableEffect_storesOk h))
        (ite_storesOk (onIn_storesOk h) h))))

theorem writeOut_storesOk {p o v} (h : s.storesOk = true) : (s.writeOut p o v).storesOk = true :=
  ite_storesOk (onOut_storesOk h) (ite_storesOk (onOut_storesOk h)
    (ite_storesOk (onOut_storesOk h) (ite_storesOk (onOut_storesOk h)
      (ite_storesOk (ite_storesOk (outEnableEffect_storesOk h) (outDisableEffect_storesOk (onOut_storesOk h)))
        (ite_storesOk (onOut_storesOk h) (ite_storesOk (onOut_storesOk h) h))))))

theorem writeVerb_storesOk {v} (h : s.storesOk = true) : (s.writeVerb v).storesOk = true := by
  unfold State.writeVerb
  extract_lets +onlyGivenNames seq
  split
  · exact startVerb_storesOk (fun _ h => pauseVerb_storesOk h) h
  · exact startVerb_storesOk (fun _ h => resumeVerb_storesOk h) h
  · exact startVerb_storesOk (fun _ h => selectVerb_storesOk h) h
  · exact ite_storesOk (startVerb_storesOk (fun _ h => h) h) h
  · exact startVerb_storesOk (fun _ h => activateVerb_storesOk h) h
  · exact startVerb_storesOk (fun _ h => deactivateVerb_storesOk h) h
  · exact startVerb_storesOk (fun _ h => attestVerb_storesOk h) h
  · exact startVerb_storesOk (fun _ h => failVerb_storesOk h) h

theorem writeMsix_storesOk {o v} (h : s.storesOk = true) : (s.writeMsix o v).storesOk = true :=
  ite_storesOk h (ite_storesOk h (ite_storesOk (signal_storesOk _ _ h) h))

theorem writeBar_storesOk {o v} (h : s.storesOk = true) : (s.writeBar o v).storesOk = true :=
  ite_storesOk (writeControl_storesOk h) (ite_storesOk (writeIn_storesOk h)
    (ite_storesOk (writeOut_storesOk h) (ite_storesOk (onBox_storesOk h)
      (ite_storesOk (writeVerb_storesOk h)
        (ite_storesOk (evtSelectEffect_storesOk h) (ite_storesOk (writeMsix_storesOk h) h))))))

theorem bar0Write_storesOk {offset size v} (h : s.storesOk = true) :
    (s.bar0Write offset size v).storesOk = true := by
  unfold State.bar0Write
  split
  · exact h
  · split
    · exact answer_storesOk h
    · extract_lets +onlyGivenNames s1
      have hs1 : s1.storesOk = true := answer_storesOk h
      exact ite_storesOk hs1 (ite_storesOk (writeBar_storesOk hs1)
        (ite_storesOk (hostTimeEffect_storesOk hs1)
          (ite_storesOk (evtSelectEffect_storesOk hs1) (writeBar_storesOk (writeBar_storesOk hs1)))))

theorem scriptEffect_storesOk {a value mask} (h : s.storesOk = true) :
    (scriptEffect a value mask s).storesOk = true :=
  ite_storesOk (writeReg_storesOk h) h

theorem delayEffect_storesOk {micros} (h : s.storesOk = true) : (delayEffect micros s).storesOk = true :=
  ite_storesOk h h

/-! ### `Machine/Bundle.lean` -/

theorem applyBundle_storesOk {n} (h : s.storesOk = true) : (s.applyBundle n).storesOk = true := h

theorem runScript_storesOk {l} (h : s.storesOk = true) : (s.runScript l).storesOk = true := by
  unfold State.runScript
  extract_lets +onlyGivenNames s1
  have hs1 : s1.storesOk = true := by
    refine foldl_storesOk (fun _ e h => ?_) h
    split
    · exact writeReg_storesOk h
    · exact writeReg_storesOk h
    · exact delayEffect_storesOk h
  exact hs1

/-! ### `Machine/InputDecode.lean` -/

theorem takeImage_storesOk {n owner pic x r} (h : s.storesOk = true) (e : s.takeImage n owner pic x = some r) :
    r.1.storesOk = true := by
  unfold State.takeImage at e
  obtain ⟨a, -, rfl⟩ := Option.map_eq_some_iff.1 e
  exact h

theorem writeImage_storesOk {i rows} (h : s.storesOk = true) : (s.writeImage i rows).storesOk = true :=
  mainPut_storesOk h

theorem writeBlank_storesOk {i} (h : s.storesOk = true) : (s.writeBlank i).storesOk = true :=
  writeImage_storesOk h

theorem consumed_storesOk {x} (h : s.storesOk = true) : (s.consumed x).storesOk = true :=
  releaseStage_storesOk h

theorem giveImage_storesOk {k i substitute} (h : s.storesOk = true) :
    (s.giveImage k i substitute).storesOk = true :=
  onSide_storesOk h

theorem statusRecord_storesOk {k} (h : s.storesOk = true) : (s.statusRecord k).storesOk = true :=
  onSide_storesOk h

theorem substituteSide_storesOk {k code stream image} (h : s.storesOk = true) :
    (s.substituteSide k code stream image).storesOk = true := by
  unfold State.substituteSide
  extract_lets +onlyGivenNames s1
  have hs1 : s1.storesOk = true := addStatus_storesOk h
  split
  · exact statusRecord_storesOk hs1
  · exact giveImage_storesOk (writeBlank_storesOk hs1)

theorem dropSide_storesOk {k} (h : s.storesOk = true) : (s.dropSide k).storesOk = true := by
  unfold State.dropSide
  split
  · exact h
  · extract_lets +onlyGivenNames s1
    have hs1 : s1.storesOk = true := freeFrames_storesOk (freeStage_storesOk h)
    exact spoolSettle_storesOk hs1

theorem dropUnit_storesOk {n x read image} (h : s.storesOk = true) :
    (s.dropUnit n x read image).storesOk = true := by
  unfold State.dropUnit
  extract_lets +onlyGivenNames s1
  have hs1 : s1.storesOk = true := consumed_storesOk h
  extract_lets +onlyGivenNames s2
  have hs2 : s2.storesOk = true := by
    unfold s2
    split
    · exact dropSide_storesOk hs1
    · split
      · exact giveImage_storesOk (countStream_storesOk (addStatus_storesOk hs1))
      · exact substituteSide_storesOk hs1
  exact loseUnit_storesOk hs2

theorem failStill_storesOk {n x fault image} (h : s.storesOk = true) :
    (s.failStill n x fault image).storesOk = true :=
  substituteSide_storesOk (consumed_storesOk (countStream_storesOk h))

theorem popSample_storesOk {n} (h : s.storesOk = true) : (s.popSample n).storesOk = true := onStream_storesOk h

theorem finishFailed_storesOk {n x fault read image} (h : s.storesOk = true) :
    (s.finishFailed n x fault read image).storesOk = true := by
  unfold State.finishFailed
  extract_lets +onlyGivenNames s1
  have hs1 : s1.storesOk = true := countStream_storesOk h
  exact ite_storesOk (dropUnit_storesOk (countStream_storesOk hs1)) (failStill_storesOk hs1)

theorem startFailed_storesOk {n x fault ext budget} (h : s.storesOk = true) :
    (s.startFailed n x fault ext budget).storesOk = true := by
  unfold State.startFailed
  extract_lets +onlyGivenNames read held blank finish
  clear_value blank
  split
  · exact h
  next _ _ e =>
    · unfold finish
      extract_lets +onlyGivenNames s2
      have hs2 : s2.storesOk = true := popSample_storesOk (takeImage_storesOk h e)
      refine settleLost_storesOk ?_
      split
      · exact finishFailed_storesOk hs2
      · exact dropUnit_storesOk (countStream_storesOk hs2)
  · unfold finish
    extract_lets +onlyGivenNames s3
    have hs3 : s3.storesOk = true := popSample_storesOk h
    refine settleLost_storesOk ?_
    split
    · exact finishFailed_storesOk hs3
    · exact dropUnit_storesOk (countStream_storesOk hs3)

theorem startRun_storesOk {u n x ext head decodeUs} (h : s.storesOk = true) :
    (s.startRun u n x ext head decodeUs).storesOk = true := by
  unfold State.startRun
  extract_lets +onlyGivenNames video key
  split
  · exact h
  next s1 _ e =>
    have hs1 : s1.storesOk = true := takeImage_storesOk h e
    exact onStream_storesOk (onDecoder_storesOk (popSample_storesOk (ite_storesOk hs1 hs1)))

theorem takeBinding_storesOk {n r} (h : s.storesOk = true) : (s.takeBinding n r).storesOk = true := by
  unfold State.takeBinding
  split
  · exact onStream_storesOk h
  · exact h

theorem startStill_storesOk {u n x r} (h : s.storesOk = true) : (s.startStill u n x r).storesOk = true := by
  unfold State.startStill
  extract_lets +onlyGivenNames s1
  have hs1 : s1.storesOk = true := takeBinding_storesOk h
  split
  · extract_lets +onlyGivenNames look
    split
    · exact startFailed_storesOk hs1
    · exact startRun_storesOk hs1

theorem startUnit_storesOk {u n x r} (h : s.storesOk = true) : (s.startUnit u n x r).storesOk = true := by
  unfold State.startUnit
  extract_lets +onlyGivenNames st change unit s1
  have hs1 : s1.storesOk = true := ite_storesOk (takeBinding_storesOk h) h
  extract_lets +onlyGivenNames s2
  have hs2 : s2.storesOk = true := ite_storesOk hs1 (onStream_storesOk hs1)
  split
  · extract_lets +onlyGivenNames wait
    split
    · extract_lets +onlyGivenNames look
      split
      · exact startFailed_storesOk hs2
      · split
        · exact startFailed_storesOk hs2
        · exact startRun_storesOk hs2
    · exact startFailed_storesOk hs2

theorem startUnbound_storesOk {n x} (h : s.storesOk = true) : (s.startUnbound n x).storesOk = true := by
  unfold State.startUnbound
  extract_lets +onlyGivenNames s1
  have hs1 : s1.storesOk = true := onSide_storesOk (abandonSide_storesOk (popSample_storesOk h))
  exact ite_storesOk (settleLost_storesOk (loseUnit_storesOk hs1)) hs1

theorem startSample_storesOk {u n x} (h : s.storesOk = true) : (s.startSample u n x).storesOk = true := by
  unfold State.startSample
  extract_lets +onlyGivenNames p
  split
  · exact ite_storesOk h (startUnbound_storesOk h)
  · exact ite_storesOk (startUnit_storesOk h) (startStill_storesOk h)

theorem decodeStartEffect_storesOk {u} (h : s.storesOk = true) : (decodeStartEffect u s).storesOk = true := by
  unfold decodeStartEffect
  split
  · exact h
  · split
    · exact h
    · split
      · exact h
      · exact startSample_storesOk (onStream_storesOk h)

theorem freeUnit_storesOk {u run} (h : s.storesOk = true) : (s.freeUnit u run).storesOk = true :=
  onDecoder_storesOk h

theorem countDecoded_storesOk {u n run} (h : s.storesOk = true) : (s.countDecoded u n run).storesOk = true :=
  countStream_storesOk (onStream_storesOk (onDecoder_storesOk h))

theorem reuseFrames_storesOk {run keep} (h : s.storesOk = true) : (s.reuseFrames run keep).storesOk = true := h

theorem runFailed_storesOk {u n run fault} (h : s.storesOk = true) :
    (s.runFailed u n run fault).storesOk = true := by
  unfold State.runFailed
  extract_lets +onlyGivenNames x s1
  have hs1 : s1.storesOk = true := countStream_storesOk (freeUnit_storesOk h)
  extract_lets +onlyGivenNames blank s2
  have hs2 : s2.storesOk = true := reuseFrames_storesOk hs1
  exact ite_storesOk (settleLost_storesOk (dropUnit_storesOk (countStream_storesOk hs2)))
    (failStill_storesOk hs2)

theorem finishStill_storesOk {run} (h : s.storesOk = true) : (s.finishStill run).storesOk = true :=
  giveImage_storesOk (consumed_storesOk h)

theorem finishPicture_storesOk {n run} (h : s.storesOk = true) : (s.finishPicture n run).storesOk = true := by
  unfold State.finishPicture
  extract_lets +onlyGivenNames x late s1
  have hs1 : s1.storesOk = true := ite_storesOk (countStream_storesOk h) h
  extract_lets +onlyGivenNames pic s2
  have hs2 : s2.storesOk = true := countStream_storesOk (onStream_storesOk hs1)
  extract_lets +onlyGivenNames s3
  have hs3 : s3.storesOk = true := consumed_storesOk hs2
  exact settleLost_storesOk (closeUnit_storesOk (ite_storesOk (giveImage_storesOk hs3) (dropSide_storesOk hs3)))

theorem decodeDoneEffect_storesOk {u result} (h : s.storesOk = true) :
    (decodeDoneEffect u result s).storesOk = true := by
  unfold decodeDoneEffect
  split
  · exact h
  · extract_lets +onlyGivenNames n b s1
    have hs1 : s1.storesOk = true := ite_storesOk (log_storesOk h) h
    split
    · exact runFailed_storesOk hs1
    · extract_lets +onlyGivenNames s2
      have hs2 : s2.storesOk = true := writeImage_storesOk (freeUnit_storesOk (countDecoded_storesOk hs1))
      exact ite_storesOk (finishPicture_storesOk hs2) (finishStill_storesOk hs2)

theorem budgetExpireEffect_storesOk {u} (h : s.storesOk = true) : (budgetExpireEffect u s).storesOk = true := by
  unfold budgetExpireEffect
  split
  · exact h
  · exact ite_storesOk (runFailed_storesOk h) h

/-! ### `Machine/Boot.lean` -/

theorem fullReset_storesOk (h : s.storesOk = true) : s.fullReset.storesOk = true := by
  obtain ⟨-, -, hnor, hhost⟩ := (storesOk_iff s).1 h
  obtain ⟨hmem, hpad, -, -⟩ := (storesOk_iff _).1 reset_storesOk
  exact (storesOk_iff _).2 ⟨hmem, hpad, hnor, hhost⟩

theorem startStudbook_storesOk {code p} (h : s.storesOk = true) : (s.startStudbook code p).storesOk = true :=
  startNor_storesOk h

theorem stopBoot_storesOk {reason} (h : s.storesOk = true) : (s.stopBoot reason).storesOk = true :=
  startStudbook_storesOk (ite_storesOk (locateWritePoint_storesOk h) h)

theorem setRoles_storesOk {fenced} (h : s.storesOk = true) : (s.setRoles fenced).storesOk = true := by
  obtain ⟨hmem, hpad, hnor, hhost⟩ := (storesOk_iff s).1 h
  refine (storesOk_iff _).2 ⟨hmem, fun e => ?_, hnor, hhost⟩
  unfold State.setRoles
  simpa using hpad e

theorem logSelfTest_storesOk {e stop} (h : s.storesOk = true) : (s.logSelfTest e stop).storesOk = true :=
  foldl_storesOk (fun _ _ h => log_storesOk h) (log_storesOk h)

theorem initMemory_storesOk (h : s.storesOk = true) : s.initMemory.storesOk = true := by
  have hm := mem_wf_of_storesOk h
  refine withMem_storesOk ?_ h
  unfold Memory.wf at *
  rw [Bool.and_eq_true] at hm
  exact hm.2

theorem restoreRemaps_storesOk (h : s.storesOk = true) : s.restoreRemaps.storesOk = true := h

theorem anchorTime_storesOk {l} (h : s.storesOk = true) : (s.anchorTime l).storesOk = true := by
  unfold State.anchorTime
  split
  · exact h
  · split
    · exact log_storesOk h
    · exact shiftTimes_storesOk h

theorem openStore_storesOk {fences rtc} (h : s.storesOk = true) : (s.openStore fences rtc).storesOk = true := by
  unfold State.openStore
  extract_lets +onlyGivenNames s1
  have hs1 : s1.storesOk = true := countLife_storesOk (countLife_storesOk (readStore_storesOk h))
  exact anchorTime_storesOk (locateWritePoint_storesOk (restoreRemaps_storesOk (withStore_storesOk hs1)))

theorem bindRecipes_storesOk (h : s.storesOk = true) : s.bindRecipes.storesOk = true := by
  unfold State.bindRecipes
  exact storesOk_congr h rfl rfl rfl rfl

theorem enablePorts_storesOk (h : s.storesOk = true) : s.enablePorts.storesOk = true :=
  foldl_storesOk (fun _ _ h => foldl_storesOk (fun _ _ h => log_storesOk (refusePort_storesOk h)) h) h

theorem enableStreams_storesOk (h : s.storesOk = true) : s.enableStreams.storesOk = true :=
  foldl_storesOk (fun _ _ h => ite_storesOk h (ite_storesOk (log_storesOk h) (onStream_storesOk h))) h

theorem applyPlan0_storesOk (h : s.storesOk = true) : s.applyPlan0.storesOk = true := by
  unfold State.applyPlan0
  extract_lets +onlyGivenNames plan
  split
  · extract_lets +onlyGivenNames s1
    have hs1 : s1.storesOk = true := reportRejects_storesOk h
    extract_lets +onlyGivenNames kept s2
    have hs2 : s2.storesOk = true := countEngines_storesOk (growEngines_storesOk hs1)
    extract_lets +onlyGivenNames s3
    have hs3 : s3.storesOk = true := by
      refine foldl_storesOk (fun _ p h => ?_) hs2
      split
      · exact bindPart_storesOk h
      · exact unbindPart_storesOk h
    exact foldl_storesOk (fun _ _ h => onPort_storesOk h) (settleSlotPlans_storesOk hs3)

theorem bootCarts_storesOk {l} (h : s.storesOk = true) : (s.bootCarts l).storesOk = true :=
  foldl_storesOk (fun _ _ h => runAuth_storesOk (startAuth_storesOk h)) h

theorem bootTransports_storesOk (h : s.storesOk = true) : s.bootTransports.storesOk = true :=
  foldl_storesOk (fun _ _ h => ite_storesOk h (settlePins_storesOk (settleHolds_storesOk h))) h

theorem bootReins_storesOk {e} (h : s.storesOk = true) : (s.bootReins e).storesOk = true := claimBoth_storesOk h

theorem bootFinish_storesOk {e delay} (h : s.storesOk = true) : (s.bootFinish e delay).storesOk = true :=
  startStudbook_storesOk (bootTransports_storesOk
    (bootCarts_storesOk (applyPlan0_storesOk (enableStreams_storesOk (bindRecipes_storesOk h)))))

theorem bootScript_storesOk {slot} (h : s.storesOk = true) : (s.bootScript slot).storesOk = true := by
  unfold State.bootScript
  exact enablePorts_storesOk (runScript_storesOk (applyBundle_storesOk h))

theorem bootBundle_storesOk {e slot} (h : s.storesOk = true) : (s.bootBundle e slot).storesOk = true := by
  unfold State.bootBundle
  extract_lets +onlyGivenNames s1
  have hs1 : s1.storesOk = true := bootScript_storesOk h
  extract_lets +onlyGivenNames delay stop s2
  have hs2 : s2.storesOk = true := logSelfTest_storesOk hs1
  clear_value stop
  split
  · exact stopBoot_storesOk (setRoles_storesOk hs2)
  · exact bootFinish_storesOk (openStore_storesOk (initMemory_storesOk (setRoles_storesOk hs2)))

theorem markSlots_storesOk (h : s.storesOk = true) : s.markSlots.storesOk = true := h

theorem bootSequence_storesOk {e} (h : s.storesOk = true) : (s.bootSequence e).storesOk = true := by
  unfold State.bootSequence
  extract_lets +onlyGivenNames s1
  have hs1 : s1.storesOk = true := bootReins_storesOk h
  split
  · exact hs1
  · split
    · exact stopBoot_storesOk hs1
    · extract_lets +onlyGivenNames s2
      have hs2 : s2.storesOk = true := hs1
      split
      · exact stopBoot_storesOk hs2
      · split
        · exact stopBoot_storesOk (markSlots_storesOk hs2)
        · exact bootBundle_storesOk (markSlots_storesOk hs2)

theorem bootEffect_storesOk {e} (h : s.storesOk = true) : (bootEffect e s).storesOk = true :=
  ite_storesOk (bootSequence_storesOk h) h

theorem logSvn_storesOk {recipe v} (h : s.storesOk = true) : (s.logSvn recipe v).storesOk = true :=
  log_storesOk h

theorem svnEffect_storesOk (h : s.storesOk = true) : (svnEffect s).storesOk = true := by
  unfold svnEffect
  split
  · exact h
  · extract_lets +onlyGivenNames otp s1
    have hs1 : s1.storesOk = true := ite_storesOk (logSvn_storesOk h) h
    refine foldl_storesOk (fun _ n h => ?_) hs1
    split
    · exact ite_storesOk (logSvn_storesOk h) h
    · exact h

theorem keyEffect_storesOk (h : s.storesOk = true) : (keyEffect s).storesOk = true := ite_storesOk h h

/-! ### `Machine/Power.lean` -/

theorem onPower_storesOk {f} (h : s.storesOk = true) : (s.onPower f).storesOk = true := h

theorem markHold_storesOk (h : s.storesOk = true) : s.markHold.storesOk = true := h

theorem logHold_storesOk {rails} (h : s.storesOk = true) : (s.logHold rails).storesOk = true := by
  unfold State.logHold
  extract_lets +onlyGivenNames s1
  have hs1 : s1.storesOk = true := h
  extract_lets +onlyGivenNames s2
  have hs2 : s2.storesOk = true := log_storesOk hs1
  exact startNor_storesOk hs2

theorem holdStartEffect_storesOk {rails} (h : s.storesOk = true) :
    (holdStartEffect rails s).storesOk = true := by
  unfold holdStartEffect
  split
  · exact h
  · split
    · exact onPower_storesOk h
    · exact commitStore_storesOk (foldl_storesOk (fun _ _ h => saveCart_storesOk h)
        (countLife_storesOk (logHold_storesOk (markHold_storesOk (onPower_storesOk h)))))

theorem resumeClocks_storesOk {x} (h : s.storesOk = true) : (s.resumeClocks x).storesOk = true := h

theorem holdEndEffect_storesOk (h : s.storesOk = true) : (holdEndEffect s).storesOk = true := by
  unfold holdEndEffect
  split
  · exact h
  · exact ite_storesOk h (log_storesOk (onPower_storesOk (resumeClocks_storesOk h)))

theorem vidAdjustEffect_storesOk (h : s.storesOk = true) : (vidAdjustEffect s).storesOk = true :=
  ite_storesOk h (onPower_storesOk h)

theorem vidStepEffect_storesOk (h : s.storesOk = true) : (vidStepEffect s).storesOk = true :=
  ite_storesOk h (ite_storesOk (onPower_storesOk h) (ite_storesOk (onPower_storesOk h) h))

theorem warnTrackEffect_storesOk (h : s.storesOk = true) : (warnTrackEffect s).storesOk = true := by
  unfold warnTrackEffect
  split
  · exact ite_storesOk (onPower_storesOk h) h
  · exact h

theorem thermalEffect_storesOk {temps} (h : s.storesOk = true) : (thermalEffect temps s).storesOk = true := by
  unfold thermalEffect
  split
  · exact h
  · exact onPower_storesOk h

theorem tripReleaseEffect_storesOk {temps} (h : s.storesOk = true) :
    (tripReleaseEffect temps s).storesOk = true :=
  ite_storesOk (onPower_storesOk h) h

theorem switchStartEffect_storesOk (h : s.storesOk = true) : (switchStartEffect s).storesOk = true := by
  unfold switchStartEffect
  split
  · exact h
  · split
    · exact onPower_storesOk h
    · exact h

theorem switchDoneEffect_storesOk (h : s.storesOk = true) : (switchDoneEffect s).storesOk = true := by
  unfold switchDoneEffect
  split
  · exact h
  · extract_lets +onlyGivenNames mask s1
    have hs1 : s1.storesOk = true := onPower_storesOk h
    split
    · extract_lets +onlyGivenNames e
      have he : (s1.onEngine e Engine.powerOff).storesOk = true := onEngine_storesOk
        (fun _ _ => cellsOk_nil 0) hs1
      exact he
    · exact hs1

/-! ### `Machine/Step.lean` -/

theorem withFetchWord_storesOk {nbits w} (h : s.storesOk = true) :
    (s.withFetchWord nbits w).storesOk = true := by
  unfold State.withFetchWord
  split
  · exact h
  · exact h

end Sys2Proof.Machine
end

section
namespace Sys2Proof.Machine
variable {s : State}

/-! ### Commands and steps -/

/-- An outcome whose next state, when it has one, has canonical stores. -/
def KeepsStores (r : Host.Outcome State Fault Refusal) : Prop := ∀ u : State, r = .next u → u.storesOk = true

theorem done_keeps {old : State} (h : s.storesOk = true) : KeepsStores (done old s) := by
  intro u e
  cases e
  exact commit_storesOk old s h

theorem execBroadcastRead_keeps {kind offset} (h : s.storesOk = true) :
    KeepsStores (execBroadcastRead kind offset s) := by
  unfold execBroadcastRead
  refine done_keeps ?_
  split
  · exact readMembers_storesOk h
  · exact answer_storesOk h

theorem execGroupRead_keeps {kind g offset} (h : s.storesOk = true) :
    KeepsStores (execGroupRead kind g offset s) := by
  unfold execGroupRead
  refine done_keeps ?_
  split
  · exact answer_storesOk h
  · split
    · exact answer_storesOk (emptyGroup_storesOk h)
    · split
      · exact readMembers_storesOk h
      · exact answer_storesOk h

theorem execRegisterWrite_keeps {path value t} (h : s.storesOk = true) :
    KeepsStores (execRegisterWrite path value t s) := by
  unfold execRegisterWrite
  refine done_keeps ?_
  split
  · exact writeReg_storesOk (at_storesOk h)
  · exact bar0Write_storesOk (at_storesOk h)

theorem execLaneTrainTimeout_keeps {port lane t} (h : s.storesOk = true) :
    KeepsStores (execLaneTrainTimeout port lane t s) := by
  unfold execLaneTrainTimeout
  extract_lets +onlyGivenNames s1
  have hs1 : s1.storesOk = true := at_storesOk h
  exact done_keeps (ite_storesOk (log_storesOk (refusePort_storesOk hs1)) hs1)

theorem execLineBoundary_keeps {tr paperIn samples t} (h : s.storesOk = true) :
    KeepsStores (execLineBoundary tr paperIn samples t s) := by
  unfold execLineBoundary
  extract_lets +onlyGivenNames s1
  have hs1 : s1.storesOk = true := at_storesOk h
  exact done_keeps (ite_storesOk (lineBoundary_storesOk hs1) hs1)

theorem execCartInsert_keeps {port t} (h : s.storesOk = true) : KeepsStores (execCartInsert port t s) := by
  unfold execCartInsert
  extract_lets +onlyGivenNames s1
  have hs1 : s1.storesOk = true := onCartridge_storesOk (at_storesOk h)
  exact done_keeps (ite_storesOk (startAuth_storesOk hs1) hs1)

theorem execCartI2cRetry_keeps {port response t} (h : s.storesOk = true) :
    KeepsStores (execCartI2cRetry port response t s) := by
  unfold execCartI2cRetry
  extract_lets +onlyGivenNames s1
  have hs1 : s1.storesOk = true := at_storesOk h
  exact done_keeps (ite_storesOk hs1 (ite_storesOk (ite_storesOk (onCartridge_storesOk hs1) hs1)
    (ite_storesOk (onCartridge_storesOk hs1) hs1)))

theorem execCartAuthDone_keeps {port exchange t} (h : s.storesOk = true) :
    KeepsStores (execCartAuthDone port exchange t s) := by
  unfold execCartAuthDone
  extract_lets +onlyGivenNames s1
  have hs1 : s1.storesOk = true := at_storesOk h
  extract_lets +onlyGivenNames c
  refine done_keeps ?_
  split
  · extract_lets +onlyGivenNames s2
    have hs2 : s2.storesOk = true := runAuth_storesOk hs1
    exact ite_storesOk (releaseCart_storesOk hs2) hs2
  · exact hs1

theorem execCartReauthTimer_keeps {port t} (h : s.storesOk = true) :
    KeepsStores (execCartReauthTimer port t s) := by
  unfold execCartReauthTimer
  extract_lets +onlyGivenNames s1
  have hs1 : s1.storesOk = true := at_storesOk h
  exact done_keeps (ite_storesOk (onCartridge_storesOk hs1) hs1)

theorem execCalRetryTimer_keeps {tr t} (h : s.storesOk = true) : KeepsStores (execCalRetryTimer tr t s) := by
  unfold execCalRetryTimer
  extract_lets +onlyGivenNames s1
  have hs1 : s1.storesOk = true := at_storesOk h
  exact done_keeps (ite_storesOk (onTransport_storesOk hs1) hs1)

theorem execCartCounterCommit_keeps {port answer t} (h : s.storesOk = true) :
    KeepsStores (execCartCounterCommit port answer t s) := by
  unfold execCartCounterCommit
  extract_lets +onlyGivenNames s1
  have hs1 : s1.storesOk = true := at_storesOk h
  exact done_keeps (ite_storesOk (onCartridge_storesOk (sendCounters_storesOk (saveCart_storesOk hs1))) hs1)

theorem execStepIssue_keeps {order t} (h : s.storesOk = true) : KeepsStores (execStepIssue order t s) := by
  unfold execStepIssue
  extract_lets +onlyGivenNames s1
  have hs1 : s1.storesOk = true := settleOverlay_storesOk (at_storesOk h)
  exact done_keeps (ite_storesOk (formStep_storesOk hs1) hs1)

theorem execTagGrant_keeps {pool who cycles t} (h : s.storesOk = true) :
    KeepsStores (execTagGrant pool who cycles t s) := by
  unfold execTagGrant
  extract_lets +onlyGivenNames s1
  have hs1 : s1.storesOk = true := at_storesOk h
  exact done_keeps (ite_storesOk (faultCommand_storesOk hs1) (ite_storesOk hs1 hs1))

theorem execMemRead_keeps {cls addr disturb t} (h : s.storesOk = true) :
    KeepsStores (execMemRead cls addr disturb t s) := by
  unfold execMemRead
  extract_lets +onlyGivenNames s1
  have hs1 : s1.storesOk = true := at_storesOk h
  refine done_keeps ?_
  split
  · exact slotRequest_storesOk (fun _ h => serveRead_storesOk h) hs1
  · exact serveRead_storesOk (takeToken_storesOk hs1)

theorem execMemWrite_keeps {cls addr data t} (h : s.storesOk = true) :
    KeepsStores (execMemWrite cls addr data t s) := by
  unfold execMemWrite
  extract_lets +onlyGivenNames s1
  have hs1 : s1.storesOk = true := at_storesOk h
  refine done_keeps ?_
  split
  · exact hs1
  · split
    · exact slotRequest_storesOk (fun _ h => serveWrite_storesOk h) hs1
    · exact serveWrite_storesOk (takeToken_storesOk hs1)

theorem execDqsRetrain_keeps {ch t} (h : s.storesOk = true) : KeepsStores (execDqsRetrain ch t s) := by
  unfold execDqsRetrain
  extract_lets +onlyGivenNames s1
  have hs1 : s1.storesOk = true := at_storesOk h
  exact done_keeps (ite_storesOk (onChannel_storesOk hs1) hs1)

theorem execFunctionLevelReset_keeps {t} (h : s.storesOk = true) :
    KeepsStores (execFunctionLevelReset t s) := by
  unfold execFunctionLevelReset
  extract_lets +onlyGivenNames s1
  have hs1 : s1.storesOk = true := at_storesOk h
  exact done_keeps (ite_storesOk (clearInterface_storesOk hs1) hs1)

theorem execVerbOverrun_keeps {code seq t} (h : s.storesOk = true) :
    KeepsStores (execVerbOverrun code seq t s) := by
  unfold execVerbOverrun
  extract_lets +onlyGivenNames s1
  have hs1 : s1.storesOk = true := at_storesOk h
  exact done_keeps (ite_storesOk hs1 hs1)

theorem execJournalAckTimeout_keeps {t} (h : s.storesOk = true) : KeepsStores (execJournalAckTimeout t s) := by
  unfold execJournalAckTimeout
  extract_lets +onlyGivenNames s1
  have hs1 : s1.storesOk = true := at_storesOk h
  exact done_keeps (ite_storesOk (loseShadow_storesOk hs1) hs1)

theorem execHeartbeat_keeps {rein t} (h : s.storesOk = true) : KeepsStores (execHeartbeat rein t s) := by
  unfold execHeartbeat
  extract_lets +onlyGivenNames s1
  have hs1 : s1.storesOk = true := at_storesOk h
  exact done_keeps (ite_storesOk (onRein_storesOk hs1) hs1)

theorem execSetOther_keeps {writer epoch t} (h : s.storesOk = true) :
    KeepsStores (execSetOther writer epoch t s) := by
  unfold execSetOther
  extract_lets +onlyGivenNames s1
  have hs1 : s1.storesOk = true := at_storesOk h
  exact done_keeps (ite_storesOk (makeShadow_storesOk hs1) hs1)

theorem execClearOther_keeps {writer epoch t} (h : s.storesOk = true) :
    KeepsStores (execClearOther writer epoch t s) := by
  unfold execClearOther
  extract_lets +onlyGivenNames s1
  have hs1 : s1.storesOk = true := at_storesOk h
  exact done_keeps (ite_storesOk (loseLatch_storesOk hs1) hs1)

theorem execLaneAlignmentDone_keeps {port t} (h : s.storesOk = true) :
    KeepsStores (execLaneAlignmentDone port t s) := by
  unfold execLaneAlignmentDone
  extract_lets +onlyGivenNames s1
  have hs1 : s1.storesOk = true := at_storesOk h
  exact done_keeps (ite_storesOk (onPort_storesOk hs1) hs1)

theorem execLinkUp_keeps {t} (h : s.storesOk = true) : KeepsStores (execLinkUp t s) := by
  unfold execLinkUp
  extract_lets +onlyGivenNames s1
  have hs1 : s1.storesOk = true := at_storesOk h
  exact done_keeps (ite_storesOk (settleRings_storesOk hs1) hs1)

/-- Every command keeps the stores canonical: each ends its own effect, which does. -/
theorem exec_keeps (c : Instr) (h : s.storesOk = true) : KeepsStores (exec c s) := by
  cases c with
  | broadcastWrite _ _ _ _ => exact done_keeps (writeReg_storesOk (at_storesOk h))
  | groupWrite _ _ _ _ _ => exact done_keeps (writeReg_storesOk (at_storesOk h))
  | broadcastRead _ _ => exact execBroadcastRead_keeps h
  | groupRead _ _ _ => exact execGroupRead_keeps h
  | registerWrite _ _ _ => exact execRegisterWrite_keeps h
  | gallopTokenRefill _ _ => exact done_keeps (refillTokens_storesOk (at_storesOk h))
  | sideArrival _ _ => exact done_keeps (arrivalEffect_storesOk (at_storesOk h))
  | admitFromQueue _ => exact done_keeps (admitAll_storesOk (at_storesOk h))
  | recordReady _ _ _ => exact done_keeps (readyEffect_storesOk (at_storesOk h))
  | recordPublish _ _ => exact done_keeps (publishEffect_storesOk (at_storesOk h))
  | laneTrainTimeout _ _ _ => exact execLaneTrainTimeout_keeps h
  | lineBoundary _ _ _ _ => exact execLineBoundary_keeps h
  | deskewFlushLine _ _ => exact done_keeps (flushEffect_storesOk (at_storesOk h))
  | coverLevelAccept _ _ _ => exact done_keeps (coverEffect_storesOk (at_storesOk h))
  | cartRemoval _ _ => exact done_keeps (removalEffect_storesOk (at_storesOk h))
  | cartInsert _ _ => exact execCartInsert_keeps h
  | cartI2cRetry _ _ _ => exact execCartI2cRetry_keeps h
  | cartAuthDone _ _ _ => exact execCartAuthDone_keeps h
  | cartReauthTimer _ _ => exact execCartReauthTimer_keeps h
  | calRetryTimer _ _ => exact execCalRetryTimer_keeps h
  | cartCounterCommit _ _ _ => exact execCartCounterCommit_keeps h
  | decodeStart _ _ _ => exact done_keeps (decodeStartEffect_storesOk (at_storesOk h))
  | decodeDone _ _ _ => exact done_keeps (decodeDoneEffect_storesOk (at_storesOk h))
  | decodeBudgetExpire _ _ => exact done_keeps (budgetExpireEffect_storesOk (at_storesOk h))
  | fuseWindowExpire _ _ => exact done_keeps (fuseSide_storesOk (at_storesOk h))
  | matmul _ => exact done_keeps (issueCommand_storesOk (fun _ _ h => runMatmul_storesOk h) h)
  | vector _ => exact done_keeps (issueCommand_storesOk (fun _ _ h => runVector_storesOk h) h)
  | move _ => exact done_keeps (issueCommand_storesOk (fun _ _ h => runMove_storesOk h) h)
  | conv _ => exact done_keeps (issueCommand_storesOk (fun _ _ h => runConv_storesOk h) h)
  | pool _ => exact done_keeps (issueCommand_storesOk (fun _ _ h => runPool_storesOk h) h)
  | argmax _ => exact done_keeps (issueCommand_storesOk (fun _ _ h => runArgmax_storesOk h) h)
  | boxnms _ => exact done_keeps (issueCommand_storesOk (fun _ _ h => runBoxnms_storesOk h) h)
  | quantize _ => exact done_keeps (issueCommand_storesOk (fun _ _ h => runQuantize_storesOk h) h)
  | attend _ => exact done_keeps (issueCommand_storesOk (fun _ _ h => runAttend_storesOk h) h)
  | attendMerge _ => exact done_keeps (issueCommand_storesOk (fun _ _ h => runAttendMerge_storesOk h) h)
  | kvAppend _ => exact done_keeps (issueCommand_storesOk (fun _ _ h => runKvAppend_storesOk h) h)
  | kvEditPin _ =>
    exact done_keeps (issueCommand_storesOk (fun _ _ h => runKvEdit_storesOk changePin_keeps h) h)
  | kvEditUnpin _ =>
    exact done_keeps (issueCommand_storesOk (fun _ _ h => runKvEdit_storesOk changeUnpin_keeps h) h)
  | kvEditDrop _ =>
    exact done_keeps (issueCommand_storesOk (fun _ _ h => runKvEdit_storesOk changeDrop_keeps h) h)
  | kvEditConvert _ =>
    exact done_keeps (issueCommand_storesOk (fun _ _ h => runKvEdit_storesOk (changeConvert_keeps _) h) h)
  | kvEditReset _ =>
    exact done_keeps (issueCommand_storesOk (fun _ _ h => runKvEdit_storesOk changeDrop_keeps h) h)
  | kvEditSetGlobals _ =>
    exact done_keeps (issueCommand_storesOk (fun _ _ h => runKvEdit_storesOk changeGlobal_keeps h) h)
  | route _ => exact done_keeps (issueCommand_storesOk (fun _ _ h => runRoute_storesOk h) h)
  | exchangeDispatch _ => exact done_keeps (issueCommand_storesOk (fun _ _ h => runExchange_storesOk h) h)
  | exchangeCombine _ => exact done_keeps (issueCommand_storesOk (fun _ _ h => runExchange_storesOk h) h)
  | exchangeRendezvous _ _ _ => exact done_keeps (rendezvous_storesOk h)
  | adaptAugment _ =>
    exact done_keeps (issueCommand_storesOk
      (fun _ _ h => runAdapt_storesOk (fun _ _ h => augEffect_storesOk h) h) h)
  | adaptGrad _ =>
    exact done_keeps (issueCommand_storesOk
      (fun _ _ h => runAdapt_storesOk (fun _ _ h => gradEffect_storesOk h) h) h)
  | adaptStep _ =>
    exact done_keeps (issueCommand_storesOk
      (fun _ _ h => runAdapt_storesOk (fun _ _ h => stepEffect_storesOk h) h) h)
  | stepIssue _ _ => exact execStepIssue_keeps h
  | stepRetire _ _ _ => exact done_keeps (settleOverlay_storesOk (retireEffect_storesOk (at_storesOk h)))
  | stepWatchdog _ _ => exact done_keeps (watchdogEffect_storesOk (at_storesOk h))
  | stepFault _ _ => exact done_keeps (stepFaultEffect_storesOk (at_storesOk h))
  | remount _ _ _ => exact done_keeps (remountEffect_storesOk (at_storesOk h))
  | cmdOverrun _ _ _ => exact done_keeps (overrunEffect_storesOk (at_storesOk h))
  | tagGrant _ _ _ _ => exact execTagGrant_keeps h
  | memRead _ _ _ _ => exact execMemRead_keeps h
  | memWrite _ _ _ _ => exact execMemWrite_keeps h
  | lineRecovery _ _ _ _ _ => exact done_keeps (recoveryEffect_storesOk (at_storesOk h))
  | memSlot _ _ _ _ => exact done_keeps (slotEffect_storesOk (at_storesOk h))
  | refreshWindow _ _ => exact done_keeps (ite_storesOk (onChannel_storesOk h) h)
  | mr4Poll _ _ _ => exact done_keeps (mr4Effect_storesOk (at_storesOk h))
  | dqsRetrain _ _ => exact execDqsRetrain_keeps h
  | currycombLine _ _ => exact done_keeps (currycombEffect_storesOk (at_storesOk h))
  | sramScrub _ _ _ => exact done_keeps (sramEffect_storesOk (at_storesOk h))
  | shadowReloadDone _ _ => exact done_keeps (shadowReloadEffect_storesOk (at_storesOk h))
  | rebindDrained _ => exact done_keeps (drainedEffect_storesOk (at_storesOk h))
  | rebindComplete _ => exact done_keeps (completeEffect_storesOk (at_storesOk h))
  | inRingEnable _ => exact done_keeps (inEnableEffect_storesOk (at_storesOk h))
  | inRingDisable => exact done_keeps (inDisableEffect_storesOk h)
  | outRingEnable _ _ _ _ => exact done_keeps (outEnableEffect_storesOk (at_storesOk h))
  | outRingDisable _ _ => exact done_keeps (outDisableEffect_storesOk (at_storesOk h))
  | inPoll _ _ => exact done_keeps (pollEffect_storesOk (at_storesOk h))
  | entryFetchDone _ _ => exact done_keeps (fetchDoneEffect_storesOk (at_storesOk h))
  | entryObserve _ => exact done_keeps (observeEffect_storesOk (at_storesOk h))
  | payloadStaged _ _ _ => exact done_keeps (stagedEffect_storesOk (at_storesOk h))
  | outConsPoll _ _ _ => exact done_keeps (consEffect_storesOk (at_storesOk h))
  | coalesceTimeout _ _ => exact done_keeps (coalesceEffect_storesOk (at_storesOk h))
  | hostStallTimeout _ _ => exact done_keeps (stallEffect_storesOk (at_storesOk h))
  | functionLevelReset _ => exact execFunctionLevelReset_keeps h
  | linkDown _ => exact done_keeps (linkDownEffect_storesOk (at_storesOk h))
  | perstAssert _ => exact done_keeps (linkDownEffect_storesOk (at_storesOk h))
  | pauseGait _ _ => exact done_keeps (startVerb_storesOk (fun _ h => pauseVerb_storesOk h) (at_storesOk h))
  | resumeGait _ _ => exact done_keeps (startVerb_storesOk (fun _ h => resumeVerb_storesOk h) (at_storesOk h))
  | selectPlan _ _ => exact done_keeps (startVerb_storesOk (fun _ h => selectVerb_storesOk h) (at_storesOk h))
  | stageRecipe _ _ _ => exact done_keeps (startVerb_storesOk (fun _ h => stageVerb_storesOk h) (at_storesOk h))
  | activateOverlay _ _ =>
    exact done_keeps (startVerb_storesOk (fun _ h => activateVerb_storesOk h) (at_storesOk h))
  | deactivateOverlay _ _ =>
    exact done_keeps (startVerb_storesOk (fun _ h => deactivateVerb_storesOk h) (at_storesOk h))
  | requestAttestation _ _ =>
    exact done_keeps (startVerb_storesOk (fun _ h => attestVerb_storesOk h) (at_storesOk h))
  | verbUnknown _ _ _ =>
    exact done_keeps (ite_storesOk (at_storesOk h)
      (startVerb_storesOk (fun _ h => failVerb_storesOk h) (at_storesOk h)))
  | verbOverrun code seq _ => exact execVerbOverrun_keeps (code := code) (seq := seq) h
  | verbComplete _ => exact done_keeps (verbCompleteEffect_storesOk (at_storesOk h))
  | evtSelect _ => exact done_keeps (evtSelectEffect_storesOk h)
  | hostTime _ _ => exact done_keeps (hostTimeEffect_storesOk (at_storesOk h))
  | recipeBindSwitch _ _ => exact done_keeps (switchEffect_storesOk (at_storesOk h))
  | journalEntry _ _ _ => exact done_keeps (journalEffect_storesOk (at_storesOk h))
  | journalAckTimeout _ => exact execJournalAckTimeout_keeps h
  | heartbeat _ _ => exact execHeartbeat_keeps h
  | heartbeatLost _ _ => exact done_keeps (beatLostEffect_storesOk (at_storesOk h))
  | bridleClaim _ _ _ => exact done_keeps (claimEffect_storesOk (at_storesOk h))
  | epochSettled _ => exact done_keeps (settle_storesOk (at_storesOk h))
  | setOther _ _ _ => exact execSetOther_keeps h
  | clearOther _ _ _ => exact execClearOther_keeps h
  | staleEpoch _ _ _ _ => exact done_keeps (staleEffect_storesOk (at_storesOk h))
  | takeover _ => exact done_keeps (takeoverEffect_storesOk (at_storesOk h))
  | reinRestart _ _ _ => exact done_keeps (restartEffect_storesOk (at_storesOk h))
  | reinRestored _ _ => exact done_keeps (restoredEffect_storesOk (at_storesOk h))
  | reinDoubleLoss _ _ _ => exact done_keeps (doubleLossEffect_storesOk (at_storesOk h))
  | spareCheck _ _ => exact done_keeps (spareCheckEffect_storesOk (at_storesOk h))
  | resetNAssert _ => exact done_keeps (fullReset_storesOk h)
  | boot _ => exact done_keeps (bootEffect_storesOk h)
  | scriptWrite _ _ _ => exact done_keeps (scriptEffect_storesOk (at_storesOk h))
  | scriptWriteMasked _ _ _ _ => exact done_keeps (scriptEffect_storesOk (at_storesOk h))
  | scriptDelay _ _ => exact done_keeps (delayEffect_storesOk (at_storesOk h))
  | svnAdvance _ => exact done_keeps (svnEffect_storesOk (at_storesOk h))
  | keyFuse _ => exact done_keeps (keyEffect_storesOk (at_storesOk h))
  | storeCommitTimer _ _ => exact done_keeps (commitTimerEffect_storesOk (at_storesOk h))
  | studbookRecordClose _ => exact done_keeps (recordCloseEffect_storesOk (at_storesOk h))
  | norOpDone _ => exact done_keeps (norDoneEffect_storesOk (at_storesOk h))
  | supplyHoldStart _ _ => exact done_keeps (holdStartEffect_storesOk (at_storesOk h))
  | supplyHoldEnd _ => exact done_keeps (holdEndEffect_storesOk (at_storesOk h))
  | supplyReset _ => exact done_keeps (fullReset_storesOk h)
  | vidAdjust _ => exact done_keeps (vidAdjustEffect_storesOk (at_storesOk h))
  | vidStep _ => exact done_keeps (vidStepEffect_storesOk (at_storesOk h))
  | vidWarnTrack _ => exact done_keeps (warnTrackEffect_storesOk (at_storesOk h))
  | thermalSample _ _ => exact done_keeps (thermalEffect_storesOk (at_storesOk h))
  | thermtrip _ _ => exact done_keeps (onPower_storesOk (fullReset_storesOk h))
  | thermtripRelease _ _ => exact done_keeps (tripReleaseEffect_storesOk (at_storesOk h))
  | pllUnlock _ => exact done_keeps (fullReset_storesOk h)
  | domainSwitch _ => exact done_keeps (switchStartEffect_storesOk (at_storesOk h))
  | domainSwitchDone _ => exact done_keeps (switchDoneEffect_storesOk (at_storesOk h))
  | laneAlignmentDone _ _ => exact execLaneAlignmentDone_keeps h
  | linkUp _ => exact execLinkUp_keeps h
  | reinInternalFault _ _ => exact done_keeps (reinFault_storesOk (at_storesOk h))
  | bandwidthTokenRefill _ _ => exact done_keeps (refillBandwidth_storesOk (at_storesOk h))

/-- Settles O58: a step runs the command at the front of the queue, or none, and every command keeps the stores canonical. -/
theorem everyStepKeepsStoresCanonical : Obligations.EveryStepKeepsStoresCanonical := by
  unfold Obligations.EveryStepKeepsStoresCanonical
  intro s u h e
  unfold step at e
  split at e
  · cases e
    exact h
  next c rest _ => exact exec_keeps (s := { s with pending := rest }) c h u e

end Sys2Proof.Machine
end

/-! ## Token buckets (R30, R340) -/

namespace Sys2Proof.Machine

/-- Where what `erase` does not blank is the same but for what a command's end may change, the end of the command keeps it. -/
theorem kept_commit {erase : State → State} {s n : State} (o : State) (h : erase n.quiet = erase s.quiet) :
    Kept erase s (commit o n) := by
  unfold Kept
  rw [commit_quiet, h]

theorem refillTokens_gallop {s : State} {p : Fin 6} {r : Recipe} (h : s.gallopRecipe p = some r) :
    s.refillTokens p = s.onPart p fun y => { y with
      tokens := min (r.burst * tokenUnit) (s.parts[p].tokens + r.rate * (s.now - s.parts[p].tokenTime)), tokenTime := s.now } := by
  simp only [State.refillTokens, h]

/-- A GALLOP bucket's level and refill instant, set anew, hide what they were. -/
theorem bucket_hides (v : Vector Partition 6) (p : Fin 6) (n t : Nat) :
    vmod (vmod v p fun y => { y with tokens := n, tokenTime := t }) p (fun y => { y with tokens := 0, tokenTime := 0 })
      = vmod v p fun y => { y with tokens := 0, tokenTime := 0 } :=
  vmod_hides v p _ _ fun _ => rfl

theorem tokens_setTokens {c : MemClass} {i : Fin 8} (h : bucketOf c = some i) (m : Memory) (n : Nat) :
    (m.setTokens n c).tokens c = n := by
  cases c <;> simp_all [bucketOf, Memory.tokens, Memory.setTokens]

theorem setTokens_bwTime (m : Memory) (n : Nat) (c : MemClass) : (m.setTokens n c).bwTime = m.bwTime := by
  cases c <;> rfl

/-- A bucket's level and refill instant, set anew, hide what they were. -/
theorem setTokens_hides (m : Memory) (n : Nat) (c : MemClass) (i : Fin 8) (t : Nat) :
    { ({ m.setTokens n c with bwTime := m.bwTime.set i t } : Memory).setTokens 0 c with bwTime := (m.bwTime.set i t).set i 0 }
      = { m.setTokens 0 c with bwTime := m.bwTime.set i 0 } := by
  cases c <;> simp [Memory.setTokens]

theorem tokens_withTime (m : Memory) (c : MemClass) (v : Vector Nat 8) :
    ({ m with bwTime := v } : Memory).tokens c = m.tokens c := by
  cases c <;> rfl

/-- A bandwidth token refill of a class that has a bucket: the level and the instant of its bucket change, and nothing else. -/
theorem bandwidthTokenRefill_bucket (s : State) {c : MemClass} {i : Fin 8} (h : bucketOf c = some i) (t : Nat) :
    Answers (.bandwidthTokenRefill c t) s fun u =>
      u.now = max s.now t ∧ u.mem.bwTime[i] = u.now
      ∧ u.mem.tokens c = min bucketDepth (s.mem.tokens c + (u.now - s.mem.bwTime[i]) * (s.classRate c * 15625))
      ∧ Kept (fun x => { x with mem := { x.mem.setTokens 0 c with bwTime := x.mem.bwTime.set i 0 } }) s u := by
  have hrate : (s.at t).classRate c = s.classRate c := by cases c <;> rfl
  refine ⟨_, rfl, ?_⟩
  simp only [State.refillBandwidth, h, hrate, commit_now, commit_mem, State.at_now, State.at_mem, setTokens_bwTime, tokens_withTime,
    tokens_setTokens h, Nat.mul_assoc]
  refine ⟨trivial, by simp, trivial, kept_commit _ ?_⟩
  exact congrArg (fun m => { s.quiet with mem := m }) (setTokens_hides s.mem _ c i _)

/-- Settles O9: a refill sets the level of one bucket and the instant of its refill. -/
theorem tokenBucketsRefill : Obligations.TokenBucketsRefill := by
  refine ⟨fun s p t r h => ⟨_, rfl, ?_⟩, fun s t => ?_, fun s p d t hd hb => ?_, fun s t => ?_⟩
  · rw [refillTokens_gallop (s := s.at t) h]
    refine ⟨commit_now _ _, by simp, by simp, kept_commit _ ?_⟩
    exact congrArg (fun v => { s.quiet with parts := v }) (bucket_hides s.parts p _ _)
  · exact bandwidthTokenRefill_bucket s (c := .frontEnd) rfl t
  · have hrate : s.classRate (.part p) = d.bwMin := by simp only [State.classRate, hd, hb, if_true]
    rw [← hrate]
    exact bandwidthTokenRefill_bucket s (c := .part p) rfl t
  · exact bandwidthTokenRefill_bucket s (c := .recovery) rfl t

end Sys2Proof.Machine

/-! ## One element of a vector, one side of the list -/

namespace Sys2Proof.Machine

theorem vmod_congr {α : Type} {n : Nat} (v : Vector α n) (i : Fin n) {f g : α → α} (h : f v[i] = g v[i]) :
    vmod v i f = vmod v i g := by
  simp only [vmod, h]

theorem vmod_self {α : Type} {n : Nat} (v : Vector α n) (i : Fin n) {f : α → α} (h : f v[i] = v[i]) : vmod v i f = v := by
  unfold vmod
  rw [h]
  exact Vector.set_getElem_self _

theorem vmod_vmod {α : Type} {n : Nat} (v : Vector α n) (i : Fin n) (f g : α → α) :
    vmod (vmod v i f) i g = vmod v i fun x => g (f x) := by
  simp [vmod]

theorem side?_key {s : State} {k : Nat} {x : Side} (h : s.side? k = some x) : x.key = k := by
  simpa using List.find?_some h

section
variable {f : Side → Side} (hf : ∀ y, (f y).key = y.key)
include hf

theorem onSide_key (k : Nat) (y : Side) : (if y.key = k then f y else y).key = y.key := by
  split
  · exact hf y
  · rfl

theorem side?_onSide {s : State} {k : Nat} {x : Side} (h : s.side? k = some x) : (s.onSide k f).side? k = some (f x) := by
  have hkey : ((fun y : Side => y.key == k) ∘ fun y => if y.key = k then f y else y) = fun y => y.key == k :=
    funext fun y => congrArg (· == k) (onSide_key hf k y)
  have hx : x.key = k := side?_key h
  unfold State.side? at h ⊢
  rw [State.onSide_sides, List.find?_map, hkey, h, Option.map_some, if_pos hx]

theorem onSide_onSide (s : State) (k : Nat) (g : Side → Side) : (s.onSide k f).onSide k g = s.onSide k fun y => g (f y) := by
  unfold State.onSide
  simp only [List.map_map]
  congr 1
  refine List.map_congr_left fun y _ => ?_
  by_cases hy : y.key = k
  · simp [hy, hf]
  · simp [hy]

theorem onSide_others (s : State) (k : Nat) :
    (s.onSide k f).sides.filter (fun y => y.key != k) = s.sides.filter fun y => y.key != k := by
  rw [State.onSide_sides, List.filter_map]
  have hkey : ((fun y : Side => y.key != k) ∘ fun y => if y.key = k then f y else y) = fun y => y.key != k :=
    funext fun y => congrArg (· != k) (onSide_key hf k y)
  rw [hkey]
  refine (List.map_congr_left fun y hy => ?_).trans (List.map_id _)
  have hne : y.key ≠ k := by simpa using (List.mem_filter.1 hy).2
  exact if_neg hne

/-- What every side of the key has after the update of it. -/
theorem onSide_all (s : State) (k : Nat) {P : Side → Prop} (h : ∀ y, P (f y)) :
    ∀ y ∈ (s.onSide k f).sides, y.key = k → P y := by
  intro y hy hk
  obtain ⟨z, _, rfl⟩ := List.mem_map.1 hy
  have hz : z.key = k := (onSide_key hf k z).symm.trans hk
  rw [if_pos hz]
  exact h z

end

/-! ## Arrivals at stage 5 (R30, R272 to R274) -/

/-- A refill changes the level and the refill instant of one bucket. -/
theorem refillTokens_eq (s : State) (p : Fin 6) :
    ∃ n t, s.refillTokens p = s.onPart p fun y => { y with tokens := n, tokenTime := t } := by
  unfold State.refillTokens
  split
  · exact ⟨_, _, rfl⟩
  · refine ⟨s.parts[p].tokens, s.parts[p].tokenTime, ?_⟩
    unfold State.onPart
    rw [vmod_self _ _ rfl]

/-- The tokens that a side finds at stage 5. -/
def State.tokensFor (s : State) (x : Side) : Nat := (s.refillTokens x.part).parts[x.part].tokens

/-- Whether a side conforms once it is metered. -/
def State.conforms (s : State) (x : Side) : Bool := if x.gait = 0 then decide (tokenUnit ≤ s.tokensFor x) else x.conforming

/-- A side of gait `g` once it is metered. -/
def Side.metered (g : Fin 4) (conf : Bool) (y : Side) : Side :=
  if g = 0 then { y with conforming := conf, status := if conf = false then insertStatus 0x0305 0 y.status else y.status } else y

/-- The bucket of a partition once a side is metered. -/
def State.tokensLeft (s : State) (x : Side) : Nat :=
  if x.gait = 0 then (if s.conforms x = true then s.tokensFor x - tokenUnit else s.tokensFor x) else s.parts[x.part].tokens

theorem metered_key (g : Fin 4) (conf : Bool) (y : Side) : (y.metered g conf).key = y.key := by
  unfold Side.metered
  split <;> rfl

/-- What metering a side does: a GALLOP side takes a token or carries OVER_RATE, another stays as it is. -/
theorem meter_eq (s : State) (x : Side) : ∃ t, s.meter x = (s.onSide x.key (Side.metered x.gait (s.conforms x))).onPart x.part
    fun y => { y with tokens := s.tokensLeft x, tokenTime := t } := by
  by_cases hg : x.gait = 0
  · obtain ⟨n, t, hr⟩ := refillTokens_eq s x.part
    have hn : s.tokensFor x = n := by simp [State.tokensFor, hr]
    refine ⟨t, ?_⟩
    by_cases hc : tokenUnit ≤ n
    · simp [State.meter, State.conforms, State.tokensLeft, Side.metered, hg, hr, hn, hc, State.onPart, vmod_vmod, State.onSide]
    · simp only [State.meter, State.conforms, State.tokensLeft, hg, hr, hn, hc]
      simp [State.addStatus, onSide_onSide, State.onPart, hc]
      rfl
  · refine ⟨s.parts[x.part].tokenTime, ?_⟩
    have hid : Side.metered x.gait (s.conforms x) = id := funext fun y => if_neg hg
    rw [State.onPart, vmod_self _ _ (by simp only [State.tokensLeft, if_neg hg]; rfl)]
    simp [State.meter, hg, hid, State.onSide]


/-- A side of gait `g` that has joined the admission queue. -/
def Side.queued (g : Fin 4) (conf : Bool) (now : Nat) (y : Side) : Side :=
  { y.metered g conf with stage := .queued, tArrive := now, arrived := true }

theorem queued_key (g : Fin 4) (conf : Bool) (now : Nat) (y : Side) : (y.queued g conf now).key = y.key := metered_key g conf y

theorem queued_conforming (s : State) (x : Side) (now : Nat) : (x.queued x.gait (s.conforms x) now).conforming = s.conforms x := by
  unfold Side.queued Side.metered
  split
  · rfl
  · next h => simp only [State.conforms, if_neg h]

theorem queued_status (g : Fin 4) (conf : Bool) (now : Nat) (y : Side) :
    (y.queued g conf now).status = if g = 0 ∧ conf = false then insertStatus 0x0305 0 y.status else y.status := by
  unfold Side.queued Side.metered
  by_cases hg : g = 0 <;> simp [hg]

theorem admitAll_idle {s : State} (h : s.holderActs = false) : s.admitAll = s := by
  simp [State.admitAll, h]

/-- An arrival that finds a queue position free while no Rein acts: the side is metered and waits at the end of the queue. -/
theorem arrivalEffect_queued {s : State} {k : Nat} {x : Side} (hx : s.side? k = some x) (hstage : x.stage = .arriving)
    (hfull : x.statusOnly = false) (hbound : s.parts[x.part].bound = true) (hq : s.queueUsed < queueMax)
    (hh : s.holderActs = false) :
    ∃ t, arrivalEffect k s =
      { (s.onSide k (Side.queued x.gait (s.conforms x) s.now)).onPart x.part fun y => { y with
          tokens := s.tokensLeft x, tokenTime := t } with
        queue := s.queue ++ [⟨k, false, 0, x.gait, x.part, s.now, s.conforms x, false⟩] } := by
  obtain ⟨t, hm⟩ := meter_eq s x
  have hk : x.key = k := side?_key hx
  have hy : (s.meter x).side? k = some (x.metered x.gait (s.conforms x)) := by
    rw [hm, hk]
    exact side?_onSide (metered_key _ _) hx
  have hconf : (x.metered x.gait (s.conforms x)).conforming = s.conforms x := queued_conforming s x s.now
  refine ⟨t, ?_⟩
  unfold arrivalEffect
  rw [hx]
  dsimp only
  rw [if_neg (by simp [hstage, hfull]), if_neg (by rw [hbound]; exact nofun), if_neg (by omega), hy]
  dsimp only
  rw [hconf, hm, hk]
  refine (admitAll_idle (by exact hh)).trans ?_
  exact congrArg (fun z : State => ({ z.onPart x.part fun y => { y with tokens := s.tokensLeft x, tokenTime := t } with
    queue := s.queue ++ [⟨k, false, 0, x.gait, x.part, s.now, s.conforms x, false⟩] } : State))
    (onSide_onSide (metered_key x.gait (s.conforms x)) s k fun y => { y with stage := .queued, tArrive := s.now, arrived := true })

/-! ## Contexts released (R227, R275) -/

/-- A partition without what its KV pool has reserved. -/
def Partition.unpooled (y : Partition) : Partition := { y with pools := [] }

/-- An engine without its look-aside entries. -/
def Engine.unlabbed (e : Engine) : Engine := { e with lab := [] }

/-- A state without what the release of contexts touches: the contexts, the KV pools and the look-aside entries. -/
def State.unpooled (s : State) : State :=
  { s with contexts := [], parts := s.parts.map Partition.unpooled, engines := s.engines.map Engine.unlabbed }

theorem onEngine_unpooled (s : State) (e : Fin 7) {f : Engine → Engine} (hf : ∀ g, (f g).unlabbed = g.unlabbed) :
    (s.onEngine e f).unpooled = s.unpooled :=
  congrArg (fun v => { s.unpooled with engines := v }) (vmod_map s.engines e f _ hf)

theorem onPart_unpooled (s : State) (p : Fin 6) {f : Partition → Partition} (hf : ∀ y, (f y).unpooled = y.unpooled) :
    (s.onPart p f).unpooled = s.unpooled :=
  congrArg (fun v => { s.unpooled with parts := v }) (vmod_map s.parts p f _ hf)

theorem freeKv_unpooled (s : State) (c : Context) : (s.freeKv c).unpooled = s.unpooled := by
  unfold State.freeKv
  split
  · rfl
  · exact foldl_keeps (P := fun z : State => z.unpooled = s.unpooled)
      (fun z e h => (onEngine_unpooled z e (by exact fun _ => rfl)).trans h) (onPart_unpooled s c.part (by exact fun _ => rfl))

theorem freeKv_contexts (s : State) (c : Context) : (s.freeKv c).contexts = s.contexts := by
  unfold State.freeKv
  split
  · rfl
  · exact foldl_keeps (P := fun z : State => z.contexts = s.contexts) (fun z e h => h) rfl

theorem freeContext_unpooled (s : State) (c : Context) : (s.freeContext c).unpooled = s.unpooled := freeKv_unpooled s c

theorem freeContext_contexts (s : State) (c : Context) :
    (s.freeContext c).contexts = s.contexts.filter fun x => x.id != c.id := by
  rw [← freeKv_contexts s c]
  rfl

/-- What the release of a side leaves as it was. -/
theorem freeSide_unpooled (s : State) (k : Nat) :
    (s.freeSide k).unpooled = { s.unpooled with queue := s.queue.filter fun w => w.side != k } := by
  have h : ((s.contexts.filter fun c => c.side == k).foldl State.freeContext s).unpooled = s.unpooled :=
    foldl_keeps (P := fun z : State => z.unpooled = s.unpooled) (fun z c h => (freeContext_unpooled z c).trans h) rfl
  exact congrArg (fun z : State => { z with queue := z.queue.filter fun w => w.side != k }) h

/-- Contexts released one after another: those that remain were there before, and none has the id of a released one. -/
theorem freeContexts_remain (l : List Context) (s : State) :
    ∀ c ∈ (l.foldl State.freeContext s).contexts, c ∈ s.contexts ∧ ∀ d ∈ l, c.id ≠ d.id := by
  induction l generalizing s with
  | nil => simp
  | cons d l ih =>
    intro c hc
    obtain ⟨hmem, hids⟩ := ih (s.freeContext d) c hc
    rw [freeContext_contexts, List.mem_filter] at hmem
    exact ⟨hmem.1, List.forall_mem_cons.2 ⟨by simpa using hmem.2, hids⟩⟩

theorem freeSide_contexts (s : State) (k : Nat) : ∀ c ∈ (s.freeSide k).contexts, c.side ≠ k := by
  intro c hc hk
  obtain ⟨hmem, hids⟩ := freeContexts_remain _ s c hc
  exact hids c (List.mem_filter.2 ⟨hmem, by simpa using hk⟩) rfl

@[simp] theorem freeSide_queue (s : State) (k : Nat) : (s.freeSide k).queue = s.queue.filter fun w => w.side != k :=
  (congrArg State.queue (freeSide_unpooled s k) :)
@[simp] theorem freeSide_sides (s : State) (k : Nat) : (s.freeSide k).sides = s.sides :=
  (congrArg State.sides (freeSide_unpooled s k) :)
@[simp] theorem freeSide_host (s : State) (k : Nat) : (s.freeSide k).host = s.host :=
  (congrArg State.host (freeSide_unpooled s k) :)

theorem freeSide_side? (s : State) (k j : Nat) : (s.freeSide k).side? j = s.side? j := by
  simp only [State.side?, freeSide_sides]

/-- A side that found no queue position free. -/
def Side.turnedAway (y : Side) : Side := { y with status := insertStatus 0x0304 0 y.status, statusOnly := true }

/-- An arrival of a scanned side that finds no queue position free: its contexts, requests and frames go. -/
theorem arrivalEffect_full {s : State} {k : Nat} {x : Side} (hx : s.side? k = some x) (hstage : x.stage = .arriving)
    (hfull : x.statusOnly = false) (hbound : s.parts[x.part].bound = true) (hq : queueMax ≤ s.queueUsed)
    (hhost : x.host = false) :
    arrivalEffect k s = (((s.freeSide k).onSide k Side.turnedAway).freeFrames k).countChip Chip.admitFull 1 := by
  unfold arrivalEffect
  rw [hx]
  dsimp only
  rw [if_neg (by simp [hstage, hfull]), if_neg (by rw [hbound]; exact nofun), if_pos hq, if_neg (by simp [hhost])]
  exact congrArg (fun z : State => (z.freeFrames k).countChip Chip.admitFull 1)
    (onSide_onSide (f := fun y => { y with status := insertStatus 0x0304 0 y.status }) (fun _ => rfl) (s.freeSide k) k
      fun y => { y with statusOnly := true })

theorem commit_side? (o n : State) (k : Nat) : (commit o n).side? k = n.side? k := by
  simp only [State.side?, commit_sides]

/-- Settles O10: the arrival is metered and queued, or abandoned, by the free positions of the queue. -/
theorem arrivalIsMeteredAndQueued : Obligations.ArrivalIsMeteredAndQueued := by
  intro s k x t hx hstage hfull hbound hh
  constructor
  · intro hq level conf
    obtain ⟨t', he⟩ := arrivalEffect_queued (s := s.at t) hx hstage hfull hbound hq hh
    have hkey := queued_key x.gait conf (max s.now t)
    refine ⟨_, congrArg (done s) he, ?_⟩
    simp only [commit_now, commit_queue, commit_sides, commit_parts, commit_side?]
    refine ⟨rfl, onSide_all hkey (s.at t) k fun y => ⟨rfl, rfl, rfl⟩,
      ⟨_, side?_onSide hkey (s := s.at t) hx, queued_conforming (s.at t) x _, queued_status _ _ _ x⟩, ?_, kept_commit _ ?_⟩
    · exact congrArg Partition.tokens (vmod_same s.parts x.part _)
    · exact congrArg₂ (fun v w => { s.quiet with queue := [], sides := v, parts := w }) (onSide_others hkey (s.at t) k)
        (bucket_hides s.parts x.part _ _)
  · intro hq hhost
    refine ⟨_, congrArg (done s) (arrivalEffect_full (s := s.at t) hx hstage hfull hbound hq hhost), ?_⟩
    simp only [commit_side?, commit_queue, commit_contexts, commit_frames, commit_host_chip]
    have hside := (freeSide_side? (s.at t) k k).trans hx
    refine ⟨⟨_, side?_onSide (f := Side.turnedAway) (fun _ => rfl) hside, rfl, rfl⟩, fun w hw => ?_,
      freeSide_contexts (s.at t) k, fun f hf => ?_, congrArg (fun h : HostIf => bumpAt h.chip 3 1) (freeSide_host (s.at t) k)⟩
    · have hw : w ∈ ((s.at t).freeSide k).queue := hw
      rw [freeSide_queue, List.mem_filter] at hw
      simpa using hw.2
    · simpa using (List.mem_filter.1 hf).2

end Sys2Proof.Machine

/-! ## Records: statuses, items and bytes (R373, R378, R380) -/

namespace Sys2Proof.Machine

/-- The codes that a list of statuses carries once one is entered. -/
theorem code_mem_insertStatus (code detail : Nat) (c : Half) (l : List (Half × Half)) :
    (∃ q ∈ insertStatus code detail l, q.1 = c) ↔ (∃ q ∈ l, q.1 = c) ∨ c = BitVec.ofNat 16 code := by
  induction l with
  | nil => simp [insertStatus, eq_comm]
  | cons q l ih =>
    obtain ⟨a, d⟩ := q
    unfold insertStatus
    split
    · next h =>
      have ha : BitVec.ofNat 16 code = a := by rw [← h, BitVec.ofNat_toNat, BitVec.setWidth_eq]
      rw [ha]
      simp only [List.exists_mem_cons_iff, eq_comm (a := c)]
      exact (or_iff_left_of_imp Or.inl).symm
    · split
      · simp only [List.exists_mem_cons_iff, eq_comm (a := c)]
        exact or_comm
      · simp only [List.exists_mem_cons_iff, ih, or_assoc]

theorem code_mem_fitRecord (limit : Nat) (st : List (Half × Half)) (items : List (List Byte)) {c : Half} (h : c ≠ 0x0403) :
    (∃ q ∈ (fitRecord limit st items).1, q.1 = c) ↔ ∃ q ∈ st, q.1 = c := by
  unfold fitRecord
  split
  · rfl
  · exact (code_mem_insertStatus _ _ c st).trans (or_iff_left h)

theorem fitRecord_nil (limit : Nat) (st : List (Half × Half)) : (fitRecord limit st []).2 = [] := by
  unfold fitRecord
  split <;> rfl

/-- The bytes of a record. -/
def Rec.bytes (ver : Half) (r : Rec) : List Byte :=
  recordHeader ver r r.status r.items.isEmpty r.used ++ statusItem r.status ++ r.items.flatMap id

theorem recordHeader_length (ver : Half) (x : Rec) (st : List (Half × Half)) (plain : Bool) (len : Nat) :
    (recordHeader ver x st plain len).length = 32 := by
  simp [recordHeader]

theorem rec_bytes_length (ver : Half) (r : Rec) : (r.bytes ver).length = recordBytes r.status r.items := by
  simp [Rec.bytes, recordHeader_length, recordBytes, Nat.add_assoc]

/-! ## Bytes written to main memory (R324) -/

/-- A write to main memory leaves every byte outside its range. -/
theorem mainWrite_outside (s : State) (a : Nat) (bs : List Byte) {x : Nat} (hx : x < a ∨ a + bs.length ≤ x) :
    (s.mainWrite a bs).1.mem.byte x = s.mem.byte x := by
  have line (z : State) (b : Nat) (cs : List Byte) (h : x < b ∨ b + cs.length ≤ x) :
      (z.writeLine b cs).1.mem.byte x = z.mem.byte x := by
    obtain ⟨_, hwritten, hrefused, _⟩ := writeLine_spec z b cs
    unfold Memory.byte
    by_cases hr : (z.writeLine b cs).2 = false ∨ cs = []
    · rw [hrefused hr]
    · rw [not_or, Bool.not_eq_false] at hr
      rw [(hwritten hr.1).resolve_right hr.2, cellsRead_write, if_neg (by omega)]
  unfold State.mainWrite
  generalize bs.length / 64 + 2 = fuel
  induction fuel generalizing s a bs with
  | zero => rfl
  | succ n ih =>
    unfold State.writeLines
    split
    · rfl
    · dsimp only
      have hline := line s a (bs.take (64 - a % 64)) (by rw [List.length_take]; omega)
      split
      · next s' hs =>
        rw [hs] at hline
        refine (ih s' _ _ ?_).trans hline
        rw [List.length_drop]
        omega
      · next s' hs =>
        rw [hs] at hline
        exact hline

/-- What a write to main memory changes: memory, and of it only what a write of data touches. -/
theorem mainPut_eq (s : State) (a : Nat) (bs : List Byte) :
    ∃ m : Memory, s.mainPut a bs = { s with mem := m } ∧ m.bare = s.mem.bare
      ∧ ∀ x, x < a ∨ a + bs.length ≤ x → m.byte x = s.mem.byte x :=
  have h := onlyMem_mainWrite s a bs
  ⟨_, h.1, h.2, fun _ hx => mainWrite_outside s a bs hx⟩

/-! ## The spool and the rings' stalls (R371, R372) -/

theorem bumpAt_zero {n : Nat} (v : Vector DWord n) (i : Nat) : bumpAt v i 0 = v := by
  refine Vector.ext fun j hj => ?_
  rw [bumpAt_get _ _ _ _ hj]
  split
  · exact BitVec.add_zero _
  · rfl

theorem spoolSettle_eq (s : State) : ∃ b, s.spoolSettle = { s with host := { s.host with spoolHigh := b } } := by
  unfold State.spoolSettle
  split
  · exact ⟨false, rfl⟩
  · exact ⟨s.host.spoolHigh, rfl⟩

/-- What bringing a ring's stall up to date changes: the ring's stall, HOST_STALL_NS and the Studbook. -/
theorem settleRing_eq (s : State) (p : Fin 6) : ∃ stud ns start out, s.settleRing p = { s with
    stud := stud
    host := { s.host with
      chip := bumpAt s.host.chip Chip.hostStallNs ns
      out := vmod s.host.out p fun o => { o with stallStart := start, stalledOut := out } } } := by
  unfold State.settleRing
  dsimp only
  split
  · refine ⟨s.stud, 0, some s.now, s.host.out[p].stalledOut, ?_⟩
    rw [bumpAt_zero]
    exact congrArg (fun v => { s with host := { s.host with out := v } }) (vmod_congr _ _ rfl)
  · next t0 _ _ =>
    split
    · exact ⟨_, _, none, false, rfl⟩
    · exact ⟨_, _, none, false, rfl⟩
  · refine ⟨s.stud, 0, s.host.out[p].stallStart, s.host.out[p].stalledOut, ?_⟩
    rw [bumpAt_zero, vmod_self _ _ rfl]

/-! ## Readiness of a record (R23, R31, R370) -/

/-- Whether a side that is ready now is late. -/
def State.isLate (s : State) (x : Side) : Bool :=
  match s.deadlineOf x, x.tStart with
  | some d, some t0 => decide (t0 + d < s.now) && !x.has 0x0101 && !x.has 0x0102
  | _, _ => false

/-- The statuses of a side once LATE is judged. -/
def State.readyStatus (s : State) (x : Side) (st : List (Half × Half)) : List (Half × Half) :=
  if s.isLate x then insertStatus 0x0306 x.lateCause.1 st else st

theorem isLate_iff (s : State) (x : Side) : s.isLate x = true ↔
    x.gait.val ≤ 1
      ∧ (∃ rc t0, s.recipeFor x.part x.gait.val = some rc ∧ x.tStart = some t0 ∧ t0 + rc.deadline * 1000 < s.now)
      ∧ x.has 0x0101 = false ∧ x.has 0x0102 = false := by
  unfold State.isLate State.deadlineOf
  by_cases hg : x.gait.val ≤ 1
  · rw [if_pos hg]
    cases s.recipeFor x.part x.gait.val <;> cases x.tStart <;> simp [hg, and_assoc]
  · simp [hg]

theorem onSide_id (s : State) (k : Nat) : s.onSide k (fun y => y) = s := by
  simp [State.onSide]

/-- What the judgement of LATE changes: the status of the side, and the Studbook. -/
theorem judgeLate_eq (s : State) (x : Side) : ∃ stud, s.judgeLate x =
    { s.onSide x.key fun y => { y with status := s.readyStatus x y.status } with stud := stud } := by
  have untouched (h : s.isLate x = false) (hs : s.judgeLate x = s) : ∃ stud, s.judgeLate x =
      { s.onSide x.key fun y => { y with status := s.readyStatus x y.status } with stud := stud } := by
    refine ⟨s.stud, ?_⟩
    simp only [State.readyStatus, h, hs, Bool.false_eq_true, if_false, onSide_id]
  cases hd : s.deadlineOf x with
  | none => exact untouched (by simp only [State.isLate, hd]) (by simp only [State.judgeLate, hd])
  | some d =>
    cases ht : x.tStart with
    | none => exact untouched (by simp only [State.isLate, hd, ht]) (by simp only [State.judgeLate, hd, ht])
    | some t0 =>
      by_cases hl : s.now > t0 + d ∧ (!x.has 0x0101) ∧ (!x.has 0x0102)
      · have hlate : s.isLate x = true := by simpa [State.isLate, hd, ht, and_assoc] using hl
        simp only [State.judgeLate, hd, ht, if_pos hl, State.readyStatus, hlate, if_true]
        split
        · exact ⟨_, rfl⟩
        · exact ⟨_, rfl⟩
      · refine untouched ?_ (by simp only [State.judgeLate, hd, ht, if_neg hl])
        refine Bool.eq_false_iff.2 fun h => hl ?_
        simpa [State.isLate, hd, ht, and_assoc] using h

/-- The record that a side's readiness completes (R373). -/
def State.recordOf (s : State) (x : Side) (items : List Item) : Rec :=
  let fitted := fitRecord (min s.sideReserve 16777208 / 8 * 8) (s.readyStatus x x.status)
    (if x.statusOnly then [] else (sortItems items).map itemBytes)
  let t0 := x.tStart.getD s.now
  { part := x.part, gait := x.gait, sideDef := x.sideDef, host := x.host, overlay := x.overlay, recipe := x.recipe
    sideId := x.sideId, sheetId := x.sheetId
    delta := BitVec.ofNat 32 (min 0xFFFFFFFF (ceilDiv (s.now - t0) 1000)), tCapture := BitVec.ofNat 64 t0
    status := fitted.1, items := fitted.2, exports := if x.statusOnly then [] else s.exportsOf x
    used := recordBytes fitted.1 fitted.2, side := x.key, at_ := s.spoolPlace (recordBytes fitted.1 fitted.2) }

/-- A side once LATE is judged. -/
def State.judgedSide (s : State) (x y : Side) : Side := { y with status := s.readyStatus x y.status }

/-- A side whose record is in the spool. -/
def Side.inSpool (y : Side) : Side := { y with stage := .ready, stageBytes := 0, reserve := 0 }

/-- LATE judged, and OVERLONG counted where the record lost items. -/
def State.judged (s : State) (x : Side) (r : Rec) : State :=
  if gainedOverlong (s.readyStatus x x.status) r.status then (s.judgeLate x).countChip Chip.overlongRecords 1 else s.judgeLate x

theorem judged_eq (s : State) (x : Side) (r : Rec) : ∃ stud chip, s.judged x r =
    { s.onSide x.key (s.judgedSide x) with stud := stud, host := { s.host with chip := chip } } := by
  obtain ⟨stud, h⟩ := judgeLate_eq s x
  unfold State.judged
  rw [h]
  split
  · exact ⟨stud, _, rfl⟩
  · exact ⟨stud, s.host.chip, rfl⟩

/-- A record entered in the spool at the end of its ring's ready records; the reservation of its side goes. -/
def State.enterSpool (s : State) (x : Side) (r : Rec) : State :=
  State.onOut { s with host := { s.host with
    spoolResv := s.host.spoolResv - x.reserve
    spoolUsed := s.host.spoolUsed + r.used } } x.part fun o => { o with records := o.records ++ [r] }

/-- A record's bytes written, and what its side held released. -/
def State.released (s : State) (x : Side) (r : Rec) : State :=
  ((((s.judged x r).mainPut r.at_ (r.bytes s.host.recVersion)).freeSide x.key).freeStage x.stageBytes).onSide x.key Side.inSpool

/-- What readiness does, step by step. -/
theorem readyEffect_steps {s : State} {x : Side} (items : List Item) (hx : s.side? x.key = some x) (hr : s.readyFor x = true) :
    let r := s.recordOf x items
    readyEffect x.key items s = ((s.released x r).enterSpool x r).spoolSettle.settleRing x.part := by
  intro r
  obtain ⟨stud, hl⟩ := judgeLate_eq s x
  obtain ⟨stud', chip, hj⟩ := judged_eq s x r
  have hside : (s.judgeLate x).side? x.key = some (s.judgedSide x x) := by
    rw [hl]
    exact side?_onSide (f := s.judgedSide x) (fun _ => rfl) hx
  have hres : (s.judgeLate x).sideReserve = s.sideReserve := by rw [hl]; rfl
  unfold readyEffect
  split
  · next h => exact nomatch h.symm.trans hx
  next y hy =>
  obtain rfl : y = x := Option.some.inj (hy.symm.trans hx)
  rw [if_neg (by simp [hr])]
  extract_lets +onlyGivenNames s1 st body
  have hst : st = s.readyStatus y y.status := by
    simp only [st, s1, hside]
    rfl
  have hfit : fitRecord (min s1.sideReserve 16777208 / 8 * 8) st body = (r.status, r.items) := by
    rw [hst, hres]
    rfl
  split
  next st' kept hfit' =>
  obtain ⟨rfl, rfl⟩ := Prod.mk.inj (hfit'.symm.trans hfit)
  extract_lets +onlyGivenNames s2 t0 r'
  have hs2 : s2 = s.judged y r := by
    simp only [s2, hst]
    rfl
  have hr' : r' = r := by
    simp only [r', t0, hs2, hj]
    rfl
  have hver : s2.host.recVersion = s.host.recVersion := by rw [hs2, hj]
  rw [hr', hver, hs2]
  unfold State.enterSpool State.released Rec.bytes Side.inSpool
  rfl

/-- What the release of a side changes. -/
theorem freeSide_eq (s : State) (k : Nat) : ∃ cs ps es,
    s.freeSide k = { s with contexts := cs, parts := ps, engines := es, queue := s.queue.filter fun w => w.side != k }
    ∧ (∀ c ∈ cs, c.side ≠ k) ∧ ps.map Partition.unpooled = s.parts.map Partition.unpooled
    ∧ es.map Engine.unlabbed = s.engines.map Engine.unlabbed :=
  have h := freeSide_unpooled s k
  ⟨(s.freeSide k).contexts, (s.freeSide k).parts, (s.freeSide k).engines
  , congrArg (fun z : State => { z with
      contexts := (s.freeSide k).contexts, parts := (s.freeSide k).parts, engines := (s.freeSide k).engines }) h
  , freeSide_contexts s k, congrArg State.parts h, congrArg State.engines h⟩

/-- What changes until a record enters the spool. -/
theorem released_eq (s : State) (x : Side) (r : Rec) (hused : r.used = recordBytes r.status r.items) : ∃ stud chip m cs ps es,
    s.released x r = { (s.onSide x.key (s.judgedSide x)).onSide x.key Side.inSpool with
      stud := stud, mem := m, contexts := cs, parts := ps, engines := es
      queue := s.queue.filter fun w => w.side != x.key
      host := { s.host with
        chip := chip
        inRing := { s.host.inRing with stageUsed := s.host.inRing.stageUsed - x.stageBytes } } }
    ∧ (∀ c ∈ cs, c.side ≠ x.key) ∧ ps.map Partition.unpooled = s.parts.map Partition.unpooled
    ∧ es.map Engine.unlabbed = s.engines.map Engine.unlabbed
    ∧ m.bare = s.mem.bare ∧ ∀ a, a < r.at_ ∨ r.at_ + r.used ≤ a → m.byte a = s.mem.byte a := by
  obtain ⟨stud, chip, hj⟩ := judged_eq s x r
  obtain ⟨m, hm, hbare, hbyte⟩ := mainPut_eq (s.judged x r) r.at_ (r.bytes s.host.recVersion)
  obtain ⟨cs, ps, es, hf, hcs, hps, hes⟩ := freeSide_eq ((s.judged x r).mainPut r.at_ (r.bytes s.host.recVersion)) x.key
  rw [hm, hj] at hps hes
  rw [rec_bytes_length, ← hused] at hbyte
  rw [hj] at hbare hbyte
  refine ⟨stud, chip, m, cs, ps, es, ?_, hcs, hps, hes, hbare, hbyte⟩
  rw [State.released, hf, hm, hj]
  rfl

/-- What changes as a record enters the spool. -/
theorem entered_eq (s : State) (x : Side) (r : Rec) : ∃ stud high ns start out,
    (s.enterSpool x r).spoolSettle.settleRing x.part = { s with
      stud := stud
      host := { s.host with
        spoolHigh := high
        chip := bumpAt s.host.chip Chip.hostStallNs ns
        spoolResv := s.host.spoolResv - x.reserve
        spoolUsed := s.host.spoolUsed + r.used
        out := vmod s.host.out x.part fun o => { o with
          records := o.records ++ [r], stallStart := start, stalledOut := out } } } := by
  obtain ⟨high, hh⟩ := spoolSettle_eq (s.enterSpool x r)
  obtain ⟨stud, ns, start, out, hs⟩ := settleRing_eq (s.enterSpool x r).spoolSettle x.part
  refine ⟨stud, high, ns, start, out, ?_⟩
  rw [hs, hh]
  simp only [State.enterSpool, State.onOut, vmod_vmod]

/-- A record carries LATE when its side did, or is late. -/
theorem late_mem_recordOf (s : State) (x : Side) (items : List Item) :
    (∃ q ∈ (s.recordOf x items).status, q.1 = 0x0306) ↔ (∃ q ∈ x.status, q.1 = 0x0306) ∨ s.isLate x = true := by
  refine (code_mem_fitRecord _ _ _ (by decide)).trans ?_
  unfold State.readyStatus
  by_cases h : s.isLate x = true
  · rw [if_pos h]
    exact (code_mem_insertStatus _ _ _ _).trans (or_congr_right (iff_of_true rfl h))
  · simp [h]

theorem recordOf_statusOnly {s : State} {x : Side} (items : List Item) (h : x.statusOnly = true) :
    (s.recordOf x items).items = [] ∧ (s.recordOf x items).exports = [] := by
  simp only [State.recordOf, h, if_true, fitRecord_nil, and_self]

/-- Settles O12: the record enters the spool and its side's reservation, contexts and requests go. -/
theorem readyRecordEntersTheSpool : Obligations.ReadyRecordEntersTheSpool := by
  intro s k x items t hx hstage hdone
  obtain rfl := side?_key hx
  have hready : (s.at t).readyFor x = true := by
    simpa [State.readyFor, hstage, and_assoc] using hdone
  have hsteps := readyEffect_steps (s := s.at t) items hx hready
  generalize hrec : (s.at t).recordOf x items = r at hsteps
  have hused : r.used = recordBytes r.status r.items := by rw [← hrec]; rfl
  obtain ⟨stud, chip, m, cs, ps, es, hl, hcs, hps, hes, hbare, hbyte⟩ := released_eq (s.at t) x r hused
  obtain ⟨stud', high, ns, start, out, he⟩ := entered_eq ((s.at t).released x r) x r
  refine ⟨_, congrArg (done s) (hsteps.trans he), ?_⟩
  rw [hl]
  simp only [commit_now, commit_host_out, commit_host_spoolUsed, commit_host_spoolResv, commit_contexts, commit_queue, commit_sides,
    commit_mem]
  refine ⟨rfl, ⟨r, congrArg OutRing.records (vmod_same s.host.out x.part _), ?_⟩, rfl, hcs, fun w hw => ?_,
    onSide_all (f := Side.inSpool) (fun _ => rfl) _ _ fun _ => ⟨rfl, rfl⟩, kept_commit _ ?_⟩
  · subst hrec
    refine ⟨rfl, rfl, rfl, rfl, rfl, rfl, rfl, rfl, recordOf_statusOnly items, ?_, rfl, hbyte⟩
    exact (late_mem_recordOf _ x items).trans (or_congr_right (isLate_iff (s.at t) x))
  · simpa using (List.mem_filter.1 hw).2
  · dsimp only [State.quiet]
    congr 1
    · exact (onSide_others (f := Side.inSpool) (fun _ => rfl) _ _).trans
        (onSide_others (f := (s.at t).judgedSide x) (fun _ => rfl) _ _)
    · simp only [HostIf.quiet, State.at_host, vmod_vmod]

end Sys2Proof.Machine

/-! ## Publication (R19, R364 to R368) -/

namespace Sys2Proof.Machine

/-- The draft of a record that exports no image and is within the limit. -/
theorem draftOf_plain {s : State} {r : OutRing} {x : Rec} (hx : x.exports = [])
    (hl : recordBytes x.status x.items ≤ s.recordLimit r) : s.draftOf r x = ⟨x.status, x.items, [], 0, 0⟩ := by
  simp [State.draftOf, hx, fitRecord, hl, placeImages]

theorem gainedOverlong_self (st : List (Half × Half)) : gainedOverlong st st = false := by
  simp [gainedOverlong]

theorem hostWrite_up {s : State} (h : s.host.linkUp = true) (a : Nat) (bs : List Byte) :
    s.hostWrite a bs = { s with host := { s.host with mem := cellsWrite 0 s.host.mem a bs } } :=
  if_pos h

theorem signal_masked {s : State} {v : Fin 32} (h : s.host.msix[v].ctrl.getLsbD 0 = true) :
    (s.signal v).host.mem = s.host.mem := by
  simp only [State.signal, h, if_true]

/-- Whether every MSI-X vector is masked (R351). -/
def State.masked (s : State) : Prop := ∀ v : Fin 32, s.host.msix[v].ctrl.getLsbD 0 = true

/-- A state whose vectors are all masked and whose host memory is that of another. -/
def Silent (n z : State) : Prop := z.masked ∧ z.host.mem = n.host.mem

theorem Silent.signal {n z : State} (h : Silent n z) (v : Fin 32) : Silent n (z.signal v) := by
  obtain ⟨hmask, hmem⟩ := h
  refine ⟨fun w => ?_, (signal_masked (hmask v)).trans hmem⟩
  rw [State.signal_host_msix]
  exact hmask w

theorem Silent.flagParts {n z : State} (h : Silent n z) (c : Bool) : Silent n (z.flagParts c) := by
  unfold State.flagParts
  split
  · exact h
  · exact h

theorem Silent.signalDev {n z : State} (h : Silent n z) (o : State) (c : Bool) : Silent n (z.signalDev o c) := by
  unfold State.signalDev
  split
  · exact h.signal 1
  · exact h

theorem Silent.signalEvent {n z : State} (h : Silent n z) : Silent n z.signalEvent := by
  unfold State.signalEvent
  extract_lets due
  split
  · exact Silent.signal (z := { z with host := { z.host with evtSignalAt := some z.now } }) h 2
  · exact h

theorem Silent.flagEvents {n z : State} (h : Silent n z) (c : Bool) : Silent n (z.flagEvents c) := by
  unfold State.flagEvents
  split
  · exact Silent.signalEvent (z := { z with host := { z.host with evtNew := true } }) h
  · exact h

theorem Silent.strikeWaiters {n z : State} (h : Silent n z) : Silent n z.strikeWaiters := h

/-- With every vector masked, the end of a command writes nothing to host memory. -/
theorem commit_masked (o : State) {n : State} (h : n.masked) : (commit o n).host.mem = n.host.mem := by
  have hn : Silent n n := ⟨h, rfl⟩
  unfold commit
  exact (((hn.flagParts _).strikeWaiters.signalDev o _).flagEvents _).2

/-- What a skip marker changes. -/
theorem putSkip_eq (s : State) (p : Fin 6) (n : Nat) : ∃ ctr mem, s.putSkip p n = { s with
      freeCtr := ctr
      host := { s.host with
        mem := mem
        out := vmod s.host.out p fun o => { o with prod := o.prod + BitVec.ofNat 64 n } } }
    ∧ (n = 0 → mem = s.host.mem) := by
  unfold State.putSkip
  split
  · next h =>
    subst h
    refine ⟨s.freeCtr, s.host.mem, ?_, fun _ => rfl⟩
    rw [vmod_self _ _ (by rw [BitVec.add_zero])]
  · next h =>
    dsimp only
    rw [State.hostWrite_eq]
    exact ⟨_, _, rfl, fun h0 => absurd h0 h⟩

/-- What a signal of the ring's vector, due or not, changes. -/
theorem coalesce_eq (s : State) (p : Fin 6) : ∃ mem pba n first, s.coalesce p = { s with host := { s.host with
      mem := mem, pba := pba
      out := vmod s.host.out p fun o => { o with unsignalled := n, firstUnsig := first } } }
    ∧ (s.masked → mem = s.host.mem) := by
  unfold State.coalesce
  dsimp only
  split
  · refine ⟨_, _, 0, none, State.signal_eq _ _, fun h => ?_⟩
    exact signal_masked (h _)
  · refine ⟨s.host.mem, s.host.pba, s.host.out[p].unsignalled + 1,
      some (s.host.out[p].firstUnsig.getD s.now), ?_, fun _ => rfl⟩
    exact congrArg (fun v => { s with host := { s.host with out := v } }) (vmod_congr _ _ rfl)

/-- A ring's record and producer count written to host memory, at the ring's present place. -/
def State.recordPut (s : State) (p : Fin 6) (x : Rec) (rest : List Rec) : State :=
  let r := s.host.out[p]
  let len := recordBytes x.status x.items
  let prod := r.prod + BitVec.ofNat 64 len
  let bytes := recordHeader s.host.recVersion x x.status x.items.isEmpty len ++ statusItem x.status ++ x.items.flatMap id
  ((s.hostWrite (r.base.toNat + r.prod.toNat % r.bytes) bytes).hostWrite r.prodAddr.toNat (leBytes 8 prod.toNat)).onOut p
    fun o => { o with prod := prod, records := rest }

/-- A ring's record and producer count written to host memory, after a skip marker where one is needed. -/
def State.recordWritten (s : State) (p : Fin 6) (x : Rec) (rest : List Rec) : State :=
  (s.putSkip p (s.host.out[p].skip (recordBytes x.status x.items))).recordPut p x rest

/-- A published record counted, and gone from the spool, its side and frames from the chip. -/
def State.recordGone (s : State) (x : Rec) : State :=
  let z := (State.countChip { s with host := { s.host with spoolUsed := s.host.spoolUsed - x.used } } Chip.recordsPublished 1)
    |>.countChip Chip.recordBytes (recordBytes x.status x.items)
  let z := z.freeFrames x.side
  ({ z with sides := z.sides.filter fun y => y.key != x.side }).countLife 3 1

theorem recordGone_eq (s : State) (x : Rec) : s.recordGone x = { s with
    frames := s.frames.filter fun f => f.owner != x.side
    sides := s.sides.filter fun y => y.key != x.side
    store := (s.countLife 3 1).store
    host := { s.host with
      spoolUsed := s.host.spoolUsed - x.used
      chip := bumpAt (bumpAt s.host.chip Chip.recordsPublished 1) Chip.recordBytes (recordBytes x.status x.items) } } := by
  unfold State.recordGone State.countLife State.freeFrames State.countChip
  rfl

/-- What publication does with a record that exports no image and is within the limit, step by step. -/
theorem publishNext_steps {s : State} {p : Fin 6} {x : Rec} {rest : List Rec} (hrec : s.host.out[p].records = x :: rest)
    (hx : x.exports = []) (hl : recordBytes x.status x.items ≤ s.recordLimit s.host.out[p]) :
    s.publishNext p = (((s.recordWritten p x rest).recordGone x).coalesce p).spoolSettle := by
  unfold State.publishNext
  extract_lets +onlyGivenNames r
  split
  · next h => exact nomatch h.symm.trans hrec
  next y rest' h =>
  obtain ⟨rfl, rfl⟩ := List.cons.inj (h.symm.trans hrec)
  extract_lets +onlyGivenNames d all len s1 s2 r1 bytes s3 prod s4 s5 host s6 s7 s8 s9
  have hd : d = ⟨y.status, y.items, [], 0, 0⟩ := draftOf_plain hx hl
  clear_value d
  subst hd
  have hall : all = y.items := List.append_nil _
  have hlen : len = recordBytes y.status y.items := congrArg (recordBytes y.status) (List.append_nil _)
  have hs8 : s8 = s7 := if_neg (by simp [gainedOverlong_self])
  have hs9 : s9 = s7 := (if_neg (Nat.lt_irrefl 0)).trans hs8
  clear_value all len s8 s9
  subst hall hlen hs9
  have hs5 : s5 = s.recordWritten p y rest' := rfl
  clear_value s5
  subst hs5
  unfold State.recordGone
  rfl

/-- What the writes of a record and a producer count change. -/
theorem recordPut_eq {s : State} (hup : s.host.linkUp = true) (p : Fin 6) (x : Rec) (rest : List Rec) :
    let r := s.host.out[p]
    let len := recordBytes x.status x.items
    let prod := r.prod + BitVec.ofNat 64 len
    s.recordPut p x rest = { s with host := { s.host with
      mem := cellsWrite 0 (cellsWrite 0 s.host.mem (r.base.toNat + r.prod.toNat % r.bytes)
        (recordHeader s.host.recVersion x x.status x.items.isEmpty len ++ statusItem x.status ++ x.items.flatMap id))
        r.prodAddr.toNat (leBytes 8 prod.toNat)
      out := vmod s.host.out p fun o => { o with prod := prod, records := rest } } } := by
  intro r len prod
  unfold State.recordPut
  extract_lets +onlyGivenNames r' len' prod' bytes
  rw [hostWrite_up hup, hostWrite_up (by exact hup)]
  rfl

/-- What the writes of a publication change; with no skip, what they write. -/
theorem recordWritten_eq {s : State} (hup : s.host.linkUp = true) (p : Fin 6) (x : Rec) (rest : List Rec) :
    let r := s.host.out[p]
    let len := recordBytes x.status x.items
    let prod := r.prod + BitVec.ofNat 64 (r.skip len) + BitVec.ofNat 64 len
    ∃ ctr mem, s.recordWritten p x rest = { s with
      freeCtr := ctr
      host := { s.host with mem := mem, out := vmod s.host.out p fun o => { o with prod := prod, records := rest } } }
    ∧ (r.skip len = 0 → mem = cellsWrite 0 (cellsWrite 0 s.host.mem (r.base.toNat + r.prod.toNat % r.bytes)
        (recordHeader s.host.recVersion x x.status x.items.isEmpty len ++ statusItem x.status ++ x.items.flatMap id))
        r.prodAddr.toNat (leBytes 8 prod.toNat)) := by
  intro r len prod
  obtain ⟨ctr, mem, hs, hm⟩ := putSkip_eq s p (r.skip len)
  have hput := recordPut_eq (s := s.putSkip p (r.skip len)) (by rw [hs]; exact hup) p x rest
  rw [hs] at hput
  simp only [Fin.getElem_fin, vmod_same, vmod_vmod] at hput
  refine ⟨ctr, _, (congrArg (fun z : State => z.recordPut p x rest) hs).trans hput, fun h => ?_⟩
  simp only [prod, hm h, h, BitVec.add_zero, OutRing.bytes]
  rfl

/-- What the signal, the spool and the stall of a ring change after a publication. -/
theorem signalled_eq (s : State) (p : Fin 6) : ∃ stud mem pba high ns n first start out,
    (s.coalesce p).spoolSettle.settleRing p = { s with
      stud := stud
      host := { s.host with
        mem := mem, pba := pba, spoolHigh := high
        chip := bumpAt s.host.chip Chip.hostStallNs ns
        out := vmod s.host.out p fun o => { o with
          unsignalled := n, firstUnsig := first, stallStart := start, stalledOut := out } } }
    ∧ (s.masked → mem = s.host.mem) := by
  obtain ⟨mem, pba, n, first, hc, hm⟩ := coalesce_eq s p
  obtain ⟨high, hh⟩ := spoolSettle_eq (s.coalesce p)
  obtain ⟨stud, ns, start, out, hs⟩ := settleRing_eq (s.coalesce p).spoolSettle p
  refine ⟨stud, mem, pba, high, ns, n, first, start, out, ?_, hm⟩
  rw [hs, hh, hc]
  simp only [vmod_vmod]

theorem canPublish_plain {s : State} {p : Fin 6} {x : Rec} {rest : List Rec} (hen : s.host.out[p].en = true)
    (hup : s.host.linkUp = true) (hrec : s.host.out[p].records = x :: rest) (hx : x.exports = [])
    (hl : recordBytes x.status x.items ≤ s.recordLimit s.host.out[p])
    (hroom : s.host.out[p].room (recordBytes x.status x.items) = true) : s.canPublish p = true := by
  have hd := draftOf_plain hx hl
  unfold State.canPublish
  dsimp only
  rw [hen, hup, hrec]
  dsimp only
  rw [hd]
  simp [Draft.bytes, OutRing.imgRoom, -Fin.getElem_fin, hroom]

/-- Settles O13: the record is written, then the count, and the record is gone. -/
theorem publicationWritesRecordThenCount : Obligations.PublicationWritesRecordThenCount := by
  intro s p x rest t r len left skip prod hen hup hrec hx hl hroom
  have hcan : (s.at t).canPublish p = true := canPublish_plain hen hup hrec hx hl (decide_eq_true hroom)
  have hsteps : publishEffect p (s.at t)
      = ((((s.at t).recordWritten p x rest).recordGone x).coalesce p).spoolSettle.settleRing p := by
    rw [publishEffect, if_pos hcan, publishNext_steps (s := s.at t) hrec hx hl]
  obtain ⟨ctr, mem, hw, hmem⟩ := recordWritten_eq (s := s.at t) hup p x rest
  obtain ⟨stud, mem', pba, high, ns, n, first, start, out, hs, hmem'⟩ :=
    signalled_eq (((s.at t).recordWritten p x rest).recordGone x) p
  refine ⟨_, congrArg (done s) (hsteps.trans hs), ?_⟩
  rw [recordGone_eq, hw] at hmem' ⊢
  simp only [commit_host_out, commit_host_spoolUsed, commit_host_chip, commit_sides, commit_frames]
  refine ⟨?_, ?_, rfl, ?_, ?_, rfl, rfl, fun hskip hmask => ?_, kept_commit _ ?_⟩
  · simp only [Fin.getElem_fin, vmod_same]
    rfl
  · simp only [Fin.getElem_fin, vmod_same]
  · simp [bumpAt_get]
  · simp [bumpAt_get, len]
  · exact (commit_masked _ (by exact hmask)).trans ((hmem' hmask).trans (hmem hskip))
  · dsimp only [State.quiet]
    congr 1
    simp only [HostIf.quiet, State.at_host, vmod_vmod]

end Sys2Proof.Machine

/-! ## The state after reset -/

namespace Sys2Proof.Machine

/-- Settles O60: the state after reset is one closed state, and each clause reads a field of it. -/
theorem resetState : Obligations.ResetState := by
  unfold Obligations.ResetState
  decide

end Sys2Proof.Machine

/-! ## Updates of one port or transport -/

namespace Sys2Proof.Machine

theorem onPort_port (s : State) (n m : Fin 4) (f : Port → Port) :
    (s.onPort n f).ports[m] = if n = m then f s.ports[n] else s.ports[m] := vmod_get s.ports n m f

theorem onPort_same (s : State) (n : Fin 4) (f : Port → Port) : (s.onPort n f).ports[n] = f s.ports[n] :=
  (onPort_port s n n f).trans (if_pos rfl)

theorem onPort_onPort (s : State) (n : Fin 4) (f g : Port → Port) : (s.onPort n f).onPort n g = s.onPort n fun p => g (f p) :=
  congrArg (fun v => { s with ports := v }) (vmod_vmod s.ports n f g)

theorem onTransport_transport (s : State) (t m : Fin 4) (f : Transport → Transport) :
    (s.onTransport t f).transports[m] = if t = m then f s.transports[t] else s.transports[m] := vmod_get s.transports t m f

theorem onTransport_same (s : State) (t : Fin 4) (f : Transport → Transport) :
    (s.onTransport t f).transports[t] = f s.transports[t] :=
  (onTransport_transport s t t f).trans (if_pos rfl)

theorem onTransport_onTransport (s : State) (t : Fin 4) (f g : Transport → Transport) :
    (s.onTransport t f).onTransport t g = s.onTransport t fun x => g (f x) :=
  congrArg (fun v => { s with transports := v }) (vmod_vmod s.transports t f g)

/-- What only changes one port leaves the rest of the machine, and of the port what `g` does not blank. -/
theorem kept_onPort (o s : State) (t : Nat) (n : Fin 4) {f g : Port → Port} (h : ∀ p, g (f p) = g p) :
    Kept (fun z => { z with ports := vmod z.ports n g }) s (commit o ((s.at t).onPort n f)) :=
  kept_commit o (congrArg (fun v => { s.quiet with ports := v }) (vmod_hides s.ports n f g h))

/-- What only changes one transport leaves the rest of the machine, and of the transport what `g` does not blank. -/
theorem kept_onTransport (o s : State) (t : Nat) (n : Fin 4) {f g : Transport → Transport} (h : ∀ x, g (f x) = g x) :
    Kept (fun z => { z with transports := vmod z.transports n g }) s (commit o ((s.at t).onTransport n f)) :=
  kept_commit o (congrArg (fun v => { s.quiet with transports := v }) (vmod_hides s.transports n f g h))

/-! ## Cartridges (R62 to R70) -/

theorem onCartridge_cart (s : State) (n : Fin 4) (f : Cart → Cart) : (s.onCartridge n f).ports[n].cart = f s.ports[n].cart :=
  congrArg Port.cart (onPort_same s n _)

theorem onCartridge_onCartridge (s : State) (n : Fin 4) (f g : Cart → Cart) :
    (s.onCartridge n f).onCartridge n g = s.onCartridge n fun c => g (f c) := onPort_onPort s n _ _

theorem cartHolds_of_pending {s : State} {n : Fin 4} (h : s.ports[n].cart.pending = true) : s.cartHolds n = true := by
  simp only [State.cartHolds, h, Bool.or_true, Bool.true_or]

theorem cartHolds_of_absent {s : State} {n : Fin 4} (h : s.ports[n].cart.present = false) : s.cartHolds n = true := by
  simp only [State.cartHolds, h, Bool.not_false, Bool.true_or]

/-- A cartridge whose authentication holds the transport. -/
def Cart.asked (c : Cart) : Cart :=
  { c with
    pending := true, periodicDue := false, periodicRun := false, waiting := none, failures := 0, busyMs := 0, exhausted := none
    requests := if c.present then [getDescriptor] else [] }

theorem startAuth_eq (s : State) (n : Fin 4) : s.startAuth n = s.onCartridge n Cart.asked := rfl

/-- What saving a cartridge's counters changes: its entry of the persistent store. -/
theorem saveCart_eq (s : State) (n : Fin 4) : ∃ store, s.saveCart n = { s with store := store } := by
  unfold State.saveCart State.onOwnCart
  dsimp only
  split
  · split
    · exact ⟨_, rfl⟩
    · exact ⟨_, rfl⟩
  · exact ⟨_, rfl⟩

/-- What saving a known cartridge's counters changes: the counters of its entry. -/
theorem saveCart_known {s : State} {n : Fin 4} {i : Nat} (hk : s.ports[n].cart.known = true)
    (hi : s.cartIndex s.ports[n].cart.serial = some i) :
    s.saveCart n = s.onCart i fun c => { c with
      lines := s.ports[n].lines, illumS := BitVec.ofNat 32 s.ports[n].illumS.toNat } := by
  unfold State.saveCart State.onOwnCart
  dsimp only
  rw [if_pos hk, hi]

/-- A cartridge with a request of a SET_COUNTERS put on its bus, where it is there and known. -/
def Cart.sent (request : List Byte) (c : Cart) : Cart :=
  if c.present && c.known then { c with requests := c.requests ++ [request], setRun := true } else c

/-- A port with a SET_COUNTERS of its counters put on the bus of its cartridge. -/
def Port.sent (p : Port) : Port := { p with cart := p.cart.sent p.setCounters }

theorem sendCounters_eq (s : State) (n : Fin 4) : s.sendCounters n = s.onPort n Port.sent := by
  unfold State.sendCounters Port.sent Cart.sent
  congr 1
  funext p
  split
  · rfl
  · rfl

theorem sent_known {c : Cart} (request : List Byte) (hpres : c.present = true) (hknown : c.known = true) :
    c.sent request = { c with requests := c.requests ++ [request], setRun := true } := by
  rw [Cart.sent, hpres, hknown]
  rfl

/-- What the start of a NOR operation changes. -/
theorem startNor_eq (s : State) : ∃ ops busy, s.startNor = { s with norOps := ops, norBusy := busy } := by
  unfold State.startNor
  split
  · exact ⟨_, _, rfl⟩
  · split
    · exact ⟨_, _, rfl⟩
    · split
      · exact ⟨_, _, rfl⟩
      · exact ⟨_, _, rfl⟩

/-- What queueing a NOR operation changes. -/
theorem queueNor_eq (s : State) (o : NorOp) : ∃ ops busy, s.queueNor o = { s with norOps := ops, norBusy := busy } :=
  startNor_eq { s with norOps := s.norOps ++ [o] }

/-- What bringing POWER_ON_S up to date changes. -/
theorem notePower_eq (s : State) : ∃ store since,
    s.notePower = { s with store := store, boot := { s.boot with poweredAt := since } } := ⟨_, _, rfl⟩

/-- What a commit of the persistent store changes. -/
theorem commitStore_eq (s : State) : ∃ store ops busy since,
    s.commitStore = { s with store := store, norOps := ops, norBusy := busy, boot := { s.boot with poweredAt := since } } := by
  obtain ⟨store, since, hp⟩ := notePower_eq s
  unfold State.commitStore
  extract_lets +onlyGivenNames s1 x s2 page y s3
  have hs1 : s1 = _ := hp
  clear_value s1
  subst hs1
  obtain ⟨ops, busy, h⟩ := queueNor_eq s3 (.store (storeBase + 4096 * page) s3.store.page4k)
  exact ⟨_, _, _, _, h⟩

/-- What a commit of the persistent store that may fall due changes. -/
theorem commitStore_if_eq (s : State) (b : Bool) : ∃ store ops busy since,
    (if b then s.commitStore else s)
      = { s with store := store, norOps := ops, norBusy := busy, boot := { s.boot with poweredAt := since } } := by
  cases b
  · exact ⟨s.store, s.norOps, s.norBusy, s.boot.poweredAt, rfl⟩
  · exact commitStore_eq s

theorem execCartInsert_starts {s : State} {n : Fin 4} (t : Nat) (hup : s.up = true) (hen : s.ports[n].cfgEn = true)
    (habs : s.ports[n].cart.present = false) :
    exec (.cartInsert n t) s = done s ((s.at t).onCartridge n fun c => Cart.asked { c with present := true }) := by
  have hen' : ((s.at t).onCartridge n fun c => { c with present := true }).ports[n].cfgEn = true := by
    rw [State.onCartridge, onPort_same]
    exact hen
  rw [← onCartridge_onCartridge, ← startAuth_eq]
  refine congrArg (done s) (if_pos ?_)
  rw [hen', habs, Bool.and_true, Bool.not_false, Bool.and_true]
  exact hup

/-- A cartridge that has been taken away. -/
def Cart.gone (c : Cart) : Cart := { c with present := false, known := false, periodicDue := false, setRun := false }

/-- A transport that is to act on the removal of a port's cartridge. -/
def Transport.told (n : Fin 4) (x : Transport) : Transport :=
  { x with pendCart := if x.pendCart.contains n then x.pendCart else x.pendCart ++ [n] }

theorem told_mem (n : Fin 4) (x : Transport) : n ∈ (x.told n).pendCart := by
  by_cases h : n ∈ x.pendCart <;> simp [Transport.told, h]

theorem told_others (n : Fin 4) (x : Transport) {m : Fin 4} (hm : m ≠ n) : m ∈ (x.told n).pendCart ↔ m ∈ x.pendCart := by
  by_cases h : n ∈ x.pendCart <;> simp [Transport.told, h, hm]

theorem told_nodup (n : Fin 4) (x : Transport) (hx : x.pendCart.Nodup) : (x.told n).pendCart.Nodup := by
  by_cases h : n ∈ x.pendCart
  · simpa [Transport.told, h] using hx
  · have hne : ∀ a ∈ x.pendCart, a ≠ n := fun a ha e => h (e ▸ ha)
    simpa [Transport.told, h, List.nodup_append, hx] using hne

/-- What a removal changes on a configured port. -/
theorem removalEffect_eq {s : State} {n : Fin 4} (hen : s.ports[n].cfgEn = true) (hpres : s.ports[n].cart.present = true) :
    ∃ store ops busy since, removalEffect n s =
      { (s.onCartridge n Cart.gone).onTransport s.ports[n].transport (Transport.told n) with
        store := store, norOps := ops, norBusy := busy, boot := { s.boot with poweredAt := since } } := by
  unfold removalEffect
  extract_lets +onlyGivenNames p known s1 s2
  obtain ⟨store, hs⟩ := saveCart_eq s n
  have hs2 : s2 = { (s.onCartridge n Cart.gone).onTransport s.ports[n].transport (Transport.told n) with store := store } := by
    refine (if_pos hen).trans ?_
    unfold s1
    rw [hs]
    rfl
  rw [if_neg (by simp only [p, hpres]; decide), hs2]
  exact commitStore_if_eq _ _

/-- Bytes written in little-endian order are read back, up to their width. -/
theorem leNat_leBytes (k n : Nat) : leNat (leBytes k n) = n % 256 ^ k := by
  induction k generalizing n with
  | zero => simp [leBytes, leNat, Nat.mod_one]
  | succ k ih =>
    have h : n % 256 ^ (k + 1) = n % 256 + 256 * (n / 256 % 256 ^ k) := by rw [Nat.pow_succ', Nat.mod_mul]
    simp only [leBytes, leNat, ih, BitVec.toNat_ofNat, h, Nat.reducePow]

/-- A number read where its bytes stand, after `pre` and before `post`. -/
theorem leAt_between (pre post : List Byte) (k n : Nat) : leAt (pre ++ leBytes k n ++ post) pre.length k = n % 256 ^ k := by
  unfold leAt
  rw [List.append_assoc, List.drop_left, List.take_left' (leBytes_length k n), leNat_leBytes]

/-- What a SET_COUNTERS carries, as it is read back from the request (R64, R69). -/
theorem leAt_setCounters (p : Port) :
    leAt p.setCounters 3 8 = p.lines.toNat ∧ leAt p.setCounters 11 4 = p.illumS.toNat % 2 ^ 32 := by
  have hlines := p.lines.isLt
  generalize hb : leBytes 8 p.lines.toNat ++ leBytes 4 p.illumS.toNat = payload
  generalize hc : leBytes 2 (crc16 ((4 : Byte) :: leBytes 2 payload.length ++ payload)) = check
  have hset : p.setCounters = (4 : Byte) :: leBytes 2 payload.length ++ payload ++ check := by
    rw [← hc, ← hb]
    rfl
  subst hb
  constructor
  · have h := leAt_between ((4 : Byte) :: leBytes 2 12) (leBytes 4 p.illumS.toNat ++ check) 8 p.lines.toNat
    rw [hset]
    simpa [Nat.mod_eq_of_lt hlines] using h
  · have h := leAt_between ((4 : Byte) :: leBytes 2 12 ++ leBytes 8 p.lines.toNat) check 4 p.illumS.toNat
    rw [hset]
    simpa using h
end Sys2Proof.Machine

namespace Sys2Proof.Machine

/-! ## Timers and events of a cartridge (R62, R67, R70, R443, R476) -/

theorem execCartReauthTimer_due {s : State} {n : Fin 4} (t : Nat) (hup : s.up = true) (hen : s.ports[n].cfgEn = true)
    (hpres : s.ports[n].cart.present = true) (hpend : s.ports[n].cart.pending = false) :
    exec (.cartReauthTimer n t) s = done s ((s.at t).onCartridge n fun c => { c with periodicDue := true }) := by
  refine congrArg (done s) (if_pos ?_)
  rw [State.at_ports, hen, hpres, hpend, Bool.and_true, Bool.and_true, Bool.not_false, Bool.and_true]
  exact hup

theorem execCalRetryTimer_due {s : State} {tr : Fin 4} {d t : Nat} (hdue : s.transports[tr].calDue = some d) (hd : d ≤ max s.now t)
    (hout : s.calOut tr = true) :
    exec (.calRetryTimer tr t) s = done s ((s.at t).onTransport tr fun x => { x with calDue := none, calNow := true }) := by
  refine congrArg (done s) (if_pos ?_)
  rw [State.at_transports, hdue]
  exact Bool.and_eq_true_iff.2 ⟨decide_eq_true hd, hout⟩

/-- A cartridge that has answered the SET_COUNTERS in progress, where there is one. -/
def Cart.answered (ok : Bool) (c : Cart) : Cart := if c.setRun then c.setDone ok else c

/-- A port whose cartridge has answered the SET_COUNTERS that went out to it. -/
def Port.answered (ok : Bool) (p : Port) : Port := { p.sent with cart := p.sent.cart.answered ok }

/-- A cartridge without what a SET_COUNTERS touches. -/
def Cart.unset (c : Cart) : Cart := { c with requests := [], setRun := false, ownLines := 0, ownIllum := 0 }

theorem sent_unset (request : List Byte) (c : Cart) : (c.sent request).unset = c.unset := by
  unfold Cart.sent
  split
  · rfl
  · rfl

theorem setDone_unset (ok : Bool) (c : Cart) : (c.setDone ok).unset = c.unset := by
  cases ok
  · rfl
  · rfl

theorem answered_unset (ok : Bool) (c : Cart) : (c.answered ok).unset = c.unset := by
  unfold Cart.answered
  split
  · exact setDone_unset ok c
  · rfl

/-- What a SET_COUNTERS that goes out and is answered leaves of a port. -/
theorem answered_hides (ok : Bool) (p : Port) :
    { p.answered ok with cart := (p.answered ok).cart.unset } = { p with cart := p.cart.unset } :=
  congrArg (fun c => { p with cart := c }) ((answered_unset ok _).trans (sent_unset _ _))

/-- A cartridge that is there holds what its SET_COUNTERS carried once it has answered OK (R69, R70). -/
theorem answered_known {p : Port} (ok : Bool) (hpres : p.cart.present = true) (hknown : p.cart.known = true) :
    (p.answered ok).cart.requests = p.cart.requests ++ [p.setCounters] ∧ (p.answered ok).cart.setRun = false
    ∧ (p.answered ok).cart.ownLines = (if ok then p.lines else p.cart.ownLines)
    ∧ (p.answered ok).cart.ownIllum = (if ok then BitVec.ofNat 32 p.illumS.toNat else p.cart.ownIllum) := by
  have hc : (p.answered ok).cart
      = Cart.setDone { p.cart with requests := p.cart.requests ++ [p.setCounters], setRun := true } ok := by
    simp only [Port.answered, Port.sent, sent_known p.setCounters hpres hknown, Cart.answered, if_true]
  obtain ⟨hl, hi⟩ := leAt_setCounters p
  rw [hc]
  cases ok
  · exact ⟨rfl, rfl, rfl, rfl⟩
  · have hlines : BitVec.ofNat 64 (leAt p.setCounters 3 8) = p.lines := by rw [hl, BitVec.ofNat_toNat, BitVec.setWidth_eq]
    have hillum : BitVec.ofNat 32 (leAt p.setCounters 11 4) = BitVec.ofNat 32 p.illumS.toNat := by
      rw [hi]
      exact BitVec.eq_of_toNat_eq (by simp)
    simp [Cart.setDone, hlines, hillum]

theorem execCartCounterCommit_known {s : State} {n : Fin 4} {i : Nat} (a : ChipAnswer) (t : Nat) (hup : s.up = true)
    (hknown : s.ports[n].cart.known = true) (hi : s.cartIndex s.ports[n].cart.serial = some i) :
    exec (.cartCounterCommit n a t) s = done s ((((s.at t).onCart i fun c => { c with
        lines := s.ports[n].lines, illumS := BitVec.ofNat 32 s.ports[n].illumS.toNat })).onPort n
      (Port.answered (answerFault a).isNone)) := by
  refine congrArg (done s) ((if_pos hup).trans ?_)
  rw [saveCart_known (s := s.at t) hknown hi, sendCounters_eq, State.onCartridge, onPort_onPort]
  rfl

/-- Settles O21: each command changes its port's cartridge, its transport or the store's entry, and the frame names each of these. -/
theorem cartridgesComeAndGo : Obligations.CartridgesComeAndGo := by
  intro s n t hup p
  refine ⟨fun hen habs => ?_, fun hen hpres => ?_, fun hen hpres hpend => ?_, fun a i hknown hi => ?_, fun tr d hdue hd hout => ?_⟩
  · refine ⟨_, execCartInsert_starts t hup hen habs, ?_⟩
    have hc : (commit s ((s.at t).onCartridge n fun c => Cart.asked { c with present := true })).ports[n].cart
        = Cart.asked { p.cart with present := true } := by
      rw [commit_ports]
      exact onCartridge_cart (s.at t) n _
    have hpend := congrArg Cart.pending hc
    exact ⟨congrArg Cart.present hc, hpend, cartHolds_of_pending hpend, congrArg Cart.requests hc, kept_onPort s s t n fun _ => rfl⟩
  · obtain ⟨store, ops, busy, since, he⟩ := removalEffect_eq (s := s.at t) hen hpres
    refine ⟨_, congrArg (done s) he, ?_⟩
    generalize hu : commit s _ = u
    have hc : u.ports[n].cart = p.cart.gone := by
      rw [← hu, commit_ports]
      exact onCartridge_cart (s.at t) n _
    have hx : u.transports[p.transport] = s.transports[p.transport].told n := by
      rw [← hu, commit_transports]
      exact onTransport_same ((s.at t).onCartridge n Cart.gone) _ _
    have habs := congrArg Cart.present hc
    rw [hx]
    refine ⟨habs, congrArg Cart.known hc, cartHolds_of_absent habs, told_mem n _, fun m hm => told_others n _ hm, told_nodup n _, ?_⟩
    rw [← hu]
    refine kept_commit _ ?_
    have hports := vmod_hides s.ports n (fun q => { q with cart := q.cart.gone }) (fun q => { q with cart := { q.cart with
      present := false, known := false, periodicDue := false, setRun := false } }) fun _ => rfl
    have htrans := vmod_hides s.transports p.transport (Transport.told n) (fun y => { y with pendCart := [] }) fun _ => rfl
    exact congrArg₂ (fun v w => { s.quiet with
      store := s.store, norOps := [], norBusy := none, boot := { s.boot with poweredAt := 0 }, transports := v, ports := w })
      htrans hports
  · refine ⟨_, execCartReauthTimer_due t hup hen hpres hpend, ?_, kept_onPort s s t n fun _ => rfl⟩
    rw [commit_ports]
    exact congrArg Cart.periodicDue (onCartridge_cart (s.at t) n _)
  · refine ⟨_, execCartCounterCommit_known a t hup hknown hi, ?_⟩
    simp only [commit_store, commit_ports]
    refine ⟨rfl, rfl, fun hpres => ?_, kept_commit _ ?_⟩
    · rw [onPort_same]
      exact answered_known _ hpres hknown
    · exact congrArg (fun v => { s.quiet with store := { s.store with carts := [], dirty := false }, ports := v })
        (vmod_hides s.ports n _ (fun q => { q with cart := q.cart.unset }) (answered_hides _))
  · refine ⟨_, execCalRetryTimer_due hdue hd hout, ?_, ?_, kept_onTransport s s t tr fun _ => rfl⟩
    · rw [commit_transports, onTransport_same]
    · rw [commit_transports, onTransport_same]
end Sys2Proof.Machine

namespace Sys2Proof.Machine

/-! ## One update for each of several ports -/

/-- Each of distinct elements is replaced once. -/
theorem foldl_vmod_get {α : Type} {n : Nat} (f : α → α) (us : List (Fin n)) (hd : us.Nodup) (v : Vector α n) (i : Fin n) :
    (us.foldl (fun v j => vmod v j f) v)[i] = if i ∈ us then f v[i] else v[i] := by
  induction us generalizing v with
  | nil => rfl
  | cons j us ih =>
    obtain ⟨hj, hd⟩ := List.nodup_cons.1 hd
    rw [List.foldl_cons, ih hd]
    simp only [Fin.getElem_fin, vmod_get, List.mem_cons]
    by_cases h : j = i
    · subst h; simp [hj]
    · simp [h, Ne.symm h]

/-- What replacing elements leaves of a vector. -/
theorem foldl_vmod_map {α β : Type} {n : Nat} {f : α → α} {g : α → β} (h : ∀ x, g (f x) = g x) (us : List (Fin n))
    (v : Vector α n) :
    (us.foldl (fun v j => vmod v j f) v).map g = v.map g :=
  foldl_keeps (P := fun w : Vector α n => w.map g = v.map g) (fun w j hw => (vmod_map w j f g h).trans hw) rfl

/-- Ports updated one after another. -/
def State.onPorts (s : State) (us : List (Fin 4)) (f : Port → Port) : State :=
  { s with ports := us.foldl (fun v n => vmod v n f) s.ports }

theorem foldl_onPort (f : Port → Port) (us : List (Fin 4)) (s : State) :
    us.foldl (fun (s : State) (n : Fin 4) => s.onPort n f) s = s.onPorts us f := by
  induction us generalizing s with
  | nil => rfl
  | cons n us ih => exact ih (s.onPort n f)

theorem tports_nodup (s : State) (t : Fin 4) : (s.tports t).Nodup := (List.nodup_finRange 4).filter _

theorem onPorts_port (s : State) {us : List (Fin 4)} (hd : us.Nodup) (f : Port → Port) (n : Fin 4) :
    (s.onPorts us f).ports[n] = if n ∈ us then f s.ports[n] else s.ports[n] := foldl_vmod_get f us hd s.ports n

/-- The counters of ports saved, and sent to their cartridges. -/
theorem foldl_commitCounters (us : List (Fin 4)) (s : State) : ∃ store,
    us.foldl (fun (s : State) (n : Fin 4) => (s.saveCart n).sendCounters n) s = { s.onPorts us Port.sent with store := store } := by
  induction us generalizing s with
  | nil => exact ⟨s.store, rfl⟩
  | cons n us ih =>
    obtain ⟨store, h⟩ := saveCart_eq s n
    obtain ⟨store', h'⟩ := ih ((s.saveCart n).sendCounters n)
    refine ⟨store', h'.trans ?_⟩
    rw [h, sendCounters_eq]
    rfl

/-- A change of an accepted cover level that the chip acts on. -/
theorem execCoverLevelAccept_changes {s : State} {c : Fin 4} {closed : Bool} (t : Nat) (hup : s.up = true)
    (hwatch : s.feCtrl.getLsbD c.val = true) (hchange : s.covers[c] ≠ closed) :
    let z : State := { s.at t with covers := s.covers.set c closed }
    exec (.coverLevelAccept c closed t) s = done s (if closed then z.closeCover c else z.openCover c) := by
  intro z
  have hbit : bit s.feCtrl.toNat c.val = true := hwatch
  refine congrArg (done s) ((if_neg ?_).trans (if_neg ?_))
  · simpa [hbit] using hchange
  · change ¬ (!z.up) = true
    rw [show z.up = true from hup]
    decide

/-- What an accepted opening changes. -/
theorem openCover_eq (s : State) (c : Fin 4) : ∃ store ops busy since, s.openCover c =
    { (s.onTransport (s.coverHome c) fun x => { x with pendCover := true }).onPorts (s.tports (s.coverHome c)) Port.sent with
      store := store, norOps := ops, norBusy := busy, boot := { s.boot with poweredAt := since } } := by
  unfold State.openCover
  extract_lets +onlyGivenNames tr s1 s2
  obtain ⟨store, h⟩ := foldl_commitCounters (s1.tports tr) s1
  have hs2 : s2 = _ := h
  rw [hs2]
  exact commitStore_if_eq _ _

theorem closeCover_eq (s : State) (c : Fin 4) :
    s.closeCover c = s.onPorts (s.tports (s.coverHome c)) fun p => { p with cart := p.cart.asked } :=
  foldl_onPort _ _ s

theorem covers_hides (v : Vector Bool 4) (c : Fin 4) (a b : Bool) : (v.set c a).set c b = v.set c b := Vector.set_set ..

/-- A port without what a SET_COUNTERS that goes out touches. -/
theorem sent_hides (p : Port) :
    { p.sent with cart := { p.sent.cart with requests := [], setRun := false } }
      = { p with cart := { p.cart with requests := [], setRun := false } } := by
  unfold Port.sent Cart.sent
  dsimp only
  split
  · rfl
  · rfl

/-- Settles O20: an accepted change marks the transport and sends, or asks, every port of it once. -/
theorem coversActOnTheirTransport : Obligations.CoversActOnTheirTransport := by
  intro s c t hup hwatch tr
  have hd := tports_nodup s tr
  have hcovers (b : Bool) : (s.covers.set c b)[c] = b := by simp
  refine ⟨fun hclosed => ?_, fun hopen => ?_⟩
  · obtain ⟨store, ops, busy, since, he⟩ := openCover_eq { s.at t with covers := s.covers.set c false } c
    refine ⟨_, (execCoverLevelAccept_changes t hup hwatch (by rw [hclosed]; decide)).trans (congrArg (done s) he), ?_⟩
    generalize hu : commit s _ = u
    have hports (n : Fin 4) : u.ports[n] = if n ∈ s.tports tr then s.ports[n].sent else s.ports[n] := by
      rw [← hu, commit_ports]
      exact onPorts_port s hd Port.sent n
    have htr : u.transports[tr].pendCover = true := by
      rw [← hu, commit_transports]
      exact congrArg Transport.pendCover (onTransport_same s tr _)
    refine ⟨?_, htr, fun n hn hpres hknown => ?_, fun n hn => (hports n).trans (if_neg hn), ?_⟩
    · rw [← hu, commit_covers]
      exact hcovers false
    · rw [hports n, if_pos hn, Port.sent, sent_known s.ports[n].setCounters hpres hknown]
      exact ⟨rfl, rfl⟩
    · rw [← hu]
      refine kept_commit _ ?_
      dsimp only [State.quiet]
      congr 1
      · exact foldl_vmod_map sent_hides _ _
      · exact vmod_hides s.transports tr (fun x => { x with pendCover := true }) _ fun _ => rfl
      · exact covers_hides s.covers c false false
  · refine ⟨_, (execCoverLevelAccept_changes t hup hwatch (by rw [hopen]; decide)).trans
      (congrArg (done s) (closeCover_eq _ c)), ?_⟩
    generalize hu : commit s _ = u
    have hports (n : Fin 4) : u.ports[n]
        = if n ∈ s.tports tr then { s.ports[n] with cart := s.ports[n].cart.asked } else s.ports[n] := by
      rw [← hu, commit_ports]
      exact onPorts_port s hd _ n
    refine ⟨?_, fun n hn => ?_, fun n hn => (hports n).trans (if_neg hn), ?_⟩
    · rw [← hu, commit_covers]
      exact hcovers true
    · have hc : u.ports[n].cart = s.ports[n].cart.asked := congrArg Port.cart ((hports n).trans (if_pos hn))
      have hpend := congrArg Cart.pending hc
      exact ⟨hpend, cartHolds_of_pending hpend, congrArg Cart.requests hc⟩
    · rw [← hu]
      refine kept_commit _ ?_
      dsimp only [State.quiet]
      congr 1
      · exact foldl_vmod_map (f := fun p : Port => { p with cart := p.cart.asked }) (fun _ => rfl) _ _
      · exact covers_hides s.covers c true false

end Sys2Proof.Machine

namespace Sys2Proof.Machine

/-! ## Causes of hold and the pins of a transport (R40, R42) -/

theorem getLsbD_setBit (b : Byte) (i j : Nat) (v : Bool) (hj : j < 8) :
    (setBit b i v).getLsbD j = if i = j then v else b.getLsbD j := by
  have hmask : ((1 : Byte) <<< i).getLsbD j = decide (i = j) := by
    rw [show (1 : Byte) <<< i = BitVec.twoPow 8 i from rfl, BitVec.getLsbD_twoPow]
    by_cases h : i = j
    · simp [h, hj]
    · simp [h]
  cases v
  · rw [setBit, if_neg (by decide), BitVec.getLsbD_and, BitVec.getLsbD_not, hmask]
    by_cases h : i = j <;> simp [h, hj]
  · rw [setBit, if_pos rfl, BitVec.getLsbD_or, hmask]
    by_cases h : i = j <;> simp [h]

/-- A transport with a cause set or cleared. -/
theorem held_setBit (x : Transport) (cause j : Nat) (v : Bool) (hj : j < 8) :
    Transport.held { x with hold := setBit x.hold cause v } j = if cause = j then v else x.held j :=
  getLsbD_setBit x.hold cause j v hj

/-- What settling the pins of a transport changes. -/
theorem settlePins_eq (s : State) (t : Fin 4) : ∃ feed en,
    s.settlePins t = s.onTransport t fun x => { x with feedHold := feed, enable := en } := by
  unfold State.settlePins
  split
  · refine ⟨s.transports[t].feedHold, s.transports[t].enable, ?_⟩
    rw [State.onTransport, vmod_self _ _ rfl]
  · refine ⟨s.transports[t].hold != 0, !s.transports[t].stopped, ?_⟩
    exact congrArg (fun v => { s with transports := v }) (vmod_congr _ _ rfl)

theorem cartCause_iff (us : List (Fin 4)) (f : Fin 4 → Bool) (removed : List (Fin 4)) :
    (us.any f || !removed.isEmpty) = true ↔ (∃ m ∈ us, f m = true) ∨ removed ≠ [] := by simp

/-- What the release of a port's transport changes. -/
theorem releaseCart_eq {s : State} {n tr : Fin 4} (htr : s.ports[n].transport = tr) : ∃ feed en,
    s.releaseCart n = s.onTransport tr fun x => { x with
      hold := setBit x.hold 3 ((s.tports tr).any s.cartHolds || !s.transports[tr].pendCart.isEmpty)
      feedHold := feed, enable := en } := by
  subst htr
  unfold State.releaseCart
  extract_lets +onlyGivenNames t hold
  obtain ⟨feed, en, h⟩ := settlePins_eq (s.setHold t HoldBit.cartridge hold) t
  exact ⟨feed, en, h.trans (onTransport_onTransport s t _ _)⟩

/-! ## The end of an authentication (R63, R66, R67) -/

/-- A response that is missing, or has a wrong length or check word, is a failed attempt. -/
theorem readResponse_bad {response : Option (List Byte)} (h : response = none ∨ ∃ b, response = some b ∧ responseOk b = false)
    (c : Cart) : c.readResponse response = c.failOnce (if response = none then .noResponse else .badCheck) := by
  rcases h with rfl | ⟨b, rfl, hb⟩
  · rfl
  · simp [Cart.readResponse, hb]

theorem failOnce_exhausted {c : Cart} (h : c.exhausted = none) (r : CartResult) :
    (c.failOnce r).exhausted = if c.failures < 2 then none else some r := by
  unfold Cart.failOnce
  by_cases hf : c.failures < 2
  · rw [if_neg (by omega), if_pos hf]
    exact h
  · rw [if_pos (by omega), if_neg hf]

theorem failOnce_failures (c : Cart) (r : CartResult) : (c.failOnce r).failures = if c.failures < 2 then c.failures + 1 else 0 := by
  unfold Cart.failOnce
  by_cases hf : c.failures < 2
  · rw [if_neg (by omega), if_pos hf]
  · rw [if_pos (by omega), if_neg hf]

/-- What a failed attempt leaves of a cartridge. -/
theorem failOnce_hides (c : Cart) (r : CartResult) :
    { c.failOnce r with failures := 0, busyMs := 0, exhausted := none } = { c with failures := 0, busyMs := 0, exhausted := none } := by
  unfold Cart.failOnce
  split
  · rfl
  · rfl

theorem execCartI2cRetry_fails {s : State} {n : Fin 4} {response : Option (List Byte)} (t : Nat) (hup : s.up = true)
    (hrun : (s.ports[n].cart.pending || s.ports[n].cart.periodicRun) = true) (hex : s.ports[n].cart.exhausted = none)
    (hbad : response = none ∨ ∃ b, response = some b ∧ responseOk b = false) :
    exec (.cartI2cRetry n response t) s
      = done s ((s.at t).onCartridge n fun c => c.failOnce (if response = none then .noResponse else .badCheck)) := by
  have hread : (fun c : Cart => c.readResponse response)
      = fun c => c.failOnce (if response = none then .noResponse else .badCheck) := funext (readResponse_bad hbad)
  rw [← hread]
  refine congrArg (done s) ?_
  rw [if_neg (by rw [show (s.at t).up = true from hup]; decide), State.at_ports, if_pos hrun, if_pos (by rw [hex]; rfl)]

/-- A cartridge whose authentication has ended with a result (R67). -/
def Cart.concluded (r : CartResult) (c : Cart) : Cart :=
  let c := { c with failures := 0, busyMs := 0, exhausted := none }
  if c.pending then { c with pending := false, result := some r, waiting := none, periodicRun := false }
  else { c with periodicRun := false, waiting := some r }

/-- Whether an authentication of a cartridge ends with a result before its descriptor has been read: there is no cartridge, it does not
answer GET_DESCRIPTOR with OK, or its descriptor is of another version (R66). -/
def Cart.unread (c : Cart) (x : CartExchange) (r : CartResult) : Prop :=
  c.present = false ∧ r = .absent
  ∨ c.present = true ∧ (x.descr = .noResponse ∧ r = .noResponse ∨ x.descr = .badCheck ∧ r = .badCheck
      ∨ x.descr = .error ∧ r = .chipError
      ∨ ∃ d, x.descr = .ok d ∧ (byteAt (sliceAt d 0 216) 0 ≠ 1 ∨ byteAt (sliceAt d 0 216) 1 ≠ 0) ∧ r = .version)

theorem judgeAuth_unread {c : Cart} {x : CartExchange} {r : CartResult} (h : c.unread x r) (hpres : c.present = true)
    (key nonce : List Byte) : judgeAuth key nonce x = ⟨r, none, none⟩ := by
  rcases h with ⟨habs, _⟩ | ⟨_, ⟨hd, rfl⟩ | ⟨hd, rfl⟩ | ⟨hd, rfl⟩ | ⟨d, hd, hv, rfl⟩⟩
  · rw [hpres] at habs
    cases habs
  · simp only [judgeAuth, hd, answerFault]
  · simp only [judgeAuth, hd, answerFault]
  · simp only [judgeAuth, hd, answerFault]
  · simp only [judgeAuth, hd, answerFault, answerBytes, if_pos hv]

/-- A port whose authentication has ended with a result, after a last challenge and requests. -/
def Port.judged (r : CartResult) (nonce : Nat) (requests : List (List Byte)) (p : Port) : Port :=
  { p with cart := Cart.concluded r { p.cart with nonceCount := nonce, requests := requests } }

/-- A state after the end of an authentication that read no descriptor. -/
def State.authEnded (s : State) (n : Fin 4) (r : CartResult) (ctr nonce : Nat) (requests : List (List Byte)) : State :=
  { s.onPort n (Port.judged r nonce requests) with
    freeCtr := ctr, stud := s.stud.event s.now 0x0203 (srcPort n) (r.code :: List.replicate 8 0) }

/-- What an authentication that ends before its descriptor has been read changes. -/
theorem runAuth_unread {s : State} {n : Fin 4} {x : CartExchange} {r : CartResult} (hex : s.ports[n].cart.exhausted = none)
    (h : s.ports[n].cart.unread x r) : ∃ ctr nonce requests, s.runAuth n x = s.authEnded n r ctr nonce requests := by
  unfold State.runAuth
  extract_lets +onlyGivenNames c
  split
  · next habs =>
    have hr : r = .absent := by
      rcases h with ⟨_, hr⟩ | ⟨hpres, _⟩
      · exact hr
      · exact absurd (hpres ▸ habs) (by decide)
    subst hr
    refine ⟨s.freeCtr, c.nonceCount, c.requests, ?_⟩
    exact congrArg (fun v => { s with
      ports := v, stud := s.stud.event s.now 0x0203 (srcPort n) (CartResult.absent.code :: List.replicate 8 0) }) (vmod_congr s.ports n rfl)
  · next hpres =>
    extract_lets +onlyGivenNames key nonce f r' s1 s2 s3
    have hf : f = ⟨r, none, none⟩ := judgeAuth_unread h (by simpa [c] using hpres) key nonce
    have hr' : r' = r := by simp only [r', c, hex, hf, Option.getD_none]
    have hs3 : s3 = s2 := by simp only [s3, hf]
    refine ⟨s.freeCtr + 1, s.freeCtr, authRequests key nonce x, ?_⟩
    rw [hr', hs3, hf]
    exact congrArg (fun v => { s with
      freeCtr := s.freeCtr + 1, ports := v, stud := s.stud.event s.now 0x0203 (srcPort n) (r.code :: List.replicate 8 0) })
      (vmod_vmod s.ports n (fun p => { p with cart := { p.cart with nonceCount := s.freeCtr, requests := authRequests key nonce x } })
        fun p => { p with cart := p.cart.concluded r })

theorem concluded_pending {c : Cart} (r : CartResult) (h : c.pending = true) :
    (c.concluded r).result = some r ∧ (c.concluded r).pending = false ∧ (c.concluded r).waiting = none := by
  simp only [Cart.concluded, if_pos h, and_self]

theorem concluded_periodic {c : Cart} (r : CartResult) (h : c.pending = false) :
    (c.concluded r).waiting = some r ∧ (c.concluded r).result = c.result ∧ (c.concluded r).periodicRun = false := by
  rw [Cart.concluded, if_neg (by simp only [h]; decide)]
  exact ⟨rfl, rfl, rfl⟩

/-- A cartridge without what an authentication touches that ends before its descriptor has been read. -/
def Cart.unasked (c : Cart) : Cart :=
  { c with
    pending := false, result := none, waiting := none, periodicRun := false, failures := 0, busyMs := 0, exhausted := none
    nonceCount := 0, requests := [] }

theorem judged_unasked (r : CartResult) (nonce : Nat) (requests : List (List Byte)) (p : Port) :
    { p.judged r nonce requests with cart := (p.judged r nonce requests).cart.unasked } = { p with cart := p.cart.unasked } := by
  unfold Port.judged Cart.concluded
  dsimp only
  split
  · rfl
  · rfl

/-- A transport without its causes of hold and its pins. -/
def Transport.unpinned (y : Transport) : Transport := { y with hold := 0, feedHold := false, enable := false }

/-- What an ending authentication leaves, whether its transport is released then or not. -/
theorem kept_authEnded (o s : State) (t : Nat) (n tr : Fin 4) (r : CartResult) (ctr nonce : Nat) (requests : List (List Byte))
    {f : Transport → Transport} (hf : ∀ y, (f y).unpinned = y.unpinned) :
    Kept (fun z => { z with
      stud := s.stud, freeCtr := 0
      ports := vmod z.ports n fun q => { q with cart := q.cart.unasked }
      transports := vmod z.transports tr Transport.unpinned }) s
      (commit o (((s.at t).authEnded n r ctr nonce requests).onTransport tr f)) :=
  kept_commit o (congrArg₂ (fun v w => { s.quiet with freeCtr := 0, transports := v, ports := w })
    (vmod_hides s.transports tr f Transport.unpinned hf)
    (vmod_hides s.ports n (Port.judged r nonce requests) (fun q => { q with cart := q.cart.unasked }) (judged_unasked r nonce requests)))

theorem tports_congr {s u : State} (h : ∀ n : Fin 4, u.ports[n].portCfg = s.ports[n].portCfg) (t : Fin 4) :
    u.tports t = s.tports t :=
  List.filter_congr fun n _ => by simp only [Port.cfgEn, Port.transport, h n]

theorem authEnded_tports (s : State) (n : Fin 4) (r : CartResult) (ctr nonce : Nat) (requests : List (List Byte)) (tr : Fin 4) :
    (s.authEnded n r ctr nonce requests).tports tr = s.tports tr :=
  tports_congr (fun m => by
    rw [State.authEnded, onPort_port]
    split
    · next h => rw [← h]; rfl
    · rfl) tr

theorem commit_cartHolds (o n : State) (m : Fin 4) : (commit o n).cartHolds m = n.cartHolds m := by
  simp only [State.cartHolds, State.cartRefuse, commit_ports, commit_feCtrl]

/-- Settles O22: a failed attempt counts or ends the exchange; a result is taken before any descriptor is read, and releases the
transport that it held. -/
theorem cartridgeAuthenticationEnds : Obligations.CartridgeAuthenticationEnds := by
  intro s n t hup c tr version frame
  refine ⟨fun response hrun hex hbad => ?_, fun x r hex hr => ?_⟩
  · refine ⟨_, execCartI2cRetry_fails t hup hrun hex hbad, ?_, ?_, kept_onPort s s t n fun p => ?_⟩
    · rw [commit_ports, onCartridge_cart]
      exact failOnce_exhausted hex _
    · rw [commit_ports, onCartridge_cart]
      exact failOnce_failures _ _
    · exact congrArg (fun c => { p with cart := c }) (failOnce_hides _ _)
  · obtain ⟨ctr, nonce, requests, hrun⟩ := runAuth_unread (s := s.at t) (n := n) hex hr
    have hport : ((s.at t).authEnded n r ctr nonce requests).ports[n] = s.ports[n].judged r nonce requests :=
      onPort_same (s.at t) n _
    have hexec (hgo : (c.pending || c.periodicRun) = true) : exec (.cartAuthDone n x t) s
        = done s (if c.pending then State.releaseCart ((s.at t).authEnded n r ctr nonce requests) n
          else (s.at t).authEnded n r ctr nonce requests) := by
      rw [← hrun]
      exact congrArg (done s) (if_pos (by rw [show (s.at t).up = true from hup]; exact hgo))
    have hkept {f : Transport → Transport} (hf : ∀ y, (f y).unpinned = y.unpinned) :=
      kept_authEnded s s t n tr r ctr nonce requests hf
    have htports := authEnded_tports (s.at t) n r ctr nonce requests tr
    have htr : ((s.at t).authEnded n r ctr nonce requests).transports = s.transports := rfl
    have hstud : ((s.at t).authEnded n r ctr nonce requests).stud
      = s.stud.event (max s.now t) 0x0203 (srcPort n) (r.code :: List.replicate 8 0) := rfl
    generalize (s.at t).authEnded n r ctr nonce requests = z at *
    refine ⟨fun hpend => ?_, fun hpend hper => ?_⟩
    · obtain ⟨hresult, hnot, hwait⟩ := concluded_pending (c := { c with nonceCount := nonce, requests := requests }) r hpend
      obtain ⟨feed, en, hrel⟩ := releaseCart_eq (s := z) (n := n) (tr := tr) (by rw [hport]; rfl)
      refine ⟨_, (hexec (by rw [hpend]; rfl)).trans (congrArg (done s) ((if_pos hpend).trans hrel)), ?_⟩
      simp only [commit_ports, State.onTransport_ports, commit_transports, commit_stud, State.onTransport_stud, hport, commit_cartHolds]
      refine ⟨hresult, hnot, hwait, ?_, hstud, hkept fun _ => rfl⟩
      rw [onTransport_same]
      refine (Eq.congr_left (held_setBit _ 3 3 _ (by decide))).trans ?_
      rw [htr, htports, if_pos rfl]
      exact cartCause_iff _ _ _
    · obtain ⟨hwait, hresult, hnot⟩ := concluded_periodic (c := { c with nonceCount := nonce, requests := requests }) r hpend
      refine ⟨_, (hexec (by rw [hper, Bool.or_true])).trans (congrArg (done s) (if_neg (by rw [hpend]; decide))), ?_⟩
      simp only [commit_ports, commit_stud, hport]
      refine ⟨hwait, hresult, hnot, hstud, ?_⟩
      have h := hkept (f := id) fun _ => rfl
      rwa [State.onTransport, vmod_self _ _ rfl] at h

end Sys2Proof.Machine

namespace Sys2Proof.Machine

/-! ## Lines emitted by the deskew buffer (R55, R56) -/

/-- The bytes of an image's lines `from_` to `to_` - 1, padded to the stride. -/
def Side.bandBytes (x : Side) (i : ImageRef) (from_ to_ : Nat) : List Byte :=
  (List.range (to_ - from_)).flatMap fun k =>
    let row := outRow x.skew (x.rowsOf i.role) i.width (if i.rgb then 3 else 1) (from_ + k)
    row.map (BitVec.ofNat 8) ++ List.replicate (i.stride - row.length) (0 : Byte)

/-- Whether every row of an image of a side fits its stride. -/
def Side.fits (x : Side) (i : ImageRef) : Prop :=
  ∀ v, (outRow x.skew (x.rowsOf i.role) i.width (if i.rgb then 3 else 1) v).length ≤ i.stride

theorem bandBytes_length {x : Side} {i : ImageRef} (h : x.fits i) (from_ to_ : Nat) :
    (x.bandBytes i from_ to_).length = (to_ - from_) * i.stride := by
  have hrow (k : Nat) : (let row := outRow x.skew (x.rowsOf i.role) i.width (if i.rgb then 3 else 1) (from_ + k)
      row.map (BitVec.ofNat 8) ++ List.replicate (i.stride - row.length) (0 : Byte)).length = i.stride := by
    have := h (from_ + k)
    simp only [List.length_append, List.length_map, List.length_replicate]
    omega
  simp only [Side.bandBytes, List.length_flatMap, hrow, List.map_const', List.length_range, List.sum_replicate, smul_eq_mul]

/-- The band of an image of a side written, where it is one that the side's own lines make. -/
def State.writeImageBand (x : Side) (from_ to_ : Nat) (s : State) (i : ImageRef) : State :=
  if i.role > 2 then s else s.mainPut (i.addr + from_ * i.stride) (x.bandBytes i from_ to_)

theorem writeBand_fold (s : State) (x : Side) (from_ to_ : Nat) :
    s.writeBand x from_ to_ = x.images.foldl (State.writeImageBand x from_ to_) s := rfl

/-- What the writing of a band changes: memory, and of its bytes those of the band where the rows fit. -/
theorem writeBand_eq (s : State) (x : Side) (from_ to_ : Nat) (hle : from_ ≤ to_) : ∃ m : Memory,
    s.writeBand x from_ to_ = { s with mem := m } ∧ m.bare = s.mem.bare
    ∧ ((∀ i ∈ x.images, x.fits i) → ∀ a : Nat,
        (∀ i ∈ x.images, i.role ≤ 2 → a < i.addr + from_ * i.stride ∨ i.addr + to_ * i.stride ≤ a) → m.byte a = s.mem.byte a) := by
  rw [writeBand_fold]
  generalize x.images = images
  induction images generalizing s with
  | nil => exact ⟨s.mem, rfl, rfl, fun _ _ _ => rfl⟩
  | cons i images ih =>
    simp only [List.foldl_cons, List.forall_mem_cons]
    by_cases hrole : i.role > 2
    · obtain ⟨m, hm, hbare, hbyte⟩ := ih s
      rw [State.writeImageBand, if_pos hrole]
      exact ⟨m, hm, hbare, fun hfit a ha => hbyte hfit.2 a ha.2⟩
    · obtain ⟨m, hm, hbare, hbyte⟩ := mainPut_eq s (i.addr + from_ * i.stride) (x.bandBytes i from_ to_)
      obtain ⟨m', hm', hbare', hbyte'⟩ := ih { s with mem := m }
      rw [State.writeImageBand, if_neg hrole, hm]
      refine ⟨m', hm', hbare'.trans hbare, fun hfit a ha => (hbyte' hfit.2 a ha.2).trans (hbyte a ?_)⟩
      · have hmul : (to_ - from_) * i.stride = to_ * i.stride - from_ * i.stride := Nat.sub_mul ..
        have hmono : from_ * i.stride ≤ to_ * i.stride := Nat.mul_le_mul_right _ hle
        rw [bandBytes_length hfit.1, hmul]
        have := ha.1 (by omega)
        omega

/-- A side of which one more line has been emitted; the last completes its image. -/
def Side.flushed (n : Nat) (last : Bool) (y : Side) : Side :=
  if last then { y with
    emitted := n, stage := if y.fuseStreams.isEmpty then .arriving else .fusing, visRows := [], irRows := [], uvRows := [] }
  else { y with emitted := n }

theorem flushed_key (n : Nat) (last : Bool) (y : Side) : (y.flushed n last).key = y.key := by
  cases last
  · rfl
  · rfl

/-- What the emission of a line changes: its side, memory, and of memory's bytes those of the current band where the rows fit. -/
theorem emitLine_eq {s : State} {k : Nat} {x : Side} (hx : s.side? k = some x) : ∃ m : Memory,
    s.emitLine k = { s.onSide k (Side.flushed (x.emitted + 1) (decide (x.emitted + 1 = (s.sideDef x.sideDef).lines))) with mem := m }
    ∧ m.bare = s.mem.bare
    ∧ ((∀ i ∈ x.images, x.fits i) → ∀ a : Nat,
        (∀ i ∈ x.images, i.role ≤ 2 →
          a < i.addr + x.emitted / 16 * 16 * i.stride ∨ i.addr + (x.emitted + 1) * i.stride ≤ a) → m.byte a = s.mem.byte a) := by
  unfold State.emitLine
  split
  · next h => exact nomatch h.symm.trans hx
  next y hy =>
  obtain rfl : y = x := Option.some.inj (hy.symm.trans hx)
  extract_lets +onlyGivenNames d n s1 s2
  have hs2 : ∃ m : Memory, s2 = { s1 with mem := m } ∧ m.bare = s.mem.bare ∧ ((∀ i ∈ y.images, y.fits i) → ∀ a : Nat,
      (∀ i ∈ y.images, i.role ≤ 2 → a < i.addr + y.emitted / 16 * 16 * i.stride ∨ i.addr + (y.emitted + 1) * i.stride ≤ a) →
      m.byte a = s.mem.byte a) := by
    unfold s2
    split
    · exact writeBand_eq s1 y ((n - 1) / 16 * 16) n (by omega)
    · exact ⟨s.mem, rfl, rfl, fun _ _ _ => rfl⟩
  obtain ⟨m, hm, hrest⟩ := hs2
  refine ⟨m, ?_, hrest⟩
  rw [hm]
  by_cases hlast : n = d.lines
  · rw [if_pos hlast, decide_eq_true hlast]
    exact congrArg (fun z : State => { z with mem := m }) (onSide_onSide (f := fun y => { y with emitted := n }) (fun _ => rfl) s k _)
  · rw [if_neg hlast, decide_eq_false hlast]
    rfl

/-- Settles O19: a flush emits one line, and writes its band where one is due. -/
theorem deskewBufferFlushes : Obligations.DeskewBufferFlushes := by
  intro s k x t hx hstage hstart hheld n lines
  obtain ⟨m, hm, hbare, hbyte⟩ := emitLine_eq (s := s.at t) hx
  have hexec : exec (.deskewFlushLine k t) s = done s ((s.at t).emitLine k) := by
    refine congrArg (done s) ?_
    unfold flushEffect
    split
    · next h => exact nomatch h.symm.trans hx
    next y hy =>
    obtain rfl : y = x := Option.some.inj (hy.symm.trans hx)
    exact if_pos ⟨hstage, hstart, hheld⟩
  have hkey := flushed_key n (decide (n = lines))
  refine ⟨_, hexec.trans (congrArg (done s) hm), ⟨x.flushed n (decide (n = lines)), ?_, ?_, ?_⟩, ?_, kept_commit _ ?_⟩
  · rw [commit_side?]
    exact side?_onSide hkey (s := s.at t) hx
  · cases decide (n = lines) <;> rfl
  · by_cases hlast : n = lines
    · rw [decide_eq_true hlast, if_pos hlast]
      rfl
    · rw [decide_eq_false hlast, if_neg hlast]
      exact hstage
  · simp only [commit_mem]
    exact hbyte
  · exact congrArg₂ (fun v w => { s.quiet with mem := v, sides := w }) hbare (onSide_others hkey (s.at t) k)

end Sys2Proof.Machine

namespace Sys2Proof.Machine

theorem onTransport_self (s : State) (t : Fin 4) {f : Transport → Transport} (h : f s.transports[t] = s.transports[t]) :
    s.onTransport t f = s :=
  congrArg (fun v => { s with transports := v }) (vmod_self s.transports t h)

theorem onTransport_const (s : State) (t : Fin 4) (f : Transport → Transport) :
    s.onTransport t f = s.onTransport t fun _ => f s.transports[t] :=
  congrArg (fun v => { s with transports := v }) (vmod_congr _ _ rfl)

/-! ## The end of every line boundary (R37, R40, R42) -/

/-- A transport at the end of a line boundary: no event waits, and its pins follow its causes of hold. -/
def Transport.ended (step : Bool) (x : Transport) : Transport :=
  { x with pendCover := false, pendCart := [], step := step, feedHold := x.hold != 0, enable := !x.stopped }

/-- The end of a line boundary: the events have acted, and the outputs and pins are settled. -/
def State.endBoundary (s : State) (t : Fin 4) (was : TrPhase) : State :=
  ((s.onTransport t fun x => { x with pendCover := false, pendCart := [] }).settleOutputs t was).settlePins t

theorem eq_of_map_eq {α β : Type} {n : Nat} {v w : Vector α n} {g : α → β} (h : v.map g = w.map g) (i : Fin n) :
    g v[i] = g w[i] := by
  simpa using congrArg (fun u : Vector β n => u[i]) h

/-- What `e` leaves of the elements of a vector is equal where the vectors are equal but for what `e` takes away. -/
theorem field_of_map_eq {α β : Type} {n : Nat} {v w : Vector α n} {e : α → α} (h : v.map e = w.map e) (g : α → β)
    (hg : ∀ x, g (e x) = g x) (i : Fin n) : g v[i] = g w[i] :=
  (hg v[i]).symm.trans ((congrArg g (eq_of_map_eq h i)).trans (hg w[i]))

theorem onPorts_tports (s : State) (us : List (Fin 4)) {f : Port → Port} (hf : ∀ p, (f p).portCfg = p.portCfg) (t : Fin 4) :
    (s.onPorts us f).tports t = s.tports t :=
  tports_congr (eq_of_map_eq (foldl_vmod_map (g := Port.portCfg) hf us s.ports)) t

theorem settlePins_configured {s : State} {t : Fin 4} (hc : s.tports t ≠ []) :
    s.settlePins t = s.onTransport t fun x => { x with feedHold := x.hold != 0, enable := !x.stopped } :=
  if_neg (by simpa using hc)

/-- What settling the outputs of a transport changes. -/
theorem settleOutputs_eq (s : State) (t : Fin 4) (was : TrPhase) : ∃ step, s.settleOutputs t was =
    (s.onPorts (s.tports t) (Port.settleOutputs · was.lit s.transports[t].phase.lit)).onTransport t fun x => { x with step := step } := by
  unfold State.settleOutputs
  extract_lets +onlyGivenNames x s1 level
  refine ⟨was.captures && s1.transports[t].phase.captures && level, ?_⟩
  have hs1 : s1 = s.onPorts (s.tports t) (Port.settleOutputs · was.lit s.transports[t].phase.lit) := foldl_onPort _ _ _
  rw [← hs1]
  exact congrArg (fun v => { s1 with transports := v }) (vmod_congr _ _ rfl)

/-- What the end of a line boundary changes on a configured transport. -/
theorem endBoundary_eq {s : State} {t : Fin 4} (hc : s.tports t ≠ []) (was : TrPhase) : ∃ step lit, s.endBoundary t was =
    (s.onPorts (s.tports t) (Port.settleOutputs · was.lit lit)).onTransport t (Transport.ended step) := by
  unfold State.endBoundary
  generalize hz : (s.onTransport t fun x => { x with pendCover := false, pendCart := [] }) = z
  have hports : z.tports t = s.tports t := by rw [← hz]; rfl
  obtain ⟨step, h⟩ := settleOutputs_eq z t was
  refine ⟨step, z.transports[t].phase.lit, ?_⟩
  rw [h, hports]
  generalize hF : (Port.settleOutputs · was.lit z.transports[t].phase.lit) = F
  have hFcfg : ∀ p, (F p).portCfg = p.portCfg := by
    intro p
    rw [← hF]
    rfl
  have hc1 : ((z.onPorts (s.tports t) F).onTransport t fun x => { x with step := step }).tports t ≠ [] := by
    intro h0
    exact hc (hports.symm.trans ((onPorts_tports z (s.tports t) hFcfg t).symm.trans h0))
  rw [settlePins_configured hc1, onTransport_onTransport, ← hz]
  exact congrArg (fun v => { s.onPorts (s.tports t) F with transports := v })
    (vmod_vmod s.transports t (fun x => { x with pendCover := false, pendCart := [] }) _)

end Sys2Proof.Machine

namespace Sys2Proof.Machine

/-! ## Causes of hold at a line boundary (R42, R44, R61) -/

/-- A transport on which COVER, CARTRIDGE and CONFIG have been evaluated: `cover`, `cart` and `config` are what the rest of the machine
says of them. -/
def Transport.judged (wait cover cart config : Bool) (x : Transport) : Transport :=
  { x with
    abortWait := wait
    hold := setBit (setBit (setBit x.hold 2 (cover || wait || x.pendCover)) 3 (cart || !x.pendCart.isEmpty)) 6 config }

/-- What the removal of an aborted sheet changes, when it is seen. -/
theorem seenRemoved_eq (now : Nat) (x : Transport) : ∃ wait, (match x.paperLowAt with
    | some t0 => if now ≥ t0 + 1000000 then { x with abortWait := false } else x
    | none => x) = { x with abortWait := wait } := by
  split
  · split
    · exact ⟨false, rfl⟩
    · exact ⟨x.abortWait, rfl⟩
  · exact ⟨x.abortWait, rfl⟩

/-- What the evaluation of COVER, CARTRIDGE and CONFIG changes. -/
theorem settleHolds_eq (s : State) (t : Fin 4) : ∃ wait, s.settleHolds t = s.onTransport t
    (Transport.judged wait (s.coverOpen t) ((s.tports t).any s.cartHolds) ((s.tports t).any fun n => s.ports[n].refused)) := by
  unfold State.settleHolds
  extract_lets +onlyGivenNames s1 x s2 s3
  obtain ⟨wait, h1⟩ : ∃ wait, s1 = s.onTransport t fun x => { x with abortWait := wait } := by
    obtain ⟨wait, h⟩ := seenRemoved_eq s.now s.transports[t]
    exact ⟨wait, congrArg (fun v => { s with transports := v }) (vmod_congr _ _ h)⟩
  have hx : x = { s.transports[t] with abortWait := wait } := by rw [show x = s1.transports[t] from rfl, h1, onTransport_same]
  refine ⟨wait, ?_⟩
  unfold s3 s2
  rw [hx]
  clear_value s1
  subst h1
  unfold State.setHold
  rw [onTransport_onTransport, onTransport_onTransport, onTransport_onTransport]
  exact congrArg (fun v => { s with transports := v }) (vmod_congr _ _ rfl)

theorem interrupt_gap {s : State} {t : Fin 4} (h : s.transports[t].phase = .gap) : s.interrupt t = s := by
  unfold State.interrupt
  extract_lets +onlyGivenNames x mask
  rw [show x.phase = .gap from h]
  split
  · rfl
  · rfl

end Sys2Proof.Machine

namespace Sys2Proof.Machine

/-! ## A sheet at the entry (R44, R74, R263, R370) -/

/-- What taking the frames of a side changes. -/
theorem takeFrames_some {p : Fin 6} {owner width height : Nat} {is : List ImageNeed} {s u : State} {l : List ImageRef}
    (h : s.takeFrames p owner width height is = some (u, l)) : ∃ frames, u = { s with frames := frames } := by
  induction is generalizing s l with
  | nil =>
    obtain ⟨rfl, _⟩ := Prod.mk.inj (Option.some.inj h)
    exact ⟨s.frames, rfl⟩
  | cons i is ih =>
    unfold State.takeFrames at h
    dsimp only at h
    split at h
    · exact nomatch h
    split at h
    · next hrest =>
      obtain ⟨rfl, _⟩ := Prod.mk.inj (Option.some.inj h)
      obtain ⟨frames, hu⟩ := ih hrest
      exact ⟨frames, hu⟩
    · exact nomatch h

/-- What taking the frames of a sheet changes, and for which sides it takes them. -/
theorem takeSheet_some {ds : List (Fin 8)} {s u : State} {l : List (Fin 8 × Nat × Fin 6 × List ImageRef)}
    (h : s.takeSheet ds = some (u, l)) : (∃ frames key, u = { s with frames := frames, nextKey := key }) ∧ l.length = ds.length := by
  induction ds generalizing s l with
  | nil =>
    obtain ⟨rfl, rfl⟩ := Prod.mk.inj (Option.some.inj h)
    exact ⟨⟨s.frames, s.nextKey, rfl⟩, rfl⟩
  | cons d ds ih =>
    unfold State.takeSheet at h
    dsimp only at h
    split at h
    · exact nomatch h
    split at h
    · exact nomatch h
    next hframes =>
    obtain ⟨frames, rfl⟩ := takeFrames_some hframes
    split at h
    · next hrest =>
      obtain ⟨rfl, rfl⟩ := Prod.mk.inj (Option.some.inj h)
      obtain ⟨⟨frames', key, hu⟩, hlen⟩ := ih hrest
      exact ⟨⟨frames', key, hu⟩, congrArg (· + 1) hlen⟩
    · exact nomatch h

/-- A port at the start of its calibration. -/
def Port.calStarted (p : Port) : Port := { p with sumDark := [], sumWhite := [], calShort := false }

/-- What the start of a calibration changes. -/
theorem beginCal_eq (s : State) (t : Fin 4) (sheet : Bool) : ∃ ph, s.beginCal t sheet =
    (s.onPorts (s.tports t) Port.calStarted).onTransport t fun x => { x with phase := .calib sheet ph 0, calNow := false } := by
  unfold State.beginCal
  extract_lets +onlyGivenNames s1
  have h : s1 = s.onPorts (s.tports t) Port.calStarted := foldl_onPort _ _ _
  rw [h]
  exact ⟨_, rfl⟩

/-- A transport whose sheet has just been committed. -/
def Transport.entered (sheets : DWord) (keys : List Nat) (ph : CalPhase) (x : Transport) : Transport :=
  { x with sheets := sheets, sheetSides := keys, capLines := [], phase := .calib true ph 0, calNow := false }

/-- The sides that a sheet enters when it is committed. -/
def State.newSides (s : State) (t : Fin 4) (l : List (Fin 8 × Nat × Fin 6 × List ImageRef)) : List Side :=
  l.map (s.scanSide t (s.transports[t].sheets + 1))

/-- What the commit of a sheet changes. -/
theorem commitSheet_eq (s : State) (t : Fin 4) (l : List (Fin 8 × Nat × Fin 6 × List ImageRef)) : ∃ ph boot store,
    s.commitSheet t l = { (s.onPorts (s.tports t) Port.calStarted).onTransport t
        (Transport.entered (s.transports[t].sheets + 1) ((s.newSides t l).map (·.key)) ph) with
      sides := s.sides ++ s.newSides t l, boot := boot, store := store
      host := { s.host with spoolResv := s.host.spoolResv + s.sideReserve * l.length } } := by
  unfold State.commitSheet
  extract_lets +onlyGivenNames sheets sides before s1 s2 s3
  obtain ⟨ph, h⟩ := beginCal_eq s3 t true
  refine ⟨ph, s2.boot, s2.store, h.trans ?_⟩
  exact congrArg (fun v => { s.onPorts (s.tports t) Port.calStarted with
      transports := v, sides := s.sides ++ sides, boot := s2.boot, store := s2.store
      host := { s.host with spoolResv := s.host.spoolResv + s.sideReserve * l.length } })
    (vmod_vmod s.transports t (fun x => { x with sheets := sheets, sheetSides := sides.map (·.key), capLines := [] }) _)

/-- What keeps a sheet at the entry from being committed is absent (R44, R370). -/
def State.commits (s : State) (t : Fin 4) : Bool :=
  !(s.sidesOf t).isEmpty && (s.takeSheet (s.sidesOf t)).isSome && s.grantSheet (s.sideReserve * (s.sidesOf t).length) && s.mayCommit t

theorem spoolEnterHigh_eq (s : State) : ∃ high chip,
    s.spoolEnterHigh = { s with host := { s.host with spoolHigh := high, chip := chip } } := by
  unfold State.spoolEnterHigh
  split
  · exact ⟨s.host.spoolHigh, s.host.chip, rfl⟩
  · exact ⟨_, _, rfl⟩

theorem commits_iff (s : State) (t : Fin 4) : s.commits t = true ↔ s.sidesOf t ≠ [] ∧ (s.takeSheet (s.sidesOf t)).isSome = true
    ∧ s.sideReserve * (s.sidesOf t).length ≤ s.spoolFree ∧ s.mayCommit t = true := by
  simp [State.commits, State.grantSheet, and_assoc]

/-- A transport with CAPTURE, then SPOOL, set or cleared. -/
theorem holds_kept (x : Transport) (a b : Bool) : ∀ j < 7, 0 < j →
    (setBit (setBit x.hold 7 a) 0 b).getLsbD j = x.held j := by
  intro j hj h0
  rw [getLsbD_setBit _ _ _ _ (by omega), if_neg (by omega), getLsbD_setBit _ _ _ _ (by omega), if_neg (by omega)]
  rfl

/-- A transport with CAPTURE set or cleared. -/
theorem capture_kept (x : Transport) (a : Bool) : ∀ j < 7, (setBit x.hold 7 a).getLsbD j = x.held j := by
  intro j hj
  rw [getLsbD_setBit _ _ _ _ (by omega), if_neg (by omega)]
  rfl

/-- What setting or clearing a cause changes. -/
theorem setHold_eq (s : State) (t : Fin 4) (cause : Nat) (v : Bool) :
    s.setHold t cause v = s.onTransport t fun x => { x with hold := setBit s.transports[t].hold cause v } :=
  congrArg (fun v => { s with transports := v }) (vmod_congr _ _ rfl)

/-- A sheet at the entry that is not committed changes at most CAPTURE and SPOOL, and the level of the spool. -/
theorem entrySheet_waits {s : State} {t : Fin 4} (h : s.commits t = false) : ∃ high chip hold,
    s.entrySheet t = { s with host := { s.host with spoolHigh := high, chip := chip } }.onTransport t (fun x => { x with hold := hold })
    ∧ ∀ j < 7, 0 < j → hold.getLsbD j = s.transports[t].held j := by
  have hcapture (a : Bool) : ∃ high chip hold, s.setHold t HoldBit.capture a
      = { s with host := { s.host with spoolHigh := high, chip := chip } }.onTransport t (fun x => { x with hold := hold })
      ∧ ∀ j < 7, 0 < j → hold.getLsbD j = s.transports[t].held j :=
    ⟨s.host.spoolHigh, s.host.chip, _, setHold_eq s t _ a, fun j hj _ => capture_kept _ _ j hj⟩
  have hself : ∃ high chip hold, s
      = { s with host := { s.host with spoolHigh := high, chip := chip } }.onTransport t (fun x => { x with hold := hold })
      ∧ ∀ j < 7, 0 < j → hold.getLsbD j = s.transports[t].held j :=
    ⟨s.host.spoolHigh, s.host.chip, s.transports[t].hold, (onTransport_self s t rfl).symm, fun _ _ _ => rfl⟩
  unfold State.entrySheet
  extract_lets +onlyGivenNames defs need
  split
  · exact hself
  next hdefs =>
  split
  · split
    · exact hself
    · exact hcapture true
  next s1 l htake =>
  extract_lets +onlyGivenNames may high
  obtain ⟨hi, chip, hhigh⟩ : ∃ hi chip, high s = { s with host := { s.host with spoolHigh := hi, chip := chip } } := by
    unfold high
    split
    · exact spoolEnterHigh_eq s
    · exact ⟨s.host.spoolHigh, s.host.chip, rfl⟩
  split
  · refine ⟨hi, chip, setBit (setBit s.transports[t].hold 7 false) 0 true, ?_, holds_kept _ _ _⟩
    rw [hhigh, setHold_eq, setHold_eq, onTransport_onTransport, onTransport_same]
  next hgrant =>
  split
  · next hmay =>
    refine absurd ((commits_iff s t).2 ⟨by simpa using hdefs, ?_, by simpa [State.grantSheet] using hgrant, hmay⟩) (by rw [h]; decide)
    rw [show s.takeSheet (s.sidesOf t) = some (s1, l) from htake]
    rfl
  · exact hcapture false

/-- A sheet at the entry that is committed: its frames have been taken, and at most CAPTURE and the level of the spool have changed. -/
theorem entrySheet_commits {s : State} {t : Fin 4} (h : s.commits t = true) : ∃ frames key high chip hold l,
    s.entrySheet t = ({ s with
        frames := frames, nextKey := key, host := { s.host with spoolHigh := high, chip := chip } }.onTransport t
      fun x => { x with hold := hold }).commitSheet t l
    ∧ l.length = (s.sidesOf t).length ∧ ∀ j < 7, hold.getLsbD j = s.transports[t].held j := by
  obtain ⟨hdefs, hsome, hgrant, hmay⟩ := (commits_iff s t).1 h
  obtain ⟨⟨s1, l⟩, htake⟩ := Option.isSome_iff_exists.1 hsome
  obtain ⟨⟨frames, key, hs1⟩, hlen⟩ := takeSheet_some htake
  have hdefs' : ¬ (s.sidesOf t).isEmpty = true := by simpa using hdefs
  have hgrant' : ¬ (!s.grantSheet (s.sideReserve * (s.sidesOf t).length)) = true := by simpa [State.grantSheet] using hgrant
  unfold State.entrySheet
  rw [if_neg hdefs', htake]
  dsimp only
  rw [if_neg hgrant', if_pos hmay]
  obtain ⟨high, chip, hhigh⟩ : ∃ high chip,
      (if s.mayCommit t && !s1.grantOutright (s.sideReserve * (s.sidesOf t).length) then s1.spoolEnterHigh else s1)
        = { s1 with host := { s1.host with spoolHigh := high, chip := chip } } := by
    split
    · exact spoolEnterHigh_eq s1
    · exact ⟨s1.host.spoolHigh, s1.host.chip, rfl⟩
  refine ⟨frames, key, high, chip, setBit s.transports[t].hold 7 false, l, ?_, hlen, capture_kept _ _⟩
  refine congrArg (State.commitSheet · t l) ?_
  rw [hhigh, setHold_eq, hs1]

end Sys2Proof.Machine

namespace Sys2Proof.Machine

/-! ## Boundaries of a sheet gap (R42, R44, R67, R438) -/

/-- A port at a sheet-gap boundary: a periodic result takes effect, and a periodic authentication that waits for a gap starts. -/
def Port.atGap (p : Port) : Port :=
  let c := match p.cart.waiting with
    | some r => { p.cart with result := some r, waiting := none }
    | none => p.cart
  { p with cart :=
      if c.periodicDue && !c.pending then { c with
        periodicDue := false, periodicRun := c.present, failures := 0, busyMs := 0, exhausted := none
        requests := if c.present then [getDescriptor] else [] }
      else c }

/-- A port without what a gap boundary changes of its cartridge. -/
def Port.offBus (q : Port) : Port :=
  { q with cart := { q.cart with
    result := none, waiting := none, periodicDue := false, periodicRun := false, failures := 0, busyMs := 0, exhausted := none
    requests := [] } }

theorem atGap_offBus (p : Port) : p.atGap.offBus = p.offBus := by
  unfold Port.atGap Port.offBus
  dsimp only
  split
  · split
    · rfl
    · rfl
  · split
    · rfl
    · rfl

/-- A partition without what its binding point changes. -/
def Partition.unbinding (q : Partition) : Partition := { q with waitBind := false, binding := false }

/-- What the binding points of partitions change. -/
theorem foldl_bindPoint (ps : List (Fin 6)) (s : State) : ∃ parts : Vector Partition 6,
    ps.foldl State.bindPoint s = { s with parts := parts } ∧ parts.map Partition.unbinding = s.parts.map Partition.unbinding := by
  induction ps generalizing s with
  | nil => exact ⟨s.parts, rfl, rfl⟩
  | cons p ps ih =>
    obtain ⟨parts, h, hparts⟩ := ih (s.bindPoint p)
    refine ⟨parts, h, hparts.trans (vmod_map s.parts p (fun x => if x.waitBind then { x with waitBind := false, binding := true } else x)
      Partition.unbinding fun x => ?_)⟩
    split
    · rfl
    · rfl

/-- What a gap boundary with no plan binding waiting changes of the partitions. -/
theorem gapBind_eq {s : State} {t : Fin 4} (h : s.transports[t].pendBind = false) : ∃ parts : Vector Partition 6,
    s.gapBind t = { s with parts := parts } ∧ parts.map Partition.unbinding = s.parts.map Partition.unbinding := by
  unfold State.gapBind
  rw [h]
  exact foldl_bindPoint _ s

/-- What a transport and its ports are at a gap boundary once every cause of hold has been evaluated there: the causes are those of `s`,
but for the results of the cartridges, which `ports` holds. -/
structure State.GapSeen (s : State) (t : Fin 4) (paper : Bool) (ports : Vector Port 4) (y : Transport) : Prop where
  phase : y.phase = .gap
  calNow : y.calNow = false
  paperIn : y.paperIn = paper
  sheets : y.sheets = s.transports[t].sheets
  spool : y.held 0 = s.host.spoolHigh
  unbound : y.held 1 = s.portUnbound t
  cover : y.held 2 = (s.coverOpen t || y.abortWait || s.transports[t].pendCover)
  cart : y.held 3 = ((s.tports t).any { s with ports := ports }.cartHolds || !s.transports[t].pendCart.isEmpty)
  cal : y.held 4 = s.calOut t
  supply : y.held 5 = s.power.hold.isSome
  config : y.held 6 = (s.tports t).any fun n => s.ports[n].refused

/-- A state with what a gap boundary changes before the sheet at the entry is looked at. -/
def State.atGap (s : State) (t : Fin 4) (ports : Vector Port 4) (parts : Vector Partition 6) (y : Transport) : State :=
  { s with ports := ports, parts := parts, transports := vmod s.transports t fun _ => y }

theorem atGap_transport (s : State) (t : Fin 4) (ports : Vector Port 4) (parts : Vector Partition 6) (y : Transport) :
    (s.atGap t ports parts y).transports[t] = y := onTransport_same s t fun _ => y

theorem portUnbound_congr {s z : State} (hcfg : ∀ n : Fin 4, z.ports[n].portCfg = s.ports[n].portCfg)
    (hport : ∀ n : Fin 4, z.ports[n].boundPart = s.ports[n].boundPart) (hpart : ∀ p : Fin 6, z.parts[p].bound = s.parts[p].bound)
    (t : Fin 4) : z.portUnbound t = s.portUnbound t := by
  simp only [State.portUnbound, tports_congr hcfg t, hport, hpart]

theorem calOut_congr {s z : State} (hcfg : ∀ n : Fin 4, z.ports[n].portCfg = s.ports[n].portCfg)
    (hrun : ∀ n : Fin 4, z.ports[n].calFailRun = s.ports[n].calFailRun) (hctrl : z.feCtrl = s.feCtrl) (t : Fin 4) :
    z.calOut t = s.calOut t := by
  unfold State.calOut State.calLimit
  rw [tports_congr hcfg t, hctrl]
  exact congrArg (s.tports t).any (funext fun n => by rw [hrun])

/-- SPOOL, PARTITION_UNBOUND, CAL and SUPPLY evaluated at a gap boundary. -/
def Transport.gapJudged (spool unbound cal supply : Bool) (x : Transport) : Transport :=
  { x with hold := setBit (setBit (setBit (setBit x.hold 0 spool) 1 unbound) 4 cal) 5 supply }

theorem held_gapJudged (x : Transport) (spool unbound cal supply : Bool) (j : Nat) (hj : j < 8) :
    (x.gapJudged spool unbound cal supply).held j
      = if 5 = j then supply else if 4 = j then cal else if 1 = j then unbound else if 0 = j then spool else x.held j := by
  simp only [Transport.gapJudged, Transport.held, getLsbD_setBit _ _ _ _ hj]

theorem held_judged (x : Transport) (wait cover cart config : Bool) (j : Nat) (hj : j < 8) :
    (x.judged wait cover cart config).held j = if 6 = j then config else if 3 = j then cart || !x.pendCart.isEmpty
      else if 2 = j then cover || wait || x.pendCover else x.held j := by
  simp only [Transport.judged, Transport.held, getLsbD_setBit _ _ _ _ hj]

/-- What the recheck of CAPTURE changes. -/
theorem recheckCapture_eq (s : State) (t : Fin 4) : ∃ hold,
    (s.recheckCapture t = s.onTransport t fun x => { x with hold := hold }) ∧ ∀ j < 7, hold.getLsbD j = s.transports[t].held j := by
  unfold State.recheckCapture
  split
  · exact ⟨_, setHold_eq s t _ false, capture_kept _ _⟩
  · exact ⟨s.transports[t].hold, (onTransport_self s t rfl).symm, fun _ _ => rfl⟩

theorem entrySheet_calNow {s : State} {t : Fin 4} (h : s.transports[t].calNow = false) : (s.entrySheet t).transports[t].calNow = false := by
  cases hc : s.commits t with
  | false =>
    obtain ⟨_, _, _, he, _⟩ := entrySheet_waits hc
    rw [he, onTransport_same]
    exact h
  | true =>
    obtain ⟨_, _, _, _, _, l, he, _⟩ := entrySheet_commits hc
    rw [he]
    generalize State.onTransport _ t _ = z
    obtain ⟨_, _, _, hz⟩ := commitSheet_eq z t l
    rw [hz]
    exact congrArg Transport.calNow (onTransport_same _ t _)

theorem recheckCapture_calNow {s : State} {t : Fin 4} (h : s.transports[t].calNow = false) :
    (s.recheckCapture t).transports[t].calNow = false := by
  obtain ⟨_, he, _⟩ := recheckCapture_eq s t
  rw [he, onTransport_same]
  exact h

/-- What setting the instant of the next calibration changes, where it is set. -/
theorem calDue_if (s : State) (t : Fin 4) (c : Prop) [Decidable c] (d : Option Nat) : ∃ due,
    (if c then s.onTransport t fun y => { y with calDue := d } else s) = s.onTransport t fun y => { y with calDue := due } := by
  split
  · exact ⟨d, rfl⟩
  · exact ⟨s.transports[t].calDue, (onTransport_self s t rfl).symm⟩

/-- A transport at a gap boundary once every cause of hold has been evaluated there; `ports` holds the results of the cartridges. -/
def State.gapTransport (s : State) (t : Fin 4) (ports : Vector Port 4) (wait : Bool) (due : Option Nat) : Transport :=
  { (s.transports[t].judged wait (s.coverOpen t) ((s.tports t).any { s with ports := ports }.cartHolds)
      ((s.tports t).any fun n => s.ports[n].refused)).gapJudged s.host.spoolHigh (s.portUnbound t) (s.calOut t) s.power.hold.isSome with
    calDue := due }

theorem gapTransport_held (s : State) (t : Fin 4) (ports : Vector Port 4) (wait : Bool) (due : Option Nat) (j : Nat) (hj : j < 8) :
    (s.gapTransport t ports wait due).held j = if 5 = j then s.power.hold.isSome else if 4 = j then s.calOut t
      else if 1 = j then s.portUnbound t else if 0 = j then s.host.spoolHigh
      else if 6 = j then (s.tports t).any fun n => s.ports[n].refused
      else if 3 = j then (s.tports t).any { s with ports := ports }.cartHolds || !s.transports[t].pendCart.isEmpty
      else if 2 = j then s.coverOpen t || wait || s.transports[t].pendCover else s.transports[t].held j := by
  have h := held_gapJudged (s.transports[t].judged wait (s.coverOpen t) ((s.tports t).any { s with ports := ports }.cartHolds)
    ((s.tports t).any fun n => s.ports[n].refused)) s.host.spoolHigh (s.portUnbound t) (s.calOut t) s.power.hold.isSome j hj
  rw [held_judged _ _ _ _ _ j hj] at h
  exact h

theorem gapTransport_seen {s : State} {t : Fin 4} (hphase : s.transports[t].phase = .gap) (hcal : s.transports[t].calNow = false)
    (ports : Vector Port 4) (wait : Bool) (due : Option Nat) :
    s.GapSeen t s.transports[t].paperIn ports (s.gapTransport t ports wait due) where
  phase := hphase
  calNow := hcal
  paperIn := rfl
  sheets := rfl
  spool := gapTransport_held s t ports wait due 0 (by decide)
  unbound := gapTransport_held s t ports wait due 1 (by decide)
  cover := gapTransport_held s t ports wait due 2 (by decide)
  cart := gapTransport_held s t ports wait due 3 (by decide)
  cal := gapTransport_held s t ports wait due 4 (by decide)
  supply := gapTransport_held s t ports wait due 5 (by decide)
  config := gapTransport_held s t ports wait due 6 (by decide)

/-- The causes that a gap boundary evaluates do not depend on what it has changed before. -/
theorem gapTransport_congr {s : State} {ports : Vector Port 4} {parts : Vector Partition 6}
    (hports : ports.map Port.offBus = s.ports.map Port.offBus) (hparts : parts.map Partition.unbinding = s.parts.map Partition.unbinding)
    (t : Fin 4) (wait : Bool) (due : Option Nat) :
    State.gapTransport { s with ports := ports, parts := parts } t ports wait due = s.gapTransport t ports wait due := by
  generalize hz : ({ s with ports := ports, parts := parts } : State) = z
  have hcfg := field_of_map_eq hports Port.portCfg fun _ => rfl
  have htports : z.tports t = s.tports t := by rw [← hz]; exact tports_congr hcfg t
  have hunbound : z.portUnbound t = s.portUnbound t := by
    rw [← hz]
    exact portUnbound_congr hcfg (field_of_map_eq hports Port.boundPart fun _ => rfl)
      (field_of_map_eq hparts Partition.bound fun _ => rfl) t
  have hcalOut : z.calOut t = s.calOut t := by
    rw [← hz]
    exact calOut_congr hcfg (field_of_map_eq hports Port.calFailRun fun _ => rfl) (by rfl) t
  have hrefused : ((s.tports t).any fun n => z.ports[n].refused) = (s.tports t).any fun n => s.ports[n].refused := by
    rw [← hz]
    exact congrArg (s.tports t).any (funext (field_of_map_eq hports Port.refused fun _ => rfl))
  unfold State.gapTransport
  rw [hunbound, hcalOut, htports, hrefused, ← hz]
  rfl

/-- The evaluation of every cause at a gap boundary. -/
def State.gapCauses (s : State) (t : Fin 4) : State :=
  let s := s.settleHolds t
  let s := s.setHold t HoldBit.spool s.host.spoolHigh
  let s := s.setHold t HoldBit.unbound (s.portUnbound t)
  let s := s.setHold t HoldBit.cal (s.calOut t)
  s.setHold t HoldBit.supply s.power.hold.isSome

/-- What the evaluation of every cause at a gap boundary changes. -/
theorem gapCauses_eq (s : State) (t : Fin 4) : ∃ wait,
    s.gapCauses t = s.onTransport t fun _ => s.gapTransport t s.ports wait s.transports[t].calDue := by
  obtain ⟨wait, h⟩ := settleHolds_eq s t
  refine ⟨wait, ?_⟩
  unfold State.gapCauses
  rw [h]
  unfold State.setHold
  rw [onTransport_onTransport, onTransport_onTransport, onTransport_onTransport, onTransport_onTransport]
  exact onTransport_const s t _

/-- What a gap boundary does with no calibration due and no plan binding waiting: the causes are evaluated, then the sheet at the entry,
or its frames, are looked at. -/
theorem gapBoundary_eq {s : State} {t : Fin 4} (hphase : s.transports[t].phase = .gap) (hcal : s.transports[t].calNow = false)
    (hbind : s.transports[t].pendBind = false) : ∃ ports parts y,
    s.gapBoundary t = (if s.transports[t].paperIn then (s.atGap t ports parts y).entrySheet t
      else (s.atGap t ports parts y).recheckCapture t)
    ∧ ports.map Port.offBus = s.ports.map Port.offBus ∧ parts.map Partition.unbinding = s.parts.map Partition.unbinding
    ∧ s.GapSeen t s.transports[t].paperIn ports y := by
  unfold State.gapBoundary
  extract_lets +onlyGivenNames s1 committed s2 s3 s4 s5 s6 x s7 s8 y
  obtain ⟨ports, hs1, hports⟩ : ∃ ports, s1 = { s with ports := ports } ∧ ports.map Port.offBus = s.ports.map Port.offBus :=
    ⟨_, foldl_onPort Port.atGap (s.tports t) s, foldl_vmod_map atGap_offBus _ _⟩
  have hcommitted : committed = false := by
    unfold committed
    rw [hs1]
    exact congrArg TrPhase.committed hphase
  obtain ⟨parts, hgap, hparts⟩ := gapBind_eq (s := { s with ports := ports }) (t := t) hbind
  obtain ⟨wait, hs6⟩ : ∃ wait, s6 = s.atGap t ports parts (s.gapTransport t ports wait s.transports[t].calDue) := by
    obtain ⟨wait, h⟩ := gapCauses_eq { s with ports := ports, parts := parts } t
    refine ⟨wait, ?_⟩
    have hs2 : s2 = State.settleHolds { s with ports := ports, parts := parts } t := by
      unfold s2
      rw [hcommitted, hs1]
      exact congrArg (State.settleHolds · t) hgap
    rw [gapTransport_congr hports hparts] at h
    unfold s6 s5 s4 s3
    rw [hs2]
    exact h
  obtain ⟨due, hs7⟩ : ∃ due, s7 = s6.onTransport t fun y => { y with calDue := due } := calDue_if s6 t _ _
  have hpaper : x.paperIn = s.transports[t].paperIn := by
    unfold x
    rw [hs6, atGap_transport]
    rfl
  have hat : s7 = s.atGap t ports parts (s.gapTransport t ports wait due) := by
    rw [hs7, hs6]
    exact congrArg (fun v => { s with ports := ports, parts := parts, transports := v }) (vmod_vmod s.transports t (fun _ => _) _)
  have hcalNow : s7.transports[t].calNow = false := by
    rw [hat, atGap_transport]
    exact hcal
  have hdue : y.calNow = false := by
    unfold y s8
    split
    · exact entrySheet_calNow hcalNow
    · exact recheckCapture_calNow hcalNow
  refine ⟨ports, parts, s.gapTransport t ports wait due, ?_, hports, hparts, gapTransport_seen hphase hcal ports wait due⟩
  rw [if_neg (by rw [hcommitted]; decide), if_neg (by rw [hdue]; simp), ← hat, ← hpaper]

/-- What is seen at a gap boundary depends on the transport by its count of sheets and its waiting events only. -/
theorem gapSeen_of_onTransport {s : State} {t : Fin 4} {paper : Bool} {ports : Vector Port 4} {x y : Transport}
    (h : (s.onTransport t fun _ => x).GapSeen t paper ports y) (hsheets : x.sheets = s.transports[t].sheets)
    (hcover : x.pendCover = s.transports[t].pendCover) (hcart : x.pendCart = s.transports[t].pendCart) : s.GapSeen t paper ports y where
  phase := h.phase
  calNow := h.calNow
  paperIn := h.paperIn
  sheets := h.sheets.trans (by rw [onTransport_same]; exact hsheets)
  spool := h.spool
  unbound := h.unbound
  cover := h.cover.trans (by rw [onTransport_same, hcover]; rfl)
  cart := h.cart.trans (by rw [onTransport_same, hcart]; rfl)
  cal := h.cal
  supply := h.supply
  config := h.config

/-- What a line boundary of a transport in a sheet gap does with no calibration due and no plan binding waiting. -/
theorem lineBoundary_gap {s : State} {t : Fin 4} (hphase : s.transports[t].phase = .gap) (hcal : s.transports[t].calNow = false)
    (hbind : s.transports[t].pendBind = false) (paper : Bool) (samples : List (List Nat)) : ∃ ports parts y,
    s.lineBoundary t paper samples = State.endBoundary (if paper then (s.atGap t ports parts y).entrySheet t
      else (s.atGap t ports parts y).recheckCapture t) t .gap
    ∧ ports.map Port.offBus = s.ports.map Port.offBus ∧ parts.map Partition.unbinding = s.parts.map Partition.unbinding
    ∧ s.GapSeen t paper ports y := by
  unfold State.lineBoundary
  extract_lets +onlyGivenNames s1 was input s2 s3 s4 s5 s6
  have hwas : was = .gap := by
    unfold was s1
    rw [onTransport_same]
    exact hphase
  have hs2 : s2 = s1 := by
    unfold s2
    rw [hwas]
  obtain ⟨y1, hs3, hy1⟩ : ∃ y1, (s3 = s.onTransport t fun _ => y1) ∧ y1.phase = .gap ∧ y1.calNow = false ∧ y1.pendBind = false
      ∧ y1.paperIn = paper ∧ y1.sheets = s.transports[t].sheets ∧ y1.pendCover = s.transports[t].pendCover
      ∧ y1.pendCart = s.transports[t].pendCart := by
    unfold s3
    rw [hs2]
    obtain ⟨wait, h⟩ := settleHolds_eq s1 t
    rw [h, interrupt_gap]
    · obtain ⟨wait', h'⟩ := settleHolds_eq (s1.onTransport t (Transport.judged wait (s1.coverOpen t) ((s1.tports t).any s1.cartHolds)
        ((s1.tports t).any fun n => s1.ports[n].refused))) t
      rw [h', onTransport_onTransport]
      unfold s1
      rw [onTransport_onTransport]
      exact ⟨_, onTransport_const s t _, hphase, hcal, hbind, rfl, rfl, rfl, rfl⟩
    · rw [onTransport_same]
      exact hwas
  obtain ⟨hgap1, hcal1, hbind1, hpaper1, hsheets1, hcover1, hcart1⟩ := hy1
  have htr : s3.transports[t] = y1 := by rw [hs3, onTransport_same]
  have hs4 : s4 = s3 := by
    unfold s4
    rw [hwas]
  have hs5 : s5 = s3.gapBoundary t := by
    unfold s5
    rw [hs4, htr, hgap1]
    exact if_neg (by decide)
  obtain ⟨ports, parts, y, hgap, hports, hparts, hseen⟩ := gapBoundary_eq (by rw [htr]; exact hgap1) (by rw [htr]; exact hcal1)
    (by rw [htr]; exact hbind1)
  rw [htr, hpaper1] at hgap hseen
  have hat : s3.atGap t ports parts y = s.atGap t ports parts y := by
    rw [hs3]
    exact congrArg (fun v => { s with ports := ports, parts := parts, transports := v })
      (vmod_vmod s.transports t (fun _ => y1) fun _ => y)
  refine ⟨ports, parts, y, ?_, ?_, ?_, ?_⟩
  · rw [← hat, ← hgap, ← hs5, ← hwas]
    rfl
  · rw [hports, hs3]
    rfl
  · rw [hparts, hs3]
    rfl
  · rw [hs3] at hseen
    exact gapSeen_of_onTransport hseen hsheets1 hcover1 hcart1

end Sys2Proof.Machine

namespace Sys2Proof.Machine

/-! ## A gap boundary without paper (R40, R42, R44) -/

theorem map_eq_of_map_eq {α β : Type} {n : Nat} {v w : Vector α n} {e : α → α} (h : v.map e = w.map e) (g : α → β)
    (hg : ∀ x, g (e x) = g x) : v.map g = w.map g := by
  refine Vector.ext fun i hi => ?_
  rw [Vector.getElem_map, Vector.getElem_map]
  exact field_of_map_eq h g hg ⟨i, hi⟩

theorem exec_lineBoundary {s : State} {tr : Fin 4} (hup : s.up = true) (hc : s.tports tr ≠ []) (paper : Bool)
    (samples : List (List Nat)) (t : Nat) :
    exec (.lineBoundary tr paper samples t) s = done s ((s.at t).lineBoundary tr paper samples) := by
  refine congrArg (done s) (if_pos ?_)
  rw [show (s.at t).up = true from hup, show (s.at t).tports tr = s.tports tr from rfl]
  simpa using hc

theorem portUnbound_iff (s : State) (t : Fin 4) : s.portUnbound t = true ↔
    ∃ n ∈ s.tports t, ∀ p, s.ports[n].boundPart = some p → s.parts[p].bound = false := by
  unfold State.portUnbound
  rw [List.any_eq_true]
  refine exists_congr fun n => and_congr_right fun _ => ?_
  cases s.ports[n].boundPart with
  | none => exact iff_of_true rfl fun _ h => nomatch h
  | some p => simp

/-- FEED_HOLD and ENABLE of a transport at the end of a line boundary. -/
theorem ended_pins (step : Bool) (x : Transport) : ((x.ended step).feedHold = true ↔ (x.ended step).hold ≠ 0)
    ∧ ((x.ended step).enable = true ↔
      (x.ended step).held 2 = false ∧ (x.ended step).held 3 = false ∧ (x.ended step).held 6 = false) := by
  constructor
  · exact bne_iff_ne
  · change (!(x.held 2 || x.held 3 || x.held 6)) = true ↔ x.held 2 = false ∧ x.held 3 = false ∧ x.held 6 = false
    simp [and_assoc]

theorem atGap_tports {s : State} {ports : Vector Port 4} (h : ports.map Port.offBus = s.ports.map Port.offBus)
    (t : Fin 4) (parts : Vector Partition 6) (y : Transport) (k : Fin 4) : (s.atGap t ports parts y).tports k = s.tports k :=
  tports_congr (s := s) (u := s.atGap t ports parts y) (field_of_map_eq h Port.portCfg fun _ => rfl) k

/-- A line boundary in a sheet gap without paper, with no calibration due and no plan binding waiting: the causes of hold are
evaluated, and the outputs and pins are settled. -/
theorem lineBoundary_emptyGap {s : State} {t : Fin 4} (hc : s.tports t ≠ []) (hphase : s.transports[t].phase = .gap)
    (hcal : s.transports[t].calNow = false) (hbind : s.transports[t].pendBind = false) (samples : List (List Nat)) :
    ∃ ports parts y step lit hold,
    s.lineBoundary t false samples = ((s.atGap t ports parts y).onPorts (s.tports t) (Port.settleOutputs · false lit)).onTransport t
      (fun x => Transport.ended step { x with hold := hold })
    ∧ ports.map Port.offBus = s.ports.map Port.offBus ∧ parts.map Partition.unbinding = s.parts.map Partition.unbinding
    ∧ s.GapSeen t false ports y ∧ ∀ j < 7, hold.getLsbD j = y.held j := by
  obtain ⟨ports, parts, y, hline, hports, hparts, hseen⟩ := lineBoundary_gap hphase hcal hbind false samples
  obtain ⟨hold, hrecheck, hhold⟩ := recheckCapture_eq (s.atGap t ports parts y) t
  rw [atGap_transport] at hhold
  have htports := atGap_tports hports t parts y t
  rw [if_neg (by decide), hrecheck] at hline
  generalize hz : (s.atGap t ports parts y) = z at *
  obtain ⟨step, lit, hend⟩ := endBoundary_eq (s := z.onTransport t fun x => { x with hold := hold }) (t := t)
    (by change z.tports t ≠ []; rw [htports]; exact hc) .gap
  refine ⟨ports, parts, y, step, lit, hold, ?_, hports, hparts, hseen, hhold⟩
  rw [hline, hend, ← htports, hz]
  exact onTransport_onTransport (z.onPorts (z.tports t) (Port.settleOutputs · false lit)) t (fun x => { x with hold := hold }) _

/-- Settles O16: the causes are evaluated on the state that the boundary finds, and the pins follow them. -/
theorem gapBoundaryReportsEveryCause : Obligations.GapBoundaryReportsEveryCause := by
  intro s tr samples t x hup hc hphase hcal hbind
  obtain ⟨ports, parts, y, step, lit, hold, hline, hports, hparts, hseen, hhold⟩ :=
    lineBoundary_emptyGap (s := s.at t) hc hphase hcal hbind samples
  refine ⟨_, (exec_lineBoundary hup hc false samples t).trans (congrArg (done s) hline), ?_⟩
  generalize hw : (State.onPorts _ _ _).onTransport tr _ = w
  have htr : w.transports[tr] = Transport.ended step { y with hold := hold } := by
    rw [← hw, onTransport_same]
    exact congrArg (fun x => Transport.ended step { x with hold := hold }) (atGap_transport (s.at t) tr ports parts y)
  have hheld (j : Nat) (hj : j < 7) : (w.transports[tr]).held j = y.held j := by
    rw [htr]
    exact hhold j hj
  have hholds : { s.at t with ports := ports }.cartHolds = w.cartHolds := by
    funext n
    have hcart : w.ports[n].cart = ports[n].cart := by
      rw [← hw]
      exact (congrArg Port.cart (onPorts_port (State.atGap (s.at t) tr ports parts y) (tports_nodup _ tr) _ n)).trans (by split <;> rfl)
    unfold State.cartHolds
    rw [hcart, ← hw]
    rfl
  simp only [commit_transports, commit_cartHolds]
  obtain ⟨hfeed, henable⟩ := ended_pins step { y with hold := hold }
  rw [← htr] at hfeed henable
  refine ⟨?_, ?_, ?_, ?_, ?_, ?_, ?_, ?_, ?_, hfeed, henable, kept_commit _ ?_⟩
  · rw [htr]
    exact hseen.phase
  · rw [htr]
    exact hseen.paperIn
  · rw [hheld 0 (by decide), hseen.spool]
    rfl
  · rw [hheld 1 (by decide), hseen.unbound]
    exact portUnbound_iff s tr
  · rw [hheld 2 (by decide), hseen.cover, htr]
    rw [Bool.or_eq_true, Bool.or_eq_true, or_assoc]
    rfl
  · rw [hheld 3 (by decide), hseen.cart, hholds]
    exact cartCause_iff _ _ _
  · rw [hheld 4 (by decide), hseen.cal, State.calOut, List.any_eq_true]
    exact exists_congr fun n => and_congr_right fun _ => decide_eq_true_iff
  · rw [hheld 5 (by decide), hseen.supply]
    rfl
  · rw [hheld 6 (by decide), hseen.config, List.any_eq_true]
    rfl
  · rw [← hw]
    dsimp only [State.quiet]
    congr 1
    · exact (foldl_vmod_map (f := (Port.settleOutputs · false lit)) (fun _ => rfl) _ ports).trans
        (map_eq_of_map_eq hports _ fun _ => rfl)
    · exact (vmod_hides (vmod s.transports tr fun _ => y) tr (fun x => Transport.ended step { x with hold := hold })
        (fun _ => Transport.reset) fun _ => rfl).trans (vmod_hides s.transports tr (fun _ => y) (fun _ => Transport.reset) fun _ => rfl)

end Sys2Proof.Machine

namespace Sys2Proof.Machine

/-! ## Planes of the sides, and frames for a sheet (R51 to R55, R263) -/

theorem allPlanes_congr {s z : State} (hcfg : ∀ n : Fin 4, z.ports[n].portCfg = s.ports[n].portCfg)
    (hplane : ∀ n : Fin 4, z.ports[n].plane = s.ports[n].plane) : z.allPlanes = s.allPlanes := by
  unfold State.allPlanes
  congr 1
  funext n
  simp only [State.portPlanes, Port.cfgEn, Port.planes, Port.samples, hcfg n, hplane n]
  rfl

theorem sidePlanes_congr {s z : State} (h : z.allPlanes = s.allPlanes) (d : Fin 8) : z.sidePlanes d = s.sidePlanes d :=
  congrArg (List.filter _) h

/-- A state but for its time, ports, partitions and transports. -/
def State.besides (s : State) (now : Nat) (ports : Vector Port 4) (parts : Vector Partition 6) (trs : Vector Transport 4) : State :=
  { s with now := now, ports := ports, parts := parts, transports := trs }

section
variable {s : State} {now : Nat} {ports : Vector Port 4} {parts : Vector Partition 6} {trs : Vector Transport 4}

theorem framePlace_besides (hdesc : ∀ p : Fin 6, parts[p].desc = s.parts[p].desc) (p : Fin 6) (n : Nat) :
    (s.besides now ports parts trs).framePlace p n = s.framePlace p n := by
  unfold State.framePlace
  rw [show (s.besides now ports parts trs).parts[p].desc = s.parts[p].desc from hdesc p]
  rfl

/-- Frames are taken alike whatever the time and the transports, where the ports feed the same sides and the partitions are bound alike. -/
theorem takeFrames_besides (hdesc : ∀ p : Fin 6, parts[p].desc = s.parts[p].desc) (p : Fin 6) (owner width height : Nat)
    (is : List ImageNeed) : (s.besides now ports parts trs).takeFrames p owner width height is
      = (s.takeFrames p owner width height is).map fun r => (r.1.besides now ports parts trs, r.2) := by
  induction is generalizing s with
  | nil => rfl
  | cons i is ih =>
    unfold State.takeFrames
    dsimp only
    rw [framePlace_besides hdesc]
    cases hplace : s.framePlace p (ceilDiv i.bytes 4096) with
    | none => rfl
    | some a =>
      have hrest := ih (s := { s with
        frames := s.frames.filter s.frameLive ++ [⟨p, a, ceilDiv i.bytes 4096, owner, false⟩] }) hdesc
      dsimp only
      rw [show State.takeFrames { s.besides now ports parts trs with
        frames := (s.besides now ports parts trs).frames.filter (s.besides now ports parts trs).frameLive
          ++ [⟨p, a, ceilDiv i.bytes 4096, owner, false⟩] } p owner width height is = _ from hrest]
      cases State.takeFrames { s with frames := s.frames.filter s.frameLive ++ [⟨p, a, ceilDiv i.bytes 4096, owner, false⟩] }
          p owner width height is with
      | none => rfl
      | some r => rfl

/-- A sheet's frames are taken alike whatever the time and the transports, where the ports feed the same sides and the partitions are
bound alike. -/
theorem takeSheet_besides (hdesc : ∀ p : Fin 6, parts[p].desc = s.parts[p].desc)
    (hports : ports.map Port.offBus = s.ports.map Port.offBus)
    (ds : List (Fin 8)) : (s.besides now ports parts trs).takeSheet ds
      = (s.takeSheet ds).map fun r => (r.1.besides now ports parts trs, r.2) := by
  induction ds generalizing s with
  | nil => rfl
  | cons d ds ih =>
    have hplanes (d : Fin 8) : (s.besides now ports parts trs).sidePlanes d = s.sidePlanes d :=
      sidePlanes_congr (allPlanes_congr (s := s) (z := s.besides now ports parts trs) (field_of_map_eq hports Port.portCfg fun _ => rfl)
        (field_of_map_eq hports Port.plane fun _ => rfl)) d
    have hhome : (s.besides now ports parts trs).sideHome d = s.sideHome d := by
      unfold State.sideHome
      rw [hplanes d]
      cases s.sidePlanes d with
      | nil => rfl
      | cons p ps => exact field_of_map_eq hports Port.boundPart (fun _ => rfl) p.port
    have hneeds : (s.besides now ports parts trs).needs d = s.needs d := by
      unfold State.needs State.sideImages State.sideRgb State.sideHas
      rw [hplanes d]
      rfl
    unfold State.takeSheet
    rw [hhome]
    cases s.sideHome d with
    | none => rfl
    | some p =>
      have hframes := takeFrames_besides (s := { s with nextKey := s.nextKey + 1 }) (now := now) (ports := ports) (parts := parts)
        (trs := trs)
        hdesc p s.nextKey (s.sideDef d).width (s.sideDef d).lines (s.needs d)
      dsimp only
      rw [hneeds]
      rw [show State.takeFrames { s.besides now ports parts trs with nextKey := (s.besides now ports parts trs).nextKey + 1 } p
        (s.besides now ports parts trs).nextKey ((s.besides now ports parts trs).sideDef d).width
        ((s.besides now ports parts trs).sideDef d).lines
        (s.needs d) = _ from hframes]
      cases htake : State.takeFrames { s with nextKey := s.nextKey + 1 } p s.nextKey (s.sideDef d).width (s.sideDef d).lines
          (s.needs d) with
      | none => rfl
      | some r =>
        obtain ⟨u, imgs⟩ := r
        obtain ⟨frames, rfl⟩ := takeFrames_some htake
        dsimp only [Option.map_some]
        rw [ih (s := { s with nextKey := s.nextKey + 1, frames := frames }) hdesc hports]
        cases State.takeSheet { s with nextKey := s.nextKey + 1, frames := frames } ds with
        | none => rfl
        | some r => rfl

end

/-- Whether a sheet finds its frames does not depend on the time. -/
theorem takeSheet_at_isSome (s : State) (t : Nat) (ds : List (Fin 8)) : ((s.at t).takeSheet ds).isSome = (s.takeSheet ds).isSome := by
  rw [show s.at t = s.besides (max s.now t) s.ports s.parts s.transports from rfl, takeSheet_besides (fun _ => rfl) rfl, Option.isSome_map]

section
variable {s : State} {t : Fin 4} {ports : Vector Port 4} {parts : Vector Partition 6} {y : Transport}

/-- A sheet at the entry is committed exactly when every condition of step 2 of R44, R263 and R370 holds. -/
theorem commits_atGap (hports : ports.map Port.offBus = s.ports.map Port.offBus)
    (hparts : parts.map Partition.unbinding = s.parts.map Partition.unbinding) :
    (s.atGap t ports parts y).commits t = true ↔ s.sidesOf t ≠ [] ∧ (∀ n ∈ s.tports t, s.ports[n].enabled = true)
      ∧ y.held 1 = false ∧ y.held 2 = false ∧ y.held 3 = false ∧ y.held 6 = false
      ∧ (s.takeSheet (s.sidesOf t)).isSome = true ∧ s.sideReserve * (s.sidesOf t).length ≤ s.spoolFree := by
  have hsome : ((s.atGap t ports parts y).takeSheet (s.sidesOf t)).isSome = (s.takeSheet (s.sidesOf t)).isSome := by
    rw [show s.atGap t ports parts y = s.besides s.now ports parts (vmod s.transports t fun _ => y) from rfl,
      takeSheet_besides (field_of_map_eq hparts Partition.desc fun _ => rfl) hports, Option.isSome_map]
  have htrained : (s.atGap t ports parts y).allTrained t = (s.tports t).all fun n => s.ports[n].enabled := by
    unfold State.allTrained
    rw [atGap_tports hports]
    exact congrArg (s.tports t).all (funext (field_of_map_eq hports Port.enabled fun _ => rfl))
  have hmay : (s.atGap t ports parts y).mayCommit t = true ↔ y.held 2 = false ∧ y.held 3 = false ∧ y.held 6 = false
      ∧ y.held 1 = false ∧ ∀ n ∈ s.tports t, s.ports[n].enabled = true := by
    unfold State.mayCommit Transport.stopped
    rw [atGap_transport, htrained]
    simp [and_assoc]
  rw [commits_iff, hmay]
  change s.sidesOf t ≠ [] ∧ ((s.atGap t ports parts y).takeSheet (s.sidesOf t)).isSome = true
    ∧ s.sideReserve * (s.sidesOf t).length ≤ s.spoolFree ∧ _ ↔ _
  rw [hsome]
  tauto

end

/-! ## The end of a boundary with a sheet at the entry -/

/-- What a boundary of transport `t` leaves: the other transports, the engines, contexts, queue and memory, and on `t` the causes of
hold but SPOOL and CAPTURE. -/
structure State.SameElsewhere (s u : State) (t : Fin 4) : Prop where
  transports : ∀ k : Fin 4, k ≠ t → u.transports[k] = s.transports[k]
  held : ∀ j < 7, 0 < j → u.transports[t].held j = s.transports[t].held j
  engines : u.engines = s.engines
  contexts : u.contexts = s.contexts
  queue : u.queue = s.queue
  mem : u.mem = s.mem

theorem State.SameElsewhere.trans {s u v : State} {t : Fin 4} (h : s.SameElsewhere u t) (h' : u.SameElsewhere v t) :
    s.SameElsewhere v t where
  transports k hk := (h'.transports k hk).trans (h.transports k hk)
  held j hj h0 := (h'.held j hj h0).trans (h.held j hj h0)
  engines := h'.engines.trans h.engines
  contexts := h'.contexts.trans h.contexts
  queue := h'.queue.trans h.queue
  mem := h'.mem.trans h.mem

theorem onTransport_other {s : State} {t k : Fin 4} (h : k ≠ t) (f : Transport → Transport) :
    (s.onTransport t f).transports[k] = s.transports[k] :=
  (onTransport_transport s t k f).trans (if_neg (Ne.symm h))

/-- What the end of a line boundary leaves of a configured transport. -/
theorem endBoundary_keeps {s : State} {t : Fin 4} (hc : s.tports t ≠ []) (was : TrPhase) :
    s.SameElsewhere (s.endBoundary t was) t ∧ (s.endBoundary t was).transports[t].phase = s.transports[t].phase
    ∧ (s.endBoundary t was).transports[t].sheets = s.transports[t].sheets
    ∧ (s.endBoundary t was).transports[t].sheetSides = s.transports[t].sheetSides
    ∧ (s.endBoundary t was).host = s.host ∧ (s.endBoundary t was).sides = s.sides ∧ (s.endBoundary t was).frames = s.frames := by
  obtain ⟨step, lit, h⟩ := endBoundary_eq hc was
  rw [h]
  have htr : ((s.onPorts (s.tports t) (Port.settleOutputs · was.lit lit)).onTransport t (Transport.ended step)).transports[t]
    = s.transports[t].ended step := onTransport_same _ t _
  refine ⟨⟨fun k hk => onTransport_other hk _, fun j _ _ => ?_, rfl, rfl, rfl, rfl⟩, ?_, ?_, ?_, rfl, rfl, rfl⟩
  · rw [htr]
    rfl
  · rw [htr]
    rfl
  · rw [htr]
    rfl
  · rw [htr]
    rfl

/-- A boundary at which the sheet at the entry is not committed. -/
theorem entrySheet_waits_keeps {s : State} {t : Fin 4} (h : s.commits t = false) :
    s.SameElsewhere (s.entrySheet t) t ∧ (s.entrySheet t).tports t = s.tports t
    ∧ (s.entrySheet t).transports[t].phase = s.transports[t].phase
    ∧ (s.entrySheet t).transports[t].sheets = s.transports[t].sheets ∧ (s.entrySheet t).host.spoolResv = s.host.spoolResv
    ∧ (s.entrySheet t).sides = s.sides ∧ (s.entrySheet t).frames = s.frames := by
  obtain ⟨high, chip, hold, he, hhold⟩ := entrySheet_waits h
  rw [he]
  generalize hw : ({ s with host := { s.host with spoolHigh := high, chip := chip } } : State) = w
  have htr := onTransport_same w t fun x => { x with hold := hold }
  subst hw
  refine ⟨⟨fun k hk => onTransport_other hk _, fun j hj h0 => ?_, rfl, rfl, rfl, rfl⟩, rfl, ?_, ?_, rfl, rfl, rfl⟩
  · rw [htr]
    exact hhold j hj h0
  · rw [htr]
  · rw [htr]

/-- What entering a sheet's sides leaves, and what the sides are. -/
theorem commitSheet_enters (s : State) (t : Fin 4) (l : List (Fin 8 × Nat × Fin 6 × List ImageRef)) :
    s.SameElsewhere (s.commitSheet t l) t ∧ (s.commitSheet t l).tports t = s.tports t
    ∧ (∃ ph, (s.commitSheet t l).transports[t].phase = .calib true ph 0)
    ∧ (s.commitSheet t l).transports[t].sheets = s.transports[t].sheets + 1
    ∧ (s.commitSheet t l).host.spoolResv = s.host.spoolResv + s.sideReserve * l.length
    ∧ (s.commitSheet t l).sides = s.sides ++ s.newSides t l
    ∧ (s.commitSheet t l).transports[t].sheetSides = (s.newSides t l).map (·.key) := by
  obtain ⟨ph, boot, store, h⟩ := commitSheet_eq s t l
  have htports := onPorts_tports s (s.tports t) (f := Port.calStarted) (fun _ => rfl) t
  have htr : (s.commitSheet t l).transports[t]
      = s.transports[t].entered (s.transports[t].sheets + 1) ((s.newSides t l).map (·.key)) ph := by
    rw [h]
    exact onTransport_same (s.onPorts (s.tports t) Port.calStarted) t _
  refine ⟨⟨fun k hk => ?_, fun j _ _ => ?_, ?_, ?_, ?_, ?_⟩, ?_, ⟨ph, ?_⟩, ?_, ?_, ?_, ?_⟩
  · rw [h]
    exact onTransport_other hk _
  · rw [htr]
    rfl
  · rw [h]
    rfl
  · rw [h]
    rfl
  · rw [h]
    rfl
  · rw [h]
    rfl
  · rw [h]
    exact htports
  · rw [htr]
    rfl
  · rw [htr]
    rfl
  · rw [h]
  · rw [h]
  · rw [htr]
    rfl

/-- The sides that a sheet enters. -/
theorem newSides_fresh (s : State) (t : Fin 4) (l : List (Fin 8 × Nat × Fin 6 × List ImageRef)) : ∀ z ∈ s.newSides t l,
    z.stage = .capturing ∧ z.host = false ∧ z.transport = t ∧ z.reserve = s.sideReserve ∧ z.tStart = none
      ∧ z.sheetId = scanSheetId (s.transports[t].sheets + 1) t := by
  intro z hz
  obtain ⟨x, _, rfl⟩ := List.mem_map.1 hz
  exact ⟨rfl, rfl, rfl, rfl, rfl, rfl⟩

/-- A boundary at which the sheet at the entry is committed. -/
theorem entrySheet_commits_enters {s : State} {t : Fin 4} (h : s.commits t = true) :
    s.SameElsewhere (s.entrySheet t) t ∧ (s.entrySheet t).tports t = s.tports t
    ∧ (∃ ph, (s.entrySheet t).transports[t].phase = .calib true ph 0)
    ∧ (s.entrySheet t).transports[t].sheets = s.transports[t].sheets + 1
    ∧ (s.entrySheet t).host.spoolResv = s.host.spoolResv + s.sideReserve * (s.sidesOf t).length
    ∧ ∃ new : List Side, (s.entrySheet t).sides = s.sides ++ new ∧ new.length = (s.sidesOf t).length
      ∧ (s.entrySheet t).transports[t].sheetSides = new.map (·.key)
      ∧ ∀ z ∈ new, z.stage = .capturing ∧ z.host = false ∧ z.transport = t ∧ z.reserve = s.sideReserve ∧ z.tStart = none
          ∧ z.sheetId = scanSheetId (s.transports[t].sheets + 1) t := by
  obtain ⟨frames, key, high, chip, hold, l, he, hlen, hhold⟩ := entrySheet_commits h
  rw [he]
  generalize hw : ({ s with
    frames := frames, nextKey := key, host := { s.host with spoolHigh := high, chip := chip } } : State).onTransport t
      (fun x => { x with hold := hold }) = w
  have htr : w.transports[t] = { s.transports[t] with hold := hold } := by
    rw [← hw, onTransport_same]
  have hkeep : s.SameElsewhere w t := by
    refine ⟨fun k hk => ?_, fun j hj _ => ?_, ?_, ?_, ?_, ?_⟩
    · rw [← hw, onTransport_other hk]
    · rw [htr]
      exact hhold j hj
    · rw [← hw]
      rfl
    · rw [← hw]
      rfl
    · rw [← hw]
      rfl
    · rw [← hw]
      rfl
  have htports : w.tports t = s.tports t := by rw [← hw]; rfl
  have hsheets : w.transports[t].sheets = s.transports[t].sheets := by rw [htr]
  have hreserve : w.sideReserve = s.sideReserve := by rw [← hw]; rfl
  have hresv : w.host.spoolResv = s.host.spoolResv := by rw [← hw]; rfl
  have hsides : w.sides = s.sides := by rw [← hw]; rfl
  obtain ⟨hk, hports, hphase, hcount, hspool, hnew, hkeys⟩ := commitSheet_enters w t l
  have hfresh := newSides_fresh w t l
  rw [hsheets, hreserve] at hfresh
  refine ⟨hkeep.trans hk, hports.trans htports, hphase, by rw [hcount, hsheets], by rw [hspool, hresv, hreserve, hlen],
    w.newSides t l, by rw [hnew, hsides], by rw [State.newSides, List.length_map, hlen], hkeys, hfresh⟩

/-- Settles O17: a boundary either commits the sheet at the entry, with all its frames and reservations, or takes none of them. -/
theorem sheetIsCommittedWhole : Obligations.SheetIsCommittedWhole := by
  intro s tr samples t x need hup hc hphase hcal hbind
  obtain ⟨ports, parts, y, hline, hports, hparts, hseen⟩ := lineBoundary_gap (s := s.at t) hphase hcal hbind true samples
  refine ⟨_, (exec_lineBoundary hup hc true samples t).trans (congrArg (done s) hline), ?_⟩
  rw [if_pos rfl]
  have hcommits := commits_atGap (s := s.at t) (t := tr) (y := y) hports hparts
  rw [takeSheet_at_isSome] at hcommits
  have htr := atGap_transport (s.at t) tr ports parts y
  have htports := atGap_tports hports tr parts y tr
  have hz : ∀ k : Fin 4, k ≠ tr → ((s.at t).atGap tr ports parts y).transports[k] = s.transports[k] := fun k hk =>
    onTransport_other (s := s.at t) hk fun _ => y
  obtain ⟨hhost, hsides, hframes, heng, hctx, hqueue, hmem, hreserve, hdefs⟩ :
      ((s.at t).atGap tr ports parts y).host = s.host ∧ ((s.at t).atGap tr ports parts y).sides = s.sides
      ∧ ((s.at t).atGap tr ports parts y).frames = s.frames ∧ ((s.at t).atGap tr ports parts y).engines = s.engines
      ∧ ((s.at t).atGap tr ports parts y).contexts = s.contexts ∧ ((s.at t).atGap tr ports parts y).queue = s.queue
      ∧ ((s.at t).atGap tr ports parts y).mem = s.mem ∧ ((s.at t).atGap tr ports parts y).sideReserve = s.sideReserve
      ∧ ((s.at t).atGap tr ports parts y).sidesOf tr = s.sidesOf tr := ⟨rfl, rfl, rfl, rfl, rfl, rfl, rfl, rfl, rfl⟩
  generalize (s.at t).atGap tr ports parts y = z at *
  have hend (h : (z.entrySheet tr).tports tr = z.tports tr) := endBoundary_keeps (s := z.entrySheet tr) (t := tr)
    (by rw [h, htports]; exact hc) .gap
  simp only [commit_transports, commit_host_spoolResv, commit_sides, commit_frames, commit_engines, commit_contexts,
    commit_queue, commit_mem]
  have hframe (u : State) (hk : z.SameElsewhere u tr) : (∀ k : Fin 4, k ≠ tr → u.transports[k] = s.transports[k])
      ∧ u.engines = s.engines ∧ u.contexts = s.contexts ∧ u.queue = s.queue ∧ u.mem = s.mem :=
    ⟨fun k hne => (hk.transports k hne).trans (hz k hne), hk.engines.trans heng, hk.contexts.trans hctx, hk.queue.trans hqueue,
      hk.mem.trans hmem⟩
  have hheld (u : State) (hk : z.SameElsewhere u tr) (j : Nat) (hj : j < 7) (h0 : 0 < j) : u.transports[tr].held j = y.held j := by
    rw [hk.held j hj h0, htr]
  cases hcommit : z.commits tr with
  | true =>
    obtain ⟨hk, hp, ⟨ph, hph⟩, hsheets, hresv, new, hnew, hlen, hkeys, hfresh⟩ := entrySheet_commits_enters hcommit
    obtain ⟨hk', hphase', hsheets', hkeys', hhost', hsides', _⟩ := hend hp
    generalize (z.entrySheet tr).endBoundary tr .gap = u at *
    have hheld := hheld u (hk.trans hk')
    obtain ⟨hsome, htrained, h1, h2, h3, h6, htake, hneed⟩ := hcommits.1 hcommit
    have hsheet : z.transports[tr].sheets = x.sheets := by rw [htr]; exact hseen.sheets
    rw [hsheet, hreserve] at hfresh
    refine ⟨fun _ => ⟨?_, ⟨ph, hphase'.trans hph⟩, ?_, new, ?_, ?_, hkeys'.trans hkeys, hfresh⟩, fun hnot => absurd ?_ hnot,
      hframe u (hk.trans hk')⟩
    · rw [hsheets', hsheets, hsheet]
    · rw [hhost', hresv, hhost, hreserve, hdefs]
    · rw [hsides', hnew, hsides]
    · rw [hlen, hdefs]
    · rw [hheld 1 (by decide) (by decide), hheld 2 (by decide) (by decide), hheld 3 (by decide) (by decide),
        hheld 6 (by decide) (by decide)]
      exact ⟨hsome, htrained, h1, h2, h3, h6, htake, hneed⟩
  | false =>
    obtain ⟨hk, hp, hph, hsheets, hresv, hnew, hfr⟩ := entrySheet_waits_keeps hcommit
    obtain ⟨hk', hphase', hsheets', hkeys', hhost', hsides', hframes'⟩ := hend hp
    generalize (z.entrySheet tr).endBoundary tr .gap = u at *
    have hheld := hheld u (hk.trans hk')
    refine ⟨fun htaken => ?_, fun _ => ⟨?_, ?_, ?_, ?_, ?_⟩, hframe u (hk.trans hk')⟩
    · rw [hheld 1 (by decide) (by decide), hheld 2 (by decide) (by decide), hheld 3 (by decide) (by decide),
        hheld 6 (by decide) (by decide)] at htaken
      exact nomatch hcommit.symm.trans (hcommits.2 htaken)
    · rw [hsheets', hsheets, htr]
      exact hseen.sheets
    · rw [hphase', hph, htr]
      exact hseen.phase
    · rw [hhost', hresv, hhost]
    · rw [hsides', hnew, hsides]
    · rw [hframes', hfr, hframes]

end Sys2Proof.Machine

namespace Sys2Proof.Machine

/-! ## What a capture line leaves of the sides that it does not assemble (R54, R74) -/

/-- A transport without its count of sides. -/
def Transport.uncounted (x : Transport) : Transport := { x with sides := 0 }

/-- What the assembly of lines leaves of the front end: the ports, the transports but for their counts of sides, the side definitions
and the time. -/
def State.frontEnd (s : State) := (s.ports, s.transports.map Transport.uncounted, s.sideDefA, s.sideDefB, s.now)

/-- What a line of side `k` leaves. -/
def State.beside (s : State) (k : Nat) := (s.frontEnd, s.sides.filter fun y => y.key != k)

/-- How far a side has been captured: its assembled lines, and its T_START. -/
def State.progress (s : State) (k : Nat) : Option (Nat × Option Nat) := (s.side? k).map fun y => (y.assembled, y.tStart)

theorem side?_onSide_map {f : Side → Side} (hf : ∀ y, (f y).key = y.key) (s : State) (k : Nat) :
    (s.onSide k f).side? k = (s.side? k).map f := by
  cases h : s.side? k with
  | some x => exact side?_onSide hf h
  | none =>
    unfold State.side? at h ⊢
    rw [List.find?_eq_none] at h
    rw [Option.map_none, List.find?_eq_none]
    intro y hy
    obtain ⟨z, hz, rfl⟩ := List.mem_map.1 hy
    rw [onSide_key hf]
    exact h z hz

theorem onSide_beside (s : State) (k : Nat) {f : Side → Side} (hf : ∀ y, (f y).key = y.key := by exact fun _ => rfl) :
    (s.onSide k f).beside k = s.beside k := by
  unfold State.beside
  rw [onSide_others hf]
  rfl

theorem onSide_progress {f : Side → Side} (hf : ∀ y, (f y).key = y.key)
    (hp : ∀ y, ((f y).assembled, (f y).tStart) = (y.assembled, y.tStart)) (s : State) (k : Nat) :
    (s.onSide k f).progress k = s.progress k := by
  unfold State.progress
  rw [side?_onSide_map hf, Option.map_map]
  exact congrArg (fun g => (s.side? k).map g) (funext hp)

/-- What an update of side `k` that is not a line of it leaves. -/
def State.steady (s : State) (k : Nat) := (s.beside k, s.progress k)

theorem onSide_steady (s : State) (k : Nat) {f : Side → Side} (hf : ∀ y, (f y).key = y.key := by exact fun _ => rfl)
    (hp : ∀ y, ((f y).assembled, (f y).tStart) = (y.assembled, y.tStart) := by exact fun _ => rfl) :
    (s.onSide k f).steady k = s.steady k :=
  congrArg₂ Prod.mk (onSide_beside s k hf) (onSide_progress hf hp s k)

theorem addStatus_steady (s : State) (k code detail : Nat) : (s.addStatus k code detail).steady k = s.steady k :=
  onSide_steady s k

theorem chooseSkew_steady (s : State) (x : Side) : (s.chooseSkew x).steady x.key = s.steady x.key := by
  unfold State.chooseSkew
  extract_lets +onlyGivenNames d pts k limit ok plain
  have hskew (z : State) (q : Skew) : (z.onSide x.key fun y => { y with skew := some q }).steady x.key = z.steady x.key :=
    onSide_steady z x.key
  clear_value k limit ok plain
  split
  · exact (hskew _ plain).trans (addStatus_steady s x.key _ _)
  · split
    · exact hskew s k
    · exact (hskew _ plain).trans (addStatus_steady s x.key _ _)

theorem emitLine_steady (s : State) (k : Nat) : (s.emitLine k).steady k = s.steady k := by
  cases hx : s.side? k with
  | none =>
    unfold State.emitLine
    rw [hx]
  | some x =>
    obtain ⟨m, he, _⟩ := emitLine_eq hx
    rw [he]
    exact onSide_steady s k (flushed_key _ _) fun y => by unfold Side.flushed; split <;> rfl

theorem selectPicture_steady (s : State) (k : Nat) (n : Fin 64) : (s.selectPicture k n).steady k = s.steady k := by
  unfold State.selectPicture
  split
  · rfl
  next x hx =>
  extract_lets +onlyGivenNames ref st s1
  have hs1 : s1.steady k = s.steady k := by
    unfold s1
    split
    · exact addStatus_steady s k _ _
    · extract_lets +onlyGivenNames image s2
      have hs2 : s2.steady k = s.steady k := onSide_steady s k
      split
      · exact (addStatus_steady s2 k _ _).trans hs2
      · exact hs2
  exact (onSide_steady s1 k).trans hs1

theorem fuseSide_steady (s : State) (k : Nat) : (s.fuseSide k).steady k = s.steady k := by
  unfold State.fuseSide
  split
  · rfl
  next x hx =>
  split
  · rfl
  · refine foldl_keeps (P := fun z : State => z.steady k = s.steady k) (fun z n hz => ?_) rfl
    split
    · exact (selectPicture_steady z k n).trans hz
    · exact hz

theorem onTransport_beside (s : State) (t : Fin 4) (k : Nat) {f : Transport → Transport}
    (hf : ∀ x, (f x).uncounted = x.uncounted := by exact fun _ => rfl) : (s.onTransport t f).beside k = s.beside k := by
  unfold State.beside State.frontEnd
  rw [show (s.onTransport t f).transports.map Transport.uncounted = s.transports.map Transport.uncounted from
    vmod_map s.transports t f Transport.uncounted hf]
  rfl

section
variable {s u : State} (h : u.frontEnd = s.frontEnd)
include h

theorem frontEnd_ports : u.ports = s.ports := (Prod.mk.inj h).1

theorem frontEnd_transport (t : Fin 4) : (u.transports[t]).uncounted = (s.transports[t]).uncounted :=
  eq_of_map_eq (Prod.mk.inj (Prod.mk.inj h).2).1 t

theorem frontEnd_sideDef (d : Fin 8) : u.sideDef d = s.sideDef d := by
  obtain ⟨_, h2⟩ := Prod.mk.inj h
  obtain ⟨_, h3⟩ := Prod.mk.inj h2
  obtain ⟨hA, h4⟩ := Prod.mk.inj h3
  unfold State.sideDef
  rw [hA, (Prod.mk.inj h4).1]

theorem frontEnd_maxDelay (d : Fin 8) : u.maxDelay d = s.maxDelay d := by
  unfold State.maxDelay State.sidePlanes State.allPlanes State.portPlanes
  rw [frontEnd_ports h]

theorem frontEnd_now : u.now = s.now := by
  obtain ⟨_, h2⟩ := Prod.mk.inj h
  obtain ⟨_, h3⟩ := Prod.mk.inj h2
  obtain ⟨_, h4⟩ := Prod.mk.inj h3
  exact (Prod.mk.inj h4).2

end

theorem beside_frontEnd {s u : State} {k : Nat} (h : u.beside k = s.beside k) : u.frontEnd = s.frontEnd := (Prod.mk.inj h).1

/-- A side of another key is found where the other sides are the same. -/
theorem beside_side? {s u : State} {k key : Nat} (h : u.beside k = s.beside k) (hne : key ≠ k) : u.side? key = s.side? key := by
  have hfilter (z : State) : z.side? key = (z.sides.filter fun y => y.key != k).find? fun y => y.key == key := by
    unfold State.side?
    rw [List.find?_filter]
    congr 1
    funext y
    by_cases hy : y.key = key
    · simp [hy, hne]
    · simp [hy]
  rw [hfilter u, hfilter s, (Prod.mk.inj h).2]

theorem assembleLine_progress {s : State} {x : Side} (hx : s.side? x.key = some x) :
    (s.assembleLine x).beside x.key = s.beside x.key ∧ (s.assembleLine x).progress x.key = some (x.assembled + 1, x.tStart) := by
  unfold State.assembleLine
  extract_lets +onlyGivenNames v vis ir uv
  exact ⟨onSide_beside s x.key, congrArg (Option.map _) (side?_onSide (by exact fun _ => rfl) hx)⟩

/-- A line leaves every side but its own; of a line that belongs to the side's images one more is assembled, and T_START is now if it was
the last. -/
theorem sideLine_eq {s : State} {key : Nat} {x : Side} (hx : s.side? key = some x) (k : Nat) :
    (s.sideLine k key).beside key = s.beside key
    ∧ (¬ (x.stage ≠ .capturing ∨ x.tStart.isSome ∨ k < s.maxDelay x.sideDef
        ∨ k - s.maxDelay x.sideDef ≥ (s.sideDef x.sideDef).lines) →
      (s.sideLine k key).progress key
        = some (x.assembled + 1, if x.assembled + 1 = (s.sideDef x.sideDef).lines then some s.now else x.tStart)) := by
  obtain rfl := side?_key hx
  unfold State.sideLine
  split
  · next h => exact nomatch h.symm.trans hx
  next y hy =>
  obtain rfl : y = x := Option.some.inj (hy.symm.trans hx)
  extract_lets +onlyGivenNames d delay
  split
  · next h => exact ⟨rfl, fun hgo => absurd h hgo⟩
  extract_lets +onlyGivenNames s1 s2 s3 s4
  obtain ⟨hb1, hp1⟩ : s1.beside y.key = s.beside y.key ∧ s1.progress y.key = _ := assembleLine_progress hx
  clear_value s1
  have hs2 : s2.steady y.key = s1.steady y.key := by
    unfold s2
    split
    · split
      · next z hz => exact side?_key hz ▸ chooseSkew_steady s1 z
      · rfl
    · rfl
  obtain ⟨hb2, hp2⟩ := Prod.mk.inj hs2
  have hnow := frontEnd_now (beside_frontEnd (hb2.trans hb1))
  have hs4 : s4.beside y.key = s.beside y.key
      ∧ s4.progress y.key = some (y.assembled + 1, if y.assembled + 1 = d.lines then some s.now else y.tStart) := by
    unfold s4
    split
    · obtain ⟨hb, hp⟩ := Prod.mk.inj (fuseSide_steady (s3.onSide y.key fun z => { z with
        tStart := some s3.now, holdSeen := s3.power.hold.isSome }) y.key)
      refine ⟨hb.trans ((onSide_beside s3 y.key).trans ((onTransport_beside s2 y.transport y.key).trans (hb2.trans hb1))), hp.trans ?_⟩
      have hp3 : s3.progress y.key = some (y.assembled + 1, y.tStart) := hp2.trans hp1
      unfold State.progress at hp3 ⊢
      obtain ⟨z, hz, hzp⟩ := Option.map_eq_some_iff.1 hp3
      rw [side?_onSide (by exact fun _ => rfl) hz]
      exact congrArg some (Prod.ext (Prod.mk.inj hzp).1 (congrArg some hnow))
    · exact ⟨hb2.trans hb1, hp2.trans hp1⟩
  split
  · obtain ⟨hb, hp⟩ := Prod.mk.inj (emitLine_steady s4 y.key)
    exact ⟨hb.trans hs4.1, fun _ => hp.trans hs4.2⟩
  · exact ⟨hs4.1, fun _ => hs4.2⟩

theorem sideLine_beside (s : State) (k key : Nat) : (s.sideLine k key).beside key = s.beside key := by
  cases hx : s.side? key with
  | none =>
    unfold State.sideLine
    rw [hx]
  | some x => exact (sideLine_eq hx k).1

theorem sideLine_advances {s : State} {k key : Nat} {x : Side} (hx : s.side? key = some x) (hstage : x.stage = .capturing)
    (hstart : x.tStart = none) (hdelay : s.maxDelay x.sideDef ≤ k) (hline : k - s.maxDelay x.sideDef < (s.sideDef x.sideDef).lines) :
    (s.sideLine k key).progress key
      = some (x.assembled + 1, if x.assembled + 1 = (s.sideDef x.sideDef).lines then some s.now else none) := by
  have h := (sideLine_eq hx k).2 (by rw [hstage, hstart]; simp; omega)
  rwa [hstart] at h

theorem foldl_sideLine_frontEnd (k : Nat) (keys : List Nat) (s : State) :
    (keys.foldl (fun (s : State) (key : Nat) => s.sideLine k key) s).frontEnd = s.frontEnd :=
  foldl_keeps (P := fun z : State => z.frontEnd = s.frontEnd) (fun z key hz => (beside_frontEnd (sideLine_beside z k key)).trans hz) rfl

theorem foldl_sideLine_other (k : Nat) {key : Nat} (keys : List Nat) (hkey : key ∉ keys) (s : State) :
    (keys.foldl (fun (s : State) (key : Nat) => s.sideLine k key) s).side? key = s.side? key := by
  induction keys generalizing s with
  | nil => rfl
  | cons k' keys ih =>
    obtain ⟨hne, hkeys⟩ := List.ne_and_not_mem_of_not_mem_cons hkey
    exact (ih hkeys (s.sideLine k k')).trans (beside_side? (sideLine_beside s k k') hne)

/-- Each side of a sheet to whose images a line belongs has one more line assembled. -/
theorem foldl_sideLine_advances {k key : Nat} {x : Side} {keys : List Nat} {s : State} (hd : keys.Nodup) (hkey : key ∈ keys)
    (hx : s.side? key = some x) (hstage : x.stage = .capturing) (hstart : x.tStart = none) (hdelay : s.maxDelay x.sideDef ≤ k)
    (hline : k - s.maxDelay x.sideDef < (s.sideDef x.sideDef).lines) :
    (keys.foldl (fun (s : State) (key : Nat) => s.sideLine k key) s).progress key
      = some (x.assembled + 1, if x.assembled + 1 = (s.sideDef x.sideDef).lines then some s.now else none) := by
  induction keys generalizing s with
  | nil => exact nomatch hkey
  | cons k' keys ih =>
    obtain ⟨hk', hd⟩ := List.nodup_cons.1 hd
    have hb := sideLine_beside s k k'
    have hf := beside_frontEnd hb
    by_cases heq : key = k'
    · subst heq
      have h := sideLine_advances hx hstage hstart hdelay hline
      rw [← h]
      exact congrArg (Option.map _) (foldl_sideLine_other k keys hk' (s.sideLine k key))
    · have h := ih (s := s.sideLine k k') hd ((List.mem_cons.1 hkey).resolve_left heq) ((beside_side? hb heq).trans hx)
        (by rw [frontEnd_maxDelay hf]; exact hdelay) (by rw [frontEnd_maxDelay hf, frontEnd_sideDef hf]; exact hline)
      rw [frontEnd_sideDef hf, frontEnd_now hf] at h
      exact h

end Sys2Proof.Machine

namespace Sys2Proof.Machine

/-! ## What a line of samples changes of a port (R33, R39, R69) -/

/-- A side without its statuses. -/
def Side.unmarked (y : Side) : Side := { y with status := [] }

/-- What the counting of a line leaves of the front end besides the ports. -/
def State.uncounted (s : State) := (s.transports, s.sideDefA, s.sideDefB, s.now, s.sides.map Side.unmarked)

theorem addStatus_uncounted (s : State) (k code detail : Nat) : (s.addStatus k code detail).uncounted = s.uncounted := by
  unfold State.uncounted
  rw [State.addStatus, State.onSide_sides, List.map_map]
  refine congrArg (fun l => (s.transports, s.sideDefA, s.sideDefB, s.now, l)) (List.map_congr_left fun y _ => ?_)
  dsimp only [Function.comp_apply]
  split
  · rfl
  · rfl

/-- The statuses that a sheet's sides are given leave the ports and the rest of the front end. -/
theorem markSheet_leaves (s : State) (t : Fin 4) (code detail : Nat) (f : Side → Bool) :
    (s.markSheet t code detail f).ports = s.ports ∧ (s.markSheet t code detail f).uncounted = s.uncounted :=
  foldl_keeps (P := fun z : State => z.ports = s.ports ∧ z.uncounted = s.uncounted)
    (fun z x hz => ⟨hz.1, (addStatus_uncounted z x.key code detail).trans hz.2⟩) ⟨rfl, rfl⟩

theorem onOwnCart_leaves (s : State) (n : Fin 4) (f : StoreCart → StoreCart) :
    (s.onOwnCart n f).ports = s.ports ∧ (s.onOwnCart n f).uncounted = s.uncounted := by
  unfold State.onOwnCart
  split
  · exact ⟨rfl, rfl⟩
  · exact ⟨rfl, rfl⟩

/-- What a line changes of a port: its counters; and what its counting depends on. -/
structure Tally where
  portCfg : Word
  plane : Vector Word 4
  refused : Bool
  known : Bool
  lines : DWord
  underrun : Bool
  underrunLines : DWord

/-- A port's counters. -/
def Port.tally (p : Port) : Tally := ⟨p.portCfg, p.plane, p.refused, p.cart.known, p.lines, p.underrun, p.underrunLines⟩

/-- A port's counters after samples have been looked at, some of which were missing if `short`. -/
def Tally.fell (short : Bool) (x : Tally) : Tally :=
  { x with underrun := x.underrun || short, underrunLines := if short then x.underrunLines + 1 else x.underrunLines }

theorem fell_false (x : Tally) : x.fell false = x := by
  rw [Tally.fell, Bool.or_false, if_neg (by decide)]

theorem fell_true (x : Tally) : x.fell true = { x with underrun := true, underrunLines := x.underrunLines + 1 } := by
  rw [Tally.fell, Bool.or_true, if_pos rfl]

/-- A port's counters after a line period. -/
def Tally.counted (x : Tally) : Tally := { x with lines := if x.known then x.lines + 1 else x.lines }

theorem onPort_tally (s : State) (n m : Fin 4) {f : Port → Port} {g : Tally → Tally} (h : ∀ p, (f p).tally = g p.tally) :
    ((s.onPort n f).ports[m]).tally = if n = m then g s.ports[m].tally else s.ports[m].tally := by
  rw [onPort_port]
  by_cases hnm : n = m
  · subst hnm
    rw [if_pos rfl, if_pos rfl]
    exact h _
  · rw [if_neg hnm, if_neg hnm]

/-- WEAR_NEAR and CART_WEAR leave the counters and the rest of the front end. -/
theorem settleWear_leaves (s : State) (n : Fin 4) :
    (∀ m : Fin 4, ((s.settleWear n).ports[m]).tally = s.ports[m].tally) ∧ (s.settleWear n).uncounted = s.uncounted := by
  unfold State.settleWear
  extract_lets +onlyGivenNames p s1 s2
  have hs2 : (∀ m : Fin 4, (s2.ports[m]).tally = s.ports[m].tally) ∧ s2.uncounted = s.uncounted := by
    unfold s2
    split
    · obtain ⟨hports, hrest⟩ := onOwnCart_leaves (s.onPort n fun q => { q with cart := { q.cart with nearLogged := true } }) n
        fun c => { c with nearLogged := true }
      refine ⟨fun m => ?_, hrest⟩
      change (s1.ports[m]).tally = _
      unfold s1
      rw [hports, onPort_tally s n m (g := id) (by exact fun _ => rfl), id_eq]
      split
      · rfl
      · rfl
    · exact ⟨fun _ => rfl, rfl⟩
  clear_value s2
  split
  · extract_lets +onlyGivenNames s3
    obtain ⟨hports, hrest⟩ := onOwnCart_leaves s2 n fun c => { c with worn := true }
    have hs3 : (∀ m : Fin 4, (s3.ports[m]).tally = s.ports[m].tally) ∧ s3.uncounted = s.uncounted :=
      ⟨fun m => by unfold s3; rw [hports]; exact hs2.1 m, hrest.trans hs2.2⟩
    split
    · obtain ⟨hports', hrest'⟩ := markSheet_leaves s3 p.transport 0x0109 (portMask n) fun x => !(s3.feeds n x).isEmpty
      exact ⟨fun m => by rw [hports']; exact hs3.1 m, hrest'.trans hs3.2⟩
    · exact hs3
  · exact hs2

theorem countLine_leaves (s : State) (n : Fin 4) (illum : Bool) :
    (∀ m : Fin 4, ((s.countLine n illum).ports[m]).tally = if n = m then s.ports[m].tally.counted else s.ports[m].tally)
    ∧ (s.countLine n illum).uncounted = s.uncounted := by
  have hcounted (k : Bool) (hk : s.ports[n].cart.known = k) (m : Fin 4) (hm : n = m) : s.ports[m].tally.counted
      = { s.ports[m].tally with lines := if k then s.ports[m].lines + 1 else s.ports[m].lines } := by
    subst hm
    rw [← hk]
    rfl
  unfold State.countLine
  cases hk : s.ports[n].cart.known with
  | false =>
    rw [if_pos (by decide)]
    refine ⟨fun m => ?_, rfl⟩
    split
    · next h => rw [hcounted false hk m h]; rfl
    · rfl
  | true =>
    rw [if_neg (by decide)]
    extract_lets +onlyGivenNames s1
    obtain ⟨hports, hrest⟩ := settleWear_leaves s1 n
    refine ⟨fun m => (hports m).trans ?_, hrest⟩
    rw [onPort_tally s n m (g := fun x => { x with lines := x.lines + 1 }) (by exact fun _ => rfl)]
    split
    · next h => rw [hcounted true hk m h]; rfl
    · rfl

/-- A line taken by a port: its counters, and the rest of the front end. -/
theorem takeLine_leaves (s : State) (n : Fin 4) (illum : Bool) (xs : List Nat) : (∀ m : Fin 4, ((s.takeLine n illum xs).ports[m]).tally
      = if n = m then (s.ports[m].tally.fell (s.ports[m].short xs)).counted else s.ports[m].tally)
    ∧ (s.takeLine n illum xs).uncounted = s.uncounted := by
  unfold State.takeLine
  extract_lets +onlyGivenNames s1
  obtain ⟨hports, hrest⟩ := countLine_leaves s1 n illum
  have hs1 : (∀ m : Fin 4, (s1.ports[m]).tally = if n = m then s.ports[m].tally.fell (s.ports[m].short xs) else s.ports[m].tally)
      ∧ s1.uncounted = s.uncounted := by
    unfold s1
    split
    · next hshort =>
      refine ⟨fun m => ?_, rfl⟩
      rw [onPort_tally s n m (g := Tally.fell true) fun p => (fell_true p.tally).symm]
      split
      · next h =>
        subst h
        rw [hshort]
      · rfl
    · next hshort =>
      refine ⟨fun m => ?_, rfl⟩
      split
      · next h =>
        subst h
        exact (congrArg (Tally.fell · s.ports[n].tally) (Bool.eq_false_of_not_eq_true hshort)).trans (fell_false _) |>.symm
      · rfl
  refine ⟨fun m => ?_, hrest.trans hs1.2⟩
  rw [hports m, hs1.1 m]
  split
  · rfl
  · rfl

theorem short_congr {p q : Port} (h : p.portCfg = q.portCfg) (xs : List Nat) : p.short xs = q.short xs := by
  simp only [Port.short, Port.samples, Port.planes, h]
  rfl

/-- A line taken by several ports, each once. -/
theorem foldl_takeLine_leaves (illum : Bool) {input : List (Fin 4 × List Nat)} (hd : (input.map Prod.fst).Nodup) (s : State) :
    let u := input.foldl (fun (s : State) (x : Fin 4 × List Nat) => s.takeLine x.1 illum x.2) s
    (∀ i ∈ input, (u.ports[i.1]).tally = (s.ports[i.1].tally.fell (s.ports[i.1].short i.2)).counted)
    ∧ (∀ m : Fin 4, m ∉ input.map Prod.fst → (u.ports[m]).tally = s.ports[m].tally) ∧ u.uncounted = s.uncounted := by
  induction input generalizing s with
  | nil => exact ⟨fun i hi => (nomatch hi), fun _ _ => rfl, rfl⟩
  | cons x input ih =>
    obtain ⟨hx, hd⟩ := List.nodup_cons.1 hd
    obtain ⟨hports, hrest⟩ := takeLine_leaves s x.1 illum x.2
    obtain ⟨hin, hout, hleft⟩ := ih hd (s.takeLine x.1 illum x.2)
    have hother (m : Fin 4) (hm : x.1 ≠ m) : ((s.takeLine x.1 illum x.2).ports[m]).tally = s.ports[m].tally :=
      (hports m).trans (if_neg hm)
    refine ⟨fun i hi => ?_, fun m hm => ?_, hleft.trans hrest⟩
    · rcases List.mem_cons.1 hi with rfl | hi
      · exact (hout i.1 hx).trans ((hports i.1).trans (if_pos rfl))
      · have hne : x.1 ≠ i.1 := fun h => hx (h ▸ List.mem_map_of_mem hi)
        have ht := hother i.1 hne
        refine (hin i hi).trans ?_
        rw [ht, short_congr (congrArg Tally.portCfg ht)]
    · obtain ⟨hne, hm⟩ := List.ne_and_not_mem_of_not_mem_cons hm
      exact (hout m hm).trans (hother m (Ne.symm hne))

theorem lineInput_nodup (s : State) (t : Fin 4) (samples : List (List Nat)) : ((s.lineInput t samples).map Prod.fst).Nodup := by
  have h : (s.lineInput t samples).map Prod.fst = s.tports t := by
    unfold State.lineInput
    rw [List.map_map]
    exact List.zipIdx_map_fst ..
  rw [h]
  exact tports_nodup s t

end Sys2Proof.Machine

namespace Sys2Proof.Machine

/-! ## A capture line (R39, R44, R54) -/

theorem side?_unmarked {s u : State} (h : u.sides.map Side.unmarked = s.sides.map Side.unmarked) (key : Nat) :
    (u.side? key).map Side.unmarked = (s.side? key).map Side.unmarked := by
  have hfind (z : State) : (z.side? key).map Side.unmarked = (z.sides.map Side.unmarked).find? fun y => y.key == key := by
    rw [List.find?_map]
    rfl
  rw [hfind u, hfind s, h]

theorem maxDelay_congr {s z : State} (h : ∀ n : Fin 4, (z.ports[n]).tally.portCfg = s.ports[n].tally.portCfg)
    (h' : ∀ n : Fin 4, (z.ports[n]).tally.plane = s.ports[n].tally.plane) (d : Fin 8) : z.maxDelay d = s.maxDelay d := by
  unfold State.maxDelay
  rw [sidePlanes_congr (allPlanes_congr h h') d]

theorem sideDef_congr {s z : State} (hA : z.sideDefA = s.sideDefA) (hB : z.sideDefB = s.sideDefB) (d : Fin 8) :
    z.sideDef d = s.sideDef d := by
  unfold State.sideDef
  rw [hA, hB]

theorem sheetLines_congr {s z : State} (hdef : ∀ d, z.sideDef d = s.sideDef d) (hdelay : ∀ d, z.maxDelay d = s.maxDelay d) (t : Fin 4) :
    z.sheetLines t = s.sheetLines t := by
  unfold State.sheetLines State.sidesOf
  simp only [hdef, hdelay]

/-- What a capture line does with a sheet's ports, lines and sides: `u` is the state after it. -/
structure State.LineTaken (s u : State) (t : Fin 4) (k : Nat) (input : List (Fin 4 × List Nat)) : Prop where
  taken : ∀ i ∈ input, (u.ports[i.1]).tally = (s.ports[i.1].tally.fell (s.ports[i.1].short i.2)).counted
  setup : ∀ m : Fin 4, (u.ports[m]).tally.portCfg = s.ports[m].tally.portCfg ∧ (u.ports[m]).tally.plane = s.ports[m].tally.plane
    ∧ (u.ports[m]).tally.refused = s.ports[m].tally.refused
  line : ∃ l, (u.transports[t]).uncounted = { s.transports[t] with capLines := s.transports[t].capLines ++ [l] }.uncounted
  others : ∀ m : Fin 4, m ≠ t → (u.transports[m]).uncounted = s.transports[m].uncounted
  sideDef : ∀ d, u.sideDef d = s.sideDef d
  now : u.now = s.now
  advanced : s.transports[t].sheetSides.Nodup → ∀ key ∈ s.transports[t].sheetSides, ∀ x, s.side? key = some x →
    x.stage = .capturing → x.tStart = none → s.maxDelay x.sideDef ≤ k → k - s.maxDelay x.sideDef < (s.sideDef x.sideDef).lines →
    u.progress key = some (x.assembled + 1, if x.assembled + 1 = (s.sideDef x.sideDef).lines then some s.now else none)

theorem uncounted_inj {s u : State} (h : u.uncounted = s.uncounted) : u.transports = s.transports ∧ u.sideDefA = s.sideDefA
    ∧ u.sideDefB = s.sideDefB ∧ u.now = s.now ∧ u.sides.map Side.unmarked = s.sides.map Side.unmarked := by
  simpa only [State.uncounted, Prod.mk.injEq] using h

/-- What a capture line has done before it assembles lines: `z` is the state then. -/
structure State.LineCounted (s z : State) (t : Fin 4) (l : CapLine) (input : List (Fin 4 × List Nat)) : Prop where
  taken : ∀ i ∈ input, (z.ports[i.1]).tally = (s.ports[i.1].tally.fell (s.ports[i.1].short i.2)).counted
  spared : ∀ m : Fin 4, m ∉ input.map Prod.fst → (z.ports[m]).tally = s.ports[m].tally
  transports : z.transports = (s.onTransport t fun y => { y with capLines := y.capLines ++ [l] }).transports
  sideDefA : z.sideDefA = s.sideDefA
  sideDefB : z.sideDefB = s.sideDefB
  now : z.now = s.now
  sides : z.sides.map Side.unmarked = s.sides.map Side.unmarked

theorem captureLine_counts (s : State) (t : Fin 4) (k : Nat) {input : List (Fin 4 × List Nat)} (hd : (input.map Prod.fst).Nodup) :
    ∃ z l, s.captureLine t k input = z.transports[t].sheetSides.foldl (fun (s : State) (key : Nat) => s.sideLine k key) z
      ∧ s.LineCounted z t l input := by
  unfold State.captureLine
  extract_lets +onlyGivenNames s1 rows s2 s3
  obtain ⟨hin, hout, hrest⟩ := foldl_takeLine_leaves true hd s
  obtain ⟨htr1, hA1, hB1, hnow1, hsides1⟩ := uncounted_inj (u := s1) hrest
  obtain ⟨hports3, hrest3⟩ : s3.ports = s2.ports ∧ s3.uncounted = s2.uncounted :=
    foldl_keeps (P := fun z : State => z.ports = s2.ports ∧ z.uncounted = s2.uncounted)
      (fun z x hz => ⟨(markSheet_leaves z t _ _ _).1.trans hz.1, (markSheet_leaves z t _ _ _).2.trans hz.2⟩) ⟨rfl, rfl⟩
  obtain ⟨htr3, hA3, hB3, hnow3, hsides3⟩ := uncounted_inj hrest3
  refine ⟨s3, ⟨rows⟩, rfl, ⟨fun i hi => ?_, fun m hm => ?_, htr3.trans ?_, hA3.trans hA1, hB3.trans hB1, hnow3.trans hnow1,
    hsides3.trans hsides1⟩⟩
  · rw [hports3]
    exact hin i hi
  · rw [hports3]
    exact hout m hm
  · exact congrArg (fun v => vmod v t fun y => { y with capLines := y.capLines ++ [⟨rows⟩] }) htr1

/-- A line keeps every port's configuration and planes. -/
theorem lineCounted_setup {s z : State} {t : Fin 4} {l : CapLine} {input : List (Fin 4 × List Nat)} (h : s.LineCounted z t l input)
    (m : Fin 4) : (z.ports[m]).tally.portCfg = s.ports[m].tally.portCfg ∧ (z.ports[m]).tally.plane = s.ports[m].tally.plane
      ∧ (z.ports[m]).tally.refused = s.ports[m].tally.refused := by
  by_cases hm : m ∈ input.map Prod.fst
  · obtain ⟨i, hi, rfl⟩ := List.mem_map.1 hm
    rw [h.taken i hi]
    exact ⟨rfl, rfl, rfl⟩
  · rw [h.spared m hm]
    exact ⟨rfl, rfl, rfl⟩

theorem captureLine_takes (s : State) (t : Fin 4) (k : Nat) {input : List (Fin 4 × List Nat)} (hd : (input.map Prod.fst).Nodup) :
    s.LineTaken (s.captureLine t k input) t k input := by
  obtain ⟨z, l, hcapture, hz⟩ := captureLine_counts s t k hd
  rw [hcapture]
  have hf := foldl_sideLine_frontEnd k z.transports[t].sheetSides z
  have hdef (d : Fin 8) : z.sideDef d = s.sideDef d := sideDef_congr hz.sideDefA hz.sideDefB d
  have hdelay (d : Fin 8) : z.maxDelay d = s.maxDelay d :=
    maxDelay_congr (fun n => (lineCounted_setup hz n).1) (fun n => (lineCounted_setup hz n).2.1) d
  have htr (m : Fin 4) : z.transports[m] = (s.onTransport t fun y => { y with capLines := y.capLines ++ [l] }).transports[m] := by
    rw [hz.transports]
  refine ⟨fun i hi => ?_, fun m => ?_, ⟨l, ?_⟩, fun m hm => ?_, fun d => (frontEnd_sideDef hf d).trans (hdef d),
    (frontEnd_now hf).trans hz.now, fun hnd key hkey x hx hstage hstart hd hline => ?_⟩
  · rw [frontEnd_ports hf]
    exact hz.taken i hi
  · rw [frontEnd_ports hf]
    exact lineCounted_setup hz m
  · rw [frontEnd_transport hf, htr, onTransport_same]
  · rw [frontEnd_transport hf, htr, onTransport_other hm]
  · have hsheet : z.transports[t].sheetSides = s.transports[t].sheetSides := by rw [htr, onTransport_same]
    have hside := side?_unmarked hz.sides key
    rw [hx] at hside
    obtain ⟨y, hy, hxy⟩ := Option.map_eq_some_iff.1 hside
    have h := foldl_sideLine_advances (s := z) (k := k) (x := y) (keys := z.transports[t].sheetSides) (by rw [hsheet]; exact hnd)
      (by rw [hsheet]; exact hkey) hy (congrArg Side.stage hxy |>.trans hstage) ((congrArg Side.tStart hxy).trans hstart)
    have hdefs : y.unmarked.sideDef = x.unmarked.sideDef := by rw [hxy]
    have hlines : y.unmarked.assembled = x.unmarked.assembled := by rw [hxy]
    change y.sideDef = x.sideDef at hdefs
    change y.assembled = x.assembled at hlines
    rw [hdelay, hdef, hdefs, hlines, hz.now] at h
    exact h hd hline

end Sys2Proof.Machine

namespace Sys2Proof.Machine

/-! ## A line boundary that ends a capture line (R44) -/

theorem interrupt_idle {s : State} {t : Fin 4} (hcover : s.transports[t].pendCover = false) (hcart : s.transports[t].pendCart = []) :
    s.interrupt t = s := by
  unfold State.interrupt
  extract_lets +onlyGivenNames x mask
  rw [if_pos (by rw [show x.pendCover = false from hcover, show x.pendCart = [] from hcart]; rfl)]

/-- A transport without what the evaluation of COVER, CARTRIDGE and CONFIG changes. -/
def Transport.unheld (x : Transport) : Transport := { x with hold := 0, abortWait := false }

theorem settleHolds_const (s : State) (t : Fin 4) : ∃ y, (s.settleHolds t = s.onTransport t fun _ => y)
    ∧ y.unheld = s.transports[t].unheld := by
  obtain ⟨wait, h⟩ := settleHolds_eq s t
  exact ⟨_, h.trans (onTransport_const s t _), rfl⟩

/-- A transport on which no event waits is evaluated twice and goes on as it was. -/
theorem settleHolds_twice {s : State} {t : Fin 4} (hcover : s.transports[t].pendCover = false) (hcart : s.transports[t].pendCart = []) :
    ∃ y, (((s.settleHolds t).interrupt t).settleHolds t = s.onTransport t fun _ => y) ∧ y.unheld = s.transports[t].unheld := by
  obtain ⟨y, h, hy⟩ := settleHolds_const s t
  have hcover' : y.unheld.pendCover = false := by rw [hy]; exact hcover
  have hcart' : y.unheld.pendCart = [] := by rw [hy]; exact hcart
  rw [h, interrupt_idle (by rw [onTransport_same]; exact hcover') (by rw [onTransport_same]; exact hcart')]
  obtain ⟨y', h', hy'⟩ := settleHolds_const (s.onTransport t fun _ => y) t
  rw [onTransport_same] at hy'
  exact ⟨y', h'.trans (onTransport_onTransport s t _ _), hy'.trans hy⟩

/-- A line boundary that ends a capture line, not the last of the sheet, with no event waiting. -/
theorem lineBoundary_capture {s : State} {t : Fin 4} {k : Nat} (hphase : s.transports[t].phase = .capture k)
    (hcover : s.transports[t].pendCover = false) (hcart : s.transports[t].pendCart = []) (hk : k + 1 < s.sheetLines t)
    (paper : Bool) (samples : List (List Nat)) : ∃ s0 z y,
    (∃ low, s0 = s.onTransport t fun x => { x with paperIn := paper, paperLowAt := low })
    ∧ s0.LineTaken z t k (s.lineInput t samples)
    ∧ s.lineBoundary t paper samples = State.endBoundary (z.onTransport t fun _ => y) t (.capture k)
    ∧ y.phase = .capture (k + 1) ∧ y.capLines = z.transports[t].capLines := by
  unfold State.lineBoundary
  extract_lets +onlyGivenNames s0 was input s2 s3 s4 s5 s6
  have htr0 : s0.transports[t] = { s.transports[t] with
      paperIn := paper, paperLowAt := if paper then none else some (s.transports[t].paperLowAt.getD s.now) } :=
    onTransport_same s t _
  have hwas : was = .capture k := by
    unfold was
    rw [htr0]
    exact hphase
  have hz := captureLine_takes s0 t k (lineInput_nodup s0 t samples)
  have hlines : (s0.captureLine t k input).sheetLines t = s.sheetLines t :=
    sheetLines_congr hz.sideDef (fun d => maxDelay_congr (fun m => (hz.setup m).1) (fun m => (hz.setup m).2.1) d) t
  have hs2 : s2 = (s0.captureLine t k input).onTransport t fun x => { x with phase := .capture (k + 1) } := by
    unfold s2
    rw [hwas]
    exact if_neg (by rw [hlines]; omega)
  refine ⟨s0, s0.captureLine t k input, ?_⟩
  obtain ⟨l, hline⟩ := hz.line
  rw [htr0] at hline
  generalize s0.captureLine t k input = z at hz hs2 hline ⊢
  have htr2 : s2.transports[t] = { z.transports[t] with phase := .capture (k + 1) } := by rw [hs2, onTransport_same]
  have hcover2 : (s2.transports[t]).pendCover = false := by
    rw [htr2]
    exact (congrArg Transport.pendCover hline).trans hcover
  have hcart2 : (s2.transports[t]).pendCart = [] := by
    rw [htr2]
    exact (congrArg Transport.pendCart hline).trans hcart
  obtain ⟨y, hs3, hy⟩ := settleHolds_twice hcover2 hcart2
  rw [htr2] at hy
  have hphase3 : y.phase = .capture (k + 1) := (congrArg Transport.phase hy : y.unheld.phase = _)
  have hs3' : s3 = z.onTransport t fun _ => y := by
    refine hs3.trans ?_
    rw [hs2]
    exact onTransport_onTransport z t _ _
  have hs4 : s4 = s3 := by
    unfold s4
    rw [hwas]
  have hs5 : s5 = s3 := by
    unfold s5
    rw [hs4, hs3', onTransport_same, hphase3]
    rfl
  refine ⟨y, ⟨_, rfl⟩, hz, ?_, hphase3, (congrArg Transport.capLines hy : y.unheld.capLines = _)⟩
  rw [← hs3', ← hs5, ← hwas]
  rfl

/-- Settles O18: the ports count the line, each side that it belongs to is assembled once, and the transport goes on to the next line. -/
theorem captureLineIsTaken : Obligations.CaptureLineIsTaken := by
  intro s tr paper samples k t x hup hc hphase hcover hcart hk
  obtain ⟨s0, z, y, ⟨low, hs0⟩, hz, hline, hyphase, hylines⟩ :=
    lineBoundary_capture (s := s.at t) hphase hcover hcart hk paper samples
  have htr0 : s0.transports[tr] = { x with paperIn := paper, paperLowAt := low } := by
    rw [hs0]
    exact onTransport_same (s.at t) tr _
  have hports0 : s0.ports = s.ports := by rw [hs0]; rfl
  have hother0 (m : Fin 4) (hm : m ≠ tr) : s0.transports[m] = s.transports[m] := by
    rw [hs0]
    exact onTransport_other (s := s.at t) hm _
  have hside0 (key : Nat) : s0.side? key = s.side? key := by rw [hs0]; rfl
  have htports : (z.onTransport tr fun _ => y).tports tr = s.tports tr :=
    tports_congr (fun n => by rw [← hports0]; exact (hz.setup n).1) tr
  obtain ⟨step, lit, hend⟩ := endBoundary_eq (s := z.onTransport tr fun _ => y) (t := tr) (by rw [htports]; exact hc) (.capture k)
  rw [hend] at hline
  refine ⟨_, (exec_lineBoundary hup hc paper samples t).trans (congrArg (done s) hline), ?_⟩
  simp only [commit_transports, commit_ports, commit_side?]
  generalize hw : State.onTransport (State.onPorts _ _ _) tr _ = w
  have htr : w.transports[tr] = y.ended step := by
    rw [← hw, onTransport_same]
    exact congrArg (Transport.ended step) (onTransport_same z tr fun _ => y)
  have hother (m : Fin 4) (hm : m ≠ tr) : (w.transports[m]).uncounted = s.transports[m].uncounted := by
    rw [← hw, onTransport_other hm]
    exact (congrArg Transport.uncounted (onTransport_other (s := z) hm fun _ => y)).trans
      ((hz.others m hm).trans (congrArg Transport.uncounted (hother0 m hm)))
  have htally (m : Fin 4) : (w.ports[m]).tally = (z.ports[m]).tally := by
    rw [← hw]
    refine (congrArg Port.tally (onPorts_port (z.onTransport tr fun _ => y) (tports_nodup _ tr) _ m)).trans ?_
    split
    · rfl
    · rfl
  have hside (key : Nat) : w.side? key = z.side? key := by rw [← hw]; rfl
  refine ⟨?_, ?_, fun i hi => ?_, fun hnd key hkey v hv hstage hstart hdelay hin => ?_, fun m hm => ?_⟩
  · rw [htr]
    exact hyphase
  · obtain ⟨l, hl⟩ := hz.line
    rw [htr0] at hl
    have hlines : (z.transports[tr]).uncounted.capLines = x.capLines ++ [l] := by rw [hl]; rfl
    rw [htr]
    exact (congrArg List.length (hylines.trans hlines)).trans List.length_append
  · have ht := (htally i.1).trans (hz.taken i hi)
    rw [hports0] at ht
    exact ⟨congrArg Tally.lines ht, congrArg Tally.underrun ht, congrArg Tally.underrunLines ht⟩
  · have hsheet : s0.transports[tr].sheetSides = x.sheetSides := by rw [htr0]
    have hdef0 (d : Fin 8) : s0.sideDef d = s.sideDef d := by rw [hs0]; rfl
    have hdelay0 (d : Fin 8) : s0.maxDelay d = s.maxDelay d := by rw [hs0]; rfl
    have hnow0 : s0.now = max s.now t := by rw [hs0]; rfl
    have h := hz.advanced (by rw [hsheet]; exact hnd) key (by rw [hsheet]; exact hkey) v (by rw [hside0]; exact hv) hstage hstart
      (by rw [hdelay0]; exact hdelay) (by rw [hdelay0, hdef0]; exact hin)
    rw [hdef0, hnow0] at h
    obtain ⟨r, hr, hrp⟩ := Option.map_eq_some_iff.1 h
    obtain ⟨hassembled, hstarted⟩ := Prod.mk.inj hrp
    exact ⟨r, (hside key).trans hr, hassembled, hstarted⟩
  · have hp := congrArg Transport.phase (hother m hm)
    have hh := congrArg Transport.hold (hother m hm)
    exact ⟨hp, hh⟩

end Sys2Proof.Machine

namespace Sys2Proof.Machine

/-! ## A refused port through a line boundary (R33, R42, R44) -/

/-- Where a port is configured, and whether it is refused. -/
def Port.refusal (p : Port) : Word × Bool := (p.portCfg, p.refused)

/-- The ports' configurations and refusals, and the transports that CONFIG holds. -/
def State.refusals (s : State) := (s.ports.map Port.refusal, s.transports.map (·.held 6))

section
variable (s : State)

theorem onPort_refusals (n : Fin 4) {f : Port → Port} (hf : ∀ p, (f p).refusal = p.refusal := by exact fun _ => rfl) :
    (s.onPort n f).refusals = s.refusals :=
  congrArg₂ Prod.mk (vmod_map s.ports n f Port.refusal hf) rfl

theorem onTransport_refusals (t : Fin 4) {f : Transport → Transport} (hf : ∀ x, (f x).held 6 = x.held 6 := by exact fun _ => rfl) :
    (s.onTransport t f).refusals = s.refusals :=
  congrArg₂ Prod.mk rfl (vmod_map s.transports t f (·.held 6) hf)

theorem setHold_refusals (t : Fin 4) {cause : Nat} (hc : cause ≠ 6) (v : Bool) : (s.setHold t cause v).refusals = s.refusals :=
  onTransport_refusals s t fun x => (held_setBit x cause 6 v (by decide)).trans (if_neg hc)

end

/-- Refusals and CONFIG are the same where each port's and each transport's are. -/
theorem refusals_ext {s u : State} (hports : ∀ m : Fin 4, (u.ports[m]).refusal = s.ports[m].refusal)
    (htr : ∀ m : Fin 4, (u.transports[m]).held 6 = (s.transports[m]).held 6) : u.refusals = s.refusals :=
  congrArg₂ Prod.mk (Vector.ext fun i hi => by simpa using hports ⟨i, hi⟩) (Vector.ext fun i hi => by simpa using htr ⟨i, hi⟩)

theorem onTransport_refusals_at (s : State) (t : Fin 4) {f : Transport → Transport}
    (hf : (f s.transports[t]).held 6 = s.transports[t].held 6) : (s.onTransport t f).refusals = s.refusals := by
  refine refusals_ext (fun _ => rfl) fun m => ?_
  by_cases hm : m = t
  · subst hm
    rw [onTransport_same]
    exact hf
  · rw [onTransport_other hm]

theorem markSheet_refusals (s : State) (t : Fin 4) (code detail : Nat) (f : Side → Bool) :
    (s.markSheet t code detail f).refusals = s.refusals := by
  obtain ⟨hports, hrest⟩ := markSheet_leaves s t code detail f
  unfold State.refusals
  rw [hports, (uncounted_inj hrest).1]

theorem takeLine_refusals (s : State) (n : Fin 4) (illum : Bool) (xs : List Nat) : (s.takeLine n illum xs).refusals = s.refusals := by
  obtain ⟨hports, hrest⟩ := takeLine_leaves s n illum xs
  refine refusals_ext (fun m => ?_) fun m => by rw [(uncounted_inj hrest).1]
  have hrefusal (p : Port) : p.refusal = (p.tally.portCfg, p.tally.refused) := rfl
  rw [hrefusal, hrefusal, hports m]
  split
  · rfl
  · rfl

theorem calLine_refusals (s : State) (phase : CalPhase) (line : Nat) (x : Fin 4 × List Nat) :
    (s.calLine phase line x).refusals = s.refusals := by
  obtain ⟨n, xs⟩ := x
  refine (onPort_refusals (s.takeLine n _ xs) n fun p => ?_).trans (takeLine_refusals s n _ xs)
  extract_lets +onlyGivenNames v q
  have hq : q.refusal = p.refusal := by unfold q; split <;> rfl
  clear_value q
  rw [← hq]
  split
  · rfl
  · split
    · rfl
    · rfl

theorem captureLine_refusals (s : State) (t : Fin 4) (k : Nat) {input : List (Fin 4 × List Nat)} (hd : (input.map Prod.fst).Nodup) :
    (s.captureLine t k input).refusals = s.refusals := by
  have hz := captureLine_takes s t k hd
  refine refusals_ext (fun m => ?_) fun m => ?_
  · obtain ⟨hcfg, _, hrefused⟩ := hz.setup m
    exact congrArg₂ Prod.mk hcfg hrefused
  · by_cases hm : m = t
    · subst hm
      obtain ⟨l, hl⟩ := hz.line
      have h := congrArg (Transport.held · 6) hl
      exact h
    · have h := congrArg (Transport.held · 6) (hz.others m hm)
      exact h

theorem abortSide_refusals (s : State) (t : Fin 4) (cover : Bool) (mask key : Nat) :
    (s.abortSide t cover mask key).refusals = s.refusals := by
  unfold State.abortSide
  split
  · rfl
  split
  · rfl
  extract_lets +onlyGivenNames s1 s2 s3
  have hs1 : s1.refusals = s.refusals := by unfold s1; split <;> rfl
  have hs2 : s2.refusals = s1.refusals := by unfold s2; split <;> rfl
  exact (onTransport_refusals s2 t).trans (hs2.trans hs1)

theorem interrupt_refusals (s : State) (t : Fin 4) : (s.interrupt t).refusals = s.refusals := by
  unfold State.interrupt
  extract_lets +onlyGivenNames x mask
  split
  · rfl
  split
  · rfl
  · rfl
  · split
    · exact onTransport_refusals s t
    · exact onTransport_refusals s t
  · extract_lets +onlyGivenNames s1
    exact (onTransport_refusals s1 t).trans (foldl_keeps (P := fun z : State => z.refusals = s.refusals)
      (fun z key hz => (abortSide_refusals z t _ _ key).trans hz) rfl)

/-- Steps that each keep the refusals keep them one after another. -/
theorem foldl_refusals {α : Type} {f : State → α → State} (hf : ∀ s a, (f s a).refusals = s.refusals) (l : List α) (s : State) :
    (l.foldl f s).refusals = s.refusals :=
  foldl_keeps (P := fun z : State => z.refusals = s.refusals) (fun z a hz => (hf z a).trans hz) rfl

theorem beginCal_refusals (s : State) (t : Fin 4) (sheet : Bool) : (s.beginCal t sheet).refusals = s.refusals := by
  unfold State.beginCal
  extract_lets +onlyGivenNames s1
  exact (onTransport_refusals s1 t).trans (foldl_refusals (fun z n => onPort_refusals z n) _ s)

theorem judgeCal_refusals (s : State) (n : Fin 4) : (s.judgeCal n).refusals = s.refusals := by
  unfold State.judgeCal
  extract_lets +onlyGivenNames p pix bad worst s1
  have hs1 : s1.refusals = s.refusals := onPort_refusals s n
  clear_value s1
  split
  · exact (onPort_refusals s1 n).trans hs1
  · extract_lets +onlyGivenNames free run s2
    have hs2 : s2.refusals = s1.refusals := by unfold s2; split <;> rfl
    exact (onPort_refusals s2 n).trans (hs2.trans hs1)

theorem beginCapture_refusals (s : State) (t : Fin 4) : (s.beginCapture t).refusals = s.refusals := by
  have hmark (z : State) (b : Bool) (code detail : Nat) (f : Side → Bool) :
      (if b then z.markSheet t code detail f else z).refusals = z.refusals := by
    split
    · exact markSheet_refusals z t code detail f
    · rfl
  unfold State.beginCapture
  extract_lets +onlyGivenNames s1
  refine (foldl_refusals (fun z n => ?_) _ s1).trans (onTransport_refusals s t)
  extract_lets +onlyGivenNames p on z1 z2 z3
  exact (hmark z3 _ _ _ _).trans ((hmark z2 _ _ _ _).trans ((hmark z1 _ _ _ _).trans (hmark z _ _ _ _)))

theorem dropSheet_refusals (s : State) (t : Fin 4) : (s.dropSheet t).refusals = s.refusals := by
  unfold State.dropSheet
  extract_lets +onlyGivenNames keys s1 host s2
  have hs1 : s1.refusals = s.refusals := foldl_refusals (f := State.freeFrames) (fun _ _ => rfl) keys s
  have hsettle (z : State) : z.spoolSettle.refusals = z.refusals := by
    unfold State.spoolSettle
    split
    · rfl
    · rfl
  exact (hsettle _).trans ((onTransport_refusals s2 t).trans hs1)

theorem endCal_refusals (s : State) (t : Fin 4) (sheet : Bool) : (s.endCal t sheet).refusals = s.refusals := by
  unfold State.endCal
  extract_lets +onlyGivenNames s1 due s2
  have hs2 : s2.refusals = s.refusals := (onTransport_refusals s1 t).trans (foldl_refusals judgeCal_refusals _ s)
  clear_value s2
  split
  · exact (onTransport_refusals s2 t).trans hs2
  · split
    · exact (beginCapture_refusals s2 t).trans hs2
    · exact (dropSheet_refusals s2 t).trans hs2

theorem gapBind_refusals (s : State) (t : Fin 4) : (s.gapBind t).refusals = s.refusals := by
  unfold State.gapBind
  extract_lets +onlyGivenNames plan s1 s2 here
  have hs2 : s2.refusals = s.refusals := by
    unfold s2
    split
    · exact (onTransport_refusals s1 t).trans (foldl_refusals (fun z n => onPort_refusals z n) _ s)
    · rfl
  exact (foldl_refusals (f := State.bindPoint) (fun _ _ => rfl) here s2).trans hs2

theorem commitSheet_refusals (s : State) (t : Fin 4) (l : List (Fin 8 × Nat × Fin 6 × List ImageRef)) :
    (s.commitSheet t l).refusals = s.refusals := by
  unfold State.commitSheet
  extract_lets +onlyGivenNames sheets sides boot s1 s2 s3
  exact (beginCal_refusals s3 t true).trans (onTransport_refusals s2 t)

theorem entrySheet_refusals (s : State) (t : Fin 4) : (s.entrySheet t).refusals = s.refusals := by
  cases hc : s.commits t with
  | false =>
    obtain ⟨high, chip, hold, he, hhold⟩ := entrySheet_waits hc
    rw [he]
    exact onTransport_refusals_at { s with host := { s.host with spoolHigh := high, chip := chip } } t (hhold 6 (by decide) (by decide))
  | true =>
    obtain ⟨frames, key, high, chip, hold, l, he, _, hhold⟩ := entrySheet_commits hc
    rw [he, commitSheet_refusals]
    exact onTransport_refusals_at { s with
      frames := frames, nextKey := key, host := { s.host with spoolHigh := high, chip := chip } } t (hhold 6 (by decide))

theorem recheckCapture_refusals (s : State) (t : Fin 4) : (s.recheckCapture t).refusals = s.refusals := by
  unfold State.recheckCapture
  split
  · exact setHold_refusals s t (by decide) false
  · rfl

/-- Whether a port of a transport is refused. -/
def State.refuses (s : State) (t : Fin 4) : Bool := (s.tports t).any fun n => s.ports[n].refused

theorem refuses_of_refusals {s u : State} (h : u.refusals = s.refusals) (t : Fin 4) : u.refuses t = s.refuses t := by
  have hport (m : Fin 4) : (u.ports[m]).refusal = s.ports[m].refusal := eq_of_map_eq (Prod.mk.inj h).1 m
  unfold State.refuses
  rw [tports_congr (fun m => congrArg Prod.fst (hport m)) t]
  exact congrArg (s.tports t).any (funext fun m => congrArg Prod.snd (hport m))

theorem held_of_refusals {s u : State} (h : u.refusals = s.refusals) (t : Fin 4) :
    (u.transports[t]).held 6 = (s.transports[t]).held 6 := eq_of_map_eq (Prod.mk.inj h).2 t

/-- Whether a transport has a refused port, and CONFIG holds it. -/
def State.configHeld (s : State) (t : Fin 4) : Prop := s.refuses t = true ∧ (s.transports[t]).held 6 = true

theorem configHeld_of_refusals {s u : State} (h : u.refusals = s.refusals) {t : Fin 4} (hs : s.configHeld t) : u.configHeld t :=
  ⟨(refuses_of_refusals h t).trans hs.1, (held_of_refusals h t).trans hs.2⟩

/-- The evaluation of CONFIG finds a refused port. -/
theorem settleHolds_configHeld {s : State} {t : Fin 4} (h : s.refuses t = true) : (s.settleHolds t).configHeld t := by
  obtain ⟨wait, he⟩ := settleHolds_eq s t
  rw [he]
  refine ⟨h, ?_⟩
  rw [onTransport_same]
  exact (held_judged s.transports[t] wait _ _ _ 6 (by decide)).trans h

theorem gapBoundary_configHeld {s : State} {t : Fin 4} (h : s.refuses t = true) : (s.gapBoundary t).configHeld t := by
  unfold State.gapBoundary
  extract_lets +onlyGivenNames s1 committed s2 s3 s4 s5 s6 x s7 s8 y
  have hs1 : s1.refusals = s.refusals := foldl_refusals (f := State.gapCart) (fun z n => onPort_refusals z n) _ s
  have hs2 : s2.configHeld t := by
    refine settleHolds_configHeld ?_
    split
    · exact (refuses_of_refusals hs1 t).trans h
    · exact (refuses_of_refusals ((gapBind_refusals s1 t).trans hs1) t).trans h
  have hs6 : s6.configHeld t :=
    configHeld_of_refusals (setHold_refusals s5 t (by decide) _) <|
    configHeld_of_refusals (setHold_refusals s4 t (by decide) _) <|
    configHeld_of_refusals (setHold_refusals s3 t (by decide) _) <|
    configHeld_of_refusals (setHold_refusals s2 t (by decide) _) hs2
  split
  · exact hs6
  have hs7 : s7.configHeld t := by
    unfold s7
    split
    · exact configHeld_of_refusals (onTransport_refusals s6 t) hs6
    · exact hs6
  have hs8 : s8.configHeld t := by
    unfold s8
    split
    · exact configHeld_of_refusals (entrySheet_refusals s7 t) hs7
    · exact configHeld_of_refusals (recheckCapture_refusals s7 t) hs7
  split
  · exact configHeld_of_refusals (beginCal_refusals s8 t false) hs8
  · exact hs8

/-- At the end of every line boundary of a transport with a refused port CONFIG holds it, whatever the line was. -/
theorem lineBoundary_configHeld {s : State} {t : Fin 4} (h : s.refuses t = true) (paper : Bool) (samples : List (List Nat)) :
    ∃ z was, s.lineBoundary t paper samples = State.endBoundary z t was ∧ z.configHeld t := by
  unfold State.lineBoundary
  extract_lets +onlyGivenNames s1 was input s2 s3 s4 s5 s6
  refine ⟨s5, was, rfl, ?_⟩
  have hs1 : s1.refusals = s.refusals := onTransport_refusals s t
  have hinput := lineInput_nodup s1 t samples
  have hs2 : s2.refusals = s1.refusals := by
    unfold s2
    clear_value was
    split
    · rfl
    · rfl
    · exact foldl_refusals (fun z x => calLine_refusals z _ _ x) input s1
    · next k =>
      extract_lets +onlyGivenNames c
      have hc : c.refusals = s1.refusals := captureLine_refusals s1 t k hinput
      split
      · exact (onTransport_refusals c t).trans hc
      · exact (onTransport_refusals c t).trans hc
  have hs3 : s3.configHeld t := by
    refine settleHolds_configHeld ?_
    rw [refuses_of_refusals (interrupt_refusals _ t)]
    exact (settleHolds_configHeld ((refuses_of_refusals (hs2.trans hs1) t).trans h)).1
  have hs4 : s4.configHeld t := by
    refine configHeld_of_refusals ?_ hs3
    unfold s4
    clear_value was
    split
    · split
      · exact onTransport_refusals s3 t
      · split
        · exact onTransport_refusals s3 t
        · exact endCal_refusals s3 t _
    · split
      · rfl
      · exact beginCal_refusals s3 t true
    · rfl
  unfold s5
  split
  · exact hs4
  · exact gapBoundary_configHeld hs4.1

/-- At a boundary of a transport with a refused port FEED_HOLD is high and ENABLE low. -/
theorem lineBoundary_refused {s : State} {t : Fin 4} (h : s.refuses t = true) (paper : Bool) (samples : List (List Nat)) :
    ((s.lineBoundary t paper samples).transports[t]).held 6 = true
    ∧ ((s.lineBoundary t paper samples).transports[t]).feedHold = true
    ∧ ((s.lineBoundary t paper samples).transports[t]).enable = false := by
  obtain ⟨z, was, he, hrefuses, hheld⟩ := lineBoundary_configHeld h paper samples
  have hc : z.tports t ≠ [] := by
    obtain ⟨n, hn, _⟩ := List.any_eq_true.1 hrefuses
    exact List.ne_nil_of_mem hn
  obtain ⟨step, lit, hend⟩ := endBoundary_eq hc was
  have htr : (s.lineBoundary t paper samples).transports[t] = (z.transports[t]).ended step := by
    rw [he, hend]
    exact onTransport_same _ t _
  obtain ⟨hfeed, henable⟩ := ended_pins step z.transports[t]
  rw [htr]
  refine ⟨hheld, hfeed.2 fun h0 => ?_, ?_⟩
  · have h6 : (0 : Byte).getLsbD 6 = true := by
      rw [← h0]
      exact hheld
    exact absurd h6 (by decide)
  · rw [Bool.eq_false_iff]
    intro h1
    exact nomatch hheld.symm.trans (henable.1 h1).2.2

/-- Settles O15: training changes one port, and a refusal is found by every boundary that follows. -/
theorem laneTrainingDecidesAPort : Obligations.LaneTrainingDecidesAPort := by
  intro s n t halign
  obtain ⟨hup, hen⟩ : s.up = true ∧ s.ports[n].cfgEn = true := by
    simp only [State.aligning, Bool.and_eq_true] at halign
    exact halign.1.1
  refine ⟨⟨_, congrArg (done s) (if_pos halign), ?_, ?_, ?_⟩, fun lane hlane => ?_⟩
  · rw [commit_ports, onPort_same]
  · rw [commit_ports, onPort_same]
  · exact kept_onPort s s t n fun _ => rfl
  intro tr
  have hexec : exec (.laneTrainTimeout n lane t) s
      = done s (((s.at t).refusePort n).log 0x0201 (srcPort n) [BitVec.ofNat 8 lane.val]) :=
    congrArg (done s) (if_pos (Bool.and_eq_true_iff.2 ⟨halign, decide_eq_true hlane⟩))
  refine ⟨_, hexec, ?_, ?_, ?_, ?_, ?_⟩
  · rw [commit_ports]
    exact congrArg Port.refused (onPort_same (s.at t) n _)
  · rw [commit_ports]
    exact congrArg Port.enabled (onPort_same (s.at t) n _)
  · rw [commit_stud]
    rfl
  · exact kept_commit s (congrArg (fun v => { s.quiet with ports := v })
      (vmod_hides s.ports n (fun p => { p with refused := true, enabled := false }) (fun p => { p with refused := false, enabled := false })
        fun _ => rfl))
  · generalize hu : commit s _ = u
    have hport : u.ports[n] = { s.ports[n] with refused := true, enabled := false } := by
      rw [← hu, commit_ports]
      exact onPort_same (s.at t) n _
    have hn : n ∈ u.tports tr := by
      refine List.mem_filter.2 ⟨List.mem_finRange n, ?_⟩
      rw [hport]
      exact Bool.and_eq_true_iff.2 ⟨hen, beq_self_eq_true _⟩
    have hrefuses : u.refuses tr = true := List.any_eq_true.2 ⟨n, hn, by rw [hport]⟩
    have hup' : u.up = true := by
      rw [← hu]
      unfold State.up
      rw [commit_boot]
      exact hup
    intro paper samples t'
    refine ⟨_, exec_lineBoundary hup' (List.ne_nil_of_mem hn) paper samples t', ?_⟩
    simp only [commit_transports]
    exact lineBoundary_refused (s := u.at t') hrefuses paper samples

end Sys2Proof.Machine

/-! ## The best element of a list, and updates of one stream or decoder unit -/

namespace Sys2Proof.Machine

section
variable {α : Type} (better : α → α → Prop) [DecidableRel better]

/-- One step of a search for the best element: of two, the later one only when it goes before the earlier. -/
def keepBest (b : Option α) (m : α) : Option α :=
  match b with
  | none => some m
  | some q => if better m q then some m else some q

/-- A search finds the element that goes before every other one, whatever stood first. -/
theorem foldl_keepBest {n : α} (l : List α) (acc : Option α) (hl : ∀ m ∈ l, ¬ better m n ∧ (m ≠ n → better n m))
    (hacc : ∀ q ∈ acc, q ≠ n → better n q) (hn : acc = some n ∨ n ∈ l) : l.foldl (keepBest better) acc = some n := by
  induction l generalizing acc with
  | nil => exact hn.resolve_right List.not_mem_nil
  | cons m l ih =>
    obtain ⟨hm, hl⟩ := List.forall_mem_cons.1 hl
    refine ih _ hl (fun q hq hne => ?_) ?_
    · cases acc with
      | none =>
        obtain rfl : m = q := Option.some.inj hq
        exact hm.2 hne
      | some q' =>
        unfold keepBest at hq
        dsimp only at hq
        split at hq
        · obtain rfl : m = q := Option.some.inj hq
          exact hm.2 hne
        · obtain rfl : q' = q := Option.some.inj hq
          exact hacc q' rfl hne
    · refine or_iff_not_imp_right.2 fun hnot => ?_
      rcases hn with rfl | hn
      · exact if_neg hm.1
      · obtain rfl : n = m := (List.mem_cons.1 hn).resolve_right hnot
        cases acc with
        | none => rfl
        | some q =>
          by_cases hq : q = n
          · subst hq
            exact if_neg hm.1
          · exact if_pos (hacc q rfl hq)

end

theorem onStream_same (s : State) (n : Fin 64) (f : Stream → Stream) : (s.onStream n f).streams[n] = f s.streams[n] :=
  (vmod_get s.streams n n f).trans (if_pos rfl)

theorem onStream_onStream (s : State) (n : Fin 64) (f g : Stream → Stream) :
    (s.onStream n f).onStream n g = s.onStream n fun x => g (f x) :=
  congrArg (fun v => { s with streams := v }) (vmod_vmod s.streams n f g)

/-- What `g` blanks hides an update of one stream that changes nothing else. -/
theorem onStream_hides (s : State) (n : Fin 64) {f g : Stream → Stream} (h : ∀ x, g (f x) = g x := by exact fun _ => rfl) :
    vmod (s.onStream n f).streams n g = vmod s.streams n g := vmod_hides s.streams n f g h

/-- What `g` blanks hides an update of one decoder unit that changes nothing else. -/
theorem onDecoder_hides (s : State) (u : Fin 8) {f g : Decoder → Decoder} (h : ∀ x, g (f x) = g x := by exact fun _ => rfl) :
    vmod (s.onDecoder u f).decoders u g = vmod s.decoders u g := vmod_hides s.decoders u f g h

end Sys2Proof.Machine

/-! ## The picture that a side takes (R96) -/

namespace Sys2Proof.Machine

/-- Whether a picture may be chosen and lies in the window around a reference time. -/
def Picture.near (ref : Int) (window : Nat) (q : Picture) : Prop := q.eligible = true ∧ fuseDist q.timestamp ref ≤ window

/-- Whether a picture goes before another: it is nearer, or as near and earlier. -/
def Picture.before (ref : Int) (p q : Picture) : Prop :=
  fuseDist p.timestamp ref < fuseDist q.timestamp ref
    ∨ fuseDist p.timestamp ref = fuseDist q.timestamp ref ∧ p.timestamp < q.timestamp

theorem Picture.before_asymm {ref : Int} {p q : Picture} (h : p.before ref q) : ¬ q.before ref p := by
  unfold Picture.before at *
  simp only [BitVec.lt_def] at *
  omega

/-- The pictures among which a selection chooses. -/
def nearPictures (l : List Picture) (ref : Int) (window : Nat) : List Picture :=
  l.filter fun p => p.eligible && decide (fuseDist p.timestamp ref ≤ window)

theorem mem_nearPictures {l : List Picture} {ref : Int} {window : Nat} {q : Picture} :
    q ∈ nearPictures l ref window ↔ q ∈ l ∧ q.near ref window := by
  simp [nearPictures, Picture.near]

theorem choosePicture_none {l : List Picture} {ref : Int} {window : Nat} (h : ∀ q ∈ l, ¬ q.near ref window) :
    choosePicture l ref window = none := by
  have hnil : nearPictures l ref window = [] := List.eq_nil_iff_forall_not_mem.2 fun q hq =>
    h q (mem_nearPictures.1 hq).1 (mem_nearPictures.1 hq).2
  unfold nearPictures at hnil
  rw [choosePicture, hnil, List.foldl_nil]

/-- A selection chooses the picture that goes before every other one of the window. -/
theorem choosePicture_best {l : List Picture} {ref : Int} {window : Nat} {p : Picture} (hp : p ∈ l) (hnear : p.near ref window)
    (hbest : ∀ q ∈ l, q ≠ p → q.near ref window → p.before ref q) : choosePicture l ref window = some p := by
  classical
  refine Eq.trans ?_ (foldl_keepBest (Picture.before ref) (nearPictures l ref window) none (fun q hq => ?_) nofun
    (.inr (mem_nearPictures.2 ⟨hp, hnear⟩)))
  · unfold choosePicture nearPictures
    congr 1
    funext b q
    cases b with
    | none => rfl
    | some b => exact if_congr Iff.rfl rfl rfl
  · obtain ⟨hq, hqnear⟩ := mem_nearPictures.1 hq
    refine ⟨fun hlt => ?_, fun hne => hbest q hq hne hqnear⟩
    by_cases hne : q = p
    · rw [hne] at hlt
      exact Picture.before_asymm hlt hlt
    · exact Picture.before_asymm hlt (hbest q hq hne hqnear)

/-- The reference time of a side for a stream. -/
def State.fuseRef (s : State) (x : Side) (n : Fin 64) : Int := (x.tStart.getD 0 : Int) + s.fuseOffset n

/-- Whether an access unit nearer than a picture had been entered and was not decoded. -/
def Stream.held (st : Stream) (ref : Int) (p : Picture) : Bool :=
  st.entered.any fun e => e.2 != some true && decide (fuseDist e.1 ref < fuseDist p.timestamp ref)

/-- A side that waits for a stream no longer. -/
def Side.unfused (n : Fin 64) (y : Side) : Side :=
  { y with
    fuseStreams := y.fuseStreams.filter fun m => m != n.val
    stage := if y.stage = .fusing ∧ (y.fuseStreams.filter fun m => m != n.val).isEmpty then .arriving else y.stage }

/-- A side that found no picture of a stream. -/
def Side.noFrame (n : Fin 64) (y : Side) : Side := { y with status := insertStatus 0x020A n.val y.status }

/-- A side that takes a picture of a stream. -/
def Side.withPicture (n : Fin 64) (p : Picture) (held : Bool) (y : Side) : Side :=
  { y with
    images := y.images ++ [{ p.image with role := 3 }]
    status := if held then insertStatus 0x0208 n.val y.status else y.status }

/-- A selection that finds no picture. -/
theorem selectPicture_none {s : State} {k : Nat} {x : Side} {n : Fin 64} (hx : s.side? k = some x)
    (h : choosePicture s.streams[n].pictures (s.fuseRef x n) (s.fuseWindow n) = none) :
    s.selectPicture k n = s.onSide k fun y => (y.noFrame n).unfused n := by
  unfold State.fuseRef at h
  unfold State.selectPicture
  rw [hx]
  dsimp only
  rw [h]
  exact onSide_onSide (f := Side.noFrame n) (fun _ => rfl) s k (Side.unfused n)

/-- A selection that finds a picture: the side takes it, and a nearer access unit that was not decoded counts. -/
theorem selectPicture_some {s : State} {k : Nat} {x : Side} {n : Fin 64} {p : Picture} (hx : s.side? k = some x)
    (h : choosePicture s.streams[n].pictures (s.fuseRef x n) (s.fuseWindow n) = some p) :
    let held := s.streams[n].held (s.fuseRef x n) p
    s.selectPicture k n = (s.onSide k fun y => (y.withPicture n p held).unfused n).onStream n fun z =>
      { z with counters := if held then bumpAt z.counters Strm.framesHeld 1 else z.counters } := by
  intro held
  have hheld : held = s.streams[n].held (s.fuseRef x n) p := rfl
  unfold State.fuseRef at h
  unfold State.fuseRef Stream.held at hheld
  unfold State.selectPicture
  rw [hx]
  dsimp only
  rw [h]
  dsimp only
  rw [← hheld]
  cases held with
  | false =>
    refine (onSide_onSide (f := Side.withPicture n p false) (fun _ => rfl) s k (Side.unfused n)).trans ?_
    exact congrArg (fun v => { s.onSide k fun y => (y.withPicture n p false).unfused n with streams := v })
      (vmod_self s.streams n (f := fun z => { z with counters := z.counters }) rfl).symm
  | true =>
    have hstatus := onSide_onSide (f := fun y => { y with images := y.images ++ [{ p.image with role := 3 }] }) (fun _ => rfl) s k
      fun y => { y with status := insertStatus 0x0208 n.val y.status }
    have hwait := onSide_onSide (f := Side.withPicture n p true) (fun _ => rfl) s k (Side.unfused n)
    refine (congrArg (fun z : State => z.onSide k (Side.unfused n)) (if_pos rfl)).trans ?_
    exact congrArg (fun z : State => z.countStream n Strm.framesHeld 1)
      ((congrArg (fun z : State => z.onSide k (Side.unfused n)) hstatus).trans hwait)

/-- At the end of its window the one selection that a side waits for is made. -/
theorem fuseSide_window {s : State} {k t0 : Nat} {x : Side} {n : Fin 64} (hx : s.side? k = some x) (hfull : x.statusOnly = false)
    (hwait : x.fuseStreams = [n.val]) (h0 : x.tStart = some t0)
    (hdue : (t0 : Int) + s.fuseOffset n + (s.fuseWindow n : Int) ≤ (s.now : Int)) : s.fuseSide k = s.selectPicture k n := by
  have hd : s.fuseDue x n = true := by
    unfold State.fuseDue
    rw [h0]
    exact Bool.or_eq_true_iff.2 (.inr (decide_eq_true hdue))
  unfold State.fuseSide
  rw [hx]
  dsimp only
  rw [if_neg (by rw [hfull]; exact nofun), hwait]
  simp only [List.map_cons, List.map_nil, List.foldl_cons, List.foldl_nil, Fin.ofNat_val_eq_self, hd, if_true]

theorem unfused_last {y : Side} {n : Fin 64} (hstage : y.stage = .fusing) (hwait : y.fuseStreams = [n.val]) :
    (y.unfused n).stage = .arriving ∧ (y.unfused n).fuseStreams = [] := by
  simp [Side.unfused, hstage, hwait]

/-- Settles O25: the selection is the fold of `choosePicture`, and the side waits for nothing else. -/
theorem fuseWindowSelectsAPicture : Obligations.FuseWindowSelectsAPicture := by
  intro s k x n t0 t hx hstage hfull hwait h0 ref window hdue pics near frame
  have hx' : (s.at t).side? k = some x := hx
  have href : (s.at t).fuseRef x n = ref := by
    unfold State.fuseRef
    rw [h0]
    rfl
  have hexec : exec (.fuseWindowExpire k t) s = done s ((s.at t).selectPicture k n) :=
    congrArg (done s) (fuseSide_window hx' hfull hwait h0 hdue)
  refine ⟨fun hnone => ?_, fun p hp hnear hbest => ?_⟩
  · have hchoose : choosePicture (s.at t).streams[n].pictures ((s.at t).fuseRef x n) ((s.at t).fuseWindow n) = none := by
      rw [href]
      exact choosePicture_none hnone
    obtain ⟨hst, hfs⟩ := unfused_last (y := x.noFrame n) hstage hwait
    rw [selectPicture_none hx' hchoose] at hexec
    refine ⟨_, hexec, ⟨(x.noFrame n).unfused n, ?_, hst, hfs, rfl, rfl⟩, ?_, kept_commit _ ?_⟩
    · rw [commit_side?]
      exact side?_onSide (f := fun y => (y.noFrame n).unfused n) (fun _ => rfl) hx'
    · rw [commit_streams]
      rfl
    · exact congrArg (fun l => { frame s.quiet with sides := l })
        (onSide_others (f := fun y => (y.noFrame n).unfused n) (fun _ => rfl) s k)
  · intro held
    have hchoose : choosePicture (s.at t).streams[n].pictures ((s.at t).fuseRef x n) ((s.at t).fuseWindow n) = some p := by
      rw [href]
      exact choosePicture_best hp hnear hbest
    have hheld : (s.at t).streams[n].held ((s.at t).fuseRef x n) p = held := by rw [href]; rfl
    obtain ⟨hst, hfs⟩ := unfused_last (y := x.withPicture n p held) hstage hwait
    rw [selectPicture_some hx' hchoose, hheld] at hexec
    refine ⟨_, hexec, ⟨(x.withPicture n p held).unfused n, ?_, hst, hfs, rfl, rfl⟩, ?_, kept_commit _ ?_⟩
    · rw [commit_side?]
      exact side?_onSide (f := fun y => (y.withPicture n p held).unfused n) (fun _ => rfl) hx'
    · rw [commit_streams]
      exact congrArg Stream.counters (onStream_same ((s.at t).onSide k _) n _)
    · dsimp only [State.quiet, frame]
      congr 1
      · exact onSide_others (f := fun y => (y.withPicture n p held).unfused n) (fun _ => rfl) s k
      · exact onStream_hides _ n

end Sys2Proof.Machine

/-! ## A failed still on a stream that substitutes STATUS_ONLY (R91, R94) -/

namespace Sys2Proof.Machine

/-- A side that has given back the first `m` bytes of its staging. -/
def Side.restaged (m : Nat) (y : Side) : Side := { y with stageAt := y.stageAt + m, stageBytes := y.stageBytes - m }

/-- A side whose sample failed: it will be published with its statuses alone. -/
def Side.failed (fault : Nat) (n : Fin 64) (m : Nat) (y : Side) : Side :=
  { y.restaged m with
    status := insertStatus (statusOf fault) n.val y.status, statusOnly := true, stage := .arriving, substitute := true }

theorem releaseStage_eq (s : State) (k n : Nat) : ∃ m, s.releaseStage k n = (s.freeStage m).onSide k (Side.restaged m) := by
  unfold State.releaseStage
  split
  · exact ⟨0, (onSide_id (s.freeStage 0) k).symm⟩
  · exact ⟨_, rfl⟩

/-- A still that failed and has no substitute image: it counts under its status, its staging goes, and its side fails. -/
theorem failStill_eq (s : State) (n : Fin 64) (x : Staged) (fault : Nat) : ∃ m, s.failStill n x fault none
    = ((s.countStream n (Strm.firstStatus + fault) 1).freeStage m).onSide x.side (Side.failed fault n m) := by
  obtain ⟨m, hm⟩ := releaseStage_eq (s.countStream n (Strm.firstStatus + fault) 1) x.side (roundUp x.entry.length 64)
  refine ⟨m, ?_⟩
  unfold State.failStill State.consumed
  rw [hm]
  refine (congrArg (fun z : State => z.statusRecord x.side)
    (onSide_onSide (f := Side.restaged m) (fun _ => rfl) _ x.side _)).trans ?_
  exact onSide_onSide (f := fun y : Side => { y.restaged m with status := insertStatus (statusOf fault) n.val (y.restaged m).status })
    (fun _ => rfl) _ x.side _

/-- A stream whose head sample was refused before its decode. -/
def Stream.refused (fault : Nat) (y : Stream) : Stream :=
  { y with
    queue := y.queue.drop 1
    counters := bumpAt (bumpAt y.counters Strm.samples 1) (Strm.firstStatus + fault) 1 }

/-- A still refused without a substitute image: EMPTY, or any fault on a stream that substitutes STATUS_ONLY. -/
theorem startFailed_status {s : State} {n : Fin 64} {fault : Nat} (hstill : isVideo n = false)
    (hsubst : fault = 0 ∨ s.substStatus n = true) (x : Staged) (ext : Extent) (budget : Nat) :
    ∃ m, s.startFailed n x (some fault) ext budget
      = ((s.onStream n (Stream.refused fault)).freeStage m).onSide x.side (Side.failed fault n m) := by
  have hblank : (s.toRead n && !(isVideo n && s.streams[n].latest.isSome) && !s.substStatus n && some fault != some 0) = false := by
    rcases hsubst with rfl | h
    · simp
    · simp [h]
  obtain ⟨m, hm⟩ := failStill_eq ((s.popSample n).countStream n Strm.samples 1) n x fault
  refine ⟨m, ?_⟩
  unfold State.startFailed
  dsimp only
  rw [hblank]
  dsimp only
  unfold State.settleLost State.finishFailed
  rw [hstill, if_neg nofun, if_neg nofun, hm]
  refine congrArg (fun z : State => (z.freeStage m).onSide x.side (Side.failed fault n m)) ?_
  refine (congrArg (fun z : State => z.countStream n (Strm.firstStatus + fault) 1) (onStream_onStream s n _ _)).trans ?_
  exact onStream_onStream s n _ _

end Sys2Proof.Machine

/-! ## The sample that a unit starts (R76, R101) -/

namespace Sys2Proof.Machine

theorem streamBefore_irrefl (s : State) (n : Fin 64) : s.streamBefore n n = false := by simp [State.streamBefore]

/-- A unit picks the stream that goes before every other one that has a pending sample. -/
theorem pickStream_first {s : State} {u : Fin 8} {n : Fin 64} (hu : streamUnit n = u) (hq : s.streams[n].queue ≠ [])
    (hfirst : ∀ m : Fin 64, m ≠ n → streamUnit m = u → s.streams[m].queue ≠ [] →
      s.streamBefore n m = true ∧ s.streamBefore m n = false) : s.pickStream u = some n := by
  have hmem (m : Fin 64) : m ∈ (List.finRange 64).filter (fun m => streamUnit m == u && !s.streams[m].queue.isEmpty)
      ↔ streamUnit m = u ∧ s.streams[m].queue ≠ [] := by simp
  refine Eq.trans ?_ (foldl_keepBest (fun a b => s.streamBefore a b = true) _ none (fun m hm => ?_) nofun
    (.inr ((hmem n).2 ⟨hu, hq⟩)))
  · unfold State.pickStream
    congr 1
    funext b m
    cases b with
    | none => rfl
    | some b => rfl
  · obtain ⟨hmu, hmq⟩ := (hmem m).1 hm
    refine ⟨?_, fun hne => (hfirst m hne hmu hmq).1⟩
    by_cases hne : m = n
    · rw [hne, streamBefore_irrefl]
      exact nofun
    · rw [(hfirst m hne hmu hmq).2]
      exact nofun

/-- A stream under the binding of a partition. -/
def Stream.boundTo (p : Fin 6) (b : StreamBinding) (y : Stream) : Stream := { y with boundPart := p, binding := some b }

/-- The binding that a partition gives its streams. -/
def PartDesc.streamBinding (d : PartDesc) (r : Recipe) : StreamBinding := ⟨d.captureBase, d.captureFrames, r.budgets⟩

/-- The sample at the head of a still stream meets R91 under the binding of its partition now. -/
def State.meetLimits (s : State) (u : Fin 8) (n : Fin 64) (x : Staged) (b : Nat × Nat × Nat) : State :=
  match limitFault x.entry (lookStill x.entry x.payload) b.1 with
  | some f => s.startFailed n x (some f) (lookStill x.entry x.payload).extent b.1
  | none => s.startRun u n x (lookStill x.entry x.payload).extent none b.2.2

theorem startStill_bound {s : State} {n : Fin 64} {p : Fin 6} {d : PartDesc} (hp : s.streams[n].boundPart = p)
    (hd : s.parts[p].desc = some d) (u : Fin 8) (x : Staged) (r : Recipe) :
    s.startStill u n x r = (s.onStream n fun y => { y with binding := some (d.streamBinding r) }).meetLimits u n x
      (r.budgets.getD x.entry.format (0, 0, 0)) := by
  have hbind : s.takeBinding n r = s.onStream n fun y => { y with binding := some (d.streamBinding r) } := by
    subst hp
    unfold State.takeBinding
    rw [hd]
    rfl
  have hbudgets : (s.takeBinding n r).streams[n].budgets x.entry.format = r.budgets.getD x.entry.format (0, 0, 0) := by
    rw [hbind, onStream_same]
    rfl
  unfold State.startStill
  dsimp only
  rw [hbudgets, hbind]
  rfl

theorem startSample_still {s : State} {n : Fin 64} {r : Recipe} (hstill : isVideo n = false)
    (hr : s.recipeFor s.streams[n].boundPart (s.streamGait n) = some r) (u : Fin 8) (x : Staged) :
    s.startSample u n x = s.startStill u n x r := by
  unfold State.startSample
  dsimp only
  rw [hr]
  dsimp only
  rw [hstill, if_neg nofun]

/-- A free still unit, while the chip runs with no supply hold, takes the sample at the head of the stream it picks. -/
theorem decodeStartEffect_still {s : State} {u : Fin 8} {n : Fin 64} {x : Staged} {rest : List Staged} {r : Recipe} {d : PartDesc}
    {p : Fin 6} (hup : s.up = true) (hfree : s.decoders[u].run = none) (hhold : s.power.hold = none) (hstill : isVideo n = false)
    (hpick : s.pickStream u = some n) (hq : s.streams[n].queue = x :: rest) (hp : p = Fin.ofNat 6 (s.streamPart n))
    (hr : s.recipeFor p (s.streamGait n) = some r) (hd : s.parts[p].desc = some d) :
    decodeStartEffect u s = (s.onStream n (Stream.boundTo p (d.streamBinding r))).meetLimits u n x
      (r.budgets.getD x.entry.format (0, 0, 0)) := by
  have hpart : (s.onStream n fun y => { y with boundPart := p }).streams[n].boundPart = p := by rw [onStream_same]
  unfold decodeStartEffect
  rw [if_neg (by rw [hup, hfree, hhold]; decide), hpick]
  dsimp only
  rw [hq]
  dsimp only
  rw [← hp, startSample_still (r := r) hstill (by rw [hpart]; exact hr), startStill_bound hpart hd]
  exact congrArg (fun z : State => z.meetLimits u n x _) (onStream_onStream s n _ _)

end Sys2Proof.Machine

/-! ## A still that starts (R76, R91, R93) -/

namespace Sys2Proof.Machine

section
variable {f : Stream → Stream} (hf : ∀ y, (f y).pictures = y.pictures := by exact fun _ => rfl)
include hf

theorem frameLive_onStream (s : State) (n : Fin 64) : (s.onStream n f).frameLive = s.frameLive := by
  have hmap : (s.onStream n f).streams.map Stream.pictures = s.streams.map Stream.pictures := vmod_map s.streams n f _ hf
  have hany (v : Vector Stream 64) (P : List Picture → Bool) :
      (v.toList.any fun x => P x.pictures) = (v.map Stream.pictures).toList.any P := by
    rw [Vector.toList_map, List.any_map]
    rfl
  funext fr
  unfold State.frameLive
  rw [hany (s.onStream n f).streams fun l => l.any fun q => q.key == fr.owner, hmap, ← hany]
  rfl

theorem framePlaceIn_onStream (s : State) (n : Fin 64) (p : Fin 6) (base count frames : Nat) :
    (s.onStream n f).framePlaceIn p base count frames = s.framePlaceIn p base count frames := by
  unfold State.framePlaceIn
  rw [frameLive_onStream hf]
  rfl

end

/-- The run of a still of an extent, its image at `a`. -/
def State.stillRun (s : State) (n : Fin 64) (x : Staged) (ext : Extent) (decodeUs a : Nat) : DecodeRun where
  stream := n.val
  staged := x
  width := ext.width
  height := ext.height
  started := s.now
  budget := s.streams[n].budget decodeUs (ext.width * ext.height)
  paused := 0
  image := ⟨0, ext.rgb, ext.width, ext.height, ext.stride, a⟩
  head := none
  key := x.side
  read := true

/-- A stream whose head sample has started. -/
def Stream.popped (y : Stream) : Stream := { y with queue := y.queue.drop 1, started := true, dropping := false, head := none }

/-- A still that finds frames starts: it holds them, runs on the unit and leaves its stream's queue. -/
theorem startRun_still {s : State} {n : Fin 64} {b : StreamBinding} {ext : Extent} {a : Nat} (hstill : isVideo n = false)
    (hb : s.streams[n].binding = some b)
    (ha : s.framePlaceIn s.streams[n].boundPart b.base b.frames (ceilDiv (ext.height * ext.stride) 4096) = some a)
    (u : Fin 8) (x : Staged) (decodeUs : Nat) :
    s.startRun u n x ext none decodeUs = (({ s with
        frames := s.frames.filter s.frameLive
          ++ [⟨s.streams[n].boundPart, a, ceilDiv (ext.height * ext.stride) 4096, x.side, false⟩] } : State).onStream n
      Stream.popped).onDecoder u fun q => { q with run := some (s.stillRun n x ext decodeUs a) } := by
  have hread : s.toRead n = true := by simp [State.toRead, hstill]
  unfold State.startRun State.takeImage
  dsimp only
  rw [hstill, hread, hb, Option.bind_some, if_neg nofun, ha, Option.map_some]
  dsimp only
  rw [if_neg nofun]
  have hpop (z : State) : (z.popSample n).onStream n (fun y => { y with started := true, dropping := false, head := none })
      = z.onStream n Stream.popped := onStream_onStream z n _ _
  exact congrArg (fun z : State => z.onDecoder u fun q => { q with run := some (s.stillRun n x ext decodeUs a) }) (hpop _)

theorem budget_le (y : Stream) (decodeUs pixels : Nat) : y.budget decodeUs pixels ≤ decodeUs * 1000 := by
  unfold Stream.budget
  split
  · exact le_rfl
  · exact min_le_left _ _

section
variable {s : State} {n : Fin 64} {x : Staged} {b : Nat × Nat × Nat} (hstill : isVideo n = false)
include hstill

theorem meetLimits_refused {f : Nat} (hf : limitFault x.entry (lookStill x.entry x.payload) b.1 = some f)
    (hsubst : f = 0 ∨ s.substStatus n = true) (u : Fin 8) : ∃ m, s.meetLimits u n x b
      = ((s.onStream n (Stream.refused f)).freeStage m).onSide x.side (Side.failed f n m) := by
  unfold State.meetLimits
  rw [hf]
  exact startFailed_status hstill hsubst x _ b.1

theorem meetLimits_starts {c : StreamBinding} {a : Nat} (hpass : limitFault x.entry (lookStill x.entry x.payload) b.1 = none)
    (hc : s.streams[n].binding = some c)
    (ha : let ext := (lookStill x.entry x.payload).extent
      s.framePlaceIn s.streams[n].boundPart c.base c.frames (ceilDiv (ext.height * ext.stride) 4096) = some a) (u : Fin 8) :
    let ext := (lookStill x.entry x.payload).extent
    s.meetLimits u n x b = (({ s with
        frames := s.frames.filter s.frameLive
          ++ [⟨s.streams[n].boundPart, a, ceilDiv (ext.height * ext.stride) 4096, x.side, false⟩] } : State).onStream n
      Stream.popped).onDecoder u fun q => { q with run := some (s.stillRun n x ext b.2.2 a) } := by
  unfold State.meetLimits
  rw [hpass]
  exact startRun_still hstill hc ha u x b.2.2

end

/-- Settles O23: the unit picks the stream that goes first, and its head sample meets R91 under its partition's binding now. -/
theorem decodeStartsTheNextSample : Obligations.DecodeStartsTheNextSample := by
  intro s kind i n x rest r d t u p b look ext count hup hfree hhold hstill hu hq hr hd hfirst
  let bound := Stream.boundTo p (d.streamBinding r)
  let z := (s.at t).onStream n bound
  have hz : z.streams[n] = bound s.streams[n] := onStream_same _ n _
  have hpick : (s.at t).pickStream u = some n := pickStream_first (s := s.at t) hu (by rw [State.at_streams, hq]; exact nofun) hfirst
  have hexec : exec (.decodeStart kind i t) s = done s (z.meetLimits u n x b) :=
    congrArg (done s) (decodeStartEffect_still (s := s.at t) hup hfree hhold hstill hpick hq rfl hr hd)
  refine ⟨fun f hf hsubst => ?_, fun hpass a ha => ?_⟩
  · obtain ⟨m, hm⟩ := meetLimits_refused (s := z) hstill hf hsubst u
    rw [hm] at hexec
    have hstream : (z.onStream n (Stream.refused f)).streams[n] = (bound s.streams[n]).refused f :=
      (onStream_same z n _).trans (congrArg (Stream.refused f) hz)
    refine ⟨_, hexec, ?_, ?_, fun y hy => ⟨y.failed f n m, ?_, rfl, rfl, rfl⟩, kept_commit _ ?_⟩
    · rw [commit_streams]
      exact (congrArg Stream.queue hstream).trans (congrArg (List.drop 1) hq)
    · rw [commit_streams]
      exact congrArg Stream.counters hstream
    · rw [commit_side?]
      exact side?_onSide (f := Side.failed f n m) (fun _ => rfl) hy
    · dsimp only [State.quiet]
      congr 1
      · exact onSide_others (f := Side.failed f n m) (fun _ => rfl) _ x.side
      · exact (onStream_hides z n (f := Stream.refused f)).trans (onStream_hides (s.at t) n (f := bound))
  · have hplace : z.framePlaceIn z.streams[n].boundPart d.captureBase d.captureFrames count = some a := by
      rw [hz]
      exact (framePlaceIn_onStream (f := bound) (fun _ => rfl) (s.at t) n p _ _ count).trans ha
    have hrun := meetLimits_starts (s := z) (c := d.streamBinding r) hstill hpass (by rw [hz]; rfl) hplace u
    rw [show z.frameLive = s.frameLive from frameLive_onStream (f := bound) (fun _ => rfl) (s.at t) n, hz] at hrun
    rw [hrun] at hexec
    have hstream : (z.onStream n Stream.popped).streams[n] = (bound s.streams[n]).popped :=
      (onStream_same z n _).trans (congrArg Stream.popped hz)
    refine ⟨_, hexec, ?_, ?_, ⟨z.stillRun n x ext b.2.2 a, ?_, rfl, rfl, rfl, rfl, rfl, rfl, rfl, rfl, rfl, rfl, ?_, ?_⟩, ?_,
      kept_commit _ ?_⟩
    · rw [commit_streams]
      exact (congrArg Stream.queue hstream).trans (congrArg (List.drop 1) hq)
    · rw [commit_streams]
      exact congrArg Stream.binding hstream
    · rw [commit_decoders]
      exact congrArg Decoder.run (vmod_same s.decoders u _)
    · exact budget_le _ _ _
    · intro h
      have hbudget : (z.stillRun n x ext b.2.2 a).budget = (bound s.streams[n]).budget b.2.2 (ext.width * ext.height) :=
        congrArg (fun y : Stream => y.budget b.2.2 (ext.width * ext.height)) hz
      exact hbudget.trans (if_pos h)
    · rw [commit_frames]
      rfl
    · dsimp only [State.quiet]
      congr 1
      · exact (onStream_hides z n (f := Stream.popped)).trans (onStream_hides (s.at t) n (f := bound))
      · exact onDecoder_hides z u

end Sys2Proof.Machine

/-! ## How a still decode ends (R87, R92 to R94, R100) -/

namespace Sys2Proof.Machine

/-- The bytes that an image is written with, each line padded to the stride. -/
def imageBytes (i : ImageRef) (rows : List (List Nat)) : List Byte :=
  (rows.take i.height).flatMap fun row => row.map (BitVec.ofNat 8) ++ List.replicate (i.stride - row.length) (0 : Byte)

/-- Rows no longer than the stride fill no more than the image's place. -/
theorem imageBytes_length_le {i : ImageRef} {rows : List (List Nat)} (h : ∀ row ∈ rows, row.length ≤ i.stride) :
    (imageBytes i rows).length ≤ i.height * i.stride := by
  unfold imageBytes
  rw [List.length_flatMap]
  refine (List.sum_le_card_nsmul _ i.stride fun len hlen => ?_).trans ?_
  · obtain ⟨row, hrow, rfl⟩ := List.mem_map.1 hlen
    have := h row (List.mem_of_mem_take hrow)
    rw [List.length_append, List.length_map, List.length_replicate]
    omega
  · rw [List.length_map, smul_eq_mul]
    exact Nat.mul_le_mul_right _ (List.length_take_le _ _)

/-- A unit free again after a run. -/
def Decoder.freed (busy : Nat) (q : Decoder) : Decoder := { q with run := none, busyNs := bump q.busyNs busy }

/-- A unit that has counted the pixels of a run. -/
def Decoder.counted (px : Nat) (q : Decoder) : Decoder := { q with pixels := bump q.pixels px }

/-- A stream that has completed a sample of a mean time `m` per pixel. -/
def Stream.decoded (m : Word) (y : Stream) : Stream :=
  { y with
    meanSum := (meanNext y.completed y.meanSum y.mean m).1
    mean := (meanNext y.completed y.meanSum y.mean m).2
    completed := y.completed + 1
    counters := bumpAt y.counters Strm.samples 1 }

/-- A side that has taken its image. -/
def Side.imaged (i : ImageRef) (m : Nat) (y : Side) : Side :=
  { y.restaged m with images := [i], stage := .arriving, substitute := false }

/-- A stream whose running sample has failed. -/
def Stream.runFailed (fault : Nat) (y : Stream) : Stream :=
  { y with counters := bumpAt (bumpAt y.counters Strm.samples 1) (Strm.firstStatus + fault) 1 }

/-- The frames that are left when those of a run's image are freed. -/
def State.framesWithout (s : State) (run : DecodeRun) : List FrameAlloc :=
  s.frames.filter fun f => !(f.owner == run.key && f.base == run.image.addr)

theorem countDecoded_eq (s : State) (u : Fin 8) (n : Fin 64) (run : DecodeRun) : ∃ m, s.countDecoded u n run
    = (s.onDecoder u (Decoder.counted (run.width * run.height))).onStream n (Stream.decoded m) :=
  ⟨_, onStream_onStream (s.onDecoder u (Decoder.counted (run.width * run.height))) n _ _⟩

/-- A still that decodes: the unit is free, the stream counts, the image is written and its side takes it. -/
theorem stillDecoded_eq (s : State) (u : Fin 8) (n : Fin 64) (run : DecodeRun) (rows : List (List Nat)) : ∃ m k mem,
    (((s.countDecoded u n run).freeUnit u run).writeImage run.image rows).finishStill run
      = ((({ s with mem := mem }.onDecoder u fun q => (q.counted (run.width * run.height)).freed (s.now - run.started)).onStream n
          (Stream.decoded m)).freeStage k).onSide run.staged.side (Side.imaged run.image k)
    ∧ mem.bare = s.mem.bare
    ∧ ∀ a, a < run.image.addr ∨ run.image.addr + (imageBytes run.image rows).length ≤ a → mem.byte a = s.mem.byte a := by
  obtain ⟨m, hm⟩ := countDecoded_eq s u n run
  let freed := (s.onDecoder u fun q => (q.counted (run.width * run.height)).freed (s.now - run.started)).onStream n (Stream.decoded m)
  have hfreed : (s.countDecoded u n run).freeUnit u run = freed := by
    rw [hm]
    exact congrArg (fun v => { s.onStream n (Stream.decoded m) with decoders := v })
      (vmod_vmod s.decoders u (Decoder.counted (run.width * run.height)) (Decoder.freed (s.now - run.started)))
  obtain ⟨mem, hmem, hbare, hbyte⟩ := mainPut_eq freed run.image.addr (imageBytes run.image rows)
  obtain ⟨k, hk⟩ := releaseStage_eq { freed with mem := mem } run.staged.side (roundUp run.staged.entry.length 64)
  refine ⟨m, k, mem, ?_, hbare, hbyte⟩
  have hwritten : freed.writeImage run.image rows = { freed with mem := mem } := hmem
  rw [hfreed, hwritten]
  unfold State.finishStill State.consumed
  rw [hk]
  exact onSide_onSide (f := Side.restaged k) (fun _ => rfl) _ run.staged.side _

theorem reuseFrames_freed (s : State) (run : DecodeRun) : s.reuseFrames run false = { s with frames := s.framesWithout run } := by
  unfold State.reuseFrames State.framesWithout
  congr 1
  rw [← List.filterMap_eq_filter]
  congr 1
  funext f
  by_cases h : f.owner = run.key ∧ f.base = run.image.addr <;> simp [h, Option.guard]

/-- A run of a still that fails on a stream that substitutes STATUS_ONLY: the unit and the frames of the image are free, the sample
counts under its status, and its side fails. -/
theorem runFailed_status {s : State} {n : Fin 64} (hstill : isVideo n = false) (hsubst : s.substStatus n = true) (u : Fin 8)
    (run : DecodeRun) (fault : Nat) : ∃ m, s.runFailed u n run fault
      = ((({ s with frames := s.framesWithout run }.onDecoder u (Decoder.freed (s.now - run.started))).onStream n
          (Stream.runFailed fault)).freeStage m).onSide run.staged.side (Side.failed fault n m) := by
  let freed := { s with frames := s.framesWithout run }.onDecoder u (Decoder.freed (s.now - run.started))
  have hsubst' : ((s.freeUnit u run).countStream n Strm.samples 1).substStatus n = true := hsubst
  obtain ⟨m, hm⟩ := failStill_eq (freed.countStream n Strm.samples 1) n run.staged fault
  refine ⟨m, ?_⟩
  unfold State.runFailed
  dsimp only
  rw [hsubst', hstill, if_neg nofun, Bool.not_true, Bool.and_false, Bool.false_and, if_neg nofun, reuseFrames_freed]
  refine hm.trans (congrArg (fun z : State => (z.freeStage m).onSide run.staged.side (Side.failed fault n m)) ?_)
  exact onStream_onStream freed n _ _

section
variable {s : State} {u : Fin 8} {run : DecodeRun} (hrun : s.decoders[u].run = some run) (hhead : run.head = none)
  (hreserved : run.staged.entry.format ≠ 2 ∨ rasterReservedOk run.staged.payload = true)
include hrun hhead hreserved

theorem decodeDoneEffect_failed {fault : Nat} (h : stillRows run = .error fault) (res : Decoded) :
    decodeDoneEffect u res s = s.runFailed u (Fin.ofNat 64 run.stream) run fault := by
  unfold decodeDoneEffect
  rw [hrun]
  dsimp only
  rw [if_neg (by rcases hreserved with h | h <;> simp [h])]
  unfold decodeRows
  rw [hhead]
  dsimp only
  rw [h]

theorem decodeDoneEffect_decoded {rows : List (List Nat)} (h : stillRows run = .ok rows)
    (hstill : isVideo (Fin.ofNat 64 run.stream) = false) (res : Decoded) :
    decodeDoneEffect u res s = (((s.countDecoded u (Fin.ofNat 64 run.stream) run).freeUnit u run).writeImage run.image rows).finishStill
      run := by
  unfold decodeDoneEffect
  rw [hrun]
  dsimp only
  rw [if_neg (by rcases hreserved with h | h <;> simp [h])]
  unfold decodeRows
  rw [hhead]
  dsimp only
  rw [h]
  dsimp only
  rw [hstill, if_neg nofun]

end

theorem budgetExpireEffect_expired {s : State} {u : Fin 8} {run : DecodeRun} (hrun : s.decoders[u].run = some run)
    (hhold : s.power.hold = none) (hdue : run.started + run.paused + run.budget ≤ s.now) :
    budgetExpireEffect u s = s.runFailed u (Fin.ofNat 64 run.stream) run 6 := by
  unfold budgetExpireEffect State.runTime
  rw [hrun, hhold]
  exact if_pos (by dsimp only; omega)

/-- Settles O24: each end frees the unit, and the side takes the image or the status of the fault. -/
theorem decodeEndsWithAnImageOrAStatus : Obligations.DecodeEndsWithAnImageOrAStatus := by
  intro s u run y res t hrun hstream hhead hside hreserved n k frame Failed
  have hstill : isVideo n = false := by
    have hval : n.val = run.stream := Nat.mod_eq_of_lt (by omega)
    exact decide_eq_false (by omega)
  have hside' : (s.at t).side? k = some y := hside
  refine ⟨fun rows hrows => ?_, fun hsubst => ?_⟩
  · obtain ⟨m, j, mem, heff, hbare, hbyte⟩ := stillDecoded_eq (s.at t) u n run rows
    have hexec : exec (.decodeDone u res t) s = done s _ :=
      congrArg (done s) ((decodeDoneEffect_decoded (s := s.at t) hrun hhead hreserved hrows hstill res).trans heff)
    refine ⟨_, hexec, ?_, ?_, ?_, ?_, ⟨y.imaged run.image j, ?_, rfl, rfl, rfl⟩, fun hlong a ha => ?_, ?_, kept_commit _ ?_⟩
    · rw [commit_decoders]
      exact congrArg Decoder.run (vmod_same s.decoders u _)
    · rw [commit_decoders]
      exact congrArg Decoder.pixels (vmod_same s.decoders u _)
    · rw [commit_streams]
      exact congrArg Stream.counters (onStream_same (s.at t) n (Stream.decoded m))
    · rw [commit_streams]
      exact congrArg Stream.completed (onStream_same (s.at t) n (Stream.decoded m))
    · rw [commit_side?]
      exact side?_onSide (f := Side.imaged run.image j) (fun _ => rfl) hside'
    · rw [commit_mem]
      have hlen := imageBytes_length_le hlong
      exact hbyte a (by omega)
    · rw [commit_frames]
      rfl
    · dsimp only [State.quiet, frame]
      congr 1
      · exact onSide_others (f := Side.imaged run.image j) (fun _ => rfl) _ k
      · exact onStream_hides (s.at t) n (f := Stream.decoded m)
      · exact onDecoder_hides (s.at t) u (f := fun q => (q.counted (run.width * run.height)).freed ((s.at t).now - run.started))
  · have hfail (c : Instr) (f : Nat) (hexec : exec c s = done s ((s.at t).runFailed u n run f)) : Failed c (0x0201 + f) := by
      obtain ⟨m, heff⟩ := runFailed_status (s := s.at t) hstill hsubst u run f
      rw [heff] at hexec
      refine ⟨_, hexec, ?_, ?_, ⟨y.failed f n m, ?_, rfl, rfl, rfl⟩, ?_, ?_, kept_commit _ ?_⟩
      · rw [commit_decoders]
        exact congrArg Decoder.run (vmod_same s.decoders u _)
      · rw [commit_streams, show 0x0201 + f - 0x0200 = 1 + f by omega]
        exact congrArg Stream.counters (onStream_same (s.at t) n (Stream.runFailed f))
      · rw [commit_side?]
        exact side?_onSide (f := Side.failed f n m) (fun _ => rfl) hside'
      · rw [commit_frames]
        rfl
      · rw [commit_mem]
        rfl
      · dsimp only [State.quiet, frame]
        congr 1
        · exact (List.filter_filter ..).trans (by simp only [Bool.and_self]; rfl)
        · exact onSide_others (f := Side.failed f n m) (fun _ => rfl) _ k
        · exact onStream_hides (s.at t) n (f := Stream.runFailed f)
        · exact onDecoder_hides (s.at t) u (f := Decoder.freed ((s.at t).now - run.started))
    refine ⟨fun f hf => hfail _ f ?_, fun hhold hdue => hfail _ 6 ?_⟩
    · exact congrArg (done s) (decodeDoneEffect_failed (s := s.at t) hrun hhead hreserved hf res)
    · exact congrArg (done s) (budgetExpireEffect_expired (s := s.at t) hrun hhold hdue)

end Sys2Proof.Machine

/-! ## A check word listed in a frame that nothing has filled (R324, R325, R361) -/

namespace Sys2Proof.Machine

/-- A sample of 65 bytes in staging: one whole line and one byte of the next. -/
def twoLineSample : Staged :=
  ⟨⟨some 0, 1, 1, false, false, 0, 2, 9, 0, 4, 2, 0, 0x9000, 65, []⟩, [], [], 0, 5, false⟩

/-- Its side, with two lines of the staging area at 0x30000000. -/
def twoLineSide : Side := { Side.fresh 5 0 2 9 1 0 [] with host := true, stream := 1, stageAt := 0x30000000, stageBytes := 128 }

/-- That sample in staging, its frame not filled, and a check word listed for the second line: the line is not bad, because its frame
is invalid, until the write of the first line makes the frame valid. -/
def listedCheckS : State :=
  { State.reset with
    sides := [twoLineSide]
    mem := { Memory.reset with checks := [(0x30000040, 0)] }
    host := { HostIf.reset with inRing := { InRing.reset with staging := [twoLineSample] } } }

def twoLinePayload : List Byte := List.replicate 65 7

/-- The write of the second line is a merge with a line that has become bad, and is refused. -/
theorem listedCheckS_refuses :
    (stagedEffect (some twoLinePayload) none (listedCheckS.at 0)).mem.bytes twoLineSide.stageAt twoLinePayload.length
      ≠ twoLinePayload := by
  decide +kernel

/-- Refutes O48: the payload that arrives does not stand in main memory when its last line is a part of a line for which a check word is
listed in a frame that is not valid yet. No line of the range is bad before the write, as the statement asks; the first line written
makes the frame valid, and with it the last line bad, which refuses the merge of R324. -/
theorem not_entriesComeFromTheInputRing : ¬ Obligations.EntriesComeFromTheInputRing := by
  intro h
  obtain ⟨_, _, _, _, hstaged⟩ := h listedCheckS 0
  obtain ⟨hdelivered, _, _⟩ := hstaged twoLineSample twoLineSide twoLinePayload rfl rfl rfl (by decide) rfl
  obtain ⟨u, hu, _, _, hbytes⟩ := hdelivered (by decide)
  obtain rfl : commit listedCheckS (stagedEffect (some twoLinePayload) none (listedCheckS.at 0)) = u := Host.Outcome.next.inj hu
  rw [commit_mem] at hbytes
  exact listedCheckS_refuses hbytes

end Sys2Proof.Machine

/-! ## Bytes written to a store, and where bytes lie (R134 to R136, R324) -/

namespace Sys2Proof.Machine

theorem vmod_map_comm {α β : Type} {n : Nat} (v : Vector α n) (i : Fin n) {f : α → α} {f' : β → β} {g : α → β}
    (h : ∀ x, g (f x) = f' (g x)) : (vmod v i f).map g = vmod (v.map g) i f' := by
  refine Vector.ext fun j hj => ?_
  simp only [vmod, Vector.getElem_map, Vector.getElem_set, Fin.getElem_fin]
  split
  · exact h _
  · rfl

theorem onEngine_onEngine (s : State) (e : Fin 7) (f g : Engine → Engine) :
    (s.onEngine e f).onEngine e g = s.onEngine e fun x => g (f x) := by
  simp only [State.onEngine, vmod_vmod]

theorem onEngine_self (s : State) (e : Fin 7) {f : Engine → Engine} (h : f s.engines[e] = s.engines[e]) : s.onEngine e f = s := by
  rw [State.onEngine, vmod_self _ _ h]

theorem onEngine_engine (s : State) (e g : Fin 7) (f : Engine → Engine) :
    (s.onEngine e f).engines[g] = if e = g then f s.engines[e] else s.engines[g] :=
  vmod_get s.engines e g f

theorem onStep_step (s : State) (p : Fin 6) (f : StepRun → StepRun) :
    (s.onStep p f).parts[p].step = s.parts[p].step.map f :=
  congrArg Partition.step (vmod_same s.parts p _)

/-- A state without the bytes of its stores, and without what a read or a write of main memory touches. -/
def State.bytesless (s : State) : State :=
  { s with engines := s.engines.map fun g => { g with paddock := [] }, mem := { s.mem.bare with arena := [] } }

theorem OnlyMem.bytesless {s u : State} (h : OnlyMem s u) : u.bytesless = s.bytesless := by
  obtain ⟨hstate, hmem⟩ := h
  rw [State.bytesless, hmem, hstate]
  rfl

theorem paddockWrite_bytesless (s : State) (e : Fin 7) (a : Nat) (bs : List Byte) :
    (s.paddockWrite e a bs).bytesless = s.bytesless :=
  congrArg (fun v => { s.bytesless with engines := v })
    (vmod_map s.engines e (fun g => { g with paddock := cellsWrite 0 g.paddock a bs }) _ fun _ => rfl)

theorem poke_bytesless (s : State) (w : Store) (a : Nat) (bs : List Byte) : (s.poke w a bs).1.bytesless = s.bytesless := by
  cases w with
  | main => exact (onlyMem_mainWrite s a bs).bytesless
  | arena => rfl
  | paddock e => exact paddockWrite_bytesless s e a bs

theorem pokes_bytesless (s : State) (w : Store) (l : List (Nat × List Byte)) : (s.pokes w l).1.bytesless = s.bytesless := by
  induction l generalizing s with
  | nil => rfl
  | cons x rest ih =>
    have h := poke_bytesless s w x.1 x.2
    unfold State.pokes
    split
    · next s' hs =>
      rw [hs] at h
      exact (ih s').trans h
    · next s' hs =>
      rw [hs] at h
      exact h

theorem pokeSpace_bytesless (s : State) (e : Fin 7) (space a : Nat) (bs : List Byte) :
    (s.pokeSpace e space a bs).1.bytesless = s.bytesless := by
  unfold State.pokeSpace
  split
  · exact poke_bytesless s _ _ _
  · rfl

theorem writeTensor_bytesless (s : State) (e : Fin 7) (t : Tref) (f : Ix → Nat) (keep : Ix → Bool) :
    (s.writeTensor e t f keep).1.bytesless = s.bytesless := by
  unfold State.writeTensor
  split
  · rfl
  · exact pokes_bytesless s _ _

section
variable {s u : State} (h : u.bytesless = s.bytesless)
include h

/-- What does not see the bytes of a paddock is the same of every engine. -/
theorem engine_of_bytesless {α : Type} (f : Engine → α) (hf : ∀ g, f { g with paddock := [] } = f g) (e : Fin 7) :
    f u.engines[e] = f s.engines[e] := by
  have k : f u.bytesless.engines[e] = f s.bytesless.engines[e] := by rw [h]
  simpa only [State.bytesless, Fin.getElem_fin, Vector.getElem_map, hf] using k

theorem parts_of_bytesless : u.parts = s.parts := (congrArg State.parts h :)

end

/-! Where bytes lie. -/

/-- What decides where the bytes of a space lie: the installed memory, the arena areas, the members of the partitions, and the members
fenced while a step awaits its Remount. -/
def State.layout (s : State) : Word × Boot × Vector (Option (Fin 6) × Nat) 7 × Vector (Option (List (Fin 7 × Nat))) 6 :=
  (s.mem.memCfg, s.boot, s.engines.map fun g => (g.part, g.logical), s.parts.map fun x => x.step.map StepRun.fencing)

theorem layout_of_bytesless {s u : State} (h : u.bytesless = s.bytesless) : u.layout = s.layout := by
  have k : u.bytesless.layout = s.bytesless.layout := by rw [h]
  simpa only [State.layout, State.bytesless, Vector.map_map, Memory.bare, Function.comp_def] using k

theorem onEngine_layout (s : State) (e : Fin 7) {f : Engine → Engine} (hf : ∀ g, (f g).part = g.part ∧ (f g).logical = g.logical) :
    (s.onEngine e f).layout = s.layout :=
  congrArg (fun v => (s.mem.memCfg, s.boot, v, s.parts.map fun x => x.step.map StepRun.fencing))
    (vmod_map s.engines e f _ fun g => by rw [(hf g).1, (hf g).2])

theorem onStep_layout (s : State) (p : Fin 6) {f : StepRun → StepRun} (hf : ∀ r, (f r).fencing = r.fencing) :
    (s.onStep p f).layout = s.layout :=
  congrArg (fun v => (s.mem.memCfg, s.boot, s.engines.map fun g => (g.part, g.logical), v))
    (vmod_map s.parts p _ _ fun x => by
      rw [Option.map_map]
      exact congrArg (fun g => x.step.map g) (funext hf))

section
variable {s u : State} (h : u.layout = s.layout)
include h

theorem layout_engine (e : Fin 7) : u.engines[e].part = s.engines[e].part ∧ u.engines[e].logical = s.engines[e].logical := by
  have k : (u.layout.2.2.1)[e] = (s.layout.2.2.1)[e] := by rw [h]
  simpa [State.layout] using k

theorem layout_fencing (p : Fin 6) : u.parts[p].step.map StepRun.fencing = s.parts[p].step.map StepRun.fencing := by
  have k : (u.layout.2.2.2)[p] = (s.layout.2.2.2)[p] := by rw [h]
  simpa [State.layout] using k

theorem layout_dataEnd : u.mem.dataEnd = s.mem.dataEnd := by
  have k : u.mem.memCfg = s.mem.memCfg := congrArg (·.1) h
  simp only [Memory.dataEnd, Memory.channelBytes, k]

theorem layout_member? (p : Fin 6) (l : Nat) : u.member? p l = s.member? p l := by
  unfold State.member?
  refine congrArg (fun f => (List.finRange 7).find? f) (funext fun e => ?_)
  rw [(layout_engine h e).1, (layout_engine h e).2]

theorem layout_memberAt (p : Fin 6) (l : Nat) : u.memberAt p l = s.memberAt p l := by
  have hf := layout_fencing h p
  unfold State.memberAt
  rw [layout_member? h]
  cases hu : u.parts[p].step <;> cases hs : s.parts[p].step <;> simp_all

theorem layout_locate (e : Fin 7) (space addr len : Nat) : u.locate e space addr len = s.locate e space addr len := by
  have hboot : u.boot = s.boot := congrArg (·.2.1) h
  unfold State.locate
  rw [layout_dataEnd h, (layout_engine h e).1]
  simp only [State.arenaArea, hboot, layout_memberAt h]
  rfl

end

/-- The footprint that bytes of a space have: as many bytes, in main memory at their address. -/
theorem locate_ok {s : State} {e : Fin 7} {space addr len : Nat} {f : Foot} (h : s.locate e space addr len = .ok f) :
    f.hi = f.lo + len ∧ (f.store = .main → f.lo = addr) := by
  unfold State.locate at h
  grind

/-! Bytes read after bytes written. -/

theorem peek_one (s : State) (w : Store) (a : Nat) : s.peek w a 1 = [match w with
    | .main => cellsRead 0 s.mem.cells a
    | .arena => cellsRead 0 s.mem.arena a
    | .paddock e => cellsRead 0 s.engines[e].paddock a] := by
  cases w <;> simp [State.peek, Memory.bytes, cellsSlice_eq]

theorem onlyMem_peek {s u : State} (h : OnlyMem s u) {w : Store} (hw : w ≠ .main) (a len : Nat) : u.peek w a len = s.peek w a len := by
  obtain ⟨hstate, hmem⟩ := h
  cases w with
  | main => exact absurd rfl hw
  | arena => exact (congrArg (fun m : Memory => cellsSlice 0 m.arena a len) hmem :)
  | paddock e =>
    rw [hstate]
    rfl

/-- A byte outside the range of a write stays. -/
theorem poke_outside (s : State) (v w : Store) (a b : Nat) (bs : List Byte) (h : w ≠ v ∨ b < a ∨ a + bs.length ≤ b) :
    (s.poke v a bs).1.peek w b 1 = s.peek w b 1 := by
  cases v with
  | main =>
    by_cases hw : w = .main
    · subst hw
      simp only [peek_one]
      exact congrArg (fun x => [x]) (mainWrite_outside s a bs (h.resolve_left fun k => k rfl))
    · exact onlyMem_peek (onlyMem_mainWrite s a bs) hw b 1
  | arena =>
    simp only [peek_one]
    cases w with
    | arena =>
      have hout := h.resolve_left fun k => k rfl
      exact congrArg (fun x => [x]) ((cellsRead_write ..).trans (if_neg (by omega)))
    | _ => rfl
  | paddock e =>
    simp only [peek_one]
    cases w with
    | paddock g =>
      refine congrArg (fun x => [x]) ?_
      show cellsRead 0 (s.onEngine e _).engines[g].paddock b = _
      rw [onEngine_engine]
      split
      · next heq =>
        subst heq
        have hout := h.resolve_left fun k => k rfl
        exact (cellsRead_write ..).trans (if_neg (by omega))
      · rfl
    | _ => rfl

/-- The writes of a line that can be read, or of an unfilled frame, stand in it. -/
theorem writeLine_stands {s : State} {a : Nat} {bs : List Byte} (hb : s.mem.lineBad (lineOf a) = false) :
    (s.writeLine a bs).2 = true := by
  unfold State.writeLine
  dsimp only
  split
  · rfl
  · split
    · rfl
    · split
      · rfl
      · rw [if_neg (by simp [hb])]

/-- The bytes written to main memory within a line that can be read stand there. -/
theorem mainWrite_within {s : State} {a : Nat} {bs : List Byte} (hne : bs ≠ []) (hl : a % 64 + bs.length ≤ 64)
    (hb : s.mem.lineBad (lineOf a) = false) : (s.mainWrite a bs).1.mem.cells = cellsWrite 0 s.mem.cells a bs := by
  obtain ⟨_, hwritten, _, _⟩ := writeLine_spec s a bs
  have hstands := writeLine_stands (bs := bs) hb
  have hline : s.mainWrite a bs = s.writeLine a bs := by
    have hrest : ∀ (z : State) (b n : Nat), z.writeLines b [] n = (z, true) := fun z b n => by cases n <;> rfl
    unfold State.mainWrite
    rw [show bs.length / 64 + 2 = (bs.length / 64 + 1) + 1 from rfl, State.writeLines, if_neg (by simpa using hne)]
    dsimp only
    rw [List.take_of_length_le (by omega), List.drop_eq_nil_of_le (by omega)]
    cases hw : s.writeLine a bs with
    | mk z ok =>
      rw [hw] at hstands
      subst hstands
      exact hrest _ _ _
  rw [hline]
  exact (hwritten hstands).resolve_right hne

/-- Bytes written to SRAM, or to main memory within a line that can be read, stand there. -/
theorem poke_stands {s : State} {w : Store} {a : Nat} {bs : List Byte}
    (h : w = .main → bs ≠ [] ∧ a % 64 + bs.length ≤ 64 ∧ s.mem.lineBad (lineOf a) = false) :
    (s.poke w a bs).1.peek w a bs.length = bs := by
  cases w with
  | main =>
    obtain ⟨hne, hl, hb⟩ := h rfl
    exact (congrArg (fun l => cellsSlice 0 l a bs.length) (mainWrite_within hne hl hb)).trans (cellsSlice_write_same ..)
  | arena => exact cellsSlice_write_same ..
  | paddock e =>
    show cellsSlice 0 (s.onEngine e _).engines[e].paddock a bs.length = bs
    rw [onEngine_engine, if_pos rfl]
    exact cellsSlice_write_same ..

end Sys2Proof.Machine

/-! ## How a command ends (R107, R131, R138, R139, R143) -/

namespace Sys2Proof.Machine

/-- An engine with its counters changed. -/
def Engine.counting (n : Vector DWord 32 → Vector DWord 32) (g : Engine) : Engine := { g with counters := n g.counters }

theorem countEngine_if (s : State) (e : Fin 7) (c : Prop) [Decidable c] (i k : Nat) :
    (if c then s.countEngine e i k else s) = s.onEngine e (Engine.counting fun n => if c then bumpAt n i k else n) := by
  split
  · rfl
  · exact (onEngine_self s e rfl).symm

/-- An engine when a command of it ends with a status and flags. -/
def Engine.ended (d : List Byte) (st : Half) (flags : Nat) (seen : List Half) (cycles : Word) (g : Engine) : Engine :=
  { g with
    counters := endCounters g.counters st flags seen cycles
    lastFault := if st = stOk then g.lastFault else st
    held := if st ≠ stOk ∧ cellCommand d = true then none else g.held }

/-- A state in which a command of an engine has ended, but for its completion word. -/
def State.ended (s : State) (e : Fin 7) (d : List Byte) (st : Half) (flags : Nat) (cycles : Word) (seen : List Half) : State :=
  match s.engines[e].part with
  | some p => (s.onEngine e (Engine.ended d st flags seen cycles)).onStep p fun r =>
      r.retire e d (if st = stOk then none else some (faultOf s e d st))
  | none => s.onEngine e (Engine.ended d st flags seen cycles)

/-- A failing command's report: ENG_LAST_FAULT, and the held values of the cells discarded. -/
theorem lastFault_eq (s : State) (e : Fin 7) (d : List Byte) (st : Half) :
    (if st = stOk then s else (s.dropHeld e d).onEngine e fun x => { x with lastFault := st }) = s.onEngine e fun g => { g with
      lastFault := if st = stOk then g.lastFault else st
      held := if st ≠ stOk ∧ cellCommand d = true then none else g.held } := by
  by_cases h : st = stOk
  · simp only [h, if_true]
    exact (onEngine_self s e (by simp)).symm
  · unfold State.dropHeld
    by_cases hc : cellCommand d = true <;>
      simp only [h, hc, if_true, if_false, onEngine_onEngine, ne_eq, not_false_eq_true, and_true, and_false, Bool.false_eq_true]

/-- The end of a command: its engine counts it, its step hears of it, and its completion word is written where its place is legal. -/
theorem finish_eq (s : State) (e : Fin 7) (d : List Byte) (st : Half) (flags : Nat) (cycles : Word) (seen : List Half) :
    s.finish e d st flags cycles seen =
      if (s.ended e d st flags cycles seen).complOk e d then
        ((s.ended e d st flags cycles seen).pokeSpace e (dComplSpace d) (dComplAddr d) (complWord d st flags cycles)).1
      else s.ended e d st flags cycles seen := by
  unfold State.finish
  extract_lets s1 s2 s3 s4 s5 f s6
  have h1 : s1 = s.onEngine e (Engine.counting fun n => bumpAt (bumpAt n 0 1) 6 cycles.toNat) := onEngine_onEngine ..
  have h4 : s4 = s.onEngine e (Engine.counting fun n => endCounters n st flags seen cycles) := by
    simp only [s4, s3, s2, countEngine_if]
    rw [h1]
    simp only [onEngine_onEngine]
    rfl
  have h5 : s5 = s.onEngine e (Engine.ended d st flags seen cycles) := by
    simp only [s5]
    rw [lastFault_eq, h4, onEngine_onEngine]
    rfl
  have hg : s5.engines[e] = s.engines[e].ended d st flags seen cycles := by rw [h5, onEngine_engine, if_pos rfl]
  have h6 : s6 = s.ended e d st flags cycles seen := by
    simp only [s6, f, State.ended, faultOf, hg]
    rw [h5]
    rfl
  rw [h6]

section
variable (s : State) (e : Fin 7) (d : List Byte) (st : Half) (flags : Nat) (cycles : Word) (seen : List Half)

theorem ended_layout : (s.ended e d st flags cycles seen).layout = s.layout := by
  have h := onEngine_layout s e (f := Engine.ended d st flags seen cycles) fun _ => ⟨rfl, rfl⟩
  unfold State.ended
  split
  · exact (onStep_layout _ _ (by exact fun _ => rfl)).trans h
  · exact h

theorem ended_engines : (s.ended e d st flags cycles seen).engines = vmod s.engines e (Engine.ended d st flags seen cycles) := by
  unfold State.ended
  split <;> rfl

theorem ended_mem : (s.ended e d st flags cycles seen).mem = s.mem := by
  unfold State.ended
  split <;> rfl

theorem ended_step {p : Fin 6} (hp : s.engines[e].part = some p) :
    (s.ended e d st flags cycles seen).parts[p].step = s.parts[p].step.map fun r =>
      r.retire e d (if st = stOk then none else some (faultOf s e d st)) := by
  unfold State.ended
  rw [hp]
  exact onStep_step _ _ _

theorem ended_peek (w : Store) (a len : Nat) : (s.ended e d st flags cycles seen).peek w a len = s.peek w a len := by
  cases w with
  | paddock g =>
    refine congrArg (fun l => cellsSlice 0 l a len) ?_
    rw [ended_engines]
    exact (congrArg Engine.paddock (vmod_get ..)).trans (by split <;> simp_all [Engine.ended])
  | main => exact congrArg (fun m : Memory => m.bytes a len) (ended_mem s e d st flags cycles seen)
  | arena => exact congrArg (fun m : Memory => cellsSlice 0 m.arena a len) (ended_mem s e d st flags cycles seen)

theorem finish_bytesless :
    (s.finish e d st flags cycles seen).bytesless = (s.ended e d st flags cycles seen).bytesless := by
  rw [finish_eq]
  split
  · exact pokeSpace_bytesless _ _ _ _ _
  · rfl

end

theorem complWord_length (d : List Byte) (st : Half) (flags : Nat) (cycles : Word) : (complWord d st flags cycles).length = 16 := by
  simp [complWord]

theorem commit_peek (o n : State) (w : Store) (a len : Nat) : (commit o n).peek w a len = n.peek w a len := by
  cases w <;> simp only [State.peek, commit_mem, commit_engines]

theorem bytesless_quiet {s u : State} (h : u.bytesless = s.bytesless) : u.quiet.bytesless = s.quiet.bytesless :=
  (congrArg State.quiet h :)

theorem bare_bare (m : Memory) : { m.bare with arena := [] }.bare = { m.bare with arena := [] } := by
  simp only [Memory.bare, Vector.map_map, Function.comp_def]

theorem engineEnds_bytesless (e : Fin 7) (p : Option (Fin 6)) (s : State) : engineEnds e p s.bytesless = engineEnds e p s := by
  have hv : (vmod (s.engines.map fun g => { g with paddock := [] }) e fun g =>
        { g with counters := Vector.replicate 32 0, lastFault := 0, held := none }).map (fun g : Engine => { g with paddock := [] })
      = (vmod s.engines e fun g =>
        { g with counters := Vector.replicate 32 0, lastFault := 0, held := none }).map fun g : Engine => { g with paddock := [] } := by
    have hb := vmod_map_comm (g := fun g : Engine => { g with paddock := [] })
      (f' := fun g : Engine => { g with counters := Vector.replicate 32 0, lastFault := 0, held := none }) s.engines e
      (f := fun g => { g with counters := Vector.replicate 32 0, lastFault := 0, held := none }) fun _ => rfl
    rw [← hb, Vector.map_map]
    rfl
  have hm : { { s.mem.bare with arena := [] }.bare with arena := [] } = { s.mem.bare with arena := [] } := by rw [bare_bare]
  exact congrArg₂ (fun v m => ({ engineEnds e p s with engines := v, mem := m } : State)) hv hm

theorem engineEnds_ended (m : State) (e : Fin 7) (d : List Byte) (st : Half) (flags : Nat) (cycles : Word) (seen : List Half) :
    engineEnds e m.engines[e].part (m.ended e d st flags cycles seen).quiet = engineEnds e m.engines[e].part m.quiet := by
  have hv := vmod_hides m.engines e (Engine.ended d st flags seen cycles)
    (fun g => { g with counters := Vector.replicate 32 0, lastFault := 0, held := none }) fun _ => rfl
  unfold State.ended
  split
  · next p hp =>
    rw [hp]
    have hw := vmod_hides m.parts p (fun x => { x with
      step := x.step.map fun r => r.retire e d (if st = stOk then none else some (faultOf m e d st)) })
      (fun x => { x with step := none }) fun _ => rfl
    exact congrArg₂ (fun v w => ({ engineEnds e (some p) m.quiet with
      engines := v.map fun g => { g with paddock := [] }, parts := w } : State)) hv hw
  · next hp =>
    rw [hp]
    exact congrArg (fun v => ({ engineEnds e none m.quiet with engines := v.map fun g => { g with paddock := [] } } : State)) hv

/-- How every command of an engine ends, whatever the state at its end. -/
theorem finish_ends (o m : State) (c : EngCall) (st : Half) (flags : Nat) (seen : List Half) :
    Ended c st flags m (commit o (m.finish c.engine c.desc st flags c.cycles seen)) seen := by
  have hbl := finish_bytesless m c.engine c.desc st flags c.cycles seen
  have hpoke := finish_eq m c.engine c.desc st flags c.cycles seen
  have hloc := layout_locate (ended_layout m c.engine c.desc st flags c.cycles seen) c.engine (dComplSpace c.desc) (dComplAddr c.desc) 16
  have hpk := ended_peek m c.engine c.desc st flags c.cycles seen
  have hmem := ended_mem m c.engine c.desc st flags c.cycles seen
  have hengine {α : Type} (f : Engine → α) (hf : ∀ g, f { g with paddock := [] } = f g) :
      f (m.finish c.engine c.desc st flags c.cycles seen).engines[c.engine]
        = f (m.engines[c.engine].ended c.desc st flags seen c.cycles) := by
    rw [engine_of_bytesless hbl f hf, ended_engines]
    exact congrArg f (vmod_same m.engines c.engine _)
  unfold Ended
  simp only [commit_engines, commit_parts, commit_peek]
  refine ⟨hengine Engine.counters fun _ => rfl, hengine Engine.lastFault fun _ => rfl, hengine Engine.held fun _ => rfl,
    fun p hp => ?_, fun f hal hf hbad => ?_, fun w a hout => ?_, kept_commit _ ?_⟩
  · simp only [parts_of_bytesless hbl]
    exact ended_step m c.engine c.desc st flags c.cycles seen hp
  · obtain ⟨hhi, hlo⟩ := locate_ok hf
    have hok : (m.ended c.engine c.desc st flags c.cycles seen).complOk c.engine c.desc = true := by
      simp [State.complOk, State.placeStatus, hal, hloc, hf]
    rw [hpoke, if_pos hok, State.pokeSpace, complWord_length, hloc, hf]
    dsimp only
    have hstands := poke_stands (s := m.ended c.engine c.desc st flags c.cycles seen) (w := f.store) (a := f.lo)
      (bs := complWord c.desc st flags c.cycles) fun hmain => ?_
    · rwa [complWord_length] at hstands
    · refine ⟨fun hnil => ?_, ?_, ?_⟩
      · simpa [hnil] using complWord_length c.desc st flags c.cycles
      · rw [complWord_length, hlo hmain]
        omega
      · rw [hmem]
        exact hbad hmain
  · rw [hpoke]
    split
    · rw [State.pokeSpace, complWord_length, hloc]
      split
      · next f hf => exact (poke_outside _ _ _ _ _ _ (by rw [complWord_length]; exact hout f hf)).trans (hpk w a 1)
      · exact hpk w a 1
    · exact hpk w a 1
  · rw [← engineEnds_bytesless, bytesless_quiet hbl, engineEnds_bytesless]
    exact engineEnds_ended ..

end Sys2Proof.Machine

/-! ## Engine commands that issue (R132, R133, R138, R139, R311, R333) -/

namespace Sys2Proof.Machine

/-- A command that issues runs with the contract faults found at its issue. -/
theorem exec_issued {s : State} {c : Instr} {x : CmdRun} {found : List Half} (h : engineCmd c s = some x)
    (hi : Issued s x.call x.other found) :
    exec c s = .next (commit s (s.runEngine { x.call with hw := x.call.hw ++ found } x.judged x.reads x.writes x.touch x.eff)) := by
  obtain ⟨_, hother, hgoes⟩ := hi
  rw [exec_engineCmd h, issueCommand_goes _ hother hgoes]
  rfl

theorem readLines_readable {s : State} {lines : List Nat} (h : ∀ l ∈ lines, s.mem.lineBad l = false) : (s.readLines lines).2 = true := by
  simpa [State.readLines] using h

/-- Settles O26: a command that passes runs to its effect, and every command ends alike. -/
theorem engineCommandsComplete : Obligations.EngineCommandsComplete := by
  intro s c x h hpass r
  obtain ⟨hi, hjudged, hfaults, hlines, hsram⟩ := hpass
  have hrun := enterEngine_goes (c := { x.call with hw := x.call.hw ++ [] })
    (fun z => (x.eff z).s.finish x.call.engine x.call.desc (x.eff z).status (x.eff z).flags x.call.cycles)
    hi.1 hjudged hfaults (readLines_readable hlines) hsram
  exact ⟨_, (exec_issued h hi).trans (congrArg (fun z => Host.Outcome.next (commit s z)) hrun), finish_ends s r.s x.call _ _ []⟩

/-! A failing SRAM access handled (R333, R336). -/

/-- A state without what the handling of a failing SRAM access touches: the engines' bytes, remap entries and fences, memory's flipped
bits, the chip's counters and the Studbook. -/
def State.unrepaired (s : State) : State :=
  { s with
    engines := s.engines.map fun g => { g with paddock := [], remaps := [], needFence := false }
    mem := { s.mem with flipped := [] }
    host := { s.host with chip := Vector.replicate 32 0 }
    stud := State.reset.stud }

theorem onEngine_unrepaired (s : State) (e : Fin 7) {f : Engine → Engine}
    (hf : ∀ g, { f g with paddock := [], remaps := [], needFence := false } = { g with paddock := [], remaps := [], needFence := false }) :
    (s.onEngine e f).unrepaired = s.unrepaired :=
  congrArg (fun v => ({ s.unrepaired with engines := v } : State)) (vmod_map s.engines e f _ hf)

theorem reloadAccess_unrepaired (s : State) (e : Fin 7) (o : Nat) :
    (s.reloadAccess e o).unrepaired = s.unrepaired ∧ (s.reloadAccess e o).host = s.host :=
  foldl_keeps (P := fun z : State => z.unrepaired = s.unrepaired ∧ z.host = s.host)
    (fun z i h => by
      split
      · next b _ => exact ⟨(onEngine_unrepaired z e (by exact fun _ => rfl)).trans h.1, h.2⟩
      · exact h) ⟨rfl, rfl⟩

theorem remapAccess_unrepaired (s : State) (e : Fin 7) (o : Nat) :
    (s.remapAccess e o).unrepaired = s.unrepaired
    ∧ (s.remapAccess e o).host.chip[Chip.sramFailures] = s.host.chip[Chip.sramFailures] := by
  unfold State.remapAccess
  dsimp only
  split
  · exact ⟨rfl, rfl⟩
  · split
    · exact ⟨onEngine_unrepaired s e (by exact fun _ => rfl),
        (bumpAt_get s.host.chip Chip.remapInstalls 1 Chip.sramFailures (by decide)).trans (if_neg (by decide))⟩
    · exact ⟨onEngine_unrepaired s e (by exact fun _ => rfl), rfl⟩

/-- A failing access counts once in SRAM_FAILURES; one in the arena lay in scratch. -/
theorem repairAccess_spec (s : State) (c : EngCall) (b : Store × Nat) :
    (s.repairAccess c b).1.unrepaired = s.unrepaired
    ∧ (s.repairAccess c b).1.host.chip[Chip.sramFailures] = s.host.chip[Chip.sramFailures] + 1
    ∧ (b.1 = .arena → (s.repairAccess c b).2 = true) := by
  have hcount : (s.countChip Chip.sramFailures 1).host.chip[Chip.sramFailures] = s.host.chip[Chip.sramFailures] + 1 :=
    (bumpAt_get s.host.chip Chip.sramFailures 1 Chip.sramFailures (by decide)).trans (if_pos rfl)
  unfold State.repairAccess
  extract_lets z stuck
  split
  · next e he =>
    extract_lets weights y
    have hy : y.unrepaired = s.unrepaired ∧ y.host = z.host := by
      obtain ⟨hstate, hhost⟩ := reloadAccess_unrepaired z e b.2
      simp only [y]
      split
      · exact ⟨hstate, hhost⟩
      · exact ⟨rfl, rfl⟩
    have hz : y.host.chip[Chip.sramFailures] = s.host.chip[Chip.sramFailures] + 1 := by
      rw [← hcount]
      exact congrArg (fun h : HostIf => h.chip[Chip.sramFailures]) hy.2
    obtain ⟨hstate, hchip⟩ := remapAccess_unrepaired y e b.2
    refine ⟨?_, ?_, fun h => by rw [he] at h; cases h⟩
    · split
      · exact hstate.trans hy.1
      · exact hy.1
    · split
      · exact hchip.trans hz
      · exact hz
  · exact ⟨rfl, hcount, fun _ => rfl⟩

/-- Every failing access counts once, and one in the arena faults the step. -/
theorem repairAll_spec (s : State) (c : EngCall) (l : List (Store × Nat)) :
    (s.repairAll c l).1.unrepaired = s.unrepaired
    ∧ (s.repairAll c l).1.host.chip[Chip.sramFailures] = s.host.chip[Chip.sramFailures] + BitVec.ofNat 64 l.length
    ∧ ((∃ b ∈ l, b.1 = .arena) → (s.repairAll c l).2 = true) := by
  have hfold : ∀ a : State × Bool,
      let r := l.foldl (fun (a : State × Bool) x =>
        let (s, b) := a.1.repairAccess c x
        (s, a.2 || b)) a
      r.1.unrepaired = a.1.unrepaired
      ∧ r.1.host.chip[Chip.sramFailures] = a.1.host.chip[Chip.sramFailures] + BitVec.ofNat 64 l.length
      ∧ (a.2 = true ∨ (∃ b ∈ l, b.1 = .arena) → r.2 = true) := by
    induction l with
    | nil => simp
    | cons x l ih =>
      intro a
      obtain ⟨hstate, hchip, hscratch⟩ := repairAccess_spec a.1 c x
      obtain ⟨ihstate, ihchip, ihscratch⟩ := ih ((a.1.repairAccess c x).1, a.2 || (a.1.repairAccess c x).2)
      refine ⟨ihstate.trans hstate, ihchip.trans ?_, fun h => ihscratch ?_⟩
      · simp only [hchip, List.length_cons, BitVec.ofNat_add, BitVec.add_assoc, BitVec.add_comm (BitVec.ofNat 64 l.length)]
        rfl
      · simp only [List.exists_mem_cons_iff] at h
        obtain h | h | h := h
        · exact .inl (by simp [h])
        · exact .inl (by simp [hscratch h])
        · exact .inr h
  obtain ⟨hstate, hchip, hscratch⟩ := hfold (s, false)
  exact ⟨hstate, hchip, fun h => hscratch (.inr h)⟩

/-! What surrounds a command (R107, R333). -/

/-- A state without what the surroundings of a command touch: counters, and bits of SRAM. -/
def State.undisturbed (s : State) : State :=
  { s with
    engines := s.engines.map fun g => { g with paddock := [], counters := Vector.replicate 32 0 }
    mem := { s.mem with arena := [], flipped := [] }
    host := { s.host with chip := Vector.replicate 32 0 } }

theorem onEngine_undisturbed (s : State) (e : Fin 7) {f : Engine → Engine}
    (hf : ∀ g, { f g with paddock := [], counters := Vector.replicate 32 0 } = { g with paddock := [], counters := Vector.replicate 32 0 }) :
    (s.onEngine e f).undisturbed = s.undisturbed :=
  congrArg (fun v => ({ s.undisturbed with engines := v } : State)) (vmod_map s.engines e f _ hf)

theorem flipCheck_unflipped (m : Memory) (u : SramUnit) (o : Nat) (flip : NineFlip) :
    { m.flipCheck u o flip with arena := [], flipped := [] } = { m with arena := [], flipped := [] } := by
  unfold Memory.flipCheck
  split
  · rfl
  · split <;> rfl

theorem flipSram_undisturbed (s : State) (u : SramUnit) (o : Nat) (flip : NineFlip) :
    (s.flipSram u o flip).undisturbed = s.undisturbed := by
  have hflip (z : State) : ({ z with mem := z.mem.flipCheck u o flip } : State).undisturbed = z.undisturbed :=
    congrArg (fun m => ({ z.undisturbed with mem := m } : State)) (flipCheck_unflipped z.mem u o flip)
  unfold State.flipSram
  refine (hflip _).trans ?_
  split
  · exact onEngine_undisturbed s _ (by exact fun _ => rfl)
  · rfl
  · rfl

theorem disturb_undisturbed (s : State) (c : EngCall) : (s.disturb c).undisturbed = s.undisturbed := by
  have hflips : (c.sram.foldl (fun s x => s.flipSram x.unit x.offset x.flip)
      (s.countEngine c.engine Eng.bankConflicts c.conflicts)).undisturbed = s.undisturbed :=
    foldl_keeps (P := fun z : State => z.undisturbed = s.undisturbed) (fun z x h => (flipSram_undisturbed z _ _ _).trans h)
      (onEngine_undisturbed s _ (by exact fun _ => rfl))
  unfold State.disturb
  dsimp only
  split
  · exact hflips
  · exact hflips

theorem reading_parts (s : State) (c : EngCall) (touch : List Foot) : (s.reading c touch).parts = s.parts :=
  (congrArg State.parts (onlyRead_readLines (s.disturb c) (touchLines touch)).1 :).trans
    (congrArg State.parts (disturb_undisturbed s c) :)

/-- What does not see an engine's counters and paddock is the same once a command's operands are read. -/
theorem reading_engine {α : Type} (s : State) (c : EngCall) (touch : List Foot) (f : Engine → α)
    (hf : ∀ g, f { g with paddock := [], counters := Vector.replicate 32 0 } = f g) (e : Fin 7) :
    f (s.reading c touch).engines[e] = f s.engines[e] := by
  have hread : (s.reading c touch).engines = (s.disturb c).engines :=
    (congrArg State.engines (onlyRead_readLines (s.disturb c) (touchLines touch)).1 :)
  have hdisturb : f (s.disturb c).undisturbed.engines[e] = f s.undisturbed.engines[e] := by rw [disturb_undisturbed]
  simp only [hread]
  simpa only [State.undisturbed, Fin.getElem_fin, Vector.getElem_map, hf] using hdisturb

/-- A failing scratch byte of the arena faults the step, and the command goes no further. -/
theorem enterEngine_scratch {s : State} {c : EngCall} {reads writes touch : List Foot} (go : State → State)
    (h : s.engines[c.engine].role = .inService) (l : s.accessFaults c.engine c.desc reads writes touch ++ raised c = [])
    (m : ((s.disturb c).readLines (touchLines touch)).2 = true) (n : ∃ b ∈ (s.reading c touch).badAccesses touch, b.1 = .arena) :
    s.enterEngine c none reads writes touch go =
      ((s.reading c touch).repairAll c ((s.reading c touch).badAccesses touch)).1.scratchFault c.engine c.desc := by
  have hscratch := (repairAll_spec (s.reading c touch) c ((s.reading c touch).badAccesses touch)).2.2 n
  unfold State.enterEngine
  rw [if_neg (fun g => g h)]
  dsimp only
  rw [l]
  simp only [lowest, Option.or_none, m, if_true]
  unfold State.reading at hscratch ⊢
  rw [hscratch]
  rfl

theorem lineBad_unreadable {s : State} {lines : List Nat} (h : ∃ l ∈ lines, s.mem.lineBad l = true) : (s.readLines lines).2 = false := by
  simpa [State.readLines] using h

theorem faultOf_reading (s : State) (c : EngCall) (touch : List Foot) (e : Fin 7) (d : List Byte) (st : Half) :
    faultOf (s.reading c touch) e d st = faultOf s e d st := by
  simp only [faultOf, reading_engine s c touch Engine.logical (fun _ => rfl) e]

/-- What the report of failing scratch finds once the failing accesses have been handled. -/
theorem places_of_unrepaired {s u : State} (h : u.unrepaired = s.unrepaired) : u.parts = s.parts
    ∧ ∀ e : Fin 7, u.engines[e].part = s.engines[e].part ∧ u.engines[e].logical = s.engines[e].logical := by
  refine ⟨(congrArg State.parts h :), fun e => ?_⟩
  have k : u.unrepaired.engines[e] = s.unrepaired.engines[e] := by rw [h]
  simp only [State.unrepaired, Fin.getElem_fin, Vector.getElem_map] at k
  exact ⟨(congrArg Engine.part k :), (congrArg Engine.logical k :)⟩

/-- A command whose scratch failed is reported to its step, and nothing else. -/
theorem scratchFault_spec {s u : State} {e : Fin 7} {p : Fin 6} (h : u.parts = s.parts
      ∧ ∀ g : Fin 7, u.engines[g].part = s.engines[g].part ∧ u.engines[g].logical = s.engines[g].logical)
    (d : List Byte) (hp : s.engines[e].part = some p) :
    (u.scratchFault e d).parts[p].step
      = s.parts[p].step.map (fun r => { r with faults := r.faults ++ [faultOf s e d stOk] })
    ∧ (u.scratchFault e d).host.chip[Chip.sramFailures] = u.host.chip[Chip.sramFailures] := by
  obtain ⟨hparts, hplace⟩ := h
  unfold State.scratchFault
  rw [(hplace e).1, hp]
  simp only [onStep_step, State.onStep_host, faultOf, (hplace e).2, hparts, and_self]

/-- Settles O27: a failing check or a fault ends the command before it reads, an unreadable line as it reads, and scratch that fails
faults its step. -/
theorem engineCommandsFail : Obligations.EngineCommandsFail := by
  intro s c x found h hi e faults read seen
  obtain ⟨hrole, _, _⟩ := id hi
  refine ⟨fun st hst => ?_, fun hjudged hfaults hbad => ?_, fun p run hjudged hfaults hlines hscratch hp hrun => ?_⟩
  · refine ⟨_, (exec_issued h hi).trans ?_, finish_ends s (s.disturb x.call) x.call st 0 seen⟩
    exact congrArg (fun z => Host.Outcome.next (commit s z)) (enterEngine_fails (c := { x.call with hw := x.call.hw ++ found }) _ hrole hst)
  · refine ⟨_, (exec_issued h hi).trans ?_, finish_ends s read x.call stBusError 0 []⟩
    have hnone : x.judged.or (lowest faults) = none := by rw [hjudged, hfaults]; rfl
    exact congrArg (fun z => Host.Outcome.next (commit s z))
      (enterEngine_unreadable (c := { x.call with hw := x.call.hw ++ found }) _ hrole hnone (lineBad_unreadable hbad))
  · have hgo := enterEngine_scratch (c := { x.call with hw := x.call.hw ++ found })
      (fun z => (x.eff z).s.finish e x.call.desc (x.eff z).status (x.eff z).flags x.call.cycles)
      hrole hfaults (readLines_readable hlines) hscratch
    obtain ⟨hstate, hchip, _⟩ := repairAll_spec read { x.call with hw := x.call.hw ++ found } (read.badAccesses x.touch)
    refine ⟨_, (exec_issued h hi).trans (congrArg (fun z => Host.Outcome.next (commit s z))
      ((congrArg (fun j => s.enterEngine _ j _ _ _ _) hjudged).trans hgo)), ?_⟩
    have hfault := scratchFault_spec (places_of_unrepaired hstate) x.call.desc
      ((reading_engine s x.call x.touch Engine.part (fun _ => rfl) e).trans hp)
    rw [faultOf_reading] at hfault
    simp only [commit_parts, commit_host_chip]
    refine ⟨hfault.1.trans ?_, hfault.2.trans hchip⟩
    simp only [read, reading_parts, hrun, Option.map_some]

end Sys2Proof.Machine

/-! ## Commands with an empty extent (R143, R148, R154, R166, R217, R233, R248) -/

namespace Sys2Proof.Machine

theorem firstStatus_none {l : List (Option Half)} (h : firstStatus l = none) : ∀ x ∈ l, x = none := by
  induction l with
  | nil => simp
  | cons x l ih =>
    cases x with
    | some st => exact nomatch h
    | none => exact List.forall_mem_cons.2 ⟨rfl, ih h⟩

theorem require_none {ok : Bool} {st : Half} (h : require ok st = none) : ok = true := by
  cases ok with
  | true => rfl
  | false => exact nomatch h

/-- What holds of a command whose checks 1 to 7 pass: its opcode is that of its row, its ranges hold, and its bytes have places. -/
theorem judge_passes {s : State} {e : Fin 7} {d : List Byte} {op len : Nat} {reservedOk formatOk rangeOk : Bool}
    {places : List (Option Half)} (h : s.judge e d op len reservedOk formatOk rangeOk places = none) :
    dOpcode d = op ∧ formatOk = true ∧ rangeOk = true ∧ ∀ x ∈ places, x = none := by
  have hall := firstStatus_none h
  simp only [List.forall_mem_cons, List.not_mem_nil, false_implies, implies_true, and_true] at hall
  obtain ⟨hop, _, _, _, hformat, hrange, hplaces⟩ := hall
  have hrange := require_none hrange
  rw [Bool.and_eq_true] at hrange
  refine ⟨by simpa using require_none hop, require_none hformat, hrange.2, ?_⟩
  unfold placesStatus at hplaces
  split at hplaces
  · exact nomatch hplaces
  · exact (List.forall_mem_cons.1 (firstStatus_none hplaces)).2

theorem dropHeld_cells {s : State} {e : Fin 7} {d : List Byte} {op : Nat} (h : dOpcode d = op)
    (hop : [0x01, 0x10, 0x30, 0x40, 0x41, 0x42].contains op = true) :
    s.dropHeld e d = s.onEngine e fun g => { g with held := none } := by
  rw [State.dropHeld, cellCommand, h, if_pos hop]

/-- A command that passes and whose effect is a state and flags ends there with OK. -/
theorem answers_plain {s m : State} {i : Instr} {x : CmdRun} {flags : Nat} (h : engineCmd i s = some x) (hp : x.passes s)
    (heff : x.eff (x.start s) = plain m flags) : Answers i s fun u => Ended x.call 0 flags m u := by
  have hends := engineCommandsComplete s i x h hp
  simp only [heff] at hends
  exact hends

/-- A state in which a command of an engine finds nothing to do: counted in ZERO_EXTENTS, the held values discarded. -/
def State.emptied (s : State) (e : Fin 7) (counts cells : Bool) : State :=
  s.onEngine e fun g => { g with
    counters := if counts then bumpAt g.counters 7 1 else g.counters, held := if cells then none else g.held }

theorem emptied_none (s : State) (e : Fin 7) : s.emptied e false false = s := onEngine_self s e rfl

theorem emptied_cells {s : State} {e : Fin 7} {d : List Byte} {op : Nat} (h : dOpcode d = op)
    (hop : [0x01, 0x10, 0x30, 0x40, 0x41, 0x42].contains op = true) :
    (s.dropHeld e d).countEngine e Eng.zeroExtents 1 = s.emptied e true true := by
  rw [dropHeld_cells h hop]
  exact onEngine_onEngine ..

section
variable {e : Fin 7} {d : List Byte} (s : State)

theorem vectorEffect_empty {v : VecDesc} (ups : List Upset) (h : v.out0.empty = true) :
    vectorEffect e d v ups s = plain (s.emptied e false false) 1 := by
  rw [emptied_none, vectorEffect, if_pos h]

theorem moveEffect_empty (h : (trefAt d 32).empty = true) : moveEffect e d s = plain (s.emptied e false false) 1 := by
  rw [emptied_none]
  exact if_pos h

theorem quantEffect_empty (h : (trefAt d 32).empty = true) :
    quantEffect e d (quantDesc d) s = plain (s.emptied e false false) 1 := by
  rw [emptied_none]
  exact if_pos h

theorem poolEffect_empty (h : (trefAt d 32).empty = true) : poolEffect e d (poolDesc d) s = plain (s.emptied e true false) 1 := by
  have hn : (poolDesc d).nothing = true := by
    rw [PoolDesc.nothing, show (poolDesc d).inp = trefAt d 32 from rfl, h, Bool.true_or]
  exact if_pos hn

theorem argmaxEffect_empty (h : (trefAt d 32).empty = true) : argmaxEffect e d s = plain (s.emptied e true false) 1 := if_pos h

theorem appendEffect_empty {x : AppDesc} (h : x.count = 0) : appendEffect e d x s = plain (s.emptied e true false) 1 := if_pos h

theorem convEffect_empty {x : ConvDesc} (ups : List Upset) (hop : dOpcode d = 0x10) (h : x.nothing = true) :
    convEffect e d x ups s = plain (s.emptied e true true) 1 := by
  rw [← emptied_cells hop (by decide)]
  exact if_pos h

theorem routeEffect_empty {x : RouteDesc} (hop : dOpcode d = 0x40) (h : x.t = 0) :
    routeEffect e d x s = plain (s.emptied e true true) 1 := by
  rw [← emptied_cells hop (by decide)]
  exact if_pos h

/-- The three ADAPT_UPDATEs of an empty tensor. -/
theorem adaptEffect_empty {x : AdaptDesc} (hop : dOpcode d = 0x42) (h : x.in0.empty = true) :
    augEffect e d x s = plain (s.emptied e true true) 1 ∧ gradEffect e d x s = plain (s.emptied e true true) 1
    ∧ stepEffect e d x s = plain (s.emptied e true true) 1 := by
  rw [← emptied_cells hop (by decide)]
  exact ⟨if_pos h, if_pos h, if_pos h⟩

end

/-- Settles O28: each effect finds its extents empty before it reads anything. -/
theorem emptyExtentsWriteNothing : Obligations.EmptyExtentsWriteNothing := by
  intro s c Empty
  refine ⟨fun h x hx hp => ?_, fun h => ⟨fun x hx hp => ?_, fun x hx hp => ?_, fun x hx hp => ?_, fun x hx hp => ?_,
    fun x hx hp => ?_, fun x hx hp => ?_, fun x hx hp => ?_⟩, fun h x hx hp => ?_, fun h x hx hp => ?_, fun h x hx hp => ?_⟩
  all_goals obtain rfl := Option.some.inj hx
  · exact answers_plain rfl hp (vectorEffect_empty _ _ h)
  · exact answers_plain rfl hp (moveEffect_empty _ h)
  · exact answers_plain rfl hp (quantEffect_empty _ h)
  · exact answers_plain rfl hp (poolEffect_empty _ h)
  · exact answers_plain rfl hp (argmaxEffect_empty _ h)
  · exact answers_plain rfl hp (adaptEffect_empty _ (judge_passes hp.2.1).1 h).1
  · exact answers_plain rfl hp (adaptEffect_empty _ (judge_passes hp.2.1).1 h).2.1
  · exact answers_plain rfl hp (adaptEffect_empty _ (judge_passes hp.2.1).1 h).2.2
  · exact answers_plain rfl hp (convEffect_empty _ _ (judge_passes (firstStatus_none hp.2.1 _ List.mem_cons_self)).1 h)
  · exact answers_plain rfl hp (routeEffect_empty _ (judge_passes hp.2.1).1 h)
  · have heff (m : State) := appendEffect_empty (e := c.engine) (d := c.desc) (x := appDesc c.desc) m h
    refine answers_plain rfl hp ?_
    generalize CmdRun.start _ s = m
    exact heff m

end Sys2Proof.Machine

/-! ## What a step's recovery leaves of the engines and their partitions (R225, R403, R405) -/

namespace Sys2Proof.Machine

/-- What the restoration and the end of a step leave as it was: device time, the life counters, boot, where every engine stands, and
the partitions' descriptors. -/
def State.standing (s : State) : Nat × Vector DWord 8 × Boot × Vector (Role × Option (Fin 6) × Nat × Bool) 7
    × Vector (Option PartDesc) 6 :=
  (s.now, s.store.life, s.boot, s.engines.map fun g => (g.role, g.part, g.logical, g.needFence), s.parts.map Partition.desc)

/-- The part of it that the loss of an engine leaves too: the life counters and the engines' roles. -/
def State.roles (s : State) : Vector DWord 8 × Vector Role 7 := (s.store.life, s.engines.map Engine.role)

theorem onEngine_standing (s : State) (e : Fin 7) {f : Engine → Engine}
    (hf : ∀ g, ((f g).role, (f g).part, (f g).logical, (f g).needFence) = (g.role, g.part, g.logical, g.needFence)) :
    (s.onEngine e f).standing = s.standing :=
  congrArg (fun v => (s.now, s.store.life, s.boot, v, s.parts.map Partition.desc)) (vmod_map s.engines e f _ hf)

theorem onPart_standing (s : State) (p : Fin 6) {f : Partition → Partition} (hf : ∀ x, (f x).desc = x.desc) :
    (s.onPart p f).standing = s.standing :=
  congrArg (fun v => (s.now, s.store.life, s.boot, s.engines.map fun g => (g.role, g.part, g.logical, g.needFence), v))
    (vmod_map s.parts p f _ hf)

theorem foldl_standing {α : Type} {f : State → α → State} (l : List α) {s u : State}
    (hf : ∀ z a, (f z a).standing = z.standing) (h : s.standing = u.standing) : (l.foldl f s).standing = u.standing :=
  foldl_keeps (P := fun z : State => z.standing = u.standing) (fun z a k => (hf z a).trans k) h

theorem mainPut_standing (s : State) (a : Nat) (bs : List Byte) : (s.mainPut a bs).standing = s.standing := by
  obtain ⟨m, hm, _⟩ := mainPut_eq s a bs
  rw [hm]
  rfl

section
variable {s u : State} (h : u.standing = s.standing)
include h

theorem standing_engine (e : Fin 7) : u.engines[e].role = s.engines[e].role ∧ u.engines[e].part = s.engines[e].part
    ∧ u.engines[e].logical = s.engines[e].logical ∧ u.engines[e].needFence = s.engines[e].needFence := by
  have k : (u.standing.2.2.2.1)[e] = (s.standing.2.2.2.1)[e] := by rw [h]
  simpa [State.standing] using k

theorem standing_desc (p : Fin 6) : u.parts[p].desc = s.parts[p].desc := by
  have k : (u.standing.2.2.2.2)[p] = (s.standing.2.2.2.2)[p] := by rw [h]
  simpa [State.standing] using k

theorem standing_now : u.now = s.now := congrArg (·.1) h

theorem standing_life : u.store.life = s.store.life := congrArg (·.2.1) h

theorem standing_boot : u.boot = s.boot := congrArg (·.2.2.1) h

theorem standing_roles : u.roles = s.roles := by
  have k : u.standing.2.2.2.1.map Prod.fst = s.standing.2.2.2.1.map Prod.fst := by rw [h]
  simp only [State.standing, Vector.map_map, Function.comp_def] at k
  exact congrArg₂ Prod.mk (standing_life h) k

theorem standing_slotFor (p : Fin 6) (g : Nat) : u.slotFor p g = s.slotFor p g := by
  unfold State.slotFor
  rw [standing_desc h]

theorem standing_recipeFor (p : Fin 6) (g : Nat) : u.recipeFor p g = s.recipeFor p g := by
  unfold State.recipeFor
  rw [standing_slotFor h, standing_boot h]

theorem standing_members (p : Fin 6) : u.members p = s.members p := by
  unfold State.members
  simp only [(standing_engine h _).2.1, (standing_engine h _).2.2.1]

theorem standing_blamed (p : Fin 6) (r : StepRun) : u.blamed p r = s.blamed p r := by
  unfold State.blamed
  simp only [standing_members h, (standing_engine h _).2.2.2]

end

/-! Contexts and sides of a step. -/

theorem onContext_standing (s : State) (id : Nat) (f : Context → Context) : (s.onContext id f).standing = s.standing := rfl

theorem addStatus_standing (s : State) (k code detail : Nat) : (s.addStatus k code detail).standing = s.standing := rfl

theorem freeKv_standing (s : State) (c : Context) : (s.freeKv c).standing = s.standing := by
  unfold State.freeKv
  split
  · rfl
  · exact foldl_standing _ (fun z e => onEngine_standing z e (by exact fun _ => rfl)) (onPart_standing s c.part (by exact fun _ => rfl))

theorem buildRoots_standing (s : State) (p : Fin 6) (k : KvRoot) (lo : Nat) : (s.buildRoots p k lo).1.standing = s.standing :=
  foldl_standing _ (fun z m => (onPart_standing _ p (by exact fun _ => rfl)).trans
    ((mainPut_standing _ _ _).trans (mainPut_standing _ _ _))) rfl

theorem resetKv_standing (s : State) (c : Context) : (s.resetKv c).standing = s.standing := by
  unfold State.resetKv
  split
  · exact (buildRoots_standing _ _ _ _).trans (freeKv_standing s c)
  · rfl

theorem freeContext_standing (s : State) (c : Context) : (s.freeContext c).standing = s.standing := freeKv_standing s c

theorem freeSide_standing (s : State) (k : Nat) : (s.freeSide k).standing = s.standing :=
  foldl_standing _ freeContext_standing rfl

theorem abandonSide_standing (s : State) (k code detail : Nat) : (s.abandonSide k code detail).standing = s.standing :=
  freeSide_standing s k

theorem wakeSide_standing (s : State) (k : Nat) : (s.wakeSide k).standing = s.standing := by
  unfold State.wakeSide
  split
  · rfl
  · split <;> rfl

theorem endLine_standing (s : State) (c : Context) : (s.endLine c).standing = s.standing :=
  (wakeSide_standing _ _).trans (freeContext_standing s c)

theorem countPart_standing (s : State) (p : Fin 6) (i k : Nat) : (s.countPart p i k).standing = s.standing :=
  onPart_standing s p (by exact fun _ => rfl)

theorem lineOverrun_standing (s : State) (c : Context) : (s.lineOverrun c).standing = s.standing := by
  unfold State.lineOverrun
  extract_lets fb
  split
  · exact (onContext_standing _ _ _).trans ((countPart_standing _ _ _ _).trans (resetKv_standing s c))
  · exact (endLine_standing _ c).trans ((countPart_standing _ _ _ _).trans
      ((addStatus_standing _ _ _ _).trans (onContext_standing s _ _)))

theorem settleSwitch_standing (s : State) (id : Nat) : (s.settleSwitch id).standing = s.standing := by
  unfold State.settleSwitch
  split
  · rfl
  · split
    · rfl
    · split <;> rfl

theorem switchSide_standing {s u : State} {c : Context} (h : s.switchSide c = some u) : u.standing = s.standing := by
  unfold State.switchSide at h
  split at h
  · split at h
    · cases h
    · split at h
      · cases h
      · next q _ =>
        cases h
        exact (countPart_standing ((s.onSide c.side _).addStatus c.side 0x0301 q.1) c.part Part.fallbackSwitches 1 :)
  · cases h

theorem failContext_standing (s : State) (id : Nat) (code : Half) (logical : Nat) :
    (s.failContext id code logical).standing = s.standing := by
  unfold State.failContext
  split
  · rfl
  · split
    · exact abandonSide_standing _ _ _ _
    · split
      · exact lineOverrun_standing _ _
      · split
        · next z hz => exact (settleSwitch_standing _ _).trans ((onContext_standing _ _ _).trans
            ((addStatus_standing z _ _ _).trans (switchSide_standing hz)))
        · exact abandonSide_standing _ _ _ _

/-! A step restored, handled and given up. -/

theorem onPool_standing (s : State) (p : Fin 6) (root : Nat) (f : KvPool → KvPool) : (s.onPool p root f).standing = s.standing :=
  onPart_standing s p (by exact fun _ => rfl)

theorem restoreRoot_standing (s : State) (root : Nat) : (s.restoreRoot root).standing = s.standing :=
  foldl_standing _ (fun z e => onEngine_standing z e (by exact fun _ => rfl)) (mainPut_standing s _ _)

theorem restoreStep_standing (s : State) (p : Fin 6) (r : StepRun) : (s.restoreStep p r).standing = s.standing :=
  foldl_standing _ (fun z e => onEngine_standing z e (by exact fun _ => rfl))
    (foldl_standing _ restoreRoot_standing
      (foldl_standing _ (fun z q => onPool_standing z p q.1 _) (foldl_standing _ (fun z q => onPool_standing z p q.1 _) rfl)))

theorem dissolve_standing (s : State) (p : Fin 6) (r : StepRun) : (s.dissolve p r).standing = s.standing :=
  foldl_standing _ (fun z x => failContext_standing z x.1 x.2.1 x.2.2) (onPart_standing s p (by exact fun _ => rfl))

theorem abortStep_standing (s : State) (p : Fin 6) : (s.abortStep p).standing = s.standing := by
  unfold State.abortStep
  split
  · exact (dissolve_standing _ p _).trans (restoreStep_standing s p _)
  · rfl

theorem blame_standing (s : State) (r : StepRun) (e : Fin 7) : (s.blame r e).standing = s.standing :=
  onEngine_standing s e (by exact fun _ => rfl)

theorem recoveryEvent_standing (s : State) (p : Fin 6) : (s.recoveryEvent p).standing = s.standing :=
  onPart_standing _ p (by exact fun _ => rfl)

theorem logRecipeFaults_standing (s : State) (p : Fin 6) (r : StepRun) : (s.logRecipeFaults p r).standing = s.standing :=
  foldl_standing _ (fun _ _ => rfl) rfl

theorem contractFault_standing (s : State) (p : Fin 6) (r : StepRun) : (s.contractFault p r).standing = s.standing := by
  unfold State.contractFault
  split
  · split
    · exact (countPart_standing _ p _ _).trans (foldl_standing (u := s) _ (fun z k => addStatus_standing z k _ _) rfl)
    · rfl
  · rfl

theorem losePart_standing (s : State) (p : Fin 6) : (s.losePart p).standing = s.standing := by
  have hsettle (z : State) : z.spoolSettle.standing = z.standing := by
    unfold State.spoolSettle
    split <;> rfl
  unfold State.losePart
  refine (hsettle _).trans ((onPart_standing _ p (by exact fun _ => rfl)).trans (foldl_standing _ (fun z x => ?_) rfl))
  have h := abandonSide_standing z x.key 0x0303 4
  generalize z.abandonSide x.key 0x0303 4 = w at h ⊢
  exact h

/-! The loss of an engine with no spare (R281, R282). -/

theorem onEngine_roles (s : State) (e : Fin 7) {f : Engine → Engine} (hf : ∀ g, (f g).role = g.role) :
    (s.onEngine e f).roles = s.roles :=
  congrArg (fun v => (s.store.life, v)) (vmod_map s.engines e f _ hf)

theorem foldl_roles {α : Type} {f : State → α → State} (l : List α) {s u : State}
    (hf : ∀ z a, (f z a).roles = z.roles) (h : s.roles = u.roles) : (l.foldl f s).roles = u.roles :=
  foldl_keeps (P := fun z : State => z.roles = u.roles) (fun z a k => (hf z a).trans k) h

theorem countEngines_roles (s : State) : s.countEngines.roles = s.roles := foldl_roles _ (fun _ _ => rfl) rfl

theorem dropEngine_roles (s : State) (e : Fin 7) : (s.dropEngine e).roles = s.roles := onEngine_roles s e (by exact fun _ => rfl)

theorem rejectPart_roles (s : State) (p : Fin 6) (reason : Byte) (n : Nat) : (s.rejectPart p reason n).roles = s.roles := rfl

theorem settleSlotPlans_roles (s : State) : s.settleSlotPlans.roles = s.roles := rfl

theorem unbindPart_roles (s : State) (p : Fin 6) (d : Option PartDesc) : (s.unbindPart p d).roles = s.roles := rfl

theorem engineLoss_roles (s : State) (p : Fin 6) : (s.engineLoss p).roles = s.roles := by
  unfold State.engineLoss
  dsimp only
  rw [rejectPart_roles, settleSlotPlans_roles, countEngines_roles, unbindPart_roles]
  exact foldl_roles _ dropEngine_roles (standing_roles (losePart_standing s p))

theorem supersede_roles (s : State) : s.supersede.roles = s.roles := by
  unfold State.supersede
  split
  · exact foldl_roles _ (fun _ _ => rfl) rfl
  · rfl

theorem dropStaged_roles (s : State) : s.dropStaged.roles = s.roles := by
  have hu : s.unstage.roles = s.roles := foldl_roles _ (fun _ _ => rfl) rfl
  unfold State.dropStaged
  split
  · rfl
  · dsimp only
    split
    · exact hu
    · rfl

theorem alsoRebind_roles (s : State) (p : Fin 6) : (s.alsoRebind p).roles = s.roles := by
  unfold State.alsoRebind
  dsimp only
  split <;> rfl

theorem startRebind_roles (s : State) (n : Nat) (vs : List Verdict) (verb : Bool) : (s.startRebind n vs verb).roles = s.roles :=
  foldl_roles _ (fun _ _ => rfl) rfl

/-- The loss of an engine with no spare counts in no life counter and changes no engine's role. -/
theorem noSpare_roles (s : State) (p : Fin 6) : (s.noSpare p).roles = s.roles := by
  have hs : s.supersede.dropStaged.roles = s.roles := (dropStaged_roles _).trans (supersede_roles s)
  unfold State.noSpare
  dsimp only
  split
  · next n vs _ =>
    have hz := foldl_roles ((List.finRange 6).filter fun q => decide (s.rebind.stage ≠ .idle) && s.rebind.affected.contains q.val)
      alsoRebind_roles ((startRebind_roles s.supersede.dropStaged n vs false).trans hs)
    split
    · exact hz
    · exact (alsoRebind_roles _ p).trans ((standing_roles (abortStep_standing _ p)).trans hz)
  · exact (engineLoss_roles _ p).trans ((standing_roles (abortStep_standing _ p)).trans hs)

end Sys2Proof.Machine

/-! ## A fenced engine's place (R403, R405, R406, R408) -/

namespace Sys2Proof.Machine

/-- An engine out of its partition for good (R405). -/
def Engine.fenced (g : Engine) : Engine :=
  { g with role := .fenced, part := none, logical := 0, busy := false, needFence := false }

theorem fence_engine (s : State) (e g : Fin 7) (tr : Nat) :
    (s.fence e tr).engines[g] = if e = g then s.engines[e].fenced else s.engines[g] :=
  onEngine_engine s e g Engine.fenced

/-- The fence of one engine that is not the spare waits for a Remount, and needs nothing else while a spare stands. -/
theorem fenceAll_one {s : State} {e sp : Fin 7} (p : Fin 6) (r : StepRun) (tr : Nat) (hsp : s.spare = some sp)
    (hr : s.engines[e].role ≠ .spare) :
    s.fenceAll p r [(e, tr)] = (s.fence e tr).onPart p fun x => { x with
      step := some { r with faults := [], waitRemount := true, fencing := [(e, s.engines[e].logical)], faultAt := s.now } } := by
  have hrole (g : Fin 7) : ((s.fence e tr).engines[g].role == .spare) = (s.engines[g].role == .spare) := by
    rw [fence_engine]
    split
    · next h =>
      subst h
      exact (beq_eq_false_iff_ne.2 hr).symm
    · rfl
  have hspare : (s.fence e tr).spare = some sp := by
    unfold State.spare at hsp ⊢
    simpa only [hrole] using hsp
  unfold State.fenceAll
  refine if_neg fun h => ?_
  rcases h with h | h
  · have h' : (s.fence e tr).spare.isNone = true := h
    rw [hspare] at h'
    cases h'
  · simp at h

theorem standing_spare {s u : State} (h : u.standing = s.standing) : u.spare = s.spare := by
  unfold State.spare
  simp only [(standing_engine h _).1]

theorem apart_contexts (r : StepRun) (b : Bool) : (r.apart b).contexts = r.contexts := by
  unfold StepRun.apart
  split <;> rfl

/-- Recovery with one engine at fault that is to be fenced. -/
theorem recover_fences {z : State} {p : Fin 6} {r : StepRun} {e : Fin 7} {tr : Nat} (hb : z.blamed p r = [e])
    (ht : (z.blame r e).trigger r e = some tr) :
    ∃ (w : State) (q : StepRun), w.standing = z.standing ∧ q.contexts = r.contexts ∧ z.recover p r = w.fenceAll p q [(e, tr)] := by
  have hf : [e].filterMap (fun g => ((z.blame r e).trigger r g).map fun t => (g, t)) = [(e, tr)] := by simp [ht]
  unfold State.recover
  simp only [hb, List.foldl_cons, List.foldl_nil, hf]
  refine ⟨_, _, ?_, ?_, if_pos rfl⟩
  case refine_2 => exact apart_contexts r true
  refine (contractFault_standing _ p _).trans ((logRecipeFaults_standing _ p _).trans ?_)
  split
  · exact (recoveryEvent_standing _ p).trans (blame_standing z r e)
  · exact blame_standing z r e

/-- An engine that had an attributed fault before the last replay is fenced by the second trigger (R405). -/
theorem trigger_again {s : State} {r : StepRun} {e : Fin 7} (hn : s.engines[e].needFence = false)
    (hp : ∃ f ∈ r.previous, f.engine = e ∧ f.attributed = true) : s.trigger r e = some 1 := by
  obtain ⟨f, hf, he, ha⟩ := hp
  unfold State.trigger
  rw [if_neg (by rw [hn]; decide), if_pos (List.any_eq_true.2 ⟨f, hf, by simp [he, ha]⟩)]

/-- What a step's first fault does with the second attributed fault of one engine while a spare stands. -/
theorem stepFaultEffect_fences {s : State} {p : Fin 6} {r : StepRun} {e sp : Fin 7} (hr : s.parts[p].step = some r)
    (hh : s.power.hold = none) (ha : s.holderActs = true) (hsp : s.spare = some sp) (hw : r.waitRemount = false)
    (hf : r.faults ≠ []) (hb : s.blamed p r = [e]) (hrole : s.engines[e].role = .inService)
    (hn : s.engines[e].needFence = false) (hp : ∃ f ∈ r.previous, f.engine = e ∧ f.attributed = true) :
    ∃ (w : State) (q : StepRun), w.standing = s.standing ∧ q.contexts = r.contexts ∧ stepFaultEffect p s = (w.fence e 1).onPart p fun x => { x with
      step := some { q with faults := [], waitRemount := true, fencing := [(e, s.engines[e].logical)], faultAt := s.now } } := by
  have hz := restoreStep_standing s p r
  have hbl := blame_standing (s.restoreStep p r) r e
  obtain ⟨w, q, hws, hq, heq⟩ := recover_fences ((standing_blamed hz p r).trans hb)
    (trigger_again ((standing_engine (hbl.trans hz) e).2.2.2.trans hn) hp)
  have hw' := hws.trans hz
  obtain ⟨hrole', _, hlog, _⟩ := standing_engine hw' e
  refine ⟨w, q, hw', hq, ?_⟩
  have hgo : stepFaultEffect p s = (s.restoreStep p r).recover p r := by
    unfold stepFaultEffect
    simp only [hr]
    exact if_neg (by simp [hf, hw, hh, ha])
  rw [hgo, heq, fenceAll_one p q 1 ((standing_spare hw').trans hsp) (by rw [hrole', hrole]; decide), hlog, standing_now hw']

/-! The issue of a step leaves the engines and the partitions' descriptors as they stand. -/

theorem chargeTime_standing (s : State) (p : Fin 6) (g : Fin 4) (b : Nat) : (s.chargeTime p g b).standing = s.standing := by
  unfold State.chargeTime
  split
  · split
    · rfl
    · exact onPart_standing s p (by exact fun _ => rfl)
  · rfl

theorem writePosting_standing (s : State) (x : Posting) (cs : List Context) (n : Nat) :
    (s.writePosting x cs n).standing = s.standing :=
  foldl_standing _ (fun z _ => mainPut_standing z _ _)
    ((mainPut_standing _ _ _).trans ((mainPut_standing _ _ _).trans (mainPut_standing s _ _)))

theorem holdDescriptor_standing (s : State) (id : Nat) : (s.holdDescriptor id).standing = s.standing := by
  unfold State.holdDescriptor
  dsimp only
  split
  · rfl
  · split
    · rfl
    · split
      · next x _ => exact (mainPut_standing s (s.boot.limits.ctxTableBase + 64 * x.2) (s.descriptor x.2) :)
      · rfl

/-- The step that an issue leaves, on the engines and partitions as they stood. -/
theorem issueStep_issues {s : State} {p : Fin 6} (run : StepRun) {pd : PartDesc} {slot : Fin 16} {c : Recipe} {tm : Template}
    (hd : s.parts[p].desc = some pd) (hs : s.slotFor p run.gait.val = some slot) (hc : s.recipeFor p run.gait.val = some c)
    (ht : c.templates[run.template]? = some tm) :
    (s.issueStep p run).standing = s.standing
    ∧ ∃ q, (s.issueStep p run).parts[p].step = some q ∧ q.waitRemount = false ∧ q.fencing = [] ∧ q.contexts = run.contexts
        ∧ q.started = s.now := by
  unfold State.issueStep
  simp only [hd, hs, hc, ht]
  refine ⟨(onPart_standing _ p (by exact fun _ => rfl)).trans ?hw, _, congrArg Partition.step (vmod_same _ p _), rfl, rfl, rfl,
    standing_now ?hw⟩
  refine foldl_standing _ (fun z i => (holdDescriptor_standing _ i).trans (onContext_standing z i _)) (foldl_standing _ ?_
    ((writePosting_standing _ _ _ _).trans (chargeTime_standing s p _ _)))
  intro z _
  split
  · exact onEngine_standing z _ (by exact fun _ => rfl)
  · rfl

/-! The mount of the spare. -/

/-- An engine of a partition (R353), with no copy to wait for. -/
def Engine.mounted (p : Fin 6) (logical : Nat) (g : Engine) : Engine :=
  { g with role := .inService, part := some p, logical := logical, needFence := false }

theorem loadResident_standing (s : State) (e : Fin 7) : (s.loadResident e).standing = s.standing :=
  foldl_standing _ (fun z _ => onEngine_standing z e (by exact fun _ => rfl)) rfl

theorem countEngines_standing (s : State) : s.countEngines.standing = s.standing :=
  foldl_standing _ (fun z p => onPart_standing z p (by exact fun _ => rfl)) rfl

theorem askDomain_standing (s : State) (b : Nat) (on : Bool) : (s.askDomain b on).standing = s.standing := rfl

theorem log_standing (s : State) (code : Half) (src : Byte) (bs : List Byte) : (s.log code src bs).standing = s.standing := rfl

theorem noteReload_standing (s : State) (p : Fin 6) : (s.noteReload p).standing = s.standing := by
  unfold State.noteReload
  dsimp only
  split
  · rfl
  · split <;> rfl

theorem engines_mounted (v : Vector Engine 7) (e : Fin 7) (p : Fin 6) (l : Nat) (b : List Host.Cell) :
    (vmod (vmod v e fun g => { g with role := .inService, part := some p, logical := l }) e fun g =>
        { g with paddock := b, held := none, needFence := false }).map (fun g => (g.role, g.part, g.logical, g.needFence))
      = (vmod v e (Engine.mounted p l)).map fun g => (g.role, g.part, g.logical, g.needFence) := by
  rw [vmod_vmod]
  exact (vmod_map_comm (f' := fun _ => (.inService, some p, l, false)) v e (by exact fun _ => rfl)).trans
    (vmod_map_comm v e (by exact fun _ => rfl)).symm

theorem mount_standing {s : State} (p : Fin 6) {e : Fin 7} (old : Fin 7) (l : Nat) (h : s.engines[e].part = none) :
    (s.mount p e old l).standing = (s.onEngine e (Engine.mounted p l)).standing := by
  unfold State.mount
  simp only [h]
  refine (countEngines_standing _).trans ((askDomain_standing _ _ _).trans ((loadResident_standing _ e).trans ?_))
  exact congrArg (fun v => (s.now, s.store.life, s.boot, v, s.parts.map Partition.desc)) (engines_mounted s.engines e p l _)

/-- A good copy puts the spare in the place of the one fenced engine, and the step is issued again (R408). -/
theorem remountEffect_mounts {s : State} {p : Fin 6} {r : StepRun} {e sp : Fin 7} {l : Nat} (hr : s.parts[p].step = some r)
    (hh : s.power.hold = none) (ha : s.holderActs = true) (hsp : s.spare = some sp) (hw : r.waitRemount = true)
    (hf : r.fencing = [(e, l)]) (hpart : s.engines[sp].part = none) :
    ∃ w : State, w.standing = (s.onEngine sp (Engine.mounted p l)).standing
      ∧ remountEffect p true s = w.issueStep p { r with fencing := [] } := by
  unfold remountEffect
  simp only [hr, hf, hsp, Option.some_or]
  refine ⟨_, ?_, (if_neg (by simp [hw, hh, ha])).trans ((if_pos trivial).trans (if_pos rfl))⟩
  exact (log_standing _ _ _ _).trans ((noteReload_standing _ p).trans (mount_standing p e l hpart))

/-- A bad copy fences the spare (R406). -/
theorem remountEffect_fails {s : State} {p : Fin 6} {r : StepRun} {e sp : Fin 7} {l : Nat} (hr : s.parts[p].step = some r)
    (hh : s.power.hold = none) (ha : s.holderActs = true) (hsp : s.spare = some sp) (hw : r.waitRemount = true)
    (hf : r.fencing = [(e, l)]) : remountEffect p false s = (s.spareFails sp).noSpare p := by
  have hrole : s.engines[sp].role = .spare := by simpa [State.spare] using List.find?_some hsp
  unfold remountEffect
  simp only [hr, hf, hsp, Option.some_or]
  exact (if_neg (by simp [hw, hh, ha])).trans ((if_neg Bool.false_ne_true).trans (if_pos hrole))

theorem spareFails_engine (s : State) (e : Fin 7) : (s.spareFails e).engines[e] = s.engines[e].fenced :=
  vmod_same s.engines e Engine.fenced

theorem roles_role {s u : State} (h : u.roles = s.roles) (e : Fin 7) : u.engines[e].role = s.engines[e].role := by
  have k : (u.roles.2)[e] = (s.roles.2)[e] := by rw [h]
  simpa [State.roles] using k

theorem spareCheckEffect_fails {s : State} {sp : Fin 7} (hh : s.power.hold = none) (ha : s.holderActs = true)
    (hsp : s.spare = some sp) : spareCheckEffect false s = s.spareFails sp := by
  unfold spareCheckEffect
  simp only [hsp]
  exact if_neg (by simp [hh, ha])

theorem spareCheckEffect_passes (s : State) : spareCheckEffect true s = s := by
  unfold spareCheckEffect
  split <;> rfl

/-- Settles O40: the fence by the second trigger, both ends of a Remount, and both ends of a spare check. -/
theorem remountPutsTheSpareIn : Obligations.RemountPutsTheSpareIn := by
  intro s p r e sp t hr hh ha hsp
  refine ⟨fun hw hf hb hrole hn hp => ?_, fun hw l hl hpart => ⟨fun pd slot c tm hd hs hc ht => ?_, ?_⟩, ?_, ?_⟩
  · have hp' : ∃ f ∈ r.previous, f.engine = e ∧ f.attributed = true := by
      obtain ⟨f, hm, he, hcode⟩ := hp
      exact ⟨f, hm, he, by rcases hcode with k | k <;> simp [FaultRec.attributed, k]⟩
    obtain ⟨w, q, hws, hq, heq⟩ := stepFaultEffect_fences (s := s.at t) hr hh ha hsp hw hf hb hrole hn hp'
    refine ⟨_, rfl, ?_⟩
    rw [heq]
    simp only [commit_engines, commit_parts, commit_store]
    refine ⟨congrArg Engine.role ((fence_engine w e e 1).trans (if_pos rfl)),
      congrArg Engine.part ((fence_engine w e e 1).trans (if_pos rfl)), (congrArg (bumpAt · 5 1) (standing_life hws) :),
      ⟨_, congrArg Partition.step (vmod_same _ p _), rfl, rfl, hq, rfl, rfl⟩, fun g hg => ?_⟩
    obtain ⟨hrole', hpart', _, _⟩ := standing_engine hws g
    have hfe : (w.fence e 1).engines[g] = w.engines[g] := (fence_engine w e g 1).trans (if_neg (Ne.symm hg))
    exact ⟨(congrArg Engine.role hfe).trans hrole', (congrArg Engine.part hfe).trans hpart'⟩
  · obtain ⟨w, hws, heq⟩ := remountEffect_mounts (s := s.at t) hr hh ha hsp hw hl hpart
    obtain ⟨hst, q, hq, hwait, hfen, hcs, hstart⟩ := issueStep_issues { r with fencing := [] }
      ((standing_desc hws p).trans hd) ((standing_slotFor hws p _).trans hs) ((standing_recipeFor hws p _).trans hc) ht
    obtain ⟨hrole', hpart', hlog', _⟩ := standing_engine (hst.trans hws) sp
    have hm : ((s.at t).onEngine sp (Engine.mounted p l)).engines[sp] = s.engines[sp].mounted p l := vmod_same _ _ _
    refine ⟨_, rfl, ?_⟩
    rw [heq]
    simp only [commit_engines, commit_parts]
    rw [hm] at hrole' hpart' hlog'
    exact ⟨hrole', hpart', hlog', q, hq, hwait, hfen, hcs, hstart.trans (standing_now hws)⟩
  · have hns := noSpare_roles ((s.at t).spareFails sp) p
    refine ⟨_, rfl, ?_⟩
    rw [remountEffect_fails (s := s.at t) hr hh ha hsp hw hl]
    simp only [commit_engines, commit_store]
    exact ⟨(roles_role hns sp).trans (congrArg Engine.role (spareFails_engine (s.at t) sp)), congrArg Prod.fst hns⟩
  · refine ⟨_, rfl, kept_commit _ ?_⟩
    rw [spareCheckEffect_passes]
    rfl
  · refine ⟨_, rfl, ?_⟩
    rw [spareCheckEffect_fails (s := s.at t) hh ha hsp]
    have he := spareFails_engine (s.at t) sp
    refine ⟨?_, ?_, ?_, ?_, kept_commit _ ?_⟩
    · rw [commit_engines, he]
      rfl
    · rw [commit_engines, he]
      rfl
    · rw [commit_store]
      rfl
    · rw [commit_stud]
      rfl
    · exact congrArg (fun v => { s.quiet with engines := v, power := { s.power with requests := [] } })
        (vmod_hides s.engines sp Engine.fenced (fun _ => Engine.reset) fun _ => rfl)

end Sys2Proof.Machine

/-! ## An EXCHANGE that issues (R143, R177, R238, R240, R242) -/

namespace Sys2Proof.Machine

/-- What the issue of an EXCHANGE leaves in the step of its partition. -/
def StepRun.joined (r : StepRun) (c : EngCall) (blocks : List Foot) : StepRun :=
  { r with
    exchanges := r.exchanges ++ [⟨c.engine, c.desc, c.cycles⟩]
    exchAreas := giveAreas r.exchAreas blocks none }

/-- The issue of an EXCHANGE discards the held accumulators and joins the step. -/
theorem issueExch_joins {s : State} {c : EngCall} {p : Fin 6} (hop : dOpcode c.desc = 0x41) (hp : s.engines[c.engine].part = some p) :
    s.issueExch c = (s.onEngine c.engine fun g => { g with held := none }).onStep p fun r =>
      r.joined c ((s.onEngine c.engine fun g => { g with held := none }).memberBlocks r c.engine (exchDesc c.desc)) := by
  unfold State.issueExch
  simp only [hp, dropHeld_cells hop (by decide), State.exchClaim, State.onStep, State.onPart, vmod_vmod, Option.map_map]
  rfl

theorem postedFrom_congr {s u : State} (h : u.mem = s.mem) (a n : Nat) : u.postedFrom a n = s.postedFrom a n := by
  induction n generalizing a with
  | zero => rfl
  | succ n ih => simp only [State.postedFrom, h, ih]

/-- What an engine's change does not touch is the same on every engine. -/
theorem onEngine_field {α : Type} (s : State) (e g : Fin 7) {f : Engine → Engine} (k : Engine → α) (hk : ∀ x, k (f x) = k x) :
    k (s.onEngine e f).engines[g] = k s.engines[g] := by
  rw [onEngine_engine]
  split
  · next h => exact (hk _).trans (by rw [h])
  · rfl

/-- The blocks of a member are those of its posted list and its logical index. -/
theorem memberBlocks_onEngine (s : State) (e g : Fin 7) (r : StepRun) (x : ExchDesc) {f : Engine → Engine}
    (hf : ∀ k, (f k).logical = k.logical) : (s.onEngine e f).memberBlocks r g x = s.memberBlocks r g x := by
  have hl := onEngine_field s e g Engine.logical hf
  simp only [State.memberBlocks, State.posted, hl, postedFrom_congr (s := s) (u := s.onEngine e f) rfl]

/-- No byte of a store is in what an engine has besides its paddock. -/
theorem onEngine_peek (s : State) (e : Fin 7) (w : Store) (a len : Nat) {f : Engine → Engine} (hf : ∀ g, (f g).paddock = g.paddock) :
    (s.onEngine e f).peek w a len = s.peek w a len := by
  cases w with
  | main => rfl
  | arena => rfl
  | paddock g => exact congrArg (fun l => cellsSlice 0 l a len) (onEngine_field s e g Engine.paddock hf)

theorem onStep_peek (s : State) (p : Fin 6) (w : Store) (a len : Nat) {f : StepRun → StepRun} :
    (s.onStep p f).peek w a len = s.peek w a len := by
  cases w <;> rfl

/-- What the issue of an EXCHANGE touches: its engine's held accumulators and its partition's step. -/
def exchIssues (e : Fin 7) (p : Fin 6) (s : State) : State :=
  { s with
    engines := vmod s.engines e fun g => { g with held := none }
    parts := vmod s.parts p fun q => { q with step := none } }

theorem issueExch_spec {s : State} {c : EngCall} {p : Fin 6} {run : StepRun} (hop : dOpcode c.desc = 0x41)
    (hp : s.engines[c.engine].part = some p) (hstep : s.parts[p].step = some run) :
    (s.issueExch c).parts[p].step = some (run.joined c (s.memberBlocks run c.engine (exchDesc c.desc)))
    ∧ (s.issueExch c).engines[c.engine].held = none
    ∧ (∀ w a, (s.issueExch c).peek w a 1 = s.peek w a 1)
    ∧ exchIssues c.engine p (s.issueExch c).quiet = exchIssues c.engine p s.quiet := by
  rw [issueExch_joins hop hp]
  simp only [memberBlocks_onEngine s c.engine c.engine _ _ (f := fun g => { g with held := none }) fun _ => rfl]
  refine ⟨(onStep_step _ p _).trans (by rw [State.onEngine_parts, hstep]; rfl), congrArg Engine.held (vmod_same s.engines c.engine _),
    fun w a => (onStep_peek _ p w a 1).trans (onEngine_peek s c.engine w a 1 (by exact fun _ => rfl)), ?_⟩
  exact congrArg₂ (fun v w => { s.quiet with engines := v, parts := w })
    (vmod_hides s.engines c.engine (fun g => { g with held := none }) (fun g => { g with held := none }) fun _ => rfl)
    (vmod_hides s.parts p (fun q => { q with step := q.step.map fun r => r.joined c (s.memberBlocks r c.engine (exchDesc c.desc)) })
      (fun q => { q with step := none }) fun _ => rfl)

/-- An EXCHANGE in its row and phase that issues runs with the contract faults found at its issue. -/
theorem exec_exchange {s : State} {c : EngCall} {ph : Nat} {i : Instr} {found : List Half}
    (h : (ph = 0 ∧ i = .exchangeDispatch c) ∨ (ph = 1 ∧ i = .exchangeCombine c)) (hi : Issued s c (otherPhase c.desc ph) found) :
    exec i s = .next (commit s (runExchange { c with hw := c.hw ++ found } s)) := by
  obtain ⟨_, hother, hgoes⟩ := hi
  obtain ⟨rfl, rfl⟩ | ⟨rfl, rfl⟩ := h
  · exact congrArg (fun z => Host.Outcome.next (commit s z)) (issueCommand_goes runExchange hother hgoes)
  · exact congrArg (fun z => Host.Outcome.next (commit s z)) (issueCommand_goes runExchange hother hgoes)

/-- What an EXCHANGE that passes its checks does once its operands have been read: it is issued, or ends by a scale entry. -/
def State.exchGo (s : State) (c : EngCall) : State :=
  if s.rowsValid c.engine (exchDesc c.desc) then s.issueExch c else s.finish c.engine c.desc stScaleInvalid 0 c.cycles

section
variable {s : State} {c : EngCall} {found : List Half} (hrole : s.engines[c.engine].role = .inService)
include hrole

theorem runExchange_goes (hj : s.judgeExch c.engine c.desc = none)
    (hf : faultsOf s c (s.exchReads c.engine (exchDesc c.desc))
      (s.exchWrites c.engine (exchDesc c.desc) ++ s.rowFields c.engine (exchDesc c.desc))
      (s.exchTouch c.engine (exchDesc c.desc)) found = [])
    (hr : Readable s c (s.exchTouch c.engine (exchDesc c.desc))) :
    runExchange { c with hw := c.hw ++ found } s = (s.reading c (s.exchTouch c.engine (exchDesc c.desc))).exchGo c :=
  enterEngine_goes (c := { c with hw := c.hw ++ found }) (fun z => z.exchGo c) hrole hj hf (readLines_readable hr.1) hr.2

theorem runExchange_fails {st : Half} {faults : List Half}
    (hfaults : faults = faultsOf s c (s.exchReads c.engine (exchDesc c.desc))
      (s.exchWrites c.engine (exchDesc c.desc) ++ s.rowFields c.engine (exchDesc c.desc))
      (s.exchTouch c.engine (exchDesc c.desc)) found)
    (hst : (s.judgeExch c.engine c.desc).or (lowest faults) = some st) :
    runExchange { c with hw := c.hw ++ found } s = (s.disturb c).finish c.engine c.desc st 0 c.cycles
      (if (s.judgeExch c.engine c.desc).isSome then [] else faults) := by
  subst hfaults
  exact enterEngine_fails (c := { c with hw := c.hw ++ found }) (fun z => z.exchGo c) hrole hst

end

/-- Settles O32: an EXCHANGE that goes through its checks joins its step's exchanges, and one that fails ends as any command does. -/
theorem exchangeIsIssued : Obligations.ExchangeIsIssued := by
  intro s c ph i found h hi x e judged touch faults m
  have hexec := exec_exchange h hi
  obtain ⟨hrole, _, _⟩ := hi
  refine ⟨fun p run hp hrun hj hf hread hv => ⟨_, hexec, ?_⟩, fun st hst => ⟨_, hexec, ?_⟩, fun hj hf hread hv => ⟨_, hexec, ?_⟩⟩
  · have hpart : m.engines[e].part = some p := (reading_engine s c touch Engine.part (fun _ => rfl) e).trans hp
    have hstep : m.parts[p].step = some run := (congrArg (fun v => v[p].step) (reading_parts s c touch)).trans hrun
    have hgo : runExchange { c with hw := c.hw ++ found } s = m.issueExch c :=
      (runExchange_goes hrole hj hf hread).trans (if_pos hv)
    obtain ⟨hjoined, hheld, hpeek, hkept⟩ := issueExch_spec (judge_passes hj).1 hpart hstep
    rw [hgo]
    simp only [commit_parts, commit_engines, commit_peek]
    exact ⟨hjoined, hheld, hpeek, kept_commit s hkept⟩
  · rw [runExchange_fails hrole rfl hst]
    exact finish_ends s (s.disturb c) c st 0 _
  · have hgo : runExchange { c with hw := c.hw ++ found } s = m.finish c.engine c.desc stScaleInvalid 0 c.cycles :=
      (runExchange_goes hrole hj hf hread).trans (if_neg (by rw [hv]; decide))
    rw [hgo]
    exact finish_ends s m c stScaleInvalid 0 []

end Sys2Proof.Machine

/-! ## The rendezvous of an exchange (R107, R240 to R244) -/

namespace Sys2Proof.Machine

/-- What an engine counts and reports: its counters and ENG_LAST_FAULT. -/
def Engine.books (g : Engine) : Vector DWord 32 × Half := (g.counters, g.lastFault)

/-- What the members' completions read and change of a step: the exchanges it waits for, and the commands retired in it. -/
def StepRun.ledger (r : StepRun) : List ExchIssue × List (Fin 7 × Nat) := (r.exchanges, r.retired)

/-- Whether of what engines count and steps retire, from `z` to `u`, engine `e` alone has changed its books, by `R`, and the step of
`p` has retired `l`. -/
structure Booked (p : Fin 6) (e : Fin 7) (R : Vector DWord 32 × Half → Vector DWord 32 × Half → Prop) (l : List (Fin 7 × Nat))
    (z u : State) : Prop where
  part   : ∀ g : Fin 7, u.engines[g].part = z.engines[g].part
  own    : R z.engines[e].books u.engines[e].books
  others : ∀ g : Fin 7, g ≠ e → u.engines[g].books = z.engines[g].books
  step   : u.parts[p].step.map StepRun.ledger = z.parts[p].step.map fun r => (r.exchanges, r.retired ++ l)

/-- Whether every engine of a list has changed its books, each by its own relation, and the step of `p` has retired `l`. -/
structure AllBooked {α : Type} (p : Fin 6) (eng : α → Fin 7) (R : α → Vector DWord 32 × Half → Vector DWord 32 × Half → Prop)
    (L : α → List (Fin 7 × Nat)) (as : List α) (z u : State) : Prop where
  part   : ∀ g : Fin 7, u.engines[g].part = z.engines[g].part
  own    : ∀ a ∈ as, R a z.engines[eng a].books u.engines[eng a].books
  others : ∀ g : Fin 7, g ∉ as.map eng → u.engines[g].books = z.engines[g].books
  step   : u.parts[p].step.map StepRun.ledger = z.parts[p].step.map fun r => (r.exchanges, r.retired ++ as.flatMap L)

theorem ledger_append {o : Option StepRun} {q : Option StepRun} {l k : List (Fin 7 × Nat)}
    (h : q.map StepRun.ledger = o.map fun r => (r.exchanges, r.retired ++ l)) :
    (q.map fun r => (r.exchanges, r.retired ++ k)) = o.map fun r => (r.exchanges, r.retired ++ (l ++ k)) := by
  cases o <;> cases q <;> simp_all [StepRun.ledger]

/-- Engines that are all different change their books one after another. -/
theorem foldl_booked {α β : Type} {p : Fin 6} {st : β → State} {eng : α → Fin 7}
    {R : α → Vector DWord 32 × Half → Vector DWord 32 × Half → Prop} {L : α → List (Fin 7 × Nat)} {f : β → α → β}
    (hf : ∀ b a, (st b).engines[eng a].part = some p → Booked p (eng a) (R a) (L a) (st b) (st (f b a))) (as : List α) (b : β)
    (hnd : (as.map eng).Nodup) (hp : ∀ a ∈ as, (st b).engines[eng a].part = some p) :
    AllBooked p eng R L as (st b) (st (as.foldl f b)) := by
  induction as generalizing b with
  | nil => exact ⟨fun _ => rfl, fun _ h => absurd h List.not_mem_nil, fun _ _ => rfl, by
      simp only [List.flatMap_nil, List.append_nil]
      rfl⟩
  | cons a as ih =>
    rw [List.map_cons, List.nodup_cons] at hnd
    obtain ⟨hnew, hnd⟩ := hnd
    obtain ⟨hpart, hown, hothers, hstep⟩ := hf b a (hp a List.mem_cons_self)
    obtain ⟨hpart', hown', hothers', hstep'⟩ := ih (f b a) hnd fun x hx => (hpart _).trans (hp x (List.mem_cons_of_mem _ hx))
    have hne (x : α) (hx : x ∈ as) : eng x ≠ eng a := fun h => hnew (h ▸ List.mem_map_of_mem hx)
    refine ⟨fun g => (hpart' g).trans (hpart g), fun x hx => ?_, fun g hg => ?_, hstep'.trans (ledger_append hstep)⟩
    · obtain rfl | hx := List.mem_cons.1 hx
      · rw [List.foldl_cons, hothers' _ hnew]
        exact hown
      · rw [← hothers _ (hne x hx)]
        exact hown' x hx
    · rw [List.map_cons, List.mem_cons, not_or] at hg
      exact (hothers' g hg.2).trans (hothers g hg.1)

section
variable {z y : State} (h : y.bytesless = z.bytesless)
include h

theorem books_of_bytesless (e : Fin 7) : y.engines[e].part = z.engines[e].part ∧ y.engines[e].books = z.engines[e].books :=
  ⟨engine_of_bytesless h Engine.part (fun _ => rfl) e, engine_of_bytesless h Engine.books (fun _ => rfl) e⟩

/-- Bytes written first are no part of any book. -/
theorem Booked.of_bytesless {p e R l u} (k : Booked p e R l y u) : Booked p e R l z u := by
  obtain ⟨hpart, hown, hothers, hstep⟩ := k
  simp only [(books_of_bytesless h _).1, (books_of_bytesless h _).2, parts_of_bytesless h] at hpart hown hothers hstep
  exact ⟨hpart, hown, hothers, hstep⟩

end

theorem Booked.mono {p e R R' l z u} (h : Booked p e R l z u) (hR : ∀ a b, R a b → R' a b) : Booked p e R' l z u :=
  ⟨h.part, hR _ _ h.own, h.others, h.step⟩

theorem Booked.trans {p e R R' l k z y u} (h : Booked p e R l z y) (h' : Booked p e R' k y u) :
    Booked p e (fun a c => ∃ b, R a b ∧ R' b c) (l ++ k) z u :=
  ⟨fun g => (h'.part g).trans (h.part g), ⟨_, h.own, h'.own⟩, fun g hg => (h'.others g hg).trans (h.others g hg),
    h'.step.trans (ledger_append h.step)⟩

theorem onEngine_booked {p : Fin 6} {e : Fin 7} {f : Engine → Engine} {R : Vector DWord 32 × Half → Vector DWord 32 × Half → Prop}
    (z : State) (hpart : ∀ g, (f g).part = g.part) (hR : R z.engines[e].books (f z.engines[e]).books) :
    Booked p e R [] z (z.onEngine e f) := by
  refine ⟨fun g => onEngine_field z e g Engine.part hpart, ?_, fun g hg => ?_, ?_⟩
  · rw [onEngine_engine, if_pos rfl]
    exact hR
  · rw [onEngine_engine, if_neg (Ne.symm hg)]
  · simp only [List.append_nil]
    rfl

/-! Books at a command's end. -/

/-- How the counters of a member move as its command completes: COMMANDS by one, BUSY_CYCLES by its cycles, EXCH_ROWS not. -/
def Retires (cycles : Word) (a b : Vector DWord 32) : Prop :=
  b[0] = a[0] + 1 ∧ b[6] = a[6] + BitVec.ofNat 64 cycles.toNat ∧ b[25] = a[25]

theorem bumpIf_other (v : Vector DWord 32) (c : Prop) [Decidable c] (i k : Nat) {j : Nat} (hj : j < 32) (hij : i ≠ j) :
    (if c then bumpAt v i k else v)[j] = v[j] := by
  split
  · exact (bumpAt_get v i k j hj).trans (if_neg hij)
  · rfl

theorem endCounters_retires (n : Vector DWord 32) (st : Half) (flags : Nat) (seen : List Half) (cycles : Word) :
    Retires cycles n (endCounters n st flags seen cycles) := by
  have hget (j : Nat) (hj : j < 32) (h1 : 1 ≠ j) (h11 : 11 ≠ j) (h4 : 4 ≠ j) :
      (endCounters n st flags seen cycles)[j] = (bumpAt (bumpAt n 0 1) 6 cycles.toNat)[j] :=
    (bumpIf_other _ _ 4 1 hj h4).trans ((bumpIf_other _ _ 11 1 hj h11).trans (bumpIf_other _ _ 1 1 hj h1))
  refine ⟨?_, ?_, ?_⟩
  · rw [hget 0 (by decide) (by decide) (by decide) (by decide), bumpAt_get, if_neg (by decide), bumpAt_get, if_pos rfl]
    rfl
  · rw [hget 6 (by decide) (by decide) (by decide) (by decide), bumpAt_get, if_pos rfl, bumpAt_get, if_neg (by decide)]
  · rw [hget 25 (by decide) (by decide) (by decide) (by decide), bumpAt_get, if_neg (by decide), bumpAt_get, if_neg (by decide)]

theorem finish_booked {z : State} {p : Fin 6} {e : Fin 7} (d : List Byte) (st : Half) (flags : Nat) (cycles : Word)
    (hp : z.engines[e].part = some p) :
    Booked p e (fun a b => Retires cycles a.1 b.1 ∧ b.2 = if st = stOk then a.2 else st) [(e, dIndex d)] z
      (z.finish e d st flags cycles) := by
  have hbl := finish_bytesless z e d st flags cycles []
  obtain ⟨hpart, hown, hothers, _⟩ := onEngine_booked (p := p) (e := e) (f := Engine.ended d st flags [] cycles)
    (R := fun a b => Retires cycles a.1 b.1 ∧ b.2 = if st = stOk then a.2 else st) z (fun _ => rfl)
    ⟨endCounters_retires _ st flags [] cycles, rfl⟩
  have heng : (z.ended e d st flags cycles []).engines = (z.onEngine e (Engine.ended d st flags [] cycles)).engines :=
    ended_engines z e d st flags cycles []
  rw [← heng] at hpart hown hothers
  refine ⟨fun g => (books_of_bytesless hbl g).1.trans (hpart g), ?_, fun g hg => (books_of_bytesless hbl g).2.trans (hothers g hg), ?_⟩
  · rw [(books_of_bytesless hbl e).2]
    exact hown
  · rw [parts_of_bytesless hbl, ended_step z e d st flags cycles [] hp, Option.map_map]
    rfl

/-- The completion of a member counts before its end only what its own conversions and extents report. -/
theorem finishExch_eq (z : State) (m : AtRdv) (ok : Bool) (n : Note) : ∃ (f : Vector DWord 32 → Vector DWord 32) (st : Half) (flags : Nat),
    (∀ v, (f v)[0] = v[0] ∧ (f v)[6] = v[6] ∧ (f v)[25] = v[25])
    ∧ z.finishExch m ok n = (z.onEngine m.engine (Engine.counting f)).finish m.engine m.desc st flags m.cycles := by
  have hkeep (v : Vector DWord 32) {j : Nat} (hj : j < 32) (h3 : 3 ≠ j) (h7 : 7 ≠ j) :
      ((fun w => if m.x.tokens = 0 then bumpAt w 7 1 else w) (if n.sat > 0 then bumpAt v 3 n.sat else v))[j] = v[j] :=
    (bumpIf_other _ _ 7 1 hj h7).trans (bumpIf_other _ _ 3 _ hj h3)
  refine ⟨_, if ok then stOk else stBusError, flagIf (decide (m.x.tokens = 0)) flZeroExtent + n.flags, fun v =>
    ⟨hkeep v (by decide) (by decide) (by decide), hkeep v (by decide) (by decide) (by decide),
      hkeep v (by decide) (by decide) (by decide)⟩, ?_⟩
  unfold State.finishExch noted
  dsimp only
  rw [countEngine_if, countEngine_if, onEngine_onEngine]
  rfl

theorem finishExch_booked {z : State} {p : Fin 6} (m : AtRdv) (ok : Bool) (n : Note) (hp : z.engines[m.engine].part = some p) :
    Booked p m.engine (fun a b => Retires m.cycles a.1 b.1) [(m.engine, dIndex m.desc)] z (z.finishExch m ok n) := by
  obtain ⟨f, st, flags, hf, heq⟩ := finishExch_eq z m ok n
  rw [heq]
  have hcount := onEngine_booked (p := p) (e := m.engine) (f := Engine.counting f) (R := fun a b => b.1 = f a.1) z (fun _ => rfl) rfl
  have hend := finish_booked m.desc st flags m.cycles ((hcount.part m.engine).trans hp)
  refine (hcount.trans hend).mono fun a c hac => ?_
  obtain ⟨b, hb, ⟨h0, h6, h25⟩, _⟩ := hac
  obtain ⟨f0, f6, f25⟩ := hf a.1
  rw [hb] at h0 h6 h25
  exact ⟨by rw [h0, f0], by rw [h6, f6], by rw [h25, f25]⟩

/-! Bytes that a phase writes. -/

theorem foldWrites_bytesless {α : Type} {f : State → α → State × Bool} (hf : ∀ z a, (f z a).1.bytesless = z.bytesless)
    (l : List α) (z : State) : (foldWrites f l z).1.bytesless = z.bytesless := by
  induction l generalizing z with
  | nil => rfl
  | cons a l ih =>
    have ha := hf z a
    unfold foldWrites
    split
    · next hs =>
      rw [hs] at ha
      exact (ih _).trans ha
    · next hs =>
      rw [hs] at ha
      exact ha

theorem putRow_bytesless (z : State) (e : Fin 7) (t : Tref) (r : Nat) (codes : List Nat) (entry : List Byte) :
    (z.putRow e t r codes entry).1.bytesless = z.bytesless := by
  have hrow : (if t.d0 = 0 then (z, true) else z.writeTensor e (t.rowAt r) fun i => codes.getD i.i0 0).1.bytesless = z.bytesless := by
    split
    · rfl
    · exact writeTensor_bytesless z e _ _ _
  unfold State.putRow
  generalize (if t.d0 = 0 then (z, true) else z.writeTensor e (t.rowAt r) fun i => codes.getD i.i0 0) = q at hrow ⊢
  obtain ⟨y, ok⟩ := q
  dsimp only
  split
  · exact (pokeSpace_bytesless y _ _ _ _).trans hrow
  · exact hrow

theorem placeRows_bytesless (z : State) (sent : List Sent) : (z.placeRows sent).1.bytesless = z.bytesless := by
  refine foldWrites_bytesless (fun z w => ?_) sent z
  dsimp only
  split
  · exact putRow_bytesless z _ _ _ _ _
  · rfl

theorem dispatchMember_bytesless (z : State) (sent : List Sent) (m : AtRdv) :
    (z.dispatchMember sent m).1.bytesless = z.bytesless := by
  refine foldWrites_bytesless (fun z t => ?_) _ z
  dsimp only
  split
  · exact (putRow_bytesless _ _ _ _ _ _).trans (pokes_bytesless z _ _)
  · exact (putRow_bytesless _ _ _ _ _ _).trans (pokes_bytesless z _ _)

theorem fillBlocks_bytesless (z : State) (sent : List Sent) (m : AtRdv) : (z.fillBlocks sent m).1.bytesless = z.bytesless :=
  foldWrites_bytesless (fun z _ => (foldWrites_bytesless (fun z _ => putRow_bytesless z _ _ _ _ _) _ _).trans
    (pokeSpace_bytesless z _ _ _ _)) _ z

theorem combineMember_bytesless (z : State) (m : AtRdv) : (z.combineMember m).1.bytesless = z.bytesless :=
  foldWrites_bytesless (fun z _ => putRow_bytesless z _ _ _ _ _) _ z

/-! The three ways in which an exchange ends. -/

section
variable {z : State} {p : Fin 6} {ms : List AtRdv} (hnd : (ms.map AtRdv.engine).Nodup)
  (hp : ∀ k ∈ ms, z.engines[k.engine].part = some p)
include hnd hp

/-- Every member ends with EXCH_MISMATCH. -/
theorem mismatch_booked :
    AllBooked p AtRdv.engine (fun k a b => Retires k.cycles a.1 b.1 ∧ b.2 = 0x0140) (fun k => [(k.engine, dIndex k.desc)]) ms z
      (ms.foldl (fun s k => s.finish k.engine k.desc stExchMismatch 0 k.cycles) z) :=
  foldl_booked (st := fun s => s) (fun _ k hk => finish_booked k.desc stExchMismatch 0 k.cycles hk) ms z hnd hp

theorem combineAll_booked :
    AllBooked p AtRdv.engine (fun k a b => Retires k.cycles a.1 b.1) (fun k => [(k.engine, dIndex k.desc)]) ms z (z.combineAll ms) :=
  foldl_booked (st := fun s => s)
    (fun s k hk => (finishExch_booked k _ _ ((books_of_bytesless (combineMember_bytesless s k) _).1.trans hk)).of_bytesless
      (combineMember_bytesless s k)) ms z hnd hp

end

/-! A DISPATCH. -/

theorem countEngine_booked (z : State) (p : Fin 6) (e : Fin 7) (i k : Nat) :
    Booked p e (fun a b => b = (bumpAt a.1 i k, a.2)) [] z (z.countEngine e i k) :=
  onEngine_booked z (fun _ => rfl) rfl

/-- What a member of a DISPATCH receives once the rows are placed, and whether every write was taken. -/
def dispatchFill (sent : List Sent) (ok : Bool) (acc : State × List (AtRdv × Bool)) (m : AtRdv) : State × List (AtRdv × Bool) :=
  ((((acc.1.dispatchMember sent m).1.fillBlocks sent m).1.countEngine m.engine Eng.exchRows
      (sent.countP fun w => w.m.engine == m.engine)),
    acc.2 ++ [(m, ok && (acc.1.dispatchMember sent m).2 && ((acc.1.dispatchMember sent m).1.fillBlocks sent m).2)])

/-- A DISPATCH places its rows, fills every member's own blocks, hands the blocks over and ends on every member. -/
theorem dispatchAll_eq (z : State) (p : Fin 6) (ms : List AtRdv) : ∃ f : StepRun → StepRun, (∀ r, (f r).ledger = r.ledger) ∧
    z.dispatchAll p ms =
      (ms.foldl (dispatchFill (z.sentRows ms) (z.placeRows (z.sentRows ms)).2) ((z.placeRows (z.sentRows ms)).1, [])).2.foldl
        (fun s m => s.finishExch m.1 m.2 .none)
        ((ms.foldl (dispatchFill (z.sentRows ms) (z.placeRows (z.sentRows ms)).2) ((z.placeRows (z.sentRows ms)).1, [])).1.onStep p f) := by
  unfold State.dispatchAll
  dsimp only
  refine ⟨_, ?_, rfl⟩
  exact fun _ => rfl

theorem dispatchFill_booked {p : Fin 6} (sent : List Sent) (ok : Bool) (acc : State × List (AtRdv × Bool)) (m : AtRdv) :
    Booked p m.engine (fun a b => b = (bumpAt a.1 25 (sent.countP fun w => w.m.engine == m.engine), a.2)) [] acc.1
      (dispatchFill sent ok acc m).1 :=
  (countEngine_booked _ p m.engine 25 _).of_bytesless
    ((fillBlocks_bytesless _ sent m).trans (dispatchMember_bytesless acc.1 sent m))

theorem dispatchFill_ends (sent : List Sent) (ok : Bool) (ms : List AtRdv) (acc : State × List (AtRdv × Bool)) :
    (ms.foldl (dispatchFill sent ok) acc).2.map Prod.fst = acc.2.map Prod.fst ++ ms := by
  induction ms generalizing acc with
  | nil => exact (List.append_nil _).symm
  | cons m ms ih => simp [ih, dispatchFill]

theorem dispatchAll_booked {z : State} {p : Fin 6} {ms : List AtRdv} (hnd : (ms.map AtRdv.engine).Nodup)
    (hp : ∀ k ∈ ms, z.engines[k.engine].part = some p) :
    AllBooked p AtRdv.engine
      (fun k a b => Retires k.cycles (bumpAt a.1 25 ((z.sentRows ms).countP fun w => w.m.engine == k.engine)) b.1)
      (fun k => [(k.engine, dIndex k.desc)]) ms z (z.dispatchAll p ms) := by
  obtain ⟨f, hf, heq⟩ := dispatchAll_eq z p ms
  rw [heq]
  generalize z.sentRows ms = sent
  have hplace := placeRows_bytesless z sent
  generalize z.placeRows sent = placed at hplace ⊢
  have hends := dispatchFill_ends sent placed.2 ms (placed.1, [])
  have hfill := foldl_booked (st := Prod.fst) (fun b m _ => dispatchFill_booked (p := p) sent placed.2 b m) ms (placed.1, []) hnd
    fun k hk => (books_of_bytesless hplace k.engine).1.trans (hp k hk)
  generalize ms.foldl (dispatchFill sent placed.2) (placed.1, []) = filled at hends hfill ⊢
  obtain ⟨y, ends⟩ := filled
  obtain rfl : ends.map Prod.fst = ms := hends
  obtain ⟨hpart, hown, hothers, hstep⟩ := hfill
  rw [List.map_map] at hnd
  have hlast := foldl_booked (st := fun s => s) (eng := fun x : AtRdv × Bool => x.1.engine) (p := p)
    (fun s x hx => finishExch_booked x.1 x.2 .none hx) ends (y.onStep p f) hnd fun x hx =>
      (hpart _).trans ((books_of_bytesless hplace _).1.trans (hp x.1 (List.mem_map_of_mem hx)))
  obtain ⟨hpart', hown', hothers', hstep'⟩ := hlast
  have hledger : (y.onStep p f).parts[p].step.map StepRun.ledger = z.parts[p].step.map fun r => (r.exchanges, r.retired ++ []) := by
    have hflat : ((ends.map Prod.fst).flatMap fun _ : AtRdv => ([] : List (Fin 7 × Nat))) = [] := by simp
    rw [hflat, parts_of_bytesless hplace] at hstep
    rw [onStep_step, Option.map_map, show StepRun.ledger ∘ f = StepRun.ledger from funext hf]
    exact hstep
  refine ⟨fun g => (hpart' g).trans ((hpart g).trans (books_of_bytesless hplace g).1), fun k hk => ?_, fun g hg => ?_, ?_⟩
  · obtain ⟨x, hx, rfl⟩ := List.mem_map.1 hk
    have h : Retires x.1.cycles y.engines[x.1.engine].books.1 _ := hown' x hx
    rw [hown x.1 hk, (books_of_bytesless hplace _).2] at h
    exact h
  · have hg' : g ∉ ends.map fun x => x.1.engine := by rwa [List.map_map] at hg
    exact (hothers' g hg').trans ((hothers g hg).trans (books_of_bytesless hplace g).2)
  · rw [List.flatMap_map]
    exact hstep'.trans (ledger_append hledger)

/-! The members at a rendezvous. -/

theorem waiting_sublist {s : State} {p : Fin 6} {run : StepRun} (hrun : s.parts[p].step = some run) :
    ((s.waiting p).map AtRdv.engine).Sublist run.members := by
  unfold State.waiting
  simp only [hrun]
  induction run.members with
  | nil => exact List.Sublist.refl _
  | cons e l ih =>
    cases hfind : run.exchanges.find? fun i => i.engine == e with
    | none =>
      rw [List.filterMap_cons_none (by rw [hfind]; rfl)]
      exact ih.cons e
    | some i =>
      rw [List.filterMap_cons_some (by rw [hfind]; rfl)]
      exact ih.cons_cons e

theorem rendezvous_waits {s : State} {p : Fin 6} {run : StepRun} {m : AtRdv} {rest : List AtRdv} (id : Half) (ph : Fin 2)
    (hrun : s.parts[p].step = some run) (hms : s.waiting p = m :: rest) (h : (m :: rest).length ≠ run.members.length) :
    rendezvous p id ph s = s := by
  unfold rendezvous State.stepMembers
  simp only [hms, hrun]
  exact if_pos h

theorem rendezvous_meets {s : State} {p : Fin 6} {run : StepRun} {m : AtRdv} {rest : List AtRdv} {id : Half} {ph : Fin 2}
    (hrun : s.parts[p].step = some run) (hms : s.waiting p = m :: rest) (h : (m :: rest).length = run.members.length)
    (hk : ∃ k ∈ m :: rest, k.x.exchId = id.toNat ∧ k.x.phase = ph.val) :
    rendezvous p id ph s =
      if ∀ k ∈ m :: rest, k.x.agree = m.x.agree then
        if m.x.phase = 0 then (s.onStep p fun r => { r with exchanges := [] }).dispatchAll p (m :: rest)
        else (s.onStep p fun r => { r with exchanges := [] }).combineAll (m :: rest)
      else (m :: rest).foldl (fun s k => s.finish k.engine k.desc stExchMismatch 0 k.cycles)
        (s.onStep p fun r => { r with exchanges := [] }) := by
  have hany : ((m :: rest).any fun k => k.x.exchId == id.toNat && k.x.phase == ph.val) = true := by
    simpa only [List.any_eq_true, Bool.and_eq_true, beq_iff_eq] using hk
  unfold rendezvous State.stepMembers
  simp only [hms, hrun]
  rw [if_neg (not_not_intro h), if_neg (by rw [hany]; decide)]
  simp only [List.all_eq_true, beq_iff_eq]

theorem AllBooked.landed {p : Fin 6} {ms : List AtRdv} {run : StepRun} {R : AtRdv → _ → _ → Prop} {s u : State}
    (hrun : s.parts[p].step = some run)
    (h : AllBooked p AtRdv.engine R (fun k => [(k.engine, dIndex k.desc)]) ms (s.onStep p fun r => { r with exchanges := [] }) u) :
    ∃ r, u.parts[p].step = some r ∧ r.exchanges = [] ∧ r.retired = run.retired ++ ms.map fun k => (k.engine, dIndex k.desc) := by
  have hstep := h.step
  have hflat : (ms.flatMap fun k => [(k.engine, dIndex k.desc)]) = ms.map fun k => (k.engine, dIndex k.desc) :=
    List.map_eq_flatMap.symm
  rw [onStep_step, hrun, hflat, Option.map_some, Option.map_some, Option.map_eq_some_iff] at hstep
  obtain ⟨r, hr, hledger⟩ := hstep
  exact ⟨r, hr, congrArg Prod.fst hledger, congrArg Prod.snd hledger⟩

/-- Settles O33: the members' engines differ, so that each one's books are changed by its own completion alone. -/
theorem rendezvousLandsTheExchange : Obligations.RendezvousLandsTheExchange := by
  intro s p run m rest id ph hrun hnodup hmembers hms ms i open_ agrees
  have hexec : exec i s = .next (commit s (rendezvous p id ph s)) := rfl
  have hsub : (ms.map AtRdv.engine).Sublist run.members := by
    have hwait := waiting_sublist hrun
    rwa [hms] at hwait
  have hnd : (ms.map AtRdv.engine).Nodup := hnodup.sublist hsub
  have hp : ∀ k ∈ ms, open_.engines[k.engine].part = some p := fun k hk => hmembers _ (hsub.subset (List.mem_map_of_mem hk))
  refine ⟨fun h => ⟨_, hexec, ?_⟩, fun h hk => ?_⟩
  · rw [rendezvous_waits id ph hrun hms h]
    exact kept_commit s rfl
  · rw [rendezvous_meets hrun hms h hk] at hexec
    refine ⟨fun ha h0 => ?_, fun ha h0 => ?_, _, hexec, ?_⟩
    · rw [hexec, if_pos ha, if_pos h0]
    · rw [hexec, if_pos ha, if_neg h0]
    · simp only [commit_engines, commit_parts]
      split
      · next ha =>
        split
        · have hb := dispatchAll_booked hnd hp
          refine ⟨fun k hk => ?_, hb.landed hrun⟩
          obtain ⟨hcommands, hcycles, hrows⟩ := hb.own k hk
          rw [bumpAt_get, if_neg (by decide)] at hcommands hcycles
          rw [bumpAt_get, if_pos rfl] at hrows
          exact ⟨hcommands, hcycles, fun _ _ => hrows, fun h => absurd ha h⟩
        · next h0 =>
          have hb := combineAll_booked hnd hp
          refine ⟨fun k hk => ?_, hb.landed hrun⟩
          obtain ⟨hcommands, hcycles, _⟩ := hb.own k hk
          exact ⟨hcommands, hcycles, fun _ h => absurd h h0, fun h => absurd ha h⟩
      · next ha =>
        have hb := mismatch_booked hnd hp
        refine ⟨fun k hk => ?_, hb.landed hrun⟩
        obtain ⟨⟨hcommands, hcycles, _⟩, hlast⟩ := hb.own k hk
        exact ⟨hcommands, hcycles, fun h => absurd h ha, fun _ => hlast⟩

end Sys2Proof.Machine

/-! ## A MOVE to a vector of whole bytes (R110, R134, R137, R148) -/

namespace Sys2Proof.Machine

/-- Pieces of one length laid one after another join into one run. -/
theorem joinRuns_contiguous {k : Nat} {f : Nat → List Byte} (hf : ∀ i, (f i).length = k) (n a : Nat) :
    joinRuns ((List.range (n + 1)).map fun i => (a + i * k, f i)) = [(a, (List.range (n + 1)).flatMap f)] := by
  induction n generalizing a f with
  | zero => simp [joinRuns]
  | succ n ih =>
    have hrest := ih (f := fun i => f (i + 1)) (fun i => hf _) (a + k)
    have hshift : (fun i => (a + (i + 1) * k, f (i + 1))) = fun i => (a + k + i * k, f (i + 1)) := by
      funext i
      rw [Nat.add_mul, Nat.one_mul, Nat.add_assoc, Nat.add_comm k]
    rw [List.range_succ_eq_map, List.map_cons, List.map_map, List.flatMap_cons, List.flatMap_map]
    simp only [Function.comp_def, Nat.succ_eq_add_one, hshift, Nat.zero_mul, Nat.add_zero]
    rw [joinRuns, hrest]
    simp only [hf, if_true]

theorem flatMap_length_const {k : Nat} {f : Nat → List Byte} (hf : ∀ i, (f i).length = k) (n : Nat) :
    ((List.range n).flatMap f).length = n * k := by
  simp [List.length_flatMap, hf]

/-- A piece found again in pieces of one length. -/
theorem flatMap_slice {k : Nat} {f : Nat → List Byte} (hf : ∀ i, (f i).length = k) {n i : Nat} (h : i < n) :
    (((List.range n).flatMap f).drop (i * k)).take k = f i := by
  induction n generalizing i f with
  | zero => exact absurd h (Nat.not_lt_zero i)
  | succ n ih =>
    rw [List.range_succ_eq_map, List.flatMap_cons, List.flatMap_map]
    cases i with
    | zero => rw [Nat.zero_mul, List.drop_zero, List.take_left' (hf 0)]
    | succ i =>
      rw [Nat.add_mul, Nat.one_mul, Nat.add_comm (i * k), ← List.drop_drop, List.drop_left' (hf 0)]
      exact ih (f := fun j => f (j + 1)) (fun j => hf _) (Nat.lt_of_succ_lt_succ h)

/-- A slice within the bytes written. -/
theorem cellsSlice_write_within (d : Byte) (m : List Host.Cell) (a o n : Nat) (bs : List Byte) (h : o + n ≤ bs.length) :
    cellsSlice d (cellsWrite d m a bs) (a + o) n = (bs.drop o).take n := by
  rw [cellsSlice_eq]
  refine List.ext_getElem (by simp; omega) fun i hi _ => ?_
  simp only [List.length_map, List.length_range] at hi
  simp only [List.getElem_map, List.getElem_range, List.getElem_take, List.getElem_drop, cellsRead_write]
  rw [if_pos (by omega), List.getD_eq_getElem _ _ (by omega)]
  congr 1
  omega

theorem locate_paddock (s : State) (e : Fin 7) (a len : Nat) : s.locate e 2 a len =
    if a + len > paddockBytes then .error stBounds else .ok ⟨.paddock e, a, a + len⟩ := rfl

/-- A vector: ROW_MAJOR, whole bytes, D1 to D3 of 1. -/
structure Tref.IsVector (t : Tref) : Prop where
  layout : t.layout = rowMajor
  fmt    : t.fmt ≠ .int4
  d0     : t.d0 ≠ 0
  d1     : t.d1 = 1
  d2     : t.d2 = 1
  d3     : t.d3 = 1

theorem nibbles_even {f : Fmt} (h : f ≠ .int4) : f.nibbles = 2 * (f.nibbles / 2) := by
  cases f
  case int4 => exact absurd rfl h
  all_goals rfl

section
variable {t : Tref} (h : t.IsVector)
include h

theorem vector_empty : t.empty = false := by
  simp [Tref.empty, h.d0, h.d1, h.d2, h.d3]

theorem vector_offset (i : Nat) : t.offset ⟨i, 0, 0, 0⟩ = i * t.fmt.nibbles := by
  simp [Tref.offset, h.layout]

theorem vector_footBytes : t.footBytes = t.d0 * (t.fmt.nibbles / 2) := by
  have hk := nibbles_even h.fmt
  obtain ⟨n, hn⟩ := Nat.exists_eq_succ_of_ne_zero h.d0
  rw [Tref.footBytes, vector_empty h, if_neg Bool.false_ne_true, if_pos h.layout]
  simp only [h.d1, h.d2, h.d3, Nat.sub_self, vector_offset h, ceilDiv, hn, Nat.succ_eq_add_one, Nat.add_sub_cancel]
  generalize t.fmt.nibbles / 2 = k at hk
  rw [hk, Nat.mul_left_comm, Nat.add_mul, Nat.one_mul]
  omega

theorem vector_slots : t.slots = (List.range t.d0).map fun i => (⟨i, 0, 0, 0⟩, decide (i < t.d0)) := by
  simp [Tref.slots, h.layout, h.d1, h.d2, h.d3]

/-- The writes of a vector are one run. -/
theorem vector_writes (old : Nat → Byte) (f : Ix → Nat) :
    t.writes old (fun _ => true) f
      = [(0, (List.range t.d0).flatMap fun i => leBytes (t.fmt.nibbles / 2) (f ⟨i, 0, 0, 0⟩))] := by
  have hlen (i : Nat) : (leBytes (t.fmt.nibbles / 2) (f ⟨i, 0, 0, 0⟩)).length = t.fmt.nibbles / 2 := leBytes_length _ _
  obtain ⟨n, hn⟩ := Nat.exists_eq_succ_of_ne_zero h.d0
  have hrun := joinRuns_contiguous hlen n 0
  have hkept : t.slots.filter (fun _ => true) = t.slots := List.filter_eq_self.2 fun _ _ => rfl
  unfold Tref.writes
  rw [if_neg (by rw [h.layout]; decide), if_neg h.fmt, hkept, vector_slots h, hn, ← hrun]
  simp only [List.map_map, Function.comp_def]
  refine congrArg joinRuns (List.map_congr_left fun i hi => ?_)
  have hoff : t.offset ⟨i, 0, 0, 0⟩ / 2 = 0 + i * (t.fmt.nibbles / 2) := by
    rw [vector_offset h, Nat.zero_add, Nat.mul_div_assoc i ⟨_, nibbles_even h.fmt⟩]
  rw [hoff]
  simp only [List.mem_range.1 hi, decide_true, if_true]

/-- A vector written to the engine's own paddock. -/
theorem vector_writeTensor {s : State} {e : Fin 7} (hspace : t.space = 2) (hplace : s.placeStatus e t.space t.addr t.footBytes = none)
    (m : State) (f : Ix → Nat) :
    m.writeTensor e t f
      = (m.paddockWrite e t.addr ((List.range t.d0).flatMap fun i => leBytes (t.fmt.nibbles / 2) (f ⟨i, 0, 0, 0⟩)), true) := by
  have hloc : m.locate e t.space t.addr t.footBytes = .ok ⟨.paddock e, t.addr, t.addr + t.footBytes⟩ := by
    rw [State.placeStatus, hspace] at hplace
    rw [hspace]
    rw [locate_paddock] at hplace ⊢
    refine if_neg fun hout => ?_
    rw [if_pos hout] at hplace
    cases hplace
  unfold State.writeTensor
  rw [hloc]
  simp only [vector_writes h]
  rfl

end

/-- A MOVE to a vector in the engine's own paddock writes the converted codes, and counts what the conversion reports. -/
theorem moveEffect_vector {s : State} {e : Fin 7} {d : List Byte} (hv : (trefAt d 80).IsVector) (hspace : (trefAt d 80).space = 2)
    (hplace : s.placeStatus e (trefAt d 80).space (trefAt d 80).addr (trefAt d 80).footBytes = none)
    (hsame : sameExtents (trefAt d 32) (trefAt d 80) = true) (hswap : moveSwaps d = false) (hlayout : (trefAt d 32).layout ≠ 5)
    (m : State) : ∃ n, moveEffect e d m = noted (m.paddockWrite e (trefAt d 80).addr
      ((List.range (trefAt d 80).d0).flatMap fun i => leBytes ((trefAt d 80).fmt.nibbles / 2)
        (encodeElem (trefAt d 80).fmt (dOutSat d) ((trefAt d 32).elem
          (m.peekSpace e (trefAt d 32).space (trefAt d 32).addr (trefAt d 32).footBytes) ⟨i, 0, 0, 0⟩)).1)) e true n 0 := by
  have hempty : (trefAt d 32).empty = false := by
    rw [← vector_empty hv]
    simp only [sameExtents, Bool.and_eq_true, beq_iff_eq] at hsame
    obtain ⟨⟨⟨h0, h1⟩, h2⟩, h3⟩ := hsame
    simp only [Tref.empty, h0, h1, h2, h3]
  unfold moveEffect State.tensorBytes
  simp only [hempty, Bool.false_eq_true, if_false, hswap]
  rw [if_neg hlayout]
  dsimp only
  rw [vector_writeTensor hv hspace hplace]
  exact ⟨_, rfl⟩

/-- Bytes that are each as they were are together as they were. -/
theorem peek_of_single {s u : State} {w : Store} {a len : Nat} (h : ∀ b, a ≤ b → b < a + len → u.peek w b 1 = s.peek w b 1) :
    u.peek w a len = s.peek w a len := by
  simp only [peek_one, List.cons.injEq, and_true] at h
  cases w with
  | main =>
    refine (cellsSlice_eq ..).trans ((List.map_congr_left fun i hi => ?_).trans (cellsSlice_eq ..).symm)
    exact h _ (by omega) (by have := List.mem_range.1 hi; omega)
  | arena =>
    refine (cellsSlice_eq ..).trans ((List.map_congr_left fun i hi => ?_).trans (cellsSlice_eq ..).symm)
    exact h _ (by omega) (by have := List.mem_range.1 hi; omega)
  | paddock e =>
    refine (cellsSlice_eq ..).trans ((List.map_congr_left fun i hi => ?_).trans (cellsSlice_eq ..).symm)
    exact h _ (by omega) (by have := List.mem_range.1 hi; omega)

/-- A report changes no byte, nor where bytes lie. -/
theorem noted_keeps (s : State) (e : Fin 7) (ok : Bool) (n : Note) (flags : Nat) :
    (∀ w a len, (noted s e ok n flags).s.peek w a len = s.peek w a len) ∧ (noted s e ok n flags).s.layout = s.layout := by
  have hs : (noted s e ok n flags).s = s.onEngine e (Engine.counting fun v => if n.sat > 0 then bumpAt v 3 n.sat else v) :=
    countEngine_if s e _ 3 n.sat
  rw [hs]
  exact ⟨fun w a len => onEngine_peek s e w a len fun _ => rfl, onEngine_layout s e fun _ => ⟨rfl, rfl⟩⟩

/-- A command that passes ends on the state of its effect. -/
theorem answers_effect {s : State} {i : Instr} {x : CmdRun} {r : Effect} (h : engineCmd i s = some x) (hp : x.passes s)
    (heff : x.eff (x.start s) = r) : Answers i s fun u => Ended x.call r.status r.flags r.s u := by
  subst heff
  exact engineCommandsComplete s i x h hp

/-- A command that ends after it has written a run of bytes to its own paddock, away from its completion word. -/
theorem ended_after_write {m u : State} {c : EngCall} {st : Half} {flags a : Nat} {data : List Byte} {n : Note} {f : Foot}
    (h : Ended c st flags (noted (m.paddockWrite c.engine a data) c.engine true n 0).s u)
    (hf : m.locate c.engine (dComplSpace c.desc) (dComplAddr c.desc) 16 = .ok f)
    (hapart : f.store ≠ .paddock c.engine ∨ f.hi ≤ a ∨ a + data.length ≤ f.lo) :
    (∀ o k, o + k ≤ data.length → u.peek (.paddock c.engine) (a + o) k = (data.drop o).take k)
    ∧ ∀ (w : Store) (p : Nat), (w ≠ .paddock c.engine ∨ p < a ∨ a + data.length ≤ p) → (w ≠ f.store ∨ p < f.lo ∨ f.hi ≤ p) →
        u.peek w p 1 = m.peek w p 1 := by
  obtain ⟨hpeek, hlay⟩ := noted_keeps (m.paddockWrite c.engine a data) c.engine true n 0
  obtain ⟨_, _, _, _, _, hkeep, _⟩ := h
  have hloc := layout_locate (hlay.trans (layout_of_bytesless (paddockWrite_bytesless m c.engine a data))) c.engine
    (dComplSpace c.desc) (dComplAddr c.desc) 16
  have hhi := (locate_ok hf).1
  have hbyte (w : Store) (p : Nat) (hp : w ≠ f.store ∨ p < f.lo ∨ f.hi ≤ p) :
      u.peek w p 1 = (m.paddockWrite c.engine a data).peek w p 1 := by
    rw [hkeep w p fun g hg => ?_, hpeek]
    rw [hloc, hf] at hg
    cases hg
    rwa [hhi] at hp
  refine ⟨fun o k hk => ?_, fun w p hout hp => (hbyte w p hp).trans (poke_outside m (.paddock c.engine) w a p data hout)⟩
  have hsame : u.peek (.paddock c.engine) (a + o) k = (m.paddockWrite c.engine a data).peek (.paddock c.engine) (a + o) k := by
    refine peek_of_single fun b hlo hlt => hbyte _ b ?_
    obtain hne | hbelow | habove := hapart
    · exact .inl (Ne.symm hne)
    · exact .inr (.inr (by omega))
    · exact .inr (.inl (by omega))
  rw [hsame]
  show cellsSlice 0 (m.onEngine c.engine _).engines[c.engine].paddock (a + o) k = _
  rw [onEngine_engine, if_pos rfl]
  exact cellsSlice_write_within _ _ _ _ _ _ hk

/-- Settles O30: the destination is one run of codes, and the end of the command writes its completion word alone. -/
theorem moveCopiesAVector : Obligations.MoveCopiesAVector := by
  intro s c y hy hpass a b e m bytes out hswap hlayout hrow hfmt hspace h0 h1 h2 h3 f hf hapart
  obtain rfl := Option.some.inj hy
  have hv : b.IsVector := ⟨hrow, hfmt, h0, h1, h2, h3⟩
  obtain ⟨_, _, hrange, hplaces⟩ := judge_passes hpass.2.1
  rw [hswap, if_neg Bool.false_ne_true] at hrange
  simp only [Bool.and_eq_true] at hrange
  have hplace := hplaces _ (List.mem_append_right _ List.mem_cons_self)
  obtain ⟨n, heff⟩ := moveEffect_vector hv hspace hplace hrange.1.2 hswap hlayout m
  have hpiece (i : Nat) : (leBytes (b.fmt.nibbles / 2) (encodeElem b.fmt (dOutSat c.desc) (a.elem bytes ⟨i, 0, 0, 0⟩)).1).length
      = b.fmt.nibbles / 2 := leBytes_length _ _
  have hlen := flatMap_length_const hpiece b.d0
  obtain ⟨u, hexec, hend⟩ := answers_effect hy hpass heff
  have hout : b.addr + (b.d0 * (b.fmt.nibbles / 2)) = out := by rw [← vector_footBytes hv]
  rw [← hout, ← hlen] at hapart
  obtain ⟨hread, hkeep⟩ := ended_after_write hend hf hapart
  refine ⟨u, hexec, fun i hi => ?_, fun w p hp => hkeep w p ?_⟩
  · rw [hread _ _ (by rw [hlen, ← Nat.succ_mul]; exact Nat.mul_le_mul_right _ hi), flatMap_slice hpiece hi, leNat_leBytes,
      show 256 = 2 ^ 8 from rfl, ← Nat.pow_mul]
    rw [show 8 * (b.fmt.nibbles / 2) = 4 * b.fmt.nibbles by have := nibbles_even hfmt; omega]
  · rwa [hlen, hout]

end Sys2Proof.Machine

/-! ## A MATMUL that holds its accumulators (R116, R129, R142 to R144) -/

namespace Sys2Proof.Machine

/-- The rows of a grid laid one after another. -/
def gridList {α : Type} (m n : Nat) (f : Nat → Nat → α) : List α := (List.range m).flatMap fun i => (List.range n).map (f i)

theorem gridList_length {α : Type} (m n : Nat) (f : Nat → Nat → α) : (gridList m n f).length = m * n := by
  simp [gridList, List.length_flatMap]

theorem gridList_map {α β : Type} (m n : Nat) (f : Nat → Nat → α) (g : α → β) :
    (gridList m n f).map g = gridList m n fun i j => g (f i j) := by
  simp only [gridList, List.map_flatMap, List.map_map, Function.comp_def]

theorem gridList_get {α : Type} {m n i j : Nat} (f : Nat → Nat → α) (hi : i < m) (hj : j < n) :
    (gridList m n f)[i * n + j]? = some (f i j) := by
  induction m generalizing i f with
  | zero => exact absurd hi (Nat.not_lt_zero i)
  | succ m ih =>
    rw [gridList, List.range_succ_eq_map, List.flatMap_cons, List.flatMap_map]
    cases i with
    | zero =>
      rw [Nat.zero_mul, Nat.zero_add, List.getElem?_append_left (by simpa using hj)]
      simp [hj]
    | succ i =>
      rw [Nat.succ_mul, List.getElem?_append_right (by simp; omega), List.length_map, List.length_range,
        show i * n + n + j - n = i * n + j by omega]
      exact ih (fun i j => f (i + 1) j) (Nat.lt_of_succ_lt_succ hi)

theorem zipIdx_map_range {α : Type} (m : Nat) (f : Nat → α) :
    ((List.range m).map f).zipIdx = (List.range m).map fun i => (f i, i) :=
  List.ext_getElem (by simp) (by simp)

/-! Sums and their residues. -/

theorem mod7_add_mul (v a b : Int) : (mod7 v + mod7 a * mod7 b) % 7 = mod7 (v + a * b) := by
  have hcast (i : Int) : (mod7 i : Int) = i % 7 := Int.toNat_of_nonneg (Int.emod_nonneg i (by decide))
  apply Int.natCast_inj.1
  rw [hcast, Int.natCast_emod, Int.natCast_add, Int.natCast_mul, hcast, hcast, hcast, Int.add_emod v, Int.mul_emod a]
  simp

/-- A residue that starts as that of the initial value ends as that of the sum. -/
theorem rhoDot_mod7 (v : Int) (a b : List Int) : rhoDot (mod7 v) a b = mod7 (dotInt v a b) := by
  unfold rhoDot dotInt
  induction a.zip b generalizing v with
  | nil => simp
  | cons p l ih =>
    rw [List.foldl_cons, mod7_add_mul, ih, List.map_cons, List.sum_cons, Int.add_assoc]

theorem dotInt_range (v : Int) (k : Nat) (f g : Nat → Int) :
    dotInt v ((List.range k).map f) ((List.range k).map g) = v + ((List.range k).map fun i => f i * g i).sum := by
  unfold dotInt
  rw [List.zip_map', List.map_map]
  rfl

/-! The accumulators of an integer pair. -/

section
variable (x : MatDesc) (aB bB biasB : List Byte) (zps : List ScaleRow) (old : Option Held)

/-- The initial value of an accumulator (R143). -/
def MatDesc.initial (i j : Nat) : Int :=
  if x.accMode = 1 then (x.bias.elem biasB ⟨j, 0, 0, 0⟩).less 0
  else if x.accMode = 2 then match old with
    | some ⟨_, _, .ints l, _, _⟩ => l.getD (i * x.n + j) 0
    | _ => 0
  else 0

/-- The residue that an accumulator starts with (R129). -/
def MatDesc.initialRho (i j : Nat) : Nat :=
  if x.accMode = 2 then match old with
    | some ⟨_, _, .ints _, rho, _⟩ => rho.getD (i * x.n + j) 0
    | _ => 0
  else mod7 (x.initial biasB old i j)

/-- The activations of a row less its zero point (R142). -/
def MatDesc.rowLess (i : Nat) : List Int :=
  (List.range x.k).map fun k => (x.a.elem aB ⟨k, i, 0, 0⟩).less (zps.getD (x.a.row ⟨0, i, 0, 0⟩) ⟨0, 0⟩).zp

/-- The weights of a column. -/
def MatDesc.column (j : Nat) : List Int := (List.range x.k).map fun k => (x.b.elem bB ⟨k, j, 0, 0⟩).less 0

variable {x} in
/-- The accumulators of an undisturbed integer pair, and their residues. -/
theorem matAcc_ints (h : trefPair x.a x.b = some true) :
    matAcc x [] zps aB bB biasB old =
      ⟨.ints (gridList x.m x.n fun i j => dotInt (x.initial biasB old i j) (x.rowLess aB zps i) (x.column bB j)),
        gridList x.m x.n fun i j => rhoDot (x.initialRho biasB old i j) (x.rowLess aB zps i) (x.column bB j), []⟩ := by
  unfold matAcc
  extract_lets ks rowsA rowsB bias fresh init cols accs
  have hinit (i j : Nat) (hj : j < x.n) : init i j = (x.initial biasB old i j, x.initialRho biasB old i j) := by
    have hbias : bias.getD j (.int 0) = x.bias.elem biasB ⟨j, 0, 0, 0⟩ := by simp [bias, hj]
    simp only [init, fresh, MatDesc.initialRho, MatDesc.initial, hbias]
    split <;> simp_all [mod7]
  have haccs : accs = gridList x.m x.n fun i j =>
      (dotInt (x.initial biasB old i j) (x.rowLess aB zps i) (x.column bB j),
        rhoDot (x.initialRho biasB old i j) (x.rowLess aB zps i) (x.column bB j)) := by
    clear_value init
    simp only [accs, cols, rowsA, rowsB, ks, zipIdx_map_range, List.map_map, List.flatMap_map, Function.comp_def]
    refine List.flatMap_congr fun i _ => List.map_congr_left fun j hj => ?_
    rw [hinit i j (List.mem_range.1 hj)]
    rfl
  rw [if_pos h, haccs, gridList_map, gridList_map]

variable {x old} in
theorem initialRho_mod7 (h : ∀ k l, old = some k → k.vals = .ints l → k.rho = l.map mod7) (i j : Nat) :
    x.initialRho biasB old i j = mod7 (x.initial biasB old i j) := by
  unfold MatDesc.initialRho
  split
  · next hmode =>
    unfold MatDesc.initial
    rw [if_neg (by rw [hmode]; decide), if_pos hmode]
    rcases old with _ | ⟨_, _, l | _, rho, _⟩
    · rfl
    · obtain rfl : rho = l.map mod7 := h _ l rfl rfl
      simp only [List.getD_eq_getElem?_getD, List.getElem?_map]
      cases l[i * x.n + j]? <;> rfl
    · rfl
  · rfl

end

theorem holdTile_holds {x : MatDesc} (h : x.drain = 0) (s : State) (e : Fin 7) (acc : Acc) :
    s.holdTile e x acc = s.onEngine e fun g => { g with held := some ⟨x.m, x.n, acc.vals, acc.rho, acc.sticky⟩ } := by
  have hd : x.drains = false := by rw [MatDesc.drains, h]; rfl
  simp only [State.holdTile, hd, Bool.false_eq_true, if_false]

/-- The effect of a MATMUL that holds: its accumulators, and nothing to report but ZERO_K. -/
theorem matmulEffect_holds {x : MatDesc} {m : State} {e : Fin 7} {zps : List ScaleRow} {aB bB biasB : List Byte} {src : List Source}
    (d : List Byte) (hdrain : x.drain = 0) (hpair : trefPair x.a x.b = some true) (hm : x.m ≠ 0) (hn : x.n ≠ 0)
    (hz : (if x.k = 0 then some [] else m.scaleRows e x.a) = some zps) (ha : m.tensorBytes e x.a = some aB)
    (hb : m.tensorBytes e x.b = some bB) (hbias : m.tensorBytes e x.bias = some biasB) (hsrc : m.epiSources e x.epi = some src) :
    matmulEffect e d x [] m = plain (m.onEngine e fun g => { g with held := some ⟨x.m, x.n,
      .ints (gridList x.m x.n fun i j =>
        dotInt (x.initial biasB m.engines[e].held i j) (x.rowLess aB zps i) (x.column bB j)),
      gridList x.m x.n fun i j => rhoDot (x.initialRho biasB m.engines[e].held i j) (x.rowLess aB zps i) (x.column bB j), []⟩ })
      (if x.k = 0 then 2 else 0) := by
  have hd : x.drains = false := by rw [MatDesc.drains, hdrain]; rfl
  unfold matmulEffect
  rw [if_neg (not_or_intro hm hn), hz, ha, hb, hbias, hsrc]
  simp only [hd, Bool.false_eq_true, if_false, matAcc_ints aB bB biasB zps _ hpair, holdTile_holds hdrain, HeldVals.anyNaN,
    Bool.and_false]
  by_cases hk : x.k = 0 <;> simp [noted, plain, flagIf, Note.flags, hk]

/-- Settles O29: every accumulator is its initial value and a dot product, and its residue follows the sum. -/
theorem matmulHoldsItsAccumulators : Obligations.MatmulHoldsItsAccumulators := by
  intro s c y hy hpass hups x e m0 holding hdrain hpair
  obtain rfl := Option.some.inj hy
  refine ⟨fun hzero => ?_, fun hm hn zps aB bB biasB src hz ha hb hbias hsrc => ?_⟩
  · refine answers_plain hy hpass ?_
    refine (if_pos hzero).trans ?_
    rw [holdTile_holds hdrain, if_pos hpair]
  · have heff := matmulEffect_holds c.desc hdrain hpair hm hn hz ha hb hbias hsrc
    rw [← hups] at heff
    obtain ⟨u, hexec, hend⟩ := answers_plain hy hpass heff
    refine ⟨u, hexec, _, _, hend, gridList_length _ _ _, fun i j hi hj => ?_, fun hrho => ?_⟩
    · rw [gridList_get _ hi hj]
      refine congrArg some ?_
      exact (dotInt_range _ _ _ _).trans rfl
    · rw [gridList_map]
      simp only [initialRho_mod7 biasB fun k l hk hl => hrho k l hk hl, rhoDot_mod7]

end Sys2Proof.Machine

/-! ## A KV_EDIT whose range holds no page (R221, R228) -/

namespace Sys2Proof.Machine

theorem require_true {ok : Bool} {st : Half} (h : ok = true) : require ok st = none := by rw [h]; rfl

/-- Each operation of KV_EDIT but SET_GLOBALS is the edit of its descriptor, with a change of its own for each page. -/
theorem engineCmd_edit {s : State} {i : Instr} {y : CmdRun} {c : EngCall} (h : engineCmd i s = some y)
    (hi : i ∈ [.kvEditPin c, .kvEditUnpin c, .kvEditDrop c, .kvEditConvert c, .kvEditReset c]) :
    ∃ change, y.eff = editEffect c.engine c.desc (editDesc c.desc) change := by
  simp only [List.mem_cons, List.not_mem_nil, or_false] at hi
  obtain rfl | rfl | rfl | rfl | rfl := hi <;> obtain rfl := Option.some.inj h
  · exact ⟨changePin, rfl⟩
  · exact ⟨changeUnpin, rfl⟩
  · exact ⟨changeDrop, rfl⟩
  · exact ⟨changeConvert (editDesc c.desc).newFmt, rfl⟩
  · exact ⟨changeDrop, rfl⟩

/-- An edit that finds its root, its layer, its format and its globals in order, and no page in its range, leaves the state as it
was: no page changes, and only SET_GLOBALS changes the globals. -/
theorem editEffect_noPages {e : Fin 7} {x : EditDesc} {m : State} {p : Fin 6} {r : KvRoot} (d : List Byte) (change : PageChange)
    (hr : m.memberRoot e x.kv = r) (hop : x.op ≠ 5) (hp : m.engines[e].part = some p)
    (hroot : r.fault m.parts[p].engines m.engines[e].logical = none) (hdim : r.dim = x.kv.d0) (hheads : r.heads = x.kv.d2)
    (hlayer : x.layer = 0xFF ∨ x.layer < r.layers) (hfmt : x.op = 3 → (r.legal x.newFmt).isSome = true)
    (hasc : ascending r.globals = true) (hrange : ∀ g ∈ r.globals, 0 ≤ g ∧ g ≤ maxPosition m.parts[p].engines)
    (hdeep : x.deepOk r r.globals = true) (hpages : m.editPages e r x = .ok []) :
    editEffect e d x change m = plain m 256 := by
  have hglobals : m.editGlobals e r x = r.globals := if_neg hop
  have hshape : (r.dim == x.kv.d0 && r.heads == x.kv.d2 && (x.layer == 0xFF || decide (x.layer < r.layers))) = true := by
    simpa [hdim, hheads] using hlayer
  have hformat : (x.op != 3 || (r.legal x.newFmt).isSome) = true := by
    simpa [Decidable.imp_iff_not_or] using hfmt
  have hlength : (ascending r.globals && (r.globals.all fun g => decide (0 ≤ g) && decide (g ≤ maxPosition m.parts[p].engines))
      && x.deepOk r r.globals) = true := by
    simpa [hasc, hdeep] using hrange
  unfold editEffect
  simp only [hp, hr, hglobals, hroot, hpages, require_true hshape, require_true hformat, require_true hlength, firstStatus,
    foldExcept, List.isEmpty_nil, beq_self_eq_true, Bool.and_self, if_true]

/-- Settles O31: reading the operands moves neither the engine nor its partition, so the checks of the root pass there, and the
edit has no page to change. -/
theorem kvEditOfNothingChangesNothing : Obligations.KvEditOfNothingChangesNothing := by
  intro s i y p hy hpass c e x hi hop hp m r hroot hdim hheads hlayer hfmt hasc hrange hdeep hpages
  obtain ⟨change, heff⟩ := engineCmd_edit hy hi
  have hpart : m.engines[e].part = some p := (reading_engine s c y.touch Engine.part (fun _ => rfl) e).trans hp
  have hlogical : m.engines[e].logical = s.engines[e].logical := reading_engine s c y.touch Engine.logical (fun _ => rfl) e
  have hparts : m.parts = s.parts := reading_parts s c y.touch
  rw [← hparts, ← hlogical] at hroot
  rw [← hparts] at hrange
  refine answers_plain hy hpass ?_
  rw [heff]
  exact editEffect_noPages c.desc change rfl hop hpart hroot hdim hheads hlayer hfmt hasc hrange hdeep hpages

end Sys2Proof.Machine

/-! ## Commands ended from outside: the watchdog and the overrun (R265, R311, R313) -/

namespace Sys2Proof.Machine

/-- A state without what ends of commands of partition `p` change: the free values drawn, what engines count, report and hold, the
step and the counters of the partition, and the bytes of the stores. -/
def State.withoutEnds (p : Fin 6) (z : State) : State :=
  { z with
    freeCtr := 0
    engines := z.engines.map fun g => { g with counters := Vector.replicate 32 0, lastFault := 0, held := none, paddock := [] }
    parts := vmod z.parts p fun x => { x with step := none, counters := Vector.replicate 16 0 }
    mem := { z.mem.bare with arena := [] } }

theorem withoutEnds_bytesless (p : Fin 6) (z : State) : z.bytesless.withoutEnds p = z.withoutEnds p := by
  have hv : (z.engines.map fun g : Engine => { g with paddock := [] }).map (fun g : Engine =>
        { g with counters := Vector.replicate 32 0, lastFault := 0, held := none, paddock := [] })
      = z.engines.map fun g => { g with counters := Vector.replicate 32 0, lastFault := 0, held := none, paddock := [] } :=
    Vector.map_map
  have hm : { { z.mem.bare with arena := [] }.bare with arena := [] } = { z.mem.bare with arena := [] } := by rw [bare_bare]
  exact congrArg₂ (fun v m => ({ z.withoutEnds p with engines := v, mem := m } : State)) hv hm

theorem withoutEnds_onPart (p : Fin 6) (z : State) {f : Partition → Partition}
    (hf : ∀ x : Partition, { f x with step := none, counters := Vector.replicate 16 0 }
      = { x with step := none, counters := Vector.replicate 16 0 }) : (z.onPart p f).withoutEnds p = z.withoutEnds p :=
  congrArg (fun v => ({ z.withoutEnds p with parts := v } : State)) (vmod_hides z.parts p f _ hf)

theorem withoutEnds_onEngine (p : Fin 6) (e : Fin 7) (z : State) {f : Engine → Engine}
    (hf : ∀ g : Engine, { f g with counters := Vector.replicate 32 0, lastFault := 0, held := none, paddock := [] }
      = { g with counters := Vector.replicate 32 0, lastFault := 0, held := none, paddock := [] }) :
    (z.onEngine e f).withoutEnds p = z.withoutEnds p :=
  congrArg (fun v => ({ z.withoutEnds p with engines := v } : State)) (vmod_map z.engines e f _ hf)

/-- How a state in which commands of partition `p` have been ended from outside with a status differs from the one before. -/
structure State.EndedAll (p : Fin 6) (st : Half) (l : List (Fin 7 × List Byte)) (z u : State) : Prop where
  places    : ∀ g : Fin 7, u.engines[g].part = z.engines[g].part ∧ u.engines[g].logical = z.engines[g].logical
  lastFault : ∀ g : Fin 7, u.engines[g].lastFault = if g ∈ l.map Prod.fst then st else z.engines[g].lastFault
  step      : u.parts[p].step = z.parts[p].step.map fun r => { r with
    faults := r.faults ++ l.map (fun x => faultOf z x.1 x.2 st), retired := r.retired ++ l.map fun x => (x.1, dIndex x.2) }
  counters  : u.parts[p].counters = z.parts[p].counters
  rest      : u.quiet.withoutEnds p = z.quiet.withoutEnds p

theorem State.EndedAll.refl (p : Fin 6) (st : Half) (z : State) : z.EndedAll p st [] z :=
  ⟨fun _ => ⟨rfl, rfl⟩, fun _ => rfl, by simp, rfl, rfl⟩

theorem State.EndedAll.trans {p : Fin 6} {st : Half} {l k : List (Fin 7 × List Byte)} {z y u : State} (h : z.EndedAll p st l y)
    (h' : y.EndedAll p st k u) : z.EndedAll p st (l ++ k) u := by
  have hfault (x : Fin 7 × List Byte) : faultOf y x.1 x.2 st = faultOf z x.1 x.2 st := by
    simp only [faultOf, (h.places x.1).2]
  refine ⟨fun g => ⟨(h'.places g).1.trans (h.places g).1, (h'.places g).2.trans (h.places g).2⟩, fun g => ?_, ?_,
    h'.counters.trans h.counters, h'.rest.trans h.rest⟩
  · rw [h'.lastFault, h.lastFault]
    by_cases hk : g ∈ k.map Prod.fst <;> by_cases hl : g ∈ l.map Prod.fst <;> simp [hk, hl]
  · rw [h'.step, h.step, Option.map_map]
    simp only [Function.comp_def, hfault, List.map_append, List.append_assoc]

/-- One command ended from outside (R265, R311). -/
theorem cutShort_ends {p : Fin 6} {st : Half} (hst : st ≠ stOk) (z : State) {e : Fin 7} (d : List Byte)
    (hp : z.engines[e].part = some p) : z.EndedAll p st [(e, d)] (z.cutShort e d st) := by
  have hbl := finish_bytesless z.drawWord.1 e d st 0 z.drawWord.2 []
  have hstep := ended_step z.drawWord.1 e d st 0 z.drawWord.2 [] (p := p) hp
  have heng (g : Fin 7) : (z.drawWord.1.ended e d st 0 z.drawWord.2 []).engines[g]
      = if e = g then z.engines[e].ended d st 0 [] z.drawWord.2 else z.engines[g] := by
    simp only [ended_engines]
    exact vmod_get ..
  have hended : (z.drawWord.1.ended e d st 0 z.drawWord.2 []) = (z.drawWord.1.onEngine e (Engine.ended d st 0 [] z.drawWord.2)).onStep p
      fun r => r.retire e d (some (faultOf z e d st)) := by
    have hpart : z.drawWord.1.engines[e].part = some p := hp
    unfold State.ended
    rw [hpart, if_neg hst]
    rfl
  have hfield {α : Type} (f : Engine → α) (hf : ∀ g, f { g with paddock := [] } = f g) (g : Fin 7) :
      f (z.cutShort e d st).engines[g] = f (if e = g then z.engines[e].ended d st 0 [] z.drawWord.2 else z.engines[g]) :=
    (engine_of_bytesless hbl f hf g).trans (congrArg f (heng g))
  refine ⟨fun g => ⟨?_, ?_⟩, fun g => ?_, ?_, ?_, ?_⟩
  · rw [hfield Engine.part (fun _ => rfl)]
    split
    · next h => exact h ▸ rfl
    · rfl
  · rw [hfield Engine.logical (fun _ => rfl)]
    split
    · next h => exact h ▸ rfl
    · rfl
  · rw [hfield Engine.lastFault (fun _ => rfl)]
    by_cases h : e = g
    · rw [if_pos h, if_pos (by simp [h])]
      exact if_neg hst
    · rw [if_neg h, if_neg (by simpa using Ne.symm h)]
  · refine (congrArg (fun v : Vector Partition 6 => v[p].step) (parts_of_bytesless hbl)).trans (hstep.trans ?_)
    rw [if_neg hst]
    refine congrArg (fun f => z.parts[p].step.map f) (funext fun r => ?_)
    simp only [StepRun.retire, Option.isNone_some, Bool.and_false, Bool.false_and, Bool.false_eq_true, if_false]
    rfl
  · refine (congrArg (fun v : Vector Partition 6 => v[p].counters) (parts_of_bytesless hbl)).trans ?_
    rw [hended]
    exact (congrArg Partition.counters (vmod_same z.parts p _) :)
  · refine (withoutEnds_bytesless p _).symm.trans ((congrArg (State.withoutEnds p) (bytesless_quiet hbl)).trans ?_)
    rw [withoutEnds_bytesless, hended]
    exact (withoutEnds_onPart p _ (by exact fun _ => rfl)).trans
      ((withoutEnds_onEngine p e z.drawWord.1.quiet (f := Engine.ended d st 0 [] z.drawWord.2) (by exact fun _ => rfl)).trans rfl)

/-- Commands of the engines of a partition ended from outside one after another. -/
theorem foldl_cutShort_ends {p : Fin 6} {st : Half} (hst : st ≠ stOk) (l : List (Fin 7 × List Byte)) (z : State)
    (hp : ∀ x ∈ l, z.engines[x.1].part = some p) :
    z.EndedAll p st l (l.foldl (fun (s : State) (x : Fin 7 × List Byte) => s.cutShort x.1 x.2 st) z) := by
  induction l generalizing z with
  | nil => exact .refl p st z
  | cons x l ih =>
    have hx := cutShort_ends hst z x.2 (hp x List.mem_cons_self)
    exact hx.trans (ih _ fun y hy => (hx.places y.1).1.trans (hp y (List.mem_cons_of_mem _ hy)))

theorem mem_members {s : State} {p : Fin 6} {e : Fin 7} (h : e ∈ s.members p) : s.engines[e].part = some p := by
  simp only [State.members, List.mem_flatMap, List.mem_filter, Bool.and_eq_true, beq_iff_eq] at h
  obtain ⟨_, _, _, h, _⟩ := h
  exact h

/-- The commands that the watchdog of a step ends (R240, R265). -/
def State.late (s : State) (p : Fin 6) (r : StepRun) : List (Fin 7 × List Byte) :=
  if r.waitRemount then r.exchanges.map fun x => (x.engine, x.desc)
  else (s.members p).flatMap fun e => (s.unretired r e).map fun d => (e, d)

theorem late_part {s : State} {p : Fin 6} {r : StepRun} (h : r.waitRemount = true → ∀ x ∈ r.exchanges, s.engines[x.engine].part = some p) :
    ∀ x ∈ s.late p r, s.engines[x.1].part = some p := by
  intro x hx
  unfold State.late at hx
  split at hx
  · next hw =>
    obtain ⟨y, hy, rfl⟩ := List.mem_map.1 hx
    exact h hw y hy
  · obtain ⟨e, he, hx⟩ := List.mem_flatMap.1 hx
    obtain ⟨d, _, rfl⟩ := List.mem_map.1 hx
    exact mem_members he

section
variable {s : State} {p : Fin 6} {r : StepRun} (hr : s.parts[p].step = some r)
include hr

theorem watchdogEffect_early (h : s.now < r.started + r.bound + 10000 ∨ s.late p r = []) : watchdogEffect p s = s := by
  unfold watchdogEffect
  rw [hr]
  dsimp only
  split
  · rfl
  · next hnot =>
    have hl : s.late p r = [] := h.resolve_left fun hn => hnot (.inr hn)
    exact if_pos (List.isEmpty_iff.2 hl)

/-- The watchdog that fires: its commands end with WATCHDOG, then it counts. -/
theorem watchdogEffect_fires (hh : s.power.hold = none) (hn : r.started + r.bound + 10000 ≤ s.now) (hl : s.late p r ≠ []) :
    watchdogEffect p s =
      let u := (s.late p r).foldl (fun (s : State) (x : Fin 7 × List Byte) => s.cutShort x.1 x.2 stWatchdog) s
      (if r.waitRemount then u.onStep p fun x => { x with exchanges := [] } else u).countPart p Part.stepWatchdogs 1 := by
  unfold watchdogEffect
  rw [hr]
  dsimp only
  rw [if_neg (by simp [hh]; omega)]
  exact if_neg fun hnil => hl (List.isEmpty_iff.1 hnil)

end

/-- A command that the overrun names: in a step of a SCHEDULED partition that keeps its contract it ends alone, at its DONE_BY cycle
(R288, R311, R313). -/
theorem overrunEffect_eq {s : State} {p : Fin 6} {r : StepRun} {e : Fin 7} {i : Half} {d : List Byte} {x : SchedEntry}
    (hp : s.engines[e].part = some p) (hr : s.parts[p].step = some r) (hh : s.power.hold = none) (hs : s.parts[p].scheduled = true)
    (hm : r.mode ≠ .managed) (hw : r.waitRemount = false) (hd : (s.unretired r e).find? (fun d => dIndex d == i.toNat) = some d)
    (hx : s.entryOf p r s.engines[e].logical i.toNat = some x) :
    overrunEffect e i s = if r.recovered = false ∧ r.started + x.doneBy ≤ s.now then s.cutShort e d 0x0204 else s := by
  unfold overrunEffect
  rw [hp]
  dsimp only
  rw [hr]
  dsimp only
  cases hrec : r.recovered with
  | true => rw [if_pos (by simp), if_neg (by simp)]
  | false =>
    have hgo : ¬ ((!s.parts[p].scheduled) = true ∨ r.mode = .managed ∨ r.waitRemount = true ∨ false = true ∨ s.power.hold.isSome = true) := by
      rw [hs, hw, hh]
      simp [hm]
    rw [if_neg hgo, hd, hx]
    simp

/-- What the end of a command that ends others from outside answers: they have ended, and the partition has counted. -/
theorem endedAll_answers {s z u : State} {p : Fin 6} {r : StepRun} {st : Half} {l : List (Fin 7 × List Byte)} (t wd : Nat)
    (h : (s.at t).EndedAll p st l z) (hr : s.parts[p].step = some r)
    (hu : u = (if r.waitRemount then z.onStep p fun x => { x with exchanges := [] } else z).countPart p 1 wd) :
    (∃ q, (commit s u).parts[p].step = some q ∧ q.faults = r.faults ++ l.map (fun x => faultOf s x.1 x.2 st)
        ∧ q.retired = r.retired ++ l.map (fun x => (x.1, dIndex x.2)) ∧ q.done = r.done ∧ q.contexts = r.contexts
        ∧ q.exchanges = if r.waitRemount then [] else r.exchanges)
      ∧ (∀ x ∈ l, (commit s u).engines[x.1].lastFault = st)
      ∧ (commit s u).parts[p].counters = bumpAt s.parts[p].counters 1 wd
      ∧ Kept (State.withoutEnds p) s (commit s u) := by
  subst hu
  obtain ⟨_, hlast, hstep, hcounters, hrest⟩ := h
  have hz : z.parts[p].step = some { r with
      faults := r.faults ++ l.map (fun x => faultOf s x.1 x.2 st), retired := r.retired ++ l.map fun x => (x.1, dIndex x.2) } := by
    rw [hstep, State.at_parts, hr]
    rfl
  have hlast' (x : Fin 7 × List Byte) (hx : x ∈ l) : z.engines[x.1].lastFault = st := by
    rw [hlast, if_pos (List.mem_map_of_mem hx)]
  simp only [commit_parts, commit_engines]
  by_cases hw : r.waitRemount = true
  · simp only [hw, if_true]
    have hstep' : (z.onStep p fun x => { x with exchanges := [] }).parts[p].step = _ :=
      (onStep_step ..).trans (congrArg (Option.map _) hz)
    refine ⟨⟨_, (congrArg Partition.step (vmod_same _ p _)).trans hstep', rfl, rfl, rfl, rfl, rfl⟩, hlast', ?_, kept_commit _ ?_⟩
    · refine (congrArg Partition.counters (vmod_same _ p _)).trans (congrArg (bumpAt · 1 wd) ?_)
      exact (congrArg Partition.counters (vmod_same z.parts p _)).trans hcounters
    · exact (withoutEnds_onPart p _ (by exact fun _ => rfl)).trans ((withoutEnds_onPart p z.quiet (by exact fun _ => rfl)).trans hrest)
  · simp only [hw]
    refine ⟨⟨_, (congrArg Partition.step (vmod_same z.parts p _)).trans hz, rfl, rfl, rfl, rfl, rfl⟩, hlast', ?_, kept_commit _ ?_⟩
    · exact (congrArg Partition.counters (vmod_same z.parts p _)).trans (congrArg (bumpAt · 1 wd) hcounters)
    · exact (withoutEnds_onPart p z.quiet (by exact fun _ => rfl)).trans hrest

theorem unretired_at (s : State) (t : Nat) (r : StepRun) (e : Fin 7) : (s.at t).unretired r e = s.unretired r e := by
  simp only [State.unretired, State.posted, State.at_engines, postedFrom_congr (s.at_mem t)]

theorem late_at (s : State) (t : Nat) (p : Fin 6) (r : StepRun) : (s.at t).late p r = s.late p r := by
  have hmem : (s.at t).members p = s.members p := rfl
  simp only [State.late, unretired_at, hmem]

/-- Settles O38: each command that is cut short ends as any command does (`cutShort_ends`), the late ones one after another. -/
theorem watchdogAndOverrunEndCommands : Obligations.WatchdogAndOverrunEndCommands := by
  intro s p r t hr hh hexch frame Ends late
  have hlate : late = (s.at t).late p r := (late_at s t p r).symm
  clear_value late
  subst hlate
  refine ⟨fun h => ⟨_, rfl, kept_commit _ ?_⟩, fun hn hl => ⟨_, rfl, ?_⟩, fun e i d x hp hs hm hw hd hx =>
    have hd := (congrArg (List.find? _) (unretired_at s t r e)).trans hd
    ⟨fun h => ⟨_, rfl, kept_commit _ ?_⟩, fun hn hrec => ⟨_, rfl, ?_⟩⟩⟩
  · rw [watchdogEffect_early (s := s.at t) hr h]
    rfl
  · exact endedAll_answers t 1 (foldl_cutShort_ends (by decide) ((s.at t).late p r) (s.at t) (late_part hexch)) hr
      (watchdogEffect_fires (s := s.at t) hr hh hn hl)
  · rw [overrunEffect_eq (s := s.at t) hp hr hh hs hm hw hd hx, if_neg]
    · rfl
    · rintro ⟨hrec, hdone⟩
      rcases h with h | h
      · exact absurd hdone (Nat.not_le.2 h)
      · simp [h] at hrec
  · refine endedAll_answers t 0 (cutShort_ends (st := 0x0204) (by decide) (s.at t) d hp) hr ?_
    rw [overrunEffect_eq (s := s.at t) hp hr hh hs hm hw hd hx, if_pos ⟨hrec, hn⟩, hw]
    exact (congrArg (fun v => ({ (s.at t).cutShort e d 0x0204 with parts := v } : State))
      (vmod_self _ p (f := fun x => { x with counters := bumpAt x.counters 1 0 }) (by rw [bumpAt_zero]))).symm

end Sys2Proof.Machine

/-! ## What the bookkeeping of contexts leaves of the partitions and their steps (R264, R268 to R279) -/

namespace Sys2Proof.Machine

/-- What binds a partition, and what a step boundary counts and charges in it: its descriptor, its engines, the recipes it waits for,
its virtual times, the windows of its Spur, and STEPS. -/
def Partition.terms (x : Partition) :=
  (x.desc, x.engines, x.bound, x.binding, x.nextRecipes, x.vTime, x.spur, x.counters[0])

/-- An engine's place in its partition, and what it does in the step. -/
def Engine.duty (g : Engine) := (g.part, g.logical, g.busy, g.published)

/-- What the bookkeeping of contexts leaves as it was: device time, boot, the mailbox, the engines' duties, and the terms and steps of
the partitions. -/
def State.terms (s : State) :=
  (s.now, s.boot, s.host.box, s.engines.map Engine.duty, s.parts.map fun x => (x.terms, x.step))

section
variable {s u : State} (h : u.terms = s.terms)
include h

theorem terms_now : u.now = s.now := congrArg (·.1) h

theorem terms_boot : u.boot = s.boot := congrArg (·.2.1) h

theorem terms_box : u.host.box = s.host.box := congrArg (·.2.2.1) h

theorem terms_duty (e : Fin 7) : u.engines[e].duty = s.engines[e].duty := by
  have k : (u.terms.2.2.2.1)[e] = (s.terms.2.2.2.1)[e] := by rw [h]
  simpa only [State.terms, Fin.getElem_fin, Vector.getElem_map] using k

theorem terms_part (p : Fin 6) : u.parts[p].terms = s.parts[p].terms ∧ u.parts[p].step = s.parts[p].step := by
  have k : (u.terms.2.2.2.2)[p] = (s.terms.2.2.2.2)[p] := by rw [h]
  simpa only [State.terms, Fin.getElem_fin, Vector.getElem_map, Prod.mk.injEq] using k

end

theorem onEngine_terms (s : State) (e : Fin 7) {f : Engine → Engine} (hf : ∀ g, (f g).duty = g.duty := by exact fun _ => rfl) :
    (s.onEngine e f).terms = s.terms :=
  congrArg (fun v => (s.now, s.boot, s.host.box, v, s.parts.map fun x => (x.terms, x.step))) (vmod_map s.engines e f _ hf)

theorem onPart_terms (s : State) (p : Fin 6) {f : Partition → Partition}
    (hf : ∀ x, ((f x).terms, (f x).step) = (x.terms, x.step) := by exact fun _ => rfl) : (s.onPart p f).terms = s.terms :=
  congrArg (fun v => (s.now, s.boot, s.host.box, s.engines.map Engine.duty, v)) (vmod_map s.parts p f _ hf)

theorem foldl_terms {α : Type} {f : State → α → State} (l : List α) {s u : State} (hf : ∀ z a, (f z a).terms = z.terms)
    (h : s.terms = u.terms) : (l.foldl f s).terms = u.terms :=
  foldl_keeps (P := fun z : State => z.terms = u.terms) (fun z a k => (hf z a).trans k) h

theorem countPart_terms (s : State) (p : Fin 6) {i : Nat} (k : Nat) (hi : i ≠ 0 := by decide) :
    (s.countPart p i k).terms = s.terms :=
  onPart_terms s p fun x => by
    have h0 : (bumpAt x.counters i k)[0] = x.counters[0] := (bumpAt_get x.counters i k 0 (by decide)).trans (if_neg hi)
    simp only [Partition.terms, h0]

theorem mainPut_terms (s : State) (a : Nat) (bs : List Byte) : (s.mainPut a bs).terms = s.terms := by
  obtain ⟨m, hm, _⟩ := mainPut_eq s a bs
  rw [hm]
  rfl

/-- A descriptor brought into the cache changes memory alone. -/
theorem holdDescriptor_eq (s : State) (id : Nat) : ∃ m, s.holdDescriptor id = { s with mem := m } := by
  unfold State.holdDescriptor
  extract_lets l put
  split
  · exact ⟨_, rfl⟩
  · split
    · exact ⟨_, rfl⟩
    · split
      · next x _ =>
        obtain ⟨m, hm, _⟩ := mainPut_eq s (s.boot.limits.ctxTableBase + 64 * x.2) (s.descriptor x.2)
        rw [hm]
        exact ⟨_, rfl⟩
      · exact ⟨_, rfl⟩

theorem freeKv_terms (s : State) (c : Context) : (s.freeKv c).terms = s.terms := by
  unfold State.freeKv
  split
  · rfl
  · exact foldl_terms _ (fun z e => onEngine_terms z e) (onPart_terms s c.part)

theorem buildRoots_terms (s : State) (p : Fin 6) (k : KvRoot) (lo : Nat) : (s.buildRoots p k lo).1.terms = s.terms :=
  foldl_terms _ (fun z m => (onPart_terms _ p).trans ((mainPut_terms _ _ _).trans (mainPut_terms z _ _))) rfl

@[simp] theorem mainPut_contexts (s : State) (a : Nat) (bs : List Byte) : (s.mainPut a bs).contexts = s.contexts := by
  obtain ⟨m, hm, _⟩ := mainPut_eq s a bs
  rw [hm]

theorem buildRoots_contexts (s : State) (p : Fin 6) (k : KvRoot) (lo : Nat) : (s.buildRoots p k lo).1.contexts = s.contexts := by
  refine foldl_keeps (P := fun z : State => z.contexts = s.contexts) (fun z m h => ?_) rfl
  simp only [State.buildRoot, State.onPart_contexts, mainPut_contexts, h]

/-- Whether, from `s` to `u`, the terms of the partitions stay and no context is new. -/
structure State.NoNewContext (s u : State) : Prop where
  terms : u.terms = s.terms
  fewer : u.contexts.length ≤ s.contexts.length

theorem State.NoNewContext.refl (s : State) : s.NoNewContext s := ⟨rfl, Nat.le_refl _⟩

theorem State.NoNewContext.trans {s u v : State} (h : s.NoNewContext u) (h' : u.NoNewContext v) : s.NoNewContext v :=
  ⟨h'.terms.trans h.terms, Nat.le_trans h'.fewer h.fewer⟩

theorem foldl_noNewContext {α : Type} {f : State → α → State} (hf : ∀ (z : State) (a : α), z.NoNewContext (f z a)) (l : List α) (s : State) :
    s.NoNewContext (l.foldl f s) :=
  foldl_keeps (P := s.NoNewContext) (fun z a h => h.trans (hf z a)) (.refl s)

theorem onContext_noNew (s : State) (i : Nat) (f : Context → Context) : s.NoNewContext (s.onContext i f) :=
  ⟨rfl, by simp [State.onContext]⟩

theorem countPart_noNew (s : State) (p : Fin 6) {i : Nat} (k : Nat) (hi : i ≠ 0 := by decide) :
    s.NoNewContext (s.countPart p i k) :=
  ⟨countPart_terms s p k hi, Nat.le_refl _⟩

theorem addStatus_noNew (s : State) (k code detail : Nat) : s.NoNewContext (s.addStatus k code detail) := ⟨rfl, Nat.le_refl _⟩

theorem holdDescriptor_noNew (s : State) (id : Nat) : s.NoNewContext (s.holdDescriptor id) := by
  obtain ⟨m, hm⟩ := holdDescriptor_eq s id
  rw [hm]
  exact ⟨rfl, Nat.le_refl _⟩

theorem freeContext_noNew (s : State) (c : Context) : s.NoNewContext (s.freeContext c) := by
  refine ⟨freeKv_terms s c, ?_⟩
  rw [freeContext_contexts]
  exact List.length_filter_le ..

theorem freeSide_noNew (s : State) (k : Nat) : s.NoNewContext (s.freeSide k) := by
  obtain ⟨hterms, hfewer⟩ := foldl_noNewContext freeContext_noNew (s.contexts.filter fun c => c.side == k) s
  exact ⟨hterms, hfewer⟩

theorem abandonSide_noNew (s : State) (k code detail : Nat) : s.NoNewContext (s.abandonSide k code detail) := by
  obtain ⟨hterms, hfewer⟩ := freeSide_noNew s k
  exact ⟨hterms, hfewer⟩

theorem resetKv_noNew (s : State) (c : Context) : s.NoNewContext (s.resetKv c) := by
  unfold State.resetKv
  split
  · refine ⟨(buildRoots_terms _ _ _ _).trans (freeKv_terms s c), ?_⟩
    rw [buildRoots_contexts, freeKv_contexts]
  · exact .refl s

theorem wakeSide_noNew (s : State) (k : Nat) : s.NoNewContext (s.wakeSide k) := by
  unfold State.wakeSide
  split
  · exact .refl s
  · split
    · exact onContext_noNew s _ _
    · exact .refl s

theorem endLine_noNew (s : State) (c : Context) : s.NoNewContext (s.endLine c) :=
  (freeContext_noNew s c).trans (wakeSide_noNew _ _)

theorem lineOverrun_noNew (s : State) (c : Context) : s.NoNewContext (s.lineOverrun c) := by
  unfold State.lineOverrun
  extract_lets fb
  split
  · exact ((resetKv_noNew s c).trans (countPart_noNew _ _ _)).trans (onContext_noNew _ _ _)
  · exact (((onContext_noNew s _ _).trans (addStatus_noNew _ _ _ _)).trans (countPart_noNew _ _ _)).trans (endLine_noNew _ c)

theorem settleSwitch_noNew (s : State) (id : Nat) : s.NoNewContext (s.settleSwitch id) := by
  unfold State.settleSwitch
  split
  · exact .refl s
  · split
    · exact .refl s
    · split
      · exact onContext_noNew s _ _
      · exact .refl s

theorem switchSide_noNew {s u : State} {c : Context} (h : s.switchSide c = some u) : s.NoNewContext u := by
  unfold State.switchSide at h
  split at h
  · split at h
    · cases h
    · split at h
      · cases h
      · next q _ =>
        cases h
        refine ⟨(countPart_terms ((s.onSide c.side _).addStatus c.side 0x0301 q.1) c.part (i := Part.fallbackSwitches) 1 :), ?_⟩
        exact Nat.le_of_eq (List.length_map ..)
  · cases h

theorem predict_noNew (s : State) (id : Nat) : s.NoNewContext (s.predict id) := by
  unfold State.predict
  split
  · exact .refl s
  · split
    · split
      · exact .refl s
      · extract_lets rb f
        split
        · split
          · next z hz => exact (switchSide_noNew hz).trans (settleSwitch_noNew z id)
          · exact countPart_noNew s _ _
        · exact .refl s
    · exact .refl s

theorem failContext_noNew (s : State) (id : Nat) (code : Half) (logical : Nat) : s.NoNewContext (s.failContext id code logical) := by
  unfold State.failContext
  split
  · exact .refl s
  · split
    · exact abandonSide_noNew s _ _ _
    · split
      · exact lineOverrun_noNew s _
      · split
        · next z hz =>
          exact (switchSide_noNew hz).trans
            ((addStatus_noNew z _ _ _).trans ((onContext_noNew _ _ _).trans (settleSwitch_noNew _ _)))
        · exact abandonSide_noNew s _ _ _

theorem lineAfter_noNew (s : State) (c : Context) (final : Bool) : s.NoNewContext (s.lineAfter c final) := by
  unfold State.lineAfter
  split
  · have hmean : s.NoNewContext (s.onPart c.part fun x => { x with
        means := vmod x.means (s.decoderOf c) fun m => m.add (s.now - c.aux) }) := ⟨onPart_terms s c.part, Nat.le_refl _⟩
    exact hmean.trans (endLine_noNew _ c)
  · split
    · exact lineOverrun_noNew s c
    · exact onContext_noNew s _ _

theorem sideAfter_noNew (s : State) (c : Context) (lines : Nat) : s.NoNewContext (s.sideAfter c lines) := by
  unfold State.sideAfter
  extract_lets +onlyGivenNames s1 ended s2
  have h2 : s1.NoNewContext s2 := by
    dsimp only [s2]
    split
    · exact .refl s1
    · exact predict_noNew s1 c.id
  extract_lets +onlyGivenNames conf s3 next
  have h3 : s2.NoNewContext s3 := ⟨rfl, Nat.le_refl _⟩
  exact (((settleSwitch_noNew s c.id).trans h2).trans h3).trans (onContext_noNew s3 c.id _)

theorem contextAfter_noNew (s : State) (reports : List CtxReport) (id : Nat) : s.NoNewContext (s.contextAfter reports id) := by
  have h1 := (onContext_noNew s id fun c => { c with chainPos := c.chainPos + 1, lastUse := s.now }).trans (holdDescriptor_noNew _ id)
  unfold State.contextAfter
  extract_lets +onlyGivenNames s1
  split
  · exact h1
  · extract_lets rep
    split
    · exact h1.trans (lineAfter_noNew s1 _ _)
    · exact h1.trans (sideAfter_noNew s1 _ _)

end Sys2Proof.Machine

/-! ## What the score logs and the counts of a step leave (R186, R222 to R225, R245) -/

namespace Sys2Proof.Machine

/-- What the end of a step leaves as it was until its contexts go on: device time, boot, the host interface, the contexts, the sides,
the admission queue, the engines' duties, and the partitions' terms. -/
def State.logged (s : State) :=
  (s.now, s.boot, s.host, s.contexts, s.sides, s.queue, s.engines.map Engine.duty, s.parts.map Partition.terms)

theorem onEngine_logged (s : State) (e : Fin 7) {f : Engine → Engine} (hf : ∀ g, (f g).duty = g.duty := by exact fun _ => rfl) :
    (s.onEngine e f).logged = s.logged :=
  congrArg (fun v => (s.now, s.boot, s.host, s.contexts, s.sides, s.queue, v, s.parts.map Partition.terms))
    (vmod_map s.engines e f _ hf)

theorem onPart_logged (s : State) (p : Fin 6) {f : Partition → Partition}
    (hf : ∀ x, (f x).terms = x.terms := by exact fun _ => rfl) : (s.onPart p f).logged = s.logged :=
  congrArg (fun v => (s.now, s.boot, s.host, s.contexts, s.sides, s.queue, s.engines.map Engine.duty, v))
    (vmod_map s.parts p f _ hf)

theorem foldl_logged {α : Type} {f : State → α → State} (l : List α) {s u : State} (hf : ∀ z a, (f z a).logged = z.logged)
    (h : s.logged = u.logged) : (l.foldl f s).logged = u.logged :=
  foldl_keeps (P := fun z : State => z.logged = u.logged) (fun z a k => (hf z a).trans k) h

theorem OnlyMem.logged {s u : State} (h : OnlyMem s u) : u.logged = s.logged := by
  rw [h.1]
  rfl

/-! A change to a root. -/

theorem KvEdit.write_logged (x : KvEdit) (a : Nat) (bs : List Byte) : (x.write a bs).s.logged = x.s.logged := by
  unfold KvEdit.write
  split
  · exact (onlyMem_mainWrite x.s a bs).logged
  · rfl

theorem KvEdit.newBlock_logged {x : KvEdit} {content : List Byte} {y : KvEdit × Nat} (e : x.newBlock content = .ok y) :
    y.1.s.logged = x.s.logged := by
  unfold KvEdit.newBlock at e
  split at e
  · cases e
  · split at e
    · cases e
    · cases e
      exact (KvEdit.write_logged _ _ _).trans (onPart_logged x.s x.p)

theorem KvEdit.block_logged {x : KvEdit} {old : Option Nat} {y : KvEdit × Nat} (e : x.block old = .ok y) :
    y.1.s.logged = x.s.logged := by
  unfold KvEdit.block at e
  split at e
  · exact KvEdit.newBlock_logged e
  · split at e
    · cases e
      rfl
    · split at e
      · cases e
      · next x' n hx =>
        cases e
        exact KvEdit.newBlock_logged (y := (x', n)) hx

theorem KvEdit.put_logged {w : Nat} {path : List Nat} {x : KvEdit} {b : Option Nat} {y : KvEdit × Nat}
    (e : KvEdit.put w path x b = .ok y) : y.1.s.logged = x.s.logged := by
  induction path generalizing x b y with
  | nil =>
    cases e
    rfl
  | cons i rest ih =>
    cases rest with
    | nil =>
      unfold KvEdit.put at e
      split at e
      · cases e
      · next x' n hx =>
        cases e
        exact (KvEdit.write_logged _ _ _).trans (KvEdit.block_logged (y := (x', n)) hx)
    | cons j rest =>
      unfold KvEdit.put at e
      split at e
      · cases e
      · next x' n hx =>
        split at e
        · cases e
        · next x'' c hc =>
          cases e
          exact (KvEdit.write_logged _ _ _).trans ((ih (y := (x'', c)) hc).trans (KvEdit.block_logged (y := (x', n)) hx))

theorem ScoreRun.put_logged (a : ScoreRun) (layer l : Nat) (p : Pte) (score : Nat) :
    (a.put layer l p score).x.s.logged = a.x.s.logged := by
  unfold ScoreRun.put
  split
  · next x r hx =>
    unfold KvEdit.setEntry at hx
    split at hx
    · cases hx
    · next hb =>
      cases hx
      exact KvEdit.put_logged (y := (_, _)) hb
  · rfl

theorem ScoreRun.halve_logged (a : ScoreRun) (e : Fin 7) (layer : Nat) : (a.halve e layer).x.s.logged = a.x.s.logged := by
  unfold ScoreRun.halve
  split
  · rfl
  · exact (onEngine_logged _ e).trans (foldl_keeps (P := fun b : ScoreRun => b.x.s.logged = a.x.s.logged)
      (fun b q h => (ScoreRun.put_logged b _ _ _ _).trans h) rfl)

theorem applyScore_logged (e : Fin 7) (a : ScoreRun) (se : ScoreEntry) : (applyScore e a se).x.s.logged = a.x.s.logged := by
  unfold applyScore
  split
  · rfl
  · next p _ =>
    have h : (if p.score + se.inc > 65535 then a.halve e se.layer else a).x.s.logged = a.x.s.logged := by
      split
      · exact ScoreRun.halve_logged a e _
      · rfl
    dsimp only
    split
    · exact h
    · exact (ScoreRun.put_logged _ _ _ _ _).trans h

theorem KvEdit.shadow_logged (x : KvEdit) (r : KvRoot) (stepId : Nat) : (x.shadow r stepId).1.s.logged = x.s.logged := by
  unfold KvEdit.shadow
  split
  · rfl
  · dsimp only
    exact (onPart_logged _ _).trans (KvEdit.write_logged x _ _)

theorem KvEdit.account_logged (x : KvEdit) (freed : List Nat) : (x.account freed).logged = x.s.logged := by
  unfold KvEdit.account
  split <;> exact onPart_logged x.s x.p

theorem KvEdit.publish_logged (x : KvEdit) (r : KvRoot) (e : Fin 7) (changed : List (Nat × Nat)) :
    (x.publish r e changed).1.logged = x.s.logged := by
  unfold KvEdit.publish
  dsimp only
  split
  · exact (onEngine_logged _ e).trans ((KvEdit.account_logged _ _).trans (KvEdit.write_logged x _ _))
  · exact (KvEdit.account_logged _ _).trans (KvEdit.write_logged x _ _)

theorem applyLog_logged (s : State) (p : Fin 6) (e : Fin 7) (stepId : Nat) : (s.applyLog p e stepId).logged = s.logged := by
  unfold State.applyLog
  refine (onEngine_logged _ e).trans (foldl_logged _ (fun z root => ?_) rfl)
  exact (KvEdit.publish_logged _ _ _ _).trans (foldl_keeps (P := fun a : ScoreRun => a.x.s.logged = z.logged)
    (fun a se h => (applyScore_logged e a se).trans h) (KvEdit.shadow_logged _ _ _))

/-! The counts of a step. -/

theorem returnFreed_logged (s : State) (p : Fin 6) (r : StepRun) : (s.returnFreed p r).logged = s.logged :=
  foldl_logged _ (fun z _ => onPart_logged z p) (foldl_logged _ (fun z _ => onPart_logged z p) rfl)

theorem log_logged (s : State) (code : Half) (src : Byte) (bs : List Byte) : (s.log code src bs).logged = s.logged := rfl

theorem addClips_logged (s : State) (p : Fin 6) (alarms : List Nat) : (s.addClips p alarms).logged = s.logged := by
  refine foldl_logged _ (fun z i => ?_) rfl
  dsimp only
  split
  · rfl
  · split
    · exact (log_logged _ _ _ _).trans (onPart_logged z p)
    · exact onPart_logged z p

theorem addLoads_logged (s : State) (p : Fin 6) (counts : List (Nat × Nat)) : (s.addLoads p counts).logged = s.logged :=
  foldl_logged _ (fun z _ => onPart_logged z p) rfl

section
variable {s u : State} (h : u.logged = s.logged)
include h

theorem logged_duty (e : Fin 7) : u.engines[e].duty = s.engines[e].duty := by
  have k : (u.logged.2.2.2.2.2.2.1)[e] = (s.logged.2.2.2.2.2.2.1)[e] := by rw [h]
  simpa only [State.logged, Fin.getElem_fin, Vector.getElem_map] using k

theorem logged_terms (p : Fin 6) : u.parts[p].terms = s.parts[p].terms := by
  have k : (u.logged.2.2.2.2.2.2.2)[p] = (s.logged.2.2.2.2.2.2.2)[p] := by rw [h]
  simpa only [State.logged, Fin.getElem_fin, Vector.getElem_map] using k

theorem logged_members (p : Fin 6) : u.members p = s.members p := by
  have hd (e : Fin 7) : u.engines[e].part = s.engines[e].part ∧ u.engines[e].logical = s.engines[e].logical :=
    ⟨congrArg (·.1) (logged_duty h e), congrArg (·.2.1) (logged_duty h e)⟩
  unfold State.members
  simp only [(hd _).1, (hd _).2]

end

/-! ## The retirement of a step (R264, R267, R276) -/

/-- An engine that its step has left. -/
def Engine.rested (g : Engine) : Engine := { g with busy := false, published := [], routeMaps := [] }

/-- Engines that rest, one after another. -/
theorem foldl_rested (l : List (Fin 7)) (z : State) : ∃ v : Vector Engine 7,
    l.foldl (fun (s : State) (e : Fin 7) => s.onEngine e Engine.rested) z = { z with engines := v }
    ∧ ∀ e : Fin 7, e ∈ l ∨ z.engines[e].busy = false ∧ z.engines[e].published = [] → v[e].busy = false ∧ v[e].published = [] := by
  induction l generalizing z with
  | nil => exact ⟨z.engines, rfl, fun e he => he.resolve_left List.not_mem_nil⟩
  | cons a l ih =>
    obtain ⟨v, hv, hrest⟩ := ih (z.onEngine a Engine.rested)
    refine ⟨v, hv, fun e he => hrest e ?_⟩
    rw [onEngine_engine]
    by_cases ha : a = e
    · exact .inr (by rw [if_pos ha]; exact ⟨rfl, rfl⟩)
    · rw [if_neg ha]
      exact he.imp_left fun h => (List.mem_cons.1 h).resolve_left (Ne.symm ha)

/-- A step closed: its engines rest, and nothing else that `logged` shows has changed. -/
theorem closeStep_eq (s : State) (p : Fin 6) (r : StepRun) : ∃ (z : State) (v : Vector Engine 7), z.logged = s.logged
    ∧ s.closeStep p r = { z with engines := v } ∧ ∀ e ∈ s.members p, v[e].busy = false ∧ v[e].published = [] := by
  have hlogs : ((s.members p).foldl (fun s e => s.applyLog p e r.stepId.toNat) s).logged = s.logged :=
    foldl_logged _ (fun z e => applyLog_logged z p e _) rfl
  unfold State.closeStep
  extract_lets y z
  have hz : z.logged = s.logged := by
    dsimp only [z]
    split
    · exact (returnFreed_logged y p _).trans hlogs
    · exact hlogs
  rw [logged_members hz]
  obtain ⟨v, hv, hrest⟩ := foldl_rested (s.members p) z
  exact ⟨z, v, hz, hv, fun e he => hrest e (.inl he)⟩

/-- A partition whose step has ended at an instant (R264, R276). -/
def Partition.closed (r : StepRun) (now : Nat) (x : Partition) : Partition :=
  { x with
    step := none
    masters := keepMasters (r.masters.reverse ++ x.masters)
    spur := vmod x.spur r.gait fun w => ⟨((now - r.oldestReady, r.bound) :: w.window).take 64⟩
    counters := bumpAt x.counters Part.steps 1 }

/-- A state in which a step has ended, and its contexts have yet to go on. -/
def State.retiring (s : State) (p : Fin 6) (r : StepRun) : State :=
  let s := s.closeStep p r
  let alarms := match s.recipeFor p r.gait.val with
    | some x => x.clipAlarms
    | none => []
  let s := (s.addClips p alarms).addLoads p r.exchCounts
  s.onPart p (Partition.closed r s.now)

/-- What a step that ends leaves and changes, before its contexts go on. -/
structure State.Retires (s u : State) (p : Fin 6) (r : StepRun) : Prop where
  now      : u.now = s.now
  boot     : u.boot = s.boot
  host     : u.host = s.host
  contexts : u.contexts = s.contexts
  sides    : u.sides = s.sides
  queue    : u.queue = s.queue
  bound    : ∀ q : Fin 6, u.parts[q].desc = s.parts[q].desc ∧ u.parts[q].engines = s.parts[q].engines
  step     : u.parts[p].step = none
  steps    : u.parts[p].counters[0] = s.parts[p].counters[0] + 1
  window   : u.parts[p].spur[r.gait].window = ((s.now - r.oldestReady, r.bound) :: s.parts[p].spur[r.gait].window).take 64
  rests    : ∀ e ∈ s.members p, u.engines[e].busy = false ∧ u.engines[e].published = []

theorem retiring_retires (s : State) (p : Fin 6) (r : StepRun) : s.Retires (s.retiring p r) p r := by
  obtain ⟨z, v, hz, hclose, hrest⟩ := closeStep_eq s p r
  unfold State.retiring
  extract_lets y alarms w
  have hy : y = { z with engines := v } := hclose
  have hw : w.logged = y.logged := (addLoads_logged _ p _).trans (addClips_logged y p _)
  have hterms (q : Fin 6) : w.parts[q].terms = s.parts[q].terms := by
    rw [logged_terms hw, ← logged_terms hz, hy]
  have hduty (e : Fin 7) : w.engines[e].duty = v[e].duty := by
    rw [logged_duty hw, hy]
  rw [hy] at hw
  clear_value w y
  simp only [State.logged, Prod.mk.injEq] at hz hw
  obtain ⟨hnow, hboot, hhost, hcontexts, hsides, hqueue, -, -⟩ := hz
  obtain ⟨hnow', hboot', hhost', hcontexts', hsides', hqueue', -, -⟩ := hw
  simp only [Partition.terms, Engine.duty, Prod.mk.injEq] at hterms hduty
  have hn := hnow'.trans hnow
  have hown : (w.onPart p (Partition.closed r w.now)).parts[p] = w.parts[p].closed r w.now := vmod_same w.parts p _
  refine ⟨hn, hboot'.trans hboot, hhost'.trans hhost, hcontexts'.trans hcontexts, hsides'.trans hsides, hqueue'.trans hqueue,
    fun q => ?_, ?_, ?_, ?_, fun e he => ?_⟩
  · obtain ⟨hdesc, hengines, -⟩ := hterms q
    have hq : (w.onPart p (Partition.closed r w.now)).parts[q] = if p = q then w.parts[p].closed r w.now else w.parts[q] :=
      vmod_get w.parts p q _
    rw [hq]
    split
    · next hpq =>
      subst hpq
      exact ⟨hdesc, hengines⟩
    · exact ⟨hdesc, hengines⟩
  · rw [hown]
    rfl
  · obtain ⟨-, -, -, -, -, -, -, hsteps⟩ := hterms p
    rw [hown, ← hsteps]
    exact (bumpAt_get _ 0 1 0 (by decide)).trans (if_pos rfl)
  · obtain ⟨-, -, -, -, -, -, hspur, -⟩ := hterms p
    rw [hown, ← hspur, ← hn]
    exact congrArg SpurGait.window (vmod_same w.parts[p].spur r.gait _)
  · obtain ⟨-, -, hbusy, hpub⟩ := hduty e
    obtain ⟨hb, hp⟩ := hrest e he
    exact ⟨hbusy.trans hb, hpub.trans hp⟩

theorem onPart_onPart (s : State) (p : Fin 6) (f g : Partition → Partition) :
    (s.onPart p f).onPart p g = s.onPart p fun x => g (f x) := by
  simp only [State.onPart, vmod_vmod]

theorem retireEffect_eq {s : State} {p : Fin 6} {r : StepRun} (reports : List CtxReport) (hr : s.parts[p].step = some r)
    (hd : s.stepDone p r = true) : retireEffect p reports s =
      (r.contexts.filter fun i => !(r.excluded.any fun x => x.1 == i)).foldl (fun s i => s.contextAfter reports i)
        (r.excluded.foldl (fun s x => s.failContext x.1 x.2.1 x.2.2) (s.retiring p r)) := by
  unfold retireEffect
  rw [hr]
  dsimp only
  rw [hd]
  simp only [State.retiring, Bool.not_true, Bool.false_eq_true, if_false, State.countPart, onPart_onPart]
  rfl

/-! A side context that goes on (R264, R267). -/

theorem context?_id {s : State} {i : Nat} {c : Context} (h : s.context? i = some c) : c.id = i := by
  have := List.find?_some h
  simpa using this

theorem context?_onContext {s : State} {i : Nat} {c : Context} (h : s.context? i = some c) {f : Context → Context}
    (hf : ∀ d, (f d).id = d.id := by exact fun _ => rfl) : (s.onContext i f).context? i = some (f c) := by
  have hkey (d : Context) : (if d.id = i then f d else d).id = d.id := by
    split
    · exact hf d
    · rfl
  unfold State.context? State.onContext at *
  simp only [List.find?_map, Function.comp_def, hkey, h, Option.map_some]
  rw [if_pos (by simpa using List.find?_some h)]

theorem linesOpen_onContext (s : State) (i k : Nat) {f : Context → Context}
    (hf : ∀ d, (f d).side = d.side ∧ (f d).line = d.line := by exact fun _ => ⟨rfl, rfl⟩) :
    (s.onContext i f).linesOpen k = s.linesOpen k := by
  have hany (d : Context) : ((if d.id = i then f d else d).side == k && (if d.id = i then f d else d).line)
      = (d.side == k && d.line) := by
    split
    · rw [(hf d).1, (hf d).2]
    · rfl
  unfold State.linesOpen State.onContext
  simp only [List.any_map, Function.comp_def, hany]

/-- A side context of TROT or WALK that has not switched and asks for no lines: it is ready for its next template, or done. -/
theorem sideAfter_goesOn {s : State} {c : Context} {x : Side} (hc : s.context? c.id = some c) (hx : s.side? c.side = some x)
    (hgait : 2 ≤ c.gait.val) (hs : x.switched = false) (hl : s.linesOpen c.side = false) :
    s.sideAfter c 0 = s.onContext c.id fun d => { d with
      state := if (s.templateOf c).isNone then .done else .ready, readySince := s.now } := by
  have hsettle : s.settleSwitch c.id = s := by
    simp [State.settleSwitch, hc, hx, hs]
  have hpredict : s.predict c.id = s := by
    unfold State.predict
    simp only [hc, hx]
    split
    · next hr =>
      exact if_pos (by simp; omega)
    · rfl
  unfold State.sideAfter
  simp only [hsettle, hpredict, hc, hx, ite_self, List.replicate_zero, List.append_nil, hl, Bool.false_eq_true, if_false]

/-- The context of a side that goes on by itself, as its step retires: one place on in its chain. -/
theorem contextAfter_goesOn {s : State} {reports : List CtxReport} {c : Context} {x : Side} (hc : s.context? c.id = some c)
    (hx : s.side? c.side = some x) (hline : c.line = false) (hgait : 2 ≤ c.gait.val) (hs : x.switched = false)
    (hl : s.linesOpen c.side = false) (hrep : ∀ q ∈ reports, q.ctx = c.id → q.lines = 0) :
    (s.contextAfter reports c.id).context? c.id = some { c with
      chainPos := c.chainPos + 1, lastUse := s.now, readySince := s.now
      state := if (s.templateOf { c with chainPos := c.chainPos + 1 }).isNone then .done else .ready } := by
  obtain ⟨m, hm⟩ := holdDescriptor_eq (s.onContext c.id fun d => { d with chainPos := d.chainPos + 1, lastUse := s.now }) c.id
  have hc' : (s.onContext c.id fun d => { d with chainPos := d.chainPos + 1, lastUse := s.now }).context? c.id
    = some { c with chainPos := c.chainPos + 1, lastUse := s.now } := context?_onContext hc
  have hlines : ((reports.find? fun r => r.ctx == c.id).getD ⟨c.id, 0, false⟩).lines = 0 := by
    cases hq : reports.find? fun r => r.ctx == c.id with
    | none => rfl
    | some q => exact hrep q (List.mem_of_find?_eq_some hq) (by simpa using List.find?_some hq)
  unfold State.contextAfter
  rw [hm]
  extract_lets z
  have hz : z.context? c.id = some { c with chainPos := c.chainPos + 1, lastUse := s.now } := hc'
  rw [hz]
  dsimp only
  have hgo := sideAfter_goesOn (s := z) (c := { c with chainPos := c.chainPos + 1, lastUse := s.now }) (x := x) hz hx hgait hs
    ((linesOpen_onContext s c.id c.side).trans hl)
  rw [if_neg (by simp [hline]), hlines, hgo]
  exact context?_onContext hz

/-! An activation that waits for a step boundary (R253). -/

theorem settleSlot_overlayWait (s : State) (n : Fin 16) : (s.settleSlot n).host.box.overlayWait = s.host.box.overlayWait := by
  unfold State.settleSlot
  dsimp only
  split
  · rfl
  · split
    · rfl
    · split <;> rfl
    · rfl

/-- A partition told to bind: nothing else changes. -/
theorem askBind_eq (s : State) (p : Fin 6) : ∃ f : Partition → Partition, s.askBind p = s.onPart p f := by
  unfold State.askBind
  dsimp only
  split
  · exact ⟨_, rfl⟩
  · exact ⟨_, onPart_onPart s p _ _⟩

theorem foldl_askBind_eq (l : List (Fin 6)) (s : State) : ∃ v, l.foldl State.askBind s = { s with parts := v } := by
  induction l generalizing s with
  | nil => exact ⟨_, rfl⟩
  | cons p l ih =>
    obtain ⟨f, hf⟩ := askBind_eq s p
    rw [List.foldl_cons, hf]
    exact ih _

theorem writeOverlay_eq (s : State) (k : Nat) (entry : List Byte) : ∃ ops busy,
    s.writeOverlay k entry = { s with norOps := ops, norBusy := busy } := by
  unfold State.writeOverlay
  obtain ⟨ops, busy, h1⟩ := queueNor_eq s (.erase true (overlayAddr k) 8)
  rw [h1]
  obtain ⟨ops, busy, h2⟩ := queueNor_eq { s with norOps := ops, norBusy := busy } (.overlay (overlayAddr k) entry)
  rw [h2]
  exact queueNor_eq _ _

theorem bindOverlay_overlayWait (s : State) (slot : Fin 16) (v : Option Overlay) :
    (s.bindOverlay slot v).host.box.overlayWait = s.host.box.overlayWait := by
  unfold State.bindOverlay
  dsimp only
  split
  · exact settleSlot_overlayWait _ _
  · obtain ⟨w, hw⟩ := foldl_askBind_eq (s.usersOf slot.val)
      (s.onSlot slot fun x => { x with pending := some v, pendPart := (s.usersOf slot.val).map (·.val) })
    rw [hw]
    rfl

theorem activate_overlayWait (s : State) (p : Fin 6) (train : Recipe) (a : Adapter) (o : Nat) :
    (s.activate p train a o).host.box.overlayWait = s.host.box.overlayWait := by
  unfold State.activate
  split
  · rfl
  · dsimp only
    refine iteInduction (motive := fun z : State => z.host.box.overlayWait = s.host.box.overlayWait) (fun _ => rfl) fun _ => ?_
    split
    · rfl
    · split
      · rfl
      · refine (bindOverlay_overlayWait _ _ _).trans ?_
        obtain ⟨ops, busy, hw⟩ := writeOverlay_eq _ _ _
        rw [hw]
        rfl

theorem activateNow_overlayWait (s : State) (p : Fin 6) (n o : Nat) :
    (s.activateNow p n o).host.box.overlayWait = s.host.box.overlayWait := by
  unfold State.activateNow
  split
  · exact activate_overlayWait s p _ _ o
  · rfl

theorem settleOverlay_idle {s : State} (h : s.host.box.overlayWait = none) : s.settleOverlay = s := by
  simp only [State.settleOverlay, h]

theorem settleOverlay_waits {s : State} {p : Fin 6} {n o : Nat} (h : s.host.box.overlayWait = some (p, n, o))
    (hp : s.parts[p].step ≠ none) : s.settleOverlay = s := by
  unfold State.settleOverlay
  rw [h]
  exact if_pos (Option.isSome_iff_ne_none.2 hp)

/-- At a boundary of the step that it waits for, an activation is decided or put before the partitions. -/
theorem settleOverlay_overlayWait {s : State} (h : ∀ p n o, s.host.box.overlayWait = some (p, n, o) → s.parts[p].step = none) :
    s.settleOverlay.host.box.overlayWait = none := by
  cases hw : s.host.box.overlayWait with
  | none =>
    rw [settleOverlay_idle hw]
    exact hw
  | some w =>
    obtain ⟨p, n, o⟩ := w
    unfold State.settleOverlay
    rw [hw]
    dsimp only
    rw [h p n o hw]
    exact activateNow_overlayWait _ p n o

/-! A step that retires. -/

theorem retireEffect_busy {s : State} {p : Fin 6} {r : StepRun} (reports : List CtxReport) (hr : s.parts[p].step = some r)
    (hd : s.stepDone p r = false) : retireEffect p reports s = s := by
  unfold retireEffect
  rw [hr]
  dsimp only
  rw [hd]
  rfl

/-- The contexts of a step go on with the terms of the partitions as its end left them. -/
theorem retireEffect_noNew {s : State} {p : Fin 6} {r : StepRun} (reports : List CtxReport) (hr : s.parts[p].step = some r)
    (hd : s.stepDone p r = true) : (s.retiring p r).NoNewContext (retireEffect p reports s) := by
  rw [retireEffect_eq reports hr hd]
  exact (foldl_noNewContext (fun z x => failContext_noNew z _ _ _) _ _).trans
    (foldl_noNewContext (fun z i => contextAfter_noNew z reports i) _ _)

theorem templateOf_congr {s u : State} (hboot : u.boot = s.boot)
    (hparts : ∀ q : Fin 6, u.parts[q].desc = s.parts[q].desc ∧ u.parts[q].engines = s.parts[q].engines) (c : Context) :
    u.templateOf c = s.templateOf c := by
  simp only [State.templateOf, State.recipeFor, State.slotFor, hboot, (hparts _).1, (hparts _).2]

/-- Settles O35: the step is closed (`retiring_retires`), and its contexts go on without touching what the boundary has set
(`retireEffect_noNew`); what waits for the boundary is decided there (`settleOverlay_overlayWait`). -/
theorem stepRetires : Obligations.StepRetires := by
  intro s p r reports t hr hwait
  refine ⟨fun hd => ⟨_, rfl, ?_⟩, fun hd hw => ⟨_, rfl, ?_⟩, fun hd => ⟨_, rfl, ?_⟩⟩
  · rw [retireEffect_busy (s := s.at t) reports hr hd]
    have hsettle : (s.at t).settleOverlay = s.at t := by
      cases hw : s.host.box.overlayWait with
      | none => exact settleOverlay_idle (s := s.at t) hw
      | some w =>
        obtain ⟨q, n, o⟩ := w
        obtain rfl := hwait q n o hw
        exact settleOverlay_waits (s := s.at t) hw (by rw [State.at_parts, hr]; exact Option.some_ne_none _)
    rw [hsettle]
    exact kept_commit _ rfl
  · have hz := retiring_retires (s.at t) p r
    have hu := retireEffect_noNew (s := s.at t) reports hr hd
    obtain ⟨hterms, hstep⟩ := terms_part hu.terms p
    simp only [Partition.terms, Prod.mk.injEq] at hterms
    obtain ⟨-, -, -, -, -, -, hspur, hsteps⟩ := hterms
    have hbox : (retireEffect p reports (s.at t)).host.box.overlayWait = none := by
      rw [terms_box hu.terms, hz.host]
      exact hw
    rw [settleOverlay_idle hbox]
    simp only [commit_parts, commit_engines, commit_contexts, commit_boot]
    refine ⟨hstep.trans hz.step, hsteps.trans hz.steps, ?_, fun e he => ?_, fun c x hctx hex hc hx hline hgait hsw hopen hrep => ?_,
      ?_, (terms_boot hu.terms).trans hz.boot⟩
    · exact (congrArg (fun v : Vector SpurGait 4 => v[r.gait].window) hspur).trans hz.window
    · have hduty := terms_duty hu.terms e
      simp only [Engine.duty, Prod.mk.injEq] at hduty
      obtain ⟨-, -, hbusy, hpub⟩ := hduty
      obtain ⟨hb, hp⟩ := hz.rests e he
      exact ⟨hbusy.trans hb, hpub.trans hp⟩
    · have hgo : retireEffect p reports (s.at t) = ((s.at t).retiring p r).contextAfter reports c.id := by
        rw [retireEffect_eq (s := s.at t) reports hr hd, hctx, hex]
        rfl
      have hopen' : ((s.at t).retiring p r).linesOpen c.side = false := by
        simp only [State.linesOpen, hz.queue, hz.contexts]
        exact hopen
      have hside : ((s.at t).retiring p r).side? c.side = some x := by
        simp only [State.side?, hz.sides]
        exact hx
      have hcontext : ((s.at t).retiring p r).context? c.id = some c := by
        simp only [State.context?, hz.contexts]
        exact hc
      have hafter := contextAfter_goesOn (reports := reports) hcontext hside hline hgait hsw hopen' hrep
      rw [templateOf_congr hz.boot hz.bound, hz.now] at hafter
      rw [← hgo] at hafter
      simp only [State.context?, commit_contexts] at hafter ⊢
      exact hafter
    · exact Nat.le_trans hu.fewer (Nat.le_of_eq (congrArg List.length hz.contexts))
  · have hz := retiring_retires (s.at t) p r
    have hu := retireEffect_noNew (s := s.at t) reports hr hd
    refine (commit_box_overlayWait _ _).trans (settleOverlay_overlayWait fun q n o hq => ?_)
    rw [terms_box hu.terms, hz.host] at hq
    obtain rfl := hwait q n o hq
    exact (terms_part hu.terms q).2.trans hz.step

end Sys2Proof.Machine

/-! ## What admission leaves of the partitions (R272 to R275) -/

namespace Sys2Proof.Machine

theorem restartSide_terms (s : State) (k detail : Nat) : (s.restartSide k detail).terms = s.terms := by
  unfold State.restartSide
  split
  · rfl
  · next x _ =>
    have hrequeue (z : State) : (z.requeue k).terms = z.terms := by
      unfold State.requeue
      split <;> rfl
    exact (hrequeue _).trans ((countPart_terms _ x.part (i := Part.sidesRestarted) 1).trans (freeSide_noNew s k).terms)

theorem takeContext_terms (s : State) (w : Waiting) (reserve : Bool) : (s.takeContext w reserve).terms = s.terms := by
  unfold State.takeContext
  split
  · rfl
  · extract_lets +onlyGivenNames id
    have hroots : (match s.classFor w.part w.gait.val w.line with
        | some k => s.buildRoots w.part k ((s.kvPlace w.part k w.gait.val w.conforming).getD 0)
        | none => (s, 0)).1.terms = s.terms := by
      split
      · exact buildRoots_terms _ _ _ _
      · rfl
    split
    next z roots hz =>
    have hz' : z.terms = s.terms := (congrArg (fun q : State × Nat => q.1.terms) hz).symm.trans hroots
    extract_lets +onlyGivenNames img fused c y
    have hy : y.terms = s.terms := (holdDescriptor_noNew _ id).terms.trans hz'
    split
    · exact hy
    · exact (predict_noNew _ id).terms.trans ((countPart_terms _ w.part (i := Part.sidesAdmitted) 1).trans hy)

theorem admitOne_terms (s : State) (w : Waiting) : (s.admitOne w).1.terms = s.terms := by
  unfold State.admitOne
  split
  · rfl
  · extract_lets out
    split
    · exact takeContext_terms _ w true
    · exact takeContext_terms _ w false
    · exact (takeContext_terms _ w false).trans (restartSide_terms _ _ 0)
    · rfl
    · unfold State.countFull
      split <;> rfl

theorem admitLoop_terms (l : List Waiting) (blocked : List (Fin 6 × Fin 4 × Bool)) (s : State) :
    (admitLoop l blocked s).terms = s.terms := by
  induction l generalizing blocked s with
  | nil => rfl
  | cons w l ih =>
    have hw := admitOne_terms s w
    unfold admitLoop
    split
    · exact ih _ _
    · split
      · exact ih _ _
      · split
        · next z hz =>
          rw [hz] at hw
          exact (ih _ _).trans hw
        · next z hz =>
          rw [hz] at hw
          exact (ih _ _).trans hw

theorem admitAll_terms (s : State) : s.admitAll.terms = s.terms := by
  unfold State.admitAll
  split
  · exact admitLoop_terms _ _ s
  · rfl

/-! ## What the binding of recipes leaves (R249, R253, R437) -/

theorem terms_of_bytesless {s u : State} (h : u.bytesless = s.bytesless) : u.terms = s.terms := by
  have k : u.bytesless.terms = s.bytesless.terms := by rw [h]
  simp only [State.terms, State.bytesless, Vector.map_map] at k
  exact k

theorem placeRecipe_terms (s : State) (p : Fin 6) (slot : Nat) (r : Recipe) : (s.placeRecipe p slot r).1.terms = s.terms := by
  unfold State.placeRecipe
  split
  · rfl
  · split
    · rfl
    · split
      · rfl
      · exact (onPart_terms _ p).trans ((mainPut_terms _ _ _).trans (mainPut_terms s _ _))

theorem startAdapters_terms (s : State) (p : Fin 6) (slot : Nat) (r : Recipe) (new : Nat → Bool) :
    (s.startAdapters p slot r new).terms = s.terms := by
  refine foldl_terms _ (fun z t => ?_) rfl
  refine foldl_keeps (P := fun a : State × List Master => a.1.terms = z.terms) (fun a x h => ?_) rfl
  dsimp only
  split
  · exact h
  · split
    · split
      · exact (terms_of_bytesless (pokeSpace_bytesless a.1 _ _ _ _)).trans h
      · exact h
    · exact h

theorem bindRecipe_terms (s : State) (p : Fin 6) (slot : Nat) (r : Recipe) (new : Bool) :
    (s.bindRecipe p slot r new).terms = s.terms := by
  unfold State.bindRecipe
  extract_lets z
  have hz : z.terms = s.terms := placeRecipe_terms s p slot r
  split
  · exact (startAdapters_terms z p slot r _).trans hz
  · exact hz

theorem loadResident_terms (s : State) (e : Fin 7) : (s.loadResident e).terms = s.terms :=
  foldl_terms _ (fun z _ => terms_of_bytesless (paddockWrite_bytesless z e _ _)) rfl

/-! ## The switch of a partition to what waits for it (R253, R268, R438) -/

/-- A recipe slot for which a partition waits no more. -/
def RecipeSlot.left (p : Fin 6) (x : RecipeSlot) : RecipeSlot := { x with pendPart := x.pendPart.filter fun q => q != p.val }

/-- A partition that has left its binding. -/
def Partition.unbound (x : Partition) : Partition :=
  { x with binding := false, nextRecipes := none, desc := x.desc.map fun d => { d with recipes := x.nextRecipes.getD d.recipes } }

/-- A state in which a partition has left its binding, and waits for no recipe slot. -/
def State.leaveBinding (s : State) (p : Fin 6) : State :=
  (List.finRange 16).foldl (fun (s : State) (n : Fin 16) => s.onSlot n (RecipeSlot.left p)) (s.onPart p Partition.unbound)

/-- Recipe slots changed one after another: nothing but them. -/
theorem foldl_onSlot_eq (f : RecipeSlot → RecipeSlot) (l : List (Fin 16)) (s : State) :
    l.foldl (fun (s : State) (n : Fin 16) => s.onSlot n f) s =
      { s with boot := { s.boot with recipes := l.foldl (fun v n => vmod v n f) s.boot.recipes } } := by
  induction l generalizing s with
  | nil => rfl
  | cons n l ih => exact ih _

/-- Every recipe slot changed. -/
theorem foldl_onSlot_slot (f : RecipeSlot → RecipeSlot) (s : State) (n : Fin 16) :
    ((List.finRange 16).foldl (fun (s : State) (n : Fin 16) => s.onSlot n f) s).boot.recipes[n] = f s.boot.recipes[n] := by
  rw [foldl_onSlot_eq]
  exact (foldl_vmod_get f _ (List.nodup_finRange 16) s.boot.recipes n).trans (if_pos (List.mem_finRange n))

/-- Whether a partition binds a recipe as it switches, not an overlay alone (R253). -/
def State.bindsRecipe (s : State) (p : Fin 6) (d d' : PartDesc) : Prop :=
  (∃ n : Fin 16, s.boot.recipes[n].staged ≠ none ∧ p.val ∈ s.boot.recipes[n].pendPart) ∨ d'.served ≠ d.served

/-- The switch: the partition leaves its binding, its images and weights are put in place, and it starts its times anew when it binds a
recipe. -/
theorem switchPart_eq {s : State} {p : Fin 6} {d d' : PartDesc} (hd : s.parts[p].desc = some d)
    (hd' : (s.leaveBinding p).parts[p].desc = some d') : ∃ z : State, z.terms = (s.leaveBinding p).terms
      ∧ (s.bindsRecipe p d d' → s.switchPart p = z.freshTimes p) ∧ (¬ s.bindsRecipe p d d' → s.switchPart p = z) := by
  unfold State.switchPart
  extract_lets +onlyGivenNames changed before s1 s2
  have h2 : s2 = s.leaveBinding p := rfl
  rw [← h2] at hd' ⊢
  have hbefore : before = d.served := by
    dsimp only [before]
    rw [hd]
  have hbinds (e : PartDesc) : (changed.isEmpty && before == e.served) = true ↔ ¬ s.bindsRecipe p d e := by
    simp only [Bool.and_eq_true, List.isEmpty_iff, changed, List.filter_eq_nil_iff, List.mem_finRange, true_implies,
      Option.isSome_iff_ne_none, List.contains_iff_mem, beq_iff_eq, hbefore, State.bindsRecipe, not_or, not_exists, ne_eq,
      not_not, eq_comm (a := d.served)]
  clear_value s2 changed before
  split
  next h => cases hd'.symm.trans h
  next e h =>
  obtain rfl := Option.some.inj (hd'.symm.trans h)
  extract_lets +onlyGivenNames plan v rs s3
  clear_value rs v
  have h3 : s3.terms = s2.terms := onPart_terms s2 p
  extract_lets +onlyGivenNames s4
  have h4 : s4.terms = s3.terms := by
    refine foldl_terms _ (fun z x => ?_) rfl
    split
    · exact bindRecipe_terms z p x.1 x.2 true
    · exact placeRecipe_terms z p x.1 x.2
  extract_lets +onlyGivenNames s5 s6
  have h5 : s5.terms = s4.terms := foldl_terms _ loadResident_terms rfl
  have h6 : s6.terms = s5.terms := rfl
  exact ⟨s6, h6.trans (h5.trans (h4.trans h3)), fun hb => if_neg fun k => (hbinds d').1 k hb, fun hb => if_pos ((hbinds d').2 hb)⟩

theorem fillTokens_terms (s : State) (p : Fin 6) : (s.fillTokens p).terms = s.terms := by
  unfold State.fillTokens
  split <;> exact onPart_terms s p

/-- A partition that begins its times anew. -/
def Partition.fresh (x : Partition) : Partition :=
  { x with
    vTime := Vector.replicate 4 0, readyMask := 0, spur := Vector.replicate 4 ⟨[]⟩
    means := Vector.replicate 32 LineMean.reset }

theorem freshTimes_terms (s : State) (p : Fin 6) : (s.freshTimes p).terms = (s.onPart p Partition.fresh).terms :=
  fillTokens_terms (s.onPart p Partition.fresh) p

/-- A recipe slot that every partition has switched: what was staged or pending is in force (R438). -/
def RecipeSlot.settled (x : RecipeSlot) : RecipeSlot :=
  if !x.pendPart.isEmpty then x
  else match x.staged, x.pending with
    | some r, _ => { x with bound := some r, staged := none, overlay := none }
    | none, some v => { x with overlay := v, pending := none }
    | none, none => x

theorem RecipeSlot.settled_of_waits {x : RecipeSlot} (h : x.pendPart ≠ []) : x.settled = x :=
  if_pos (by simpa using h)

theorem RecipeSlot.settled_of_staged {x : RecipeSlot} {r : Recipe} (hp : x.pendPart = []) (hs : x.staged = some r) :
    x.settled = { x with bound := some r, staged := none, overlay := none } := by
  cases x
  cases hp
  cases hs
  rfl

theorem RecipeSlot.settled_of_pending {x : RecipeSlot} {v : Option Overlay} (hp : x.pendPart = []) (hs : x.staged = none)
    (hv : x.pending = some v) : x.settled = { x with overlay := v, pending := none } := by
  cases x
  cases hp
  cases hs
  cases hv
  rfl

theorem RecipeSlot.settled_of_idle {x : RecipeSlot} (hs : x.staged = none) (hv : x.pending = none) : x.settled = x := by
  cases x
  cases hs
  cases hv
  exact ite_self _

/-- What a slot that is settled leaves: its own slot of boot changes, and the partitions keep their terms. -/
theorem settleSlot_leaves (s : State) (n : Fin 16) : (s.settleSlot n).boot = (s.onSlot n RecipeSlot.settled).boot
    ∧ ∀ q : Fin 6, (s.settleSlot n).parts[q].terms = s.parts[q].terms := by
  have hslot {f : RecipeSlot → RecipeSlot} (h : s.boot.recipes[n].settled = f s.boot.recipes[n]) :
      (s.onSlot n f).boot = (s.onSlot n RecipeSlot.settled).boot :=
    congrArg (fun v => { s.boot with recipes := v }) (vmod_congr s.boot.recipes n h.symm)
  have hsame (h : s.boot.recipes[n].settled = s.boot.recipes[n]) : s.boot = (s.onSlot n RecipeSlot.settled).boot :=
    (congrArg (fun v => { s.boot with recipes := v }) (vmod_self s.boot.recipes n rfl).symm).trans (hslot (f := id) h)
  unfold State.settleSlot
  extract_lets x
  split
  · next hp => exact ⟨hsame (RecipeSlot.settled_of_waits (by simpa [x] using hp)), fun _ => rfl⟩
  · next hp =>
    have hnone : s.boot.recipes[n].pendPart = [] := by simpa [x] using hp
    split
    · next hs => exact ⟨hslot (RecipeSlot.settled_of_staged hnone hs), fun _ => rfl⟩
    · next hs hv =>
      extract_lets z part
      have hz : z.boot = (s.onSlot n RecipeSlot.settled).boot := hslot (RecipeSlot.settled_of_pending hnone hs hv)
      have hparts : z.parts = s.parts := rfl
      clear_value z part
      split
      · exact ⟨hz, fun q => (terms_part (countPart_terms _ part 1) q).1.trans (congrArg (·[q].terms) hparts)⟩
      · exact ⟨hz, fun q => congrArg (·[q].terms) hparts⟩
    · next hs hv => exact ⟨hsame (RecipeSlot.settled_of_idle hs hv), fun _ => rfl⟩

/-- Every slot settled in turn. -/
theorem foldl_settleSlot (s : State) (n : Fin 16) :
    ((List.finRange 16).foldl State.settleSlot s).boot.recipes[n] = s.boot.recipes[n].settled := by
  have hboot (l : List (Fin 16)) (z : State) : (l.foldl State.settleSlot z).boot.recipes =
      l.foldl (fun v i => vmod v i RecipeSlot.settled) z.boot.recipes := by
    induction l generalizing z with
    | nil => rfl
    | cons i l ih => exact (ih _).trans (congrArg (fun b : Boot => l.foldl _ b.recipes) (settleSlot_leaves z i).1)
  rw [hboot]
  exact (foldl_vmod_get _ _ (List.nodup_finRange 16) s.boot.recipes n).trans (if_pos (List.mem_finRange n))

theorem foldl_settleSlot_terms (l : List (Fin 16)) (s : State) (q : Fin 6) :
    (l.foldl State.settleSlot s).parts[q].terms = s.parts[q].terms :=
  foldl_keeps (P := fun z : State => z.parts[q].terms = s.parts[q].terms) (fun z i h => ((settleSlot_leaves z i).2 q).trans h) rfl

/-- A partition that has left its binding. -/
theorem leaveBinding_self (s : State) (p : Fin 6) : (s.leaveBinding p).parts[p] = s.parts[p].unbound := by
  rw [State.leaveBinding, foldl_onSlot_eq]
  exact (vmod_get s.parts p p _).trans (if_pos rfl)

theorem leaveBinding_other (s : State) {p q : Fin 6} (h : q ≠ p) : (s.leaveBinding p).parts[q] = s.parts[q] := by
  rw [State.leaveBinding, foldl_onSlot_eq]
  exact (vmod_get s.parts p q _).trans (if_neg h.symm)

theorem leaveBinding_slot (s : State) (p : Fin 6) (n : Fin 16) : (s.leaveBinding p).boot.recipes[n] = s.boot.recipes[n].left p :=
  foldl_onSlot_slot _ _ n

/-- While a step is in progress or a side of before the binding point is not ready, nothing switches (R253). -/
theorem switchEffect_waits {s : State} {p : Fin 6} (h : s.parts[p].step ≠ none ∨ s.oldSides p = true) : switchEffect p s = s := by
  refine if_pos ?_
  rw [Option.isSome_iff_ne_none]
  exact Or.inr (h.imp id Or.inl)

theorem fresh_terms {x y : Partition} (h : x.terms = y.terms) : x.fresh.terms = y.fresh.terms := by
  simp only [Partition.terms, Prod.mk.injEq] at h
  obtain ⟨hdesc, hengines, hbound, hbinding, hnext, -, -, hcount⟩ := h
  simp only [Partition.terms, Partition.fresh, hdesc, hengines, hbound, hbinding, hnext, hcount]

/-- What the switch of a partition leaves: its own terms, fresh when it binds a recipe, the other partitions' terms, and boot. -/
structure State.Switched (s u : State) (p : Fin 6) (d d' : PartDesc) : Prop where
  begins : s.bindsRecipe p d d' → u.parts[p].terms = s.parts[p].unbound.fresh.terms
  goesOn : ¬ s.bindsRecipe p d d' → u.parts[p].terms = s.parts[p].unbound.terms
  others (q : Fin 6) : q ≠ p → u.parts[q].terms = s.parts[q].terms
  slots (n : Fin 16) : u.boot.recipes[n] = s.boot.recipes[n].left p

theorem switchPart_switched {s : State} {p : Fin 6} {d d' : PartDesc} (hd : s.parts[p].desc = some d)
    (hd' : s.parts[p].unbound.desc = some d') : s.Switched (s.switchPart p) p d d' := by
  rw [← leaveBinding_self] at hd'
  obtain ⟨z, hz, hbegins, hgoes⟩ := switchPart_eq hd hd'
  have hp : z.parts[p].terms = s.parts[p].unbound.terms := (terms_part hz p).1.trans (congrArg _ (leaveBinding_self s p))
  have ho (q : Fin 6) (hq : q ≠ p) : z.parts[q].terms = s.parts[q].terms :=
    (terms_part hz q).1.trans (congrArg _ (leaveBinding_other s hq))
  have hs (n : Fin 16) : z.boot.recipes[n] = s.boot.recipes[n].left p :=
    (congrArg (fun b : Boot => b.recipes[n]) (terms_boot hz)).trans (leaveBinding_slot s p n)
  have hfresh (q : Fin 6) : (z.freshTimes p).parts[q].terms = (vmod z.parts p Partition.fresh)[q].terms :=
    (terms_part (freshTimes_terms z p) q).1
  by_cases hb : s.bindsRecipe p d d'
  · rw [hbegins hb]
    refine ⟨fun _ => (hfresh p).trans ?_, fun h => absurd hb h, fun q hq => (hfresh q).trans ?_, fun n => ?_⟩
    · exact (congrArg Partition.terms ((vmod_get z.parts p p _).trans (if_pos rfl))).trans (fresh_terms hp)
    · exact (congrArg Partition.terms ((vmod_get z.parts p q _).trans (if_neg hq.symm))).trans (ho q hq)
    · exact (congrArg (fun b : Boot => b.recipes[n]) (terms_boot (freshTimes_terms z p))).trans (hs n)
  · rw [hgoes hb]
    exact ⟨fun h => absurd h hb, fun _ => hp, ho, hs⟩

/-- The switch of a partition whose old sides are done: it switches, every slot for which no partition waits is settled, and the
waiting sides are admitted. -/
theorem switchEffect_terms {s : State} {p : Fin 6} (hbinding : s.parts[p].binding = true) (hstep : s.parts[p].step = none)
    (hold : s.oldSides p = false) (hacts : s.holderActs = true) (hhold : s.power.hold = none) :
    (∀ q : Fin 6, (switchEffect p s).parts[q].terms = (s.switchPart p).parts[q].terms)
    ∧ ∀ n : Fin 16, (switchEffect p s).boot.recipes[n] = ((s.switchPart p).boot.recipes[n]).settled := by
  have he : switchEffect p s = ((List.finRange 16).foldl State.settleSlot (s.switchPart p)).admitAll :=
    if_neg (by simp only [hbinding, hstep, hold, hacts, hhold]; decide)
  rw [he]
  refine ⟨fun q => (terms_part (admitAll_terms _) q).1.trans (foldl_settleSlot_terms _ _ q), fun n => ?_⟩
  exact (congrArg (fun b : Boot => b.recipes[n]) (terms_boot (admitAll_terms _))).trans (foldl_settleSlot _ n)

/-- What a slot with a staged recipe becomes as a partition leaves it: bound when no other partition waits for it (R438). -/
theorem settled_left_staged {x : RecipeSlot} {r : Recipe} (p : Fin 6) (hs : x.staged = some r) :
    ((∀ q ∈ x.pendPart, q = p.val) →
      (x.left p).settled.bound = some r ∧ (x.left p).settled.staged = none ∧ (x.left p).settled.overlay = none)
    ∧ ((∃ q ∈ x.pendPart, q ≠ p.val) → (x.left p).settled.bound = x.bound ∧ (x.left p).settled.staged = some r)
    ∧ p.val ∉ (x.left p).settled.pendPart := by
  have hp : p.val ∉ (x.left p).pendPart := by simp [RecipeSlot.left]
  by_cases h : (x.left p).pendPart = []
  · rw [RecipeSlot.settled_of_staged h hs]
    refine ⟨fun _ => ⟨rfl, rfl, rfl⟩, fun ⟨q, hq, hne⟩ => ?_, hp⟩
    have hmem : q ∈ (x.left p).pendPart := by simp [RecipeSlot.left, hq, hne]
    rw [h] at hmem
    cases hmem
  · rw [RecipeSlot.settled_of_waits h]
    refine ⟨fun hall => absurd ?_ h, fun _ => ⟨rfl, hs⟩, hp⟩
    simpa [RecipeSlot.left, List.filter_eq_nil_iff] using hall

theorem binding_of_terms {x y : Partition} (h : x.terms = y.terms) :
    x.binding = y.binding ∧ x.nextRecipes = y.nextRecipes ∧ x.desc = y.desc := by
  simp only [Partition.terms, Prod.mk.injEq] at h
  obtain ⟨hdesc, -, -, hbinding, hnext, -⟩ := h
  exact ⟨hbinding, hnext, hdesc⟩

theorem vTime_of_terms {x y : Partition} (h : x.terms = y.terms) : x.vTime = y.vTime := by
  simp only [Partition.terms, Prod.mk.injEq] at h
  obtain ⟨-, -, -, -, -, hv, -⟩ := h
  exact hv

/-- Either way the partition has left its binding with the recipes it waited for. -/
theorem State.Switched.unbound {s u : State} {p : Fin 6} {d d' : PartDesc} (h : s.Switched u p d d')
    (hd' : s.parts[p].unbound.desc = some d') :
    u.parts[p].binding = false ∧ u.parts[p].nextRecipes = none ∧ u.parts[p].desc = some d' := by
  by_cases hb : s.bindsRecipe p d d'
  · obtain ⟨hbinding, hnext, hdesc⟩ := binding_of_terms (h.begins hb)
    exact ⟨hbinding, hnext, hdesc.trans hd'⟩
  · obtain ⟨hbinding, hnext, hdesc⟩ := binding_of_terms (h.goesOn hb)
    exact ⟨hbinding, hnext, hdesc.trans hd'⟩

/-- Settles O37: the switch changes the terms of its own partition alone and leaves its slots (`switchPart_switched`), a slot for which
no partition waits is settled (`settled_left_staged`), and admission afterwards leaves both (`admitAll_terms`). -/
theorem partitionSwitchesItsRecipes : Obligations.PartitionSwitchesItsRecipes := by
  intro s p d t hacts hhold hbinding hd d' binds
  refine ⟨fun hwait => ⟨_, rfl, ?_⟩, fun hstep hdone => ⟨_, rfl, ?_⟩⟩
  · have hold : (s.at t).parts[p].step ≠ none ∨ (s.at t).oldSides p = true := by
      simpa [State.oldSides, and_assoc] using hwait
    rw [switchEffect_waits hold]
    exact kept_commit _ rfl
  · have hold : (s.at t).oldSides p = false := by
      simp only [State.oldSides, List.any_eq_false, State.at_sides]
      grind
    obtain ⟨hparts, hslots⟩ := switchEffect_terms (s := s.at t) hbinding hstep hold hacts hhold
    have hd' : s.parts[p].unbound.desc = some d' := by
      simp only [Partition.unbound, hd]
      rfl
    have hw := switchPart_switched (s := s.at t) hd hd'
    obtain ⟨hbind, hnext, hdesc⟩ := hw.unbound hd'
    obtain ⟨hbind', hnext', hdesc'⟩ := binding_of_terms (hparts p)
    have hv := vTime_of_terms (hparts p)
    simp only [commit_parts, commit_boot]
    refine ⟨hbind'.trans hbind, hnext'.trans hnext, hdesc'.trans hdesc, fun hb => ?_, fun hb => ?_, fun n r hr => ?_, fun q hq => ?_⟩
    · have hfresh := vTime_of_terms (hw.begins hb)
      exact hv.trans hfresh
    · have hsame := vTime_of_terms (hw.goesOn hb)
      exact hv.trans hsame
    · rw [hslots n, hw.slots n]
      exact settled_left_staged p hr
    · obtain ⟨hother, -, hdescq⟩ := binding_of_terms ((hparts q).trans (hw.others q hq))
      exact ⟨hdescq, hother⟩

end Sys2Proof.Machine

/-! ## A verb as it begins (R382) -/

namespace Sys2Proof.Machine

/-- A state whose mailbox has begun a verb. -/
def State.begun (s : State) (seq : Half) : State :=
  s.onBox fun b => { b with
    busy := true, done := false, seq := seq, verb := none, waitFor := [], overlayWait := none, outcome := none, silent := false }

theorem startVerb_begun {s : State} (hw : s.hostWrites = true) (hb : s.host.box.busy = false) (seq : Half) (run : State → State) :
    s.startVerb seq run = run (s.begun seq) := by
  simp only [State.startVerb, hw, hb, Bool.not_true, Bool.false_eq_true, if_false]
  rfl

/-- A verb that begins answers what its own judgement leaves. -/
theorem answers_verb {s : State} {i : Instr} {seq : Half} {t : Nat} {run : State → State} {P : State → Prop} (hw : s.hostWrites = true)
    (hb : s.host.box.busy = false) (he : exec i s = done s ((s.at t).startVerb seq run))
    (h : P (commit s (run ((s.at t).begun seq)))) : Answers i s P :=
  ⟨_, he.trans (congrArg (done s) (startVerb_begun (s := s.at t) hw hb seq run)), h⟩

theorem bits_low (n len : Nat) : bits n 0 len = n % 2 ^ len := rfl

theorem bits_eq (n lo len : Nat) : bits n lo len = n / 2 ^ lo % 2 ^ len := by
  rw [bits, Nat.shiftRight_eq_div_pow]

/-! ## The selection of a plan (R280, R383) -/

/-- The rejections reported change no box and no rebinding. -/
theorem reportRejects_eq (s : State) (n : Nat) (fault : Option Byte) (vs : List Verdict) :
    ∃ parts stud, s.reportRejects n fault vs = { s with parts := parts, stud := stud } := by
  unfold State.reportRejects
  refine foldl_keeps (P := fun z : State => ∃ parts stud, z = { s with parts := parts, stud := stud }) (fun z v h => ?_) ⟨_, _, rfl⟩
  obtain ⟨parts, stud, rfl⟩ := h
  split
  · split
    · exact ⟨_, _, rfl⟩
    · exact ⟨_, _, rfl⟩
  · exact ⟨_, _, rfl⟩

section
variable {s : State} {n : Nat} (hn : s.arg 0 = n) (hz : s.argsZero 1 = true) (h8 : n < 8)
include hn hz h8

theorem selectVerb_undeclared (h : s.boot.planCount ≤ n) : selectVerb s = s.failVerb rvRange := by
  simp [selectVerb, hn, hz, bits_low, Nat.mod_eq_of_lt h8, Nat.not_le.2 h8, h]

/-- A declared plan: the one in force is decided at once, another is selected. -/
theorem selectVerb_declared (h : n < s.boot.planCount) (hidle : s.rebind.stage = .idle) :
    (s.parts[(0 : Fin 6)].plan = n → selectVerb s = s.decide_ 0 0)
    ∧ (s.parts[(0 : Fin 6)].plan ≠ n → selectReason (s.evalPlan (s.planAt n)) = none →
      selectVerb s = ((s.reportRejects n none (s.evalPlan (s.planAt n)).2).startRebind n (s.evalPlan (s.planAt n)).2 true).onBox
        fun b => { b with verb := some (.selectPlan n) }) := by
  have hguards : selectVerb s = if s.parts[(0 : Fin 6)].plan = n then s.decide_ 0 0
      else match s.selectPlan n with
        | (s, some r) => s.failVerb r
        | (s, none) => s.onBox fun b => { b with verb := some (.selectPlan n) } := by
    simp only [selectVerb, hn, hz, bits_low, Nat.reducePow, Nat.mod_eq_of_lt h8, ge_iff_le, Nat.not_le.2 h8, Nat.not_le.2 h, hidle,
      Bool.not_true, Bool.false_eq_true, or_self, if_false, true_and] <;> rfl
  refine ⟨fun hp => hguards.trans (if_pos hp), fun hp hr => ?_⟩
  have hsel : s.selectPlan n = ((s.reportRejects n none (s.evalPlan (s.planAt n)).2).startRebind n (s.evalPlan (s.planAt n)).2 true, none) := by
    simp only [State.selectPlan, hidle, ne_eq, not_true_eq_false, if_false, hr]
  rw [hguards, if_neg hp, hsel]

end

/-- Partitions changed one after another: nothing but them. -/
theorem foldl_onPart_eq (f : Partition → Partition) (l : List (Fin 6)) (s : State) :
    l.foldl (fun s p => s.onPart p f) s = { s with parts := l.foldl (fun v p => vmod v p f) s.parts } := by
  induction l generalizing s with
  | nil => rfl
  | cons p l ih => exact ih _

/-- A selection begun: the affected partitions drain, and nothing but partitions and the rebinding changes. -/
theorem startRebind_begins (s : State) (n : Nat) (vs : List Verdict) (fromVerb : Bool) : ∃ v aff kept,
    s.startRebind n vs fromVerb = { s with parts := v, rebind := ⟨.draining, n, aff, fromVerb, kept⟩ }
    ∧ ∀ p : Fin 6, p.val ∈ aff → v[p].rebinding = true := by
  unfold State.startRebind
  extract_lets aff z
  have hz : z = _ := foldl_onPart_eq (fun x => { x with rebinding := true }) aff s
  rw [hz]
  refine ⟨_, _, _, rfl, fun p hp => ?_⟩
  have hmem : p ∈ aff := by
    obtain ⟨q, hq, he⟩ := List.mem_map.1 hp
    exact Fin.ext he ▸ hq
  rw [foldl_vmod_get _ aff ((List.nodup_finRange 6).filter _), if_pos hmem]

/-- A selection: of an undeclared plan refused, of the plan in force decided, of another one begun (R280, R383). -/
theorem selectPlan_answers (s : State) (seq : Half) (t : Nat) (hw : s.hostWrites = true) (hb : s.host.box.busy = false)
    (hz : s.argsZero 1 = true) (h8 : s.arg 0 < 8) :
    (s.boot.planCount ≤ s.arg 0 → Answers (.selectPlan seq t) s fun u =>
      u.host.box.outcome = some (rvRange, 0) ∧ u.rebind = s.rebind)
    ∧ (s.arg 0 < s.boot.planCount → s.rebind.stage = .idle →
      (s.parts[(0 : Fin 6)].plan = s.arg 0 → Answers (.selectPlan seq t) s fun u =>
        u.host.box.outcome = some (0, 0) ∧ u.rebind = s.rebind)
      ∧ (s.parts[(0 : Fin 6)].plan ≠ s.arg 0 →
        selectReason (((s.at t).begun seq).evalPlan (((s.at t).begun seq).planAt (s.arg 0))) = none →
        Answers (.selectPlan seq t) s fun u =>
          u.rebind.stage = .draining ∧ u.rebind.target = s.arg 0 ∧ u.rebind.fromVerb = true ∧ u.host.box.outcome = none
          ∧ (∀ p : Fin 6, p.val ∈ u.rebind.affected → u.parts[p].rebinding = true))) := by
  refine ⟨fun h => answers_verb hw hb rfl ?_, fun h hidle => ?_⟩
  · rw [selectVerb_undeclared (s := (s.at t).begun seq) (n := s.arg 0) rfl hz h8 h]
    exact ⟨commit_box_outcome _ _, commit_rebind _ _⟩
  · obtain ⟨hforce, hother⟩ := selectVerb_declared (s := (s.at t).begun seq) (n := s.arg 0) rfl hz h8 h hidle
    refine ⟨fun hp => answers_verb hw hb rfl ?_, fun hp hr => answers_verb hw hb rfl ?_⟩
    · rw [hforce hp]
      exact ⟨commit_box_outcome _ _, commit_rebind _ _⟩
    · rw [hother hp hr]
      obtain ⟨parts, stud, hrep⟩ := reportRejects_eq ((s.at t).begun seq) (s.arg 0) none
        (((s.at t).begun seq).evalPlan (((s.at t).begun seq).planAt (s.arg 0))).2
      rw [hrep]
      obtain ⟨v, aff, kept, hstart, haff⟩ := startRebind_begins { (s.at t).begun seq with parts := parts, stud := stud } (s.arg 0)
        (((s.at t).begun seq).evalPlan (((s.at t).begun seq).planAt (s.arg 0))).2 true
      rw [hstart]
      simp only [commit_rebind, commit_parts, commit_box_outcome]
      exact ⟨rfl, rfl, rfl, rfl, haff⟩

/-! ## The staging of a recipe (R384, R437) -/

/-- The slot that the mailbox's ARG2 names. -/
def State.slotArg (s : State) : Fin 16 := Fin.ofNat 16 (s.arg 2 % 16)

/-- A staging that has begun. -/
def State.staging (s : State) : State := s.onBox fun b => { b with verb := some (.stageRecipe s.slotArg.val) }

/-- The most bytes that a staging may have: those of the slot's extent, or of the staging area. -/
def State.stageRoom (s : State) : Nat :=
  if bit (s.arg 2) 4 then (s.boot.extents.getD s.slotArg.val ⟨false, 0, 0, 0⟩).bytes else s.boot.limits.stageBytes

/-- Arguments in range: the staging turns on the image that is fetched. -/
theorem stageVerb_inRange {s : State} (image : Option (List Byte)) (hz : s.argsZero 3 = true) (h1 : s.arg 1 < 2 ^ 32) (h0 : s.arg 1 ≠ 0)
    (ha : s.arg 0 % 4096 = 0) (h2 : s.arg 2 < 32) (hroom : s.arg 1 ≤ s.stageRoom) :
    stageVerb image s = match image with
      | none => s.staging.failStage s.slotArg.val rvStageFetch
      | some b => s.staging.stageImage s.slotArg (bit (s.arg 2) 4) (sliceAt b 0 (s.arg 1)) := by
  have hlow : bits (s.arg 1) 0 32 = s.arg 1 := Nat.mod_eq_of_lt h1
  have hhigh : bits (s.arg 1) 32 32 = 0 := by rw [bits_eq, Nat.div_eq_of_lt h1]; rfl
  have hres : ¬ ((bits (s.arg 1) 32 32 != 0) = true ∨ s.arg 2 ≥ 32 ∨ (!s.argsZero 3) = true) := by
    simp [hhigh, hz, h2]
  unfold stageVerb
  extract_lets bytes slot nor room z
  have hb : bytes = s.arg 1 := hlow
  clear_value bytes
  subst hb
  exact (if_neg hres).trans ((if_neg (not_or.2 ⟨h0, fun h => h ha⟩)).trans ((if_neg (Nat.not_lt.2 hroom)).trans rfl))

/-- What the writing of a recipe changes: NOR's operations. -/
theorem writeRecipe_eq (s : State) (slot : Fin 16) (copy : Nat) (image : List Byte) : ∃ ops busy,
    s.writeRecipe slot copy image = { s with norOps := ops, norBusy := busy } := by
  unfold State.writeRecipe
  extract_lets e a
  obtain ⟨ops, busy, h1⟩ := queueNor_eq s (.erase false a (e.bytes / sectorBytes))
  rw [h1]
  obtain ⟨ops, busy, h2⟩ := queueNor_eq { s with norOps := ops, norBusy := busy } (.recipe a (patchAt image 255 [0xFF]))
  rw [h2]
  exact queueNor_eq _ _

/-- A signed image that is neither rolled back, nor at fault, nor for a busy copy, of a slot that no partition runs: its bytes are
written, and it is bound. -/
theorem stageImage_binds {s : State} {slot : Fin 16} {nor : Bool} {image : List Byte} {r : Recipe}
    (hr : r = recipeImage image (if nor then s.copyToWrite slot else 2)) (hsigned : s.recipeSigned image = true)
    (hsvn : s.otp.recipeSvn ≤ r.svn) (hseq : ∀ x, s.boot.recipes[slot].bound = some x → x.seq < r.seq)
    (husers : s.usersOf slot.val = []) (hfault : r.fault [] false = none)
    (hbusy : nor = true → s.copyBusy slot s.boot.recipes[slot].bound = false) :
    ∃ m ops busy, s.stageImage slot nor image = ({ s with mem := m, norOps := ops, norBusy := busy }).stageBind slot r := by
  unfold State.stageImage
  extract_lets x copy r' old z
  have hr' : r' = r := hr.symm
  have hold : old = false := by
    dsimp only [old]
    rw [hr']
    split
    · next b hb => simpa using hseq b hb
    · rfl
  have hz : ∃ m ops busy, z = { s with mem := m, norOps := ops, norBusy := busy } := by
    dsimp only [z]
    split
    · obtain ⟨ops, busy, hw⟩ := writeRecipe_eq s slot copy r'.bytes
      exact ⟨_, ops, busy, hw⟩
    · obtain ⟨m, hm, -⟩ := mainPut_eq s s.boot.limits.stageBase image
      exact ⟨m, _, _, hm⟩
  obtain ⟨m, ops, busy, hz⟩ := hz
  clear_value z old r'
  subst hr' hold hz
  have hfine : (({ s with mem := m, norOps := ops, norBusy := busy } : State).stageFault slot r') = none := by
    have husers' : ({ s with mem := m, norOps := ops, norBusy := busy } : State).usersOf slot.val = [] := husers
    simp only [State.stageFault, husers', hfault, Option.map_none]
  refine ⟨m, ops, busy, ?_⟩
  rw [if_neg (by simp [hsigned]), if_neg (by simpa using hsvn), if_neg (by simpa [x] using hbusy), hfine]

/-- A staged recipe that no partition waits for is put in force. -/
theorem settleSlot_staged {s : State} {n : Fin 16} {r : Recipe} (hp : s.boot.recipes[n].pendPart = [])
    (hs : s.boot.recipes[n].staged = some r) :
    s.settleSlot n = (s.onSlot n fun y => { y with bound := some r, staged := none, overlay := none }).decide_ 0 0 := by
  simp only [State.settleSlot, hp, hs, List.isEmpty_nil, Bool.not_true, Bool.false_eq_true, if_false]

/-- A recipe for a slot that no partition runs is in force at once (R437). -/
theorem stageBind_unused {s : State} {slot : Fin 16} (r : Recipe) (h : s.usersOf slot.val = []) :
    ∃ v : Vector RecipeSlot 16, s.stageBind slot r = ({ s with boot := { s.boot with recipes := v } }).decide_ 0 0
      ∧ v[slot].bound = some r ∧ v[slot].staged = none ∧ v[slot].overlay = none := by
  have hset : s.stageBind slot r = (s.onSlot slot fun x => { x with staged := some r, pendPart := [] }).settleSlot slot := by
    simp only [State.stageBind, h, List.foldl_nil, List.map_nil, List.isEmpty_nil, if_true]
  have hslot := vmod_same s.boot.recipes slot fun x => { x with staged := some r, pendPart := [] }
  have hnew := vmod_same (vmod s.boot.recipes slot fun x => { x with staged := some r, pendPart := [] }) slot
    fun y => { y with bound := some r, staged := none, overlay := none }
  refine ⟨_, hset.trans (settleSlot_staged (r := r) (congrArg RecipeSlot.pendPart hslot) (congrArg RecipeSlot.staged hslot)), ?_⟩
  exact ⟨congrArg RecipeSlot.bound hnew, congrArg RecipeSlot.staged hnew, congrArg RecipeSlot.overlay hnew⟩

theorem sliceAt_whole (l : List Byte) : sliceAt l 0 l.length = l := by
  simp [sliceAt]

theorem stageImage_unsigned {s : State} (slot : Fin 16) (nor : Bool) {image : List Byte} (h : s.recipeSigned image = false) :
    s.stageImage slot nor image = s.failStage slot.val rvStageSignature := by
  unfold State.stageImage
  exact if_pos (by rw [h]; rfl)

/-- A staging whose arguments are in range is refused when its image cannot be fetched or is not signed, and bound when the image passes
and no partition runs its slot. -/
theorem stageRecipe_answers {s : State} {seq : Half} {t : Nat} (hw : s.hostWrites = true) (hb : s.host.box.busy = false)
    (hz : s.argsZero 3 = true) (h1 : s.arg 1 < 2 ^ 32) (h0 : s.arg 1 ≠ 0)
    (ha : s.arg 0 % 4096 = 0) (h2 : s.arg 2 < 32) (hroom : s.arg 1 ≤ s.stageRoom) :
    (Answers (.stageRecipe seq none t) s fun u => u.host.box.outcome = some (rvStageFetch, 0) ∧ u.boot = s.boot)
    ∧ (∀ image : List Byte, image.length = s.arg 1 →
      (((s.at t).begun seq).recipeSigned image = false → Answers (.stageRecipe seq (some image) t) s fun u =>
        u.host.box.outcome = some (rvStageSignature, 0) ∧ u.boot = s.boot)
      ∧ ∀ r, r = recipeImage image (if bit (s.arg 2) 4 then s.copyToWrite s.slotArg else 2) →
        ((s.at t).begun seq).recipeSigned image = true → s.otp.recipeSvn ≤ r.svn →
        (∀ x, s.boot.recipes[s.slotArg].bound = some x → x.seq < r.seq) → s.usersOf s.slotArg.val = [] → r.fault [] false = none →
        (bit (s.arg 2) 4 = true → s.copyBusy s.slotArg s.boot.recipes[s.slotArg].bound = false) →
        Answers (.stageRecipe seq (some image) t) s fun u =>
          u.boot.recipes[s.slotArg].bound = some r ∧ u.boot.recipes[s.slotArg].staged = none
          ∧ u.boot.recipes[s.slotArg].overlay = none
          ∧ u.host.box.outcome = some (0, 0) ∧ u.host.box.verb = some (.stageRecipe s.slotArg.val)) := by
  have hjudge (image : Option (List Byte)) := stageVerb_inRange (s := (s.at t).begun seq) image hz h1 h0 ha h2 hroom
  have hfetched (image : List Byte) (hlen : image.length = s.arg 1) : stageVerb (some image) ((s.at t).begun seq) =
      ((s.at t).begun seq).staging.stageImage s.slotArg (bit (s.arg 2) 4) image := by
    have hwhole : sliceAt image 0 (s.arg 1) = image := by rw [← hlen, sliceAt_whole]
    exact (hjudge (some image)).trans (congrArg (State.stageImage _ _ _) hwhole)
  refine ⟨answers_verb hw hb rfl ?_, fun image hlen => ⟨fun hunsigned => answers_verb hw hb rfl ?_,
    fun r hr hsigned hsvn hseq husers hfault hbusy => answers_verb hw hb rfl ?_⟩⟩
  · rw [hjudge]
    exact ⟨commit_box_outcome _ _, commit_boot _ _⟩
  · have hrefused : stageVerb (some image) ((s.at t).begun seq) =
        ((s.at t).begun seq).staging.failStage s.slotArg.val rvStageSignature :=
      (hfetched image hlen).trans (stageImage_unsigned _ _ hunsigned)
    rw [hrefused]
    exact ⟨commit_box_outcome _ _, commit_boot _ _⟩
  · obtain ⟨m, ops, busy, hbinds⟩ := stageImage_binds (s := ((s.at t).begun seq).staging) (slot := s.slotArg) hr hsigned hsvn hseq
      husers hfault hbusy
    obtain ⟨v, hunused, hbound, hstaged, hoverlay⟩ := stageBind_unused
      (s := { ((s.at t).begun seq).staging with mem := m, norOps := ops, norBusy := busy }) (slot := s.slotArg) r husers
    rw [hfetched image hlen, hbinds, hunused]
    simp only [State.decide_, commit_boot, commit_box_outcome, commit_box_verb, true_and]
    exact ⟨hbound, hstaged, hoverlay, rfl⟩

/-! ## Overlays activated and deactivated (R253 to R255) -/

theorem startNor_busy {s : State} (h : s.norBusy ≠ none) : s.startNor = s := by
  unfold State.startNor
  exact if_pos (by simp [Option.isSome_iff_ne_none, h])

theorem queueNor_busy {s : State} (h : s.norBusy ≠ none) (o : NorOp) : s.queueNor o = { s with norOps := s.norOps ++ [o] } :=
  startNor_busy h

/-- While NOR is busy, an overlay entry queues its three operations (R439). -/
theorem writeOverlay_busy {s : State} (h : s.norBusy ≠ none) (k : Nat) (entry : List Byte) :
    ∃ ops, s.writeOverlay k entry = { s with norOps := ops } ∧ ops.length = s.norOps.length + 3 := by
  have hbusy (l : List NorOp) : ({ s with norOps := l } : State).norBusy ≠ none := h
  unfold State.writeOverlay
  rw [queueNor_busy h, queueNor_busy (hbusy _), queueNor_busy (hbusy _)]
  exact ⟨_, rfl, by simp⟩

/-- An overlay change put before the partitions that run its recipe: it is pending for each of them. -/
theorem bindOverlay_pending {s : State} {slot : Fin 16} (v : Option Overlay) (h : s.usersOf slot.val ≠ []) :
    ∃ parts recipes, s.bindOverlay slot v = { s with parts := parts, boot := { s.boot with recipes := recipes } }
      ∧ recipes[slot].pending = some v ∧ recipes[slot].pendPart = (s.usersOf slot.val).map (·.val) := by
  have hslot := vmod_same s.boot.recipes slot fun x => { x with pending := some v, pendPart := (s.usersOf slot.val).map (·.val) }
  obtain ⟨parts, hparts⟩ := foldl_askBind_eq (s.usersOf slot.val)
    (s.onSlot slot fun x => { x with pending := some v, pendPart := (s.usersOf slot.val).map (·.val) })
  have hbind : s.bindOverlay slot v = _ := if_neg (by simpa using h)
  exact ⟨parts, _, hbind.trans hparts, congrArg RecipeSlot.pending hslot, congrArg RecipeSlot.pendPart hslot⟩

/-- An overlay change written while NOR is busy and bound: its three operations are queued, and it is pending for every partition that
runs the recipe. -/
theorem overlay_put {s : State} {slot : Fin 16} (verb : Verb) (k : Nat) (entry : List Byte) (v : Option Overlay)
    (hu : s.usersOf slot.val ≠ []) (hnor : s.norBusy ≠ none) : ∃ parts recipes ops,
      ((s.onBox fun b => { b with verb := some verb }).writeOverlay k entry).bindOverlay slot v =
        { s.onBox (fun b => { b with verb := some verb }) with
          parts := parts, boot := { s.boot with recipes := recipes }, norOps := ops }
      ∧ recipes[slot].pending = some v ∧ recipes[slot].pendPart = (s.usersOf slot.val).map (·.val)
      ∧ ops.length = s.norOps.length + 3 := by
  obtain ⟨ops, hwrite, hlen⟩ := writeOverlay_busy (s := s.onBox fun b => { b with verb := some verb }) hnor k entry
  rw [hwrite]
  obtain ⟨parts, recipes, hbind, hpending, hpart⟩ := bindOverlay_pending
    (s := { s.onBox (fun b => { b with verb := some verb }) with norOps := ops }) v hu
  exact ⟨parts, recipes, ops, hbind, hpending, hpart, hlen⟩

section
variable {s : State} {p : Fin 6} {train r : Recipe} {a : Adapter} {slot : Fin 16} {o : Nat} (ht : s.targetSlot a.target = some (slot, r))
  (hsame : ∃ q, r.adapter a.number = some q ∧ q.rank = a.rank ∧ q.n = a.n ∧ q.k = a.k ∧ q.layer = a.layer)
include ht hsame

/-- An adapter of the shape of its bound target: refused while it is empty or not finite, bound otherwise. -/
theorem activate_ofShape : s.activate p train a o = match s.adapterWeights p a.number with
    | none => s.rejectOverlay p slot.val (s.overlayOf p train a slot.val o).2.2 rvOverlayEmpty
    | some w =>
      if badMaster w then s.rejectOverlay p slot.val (s.overlayOf p train a slot.val o).2.2 rvOverlayNan
      else ((s.onBox fun b => { b with verb := some (.activateOverlay slot.val p.val) }).writeOverlay (s.overlayOf p train a slot.val o).1
        ((s.overlayOf p train a slot.val o).2.1 ++ (s.overlayOf p train a slot.val o).2.2.digest)).bindOverlay slot
          (some (s.overlayOf p train a slot.val o).2.2) := by
  obtain ⟨q, hq, hrank, hn, hk, hlayer⟩ := hsame
  simp only [State.activate, ht, hq, hrank, hn, hk, hlayer, beq_self_eq_true, Bool.and_self, Bool.not_true, Bool.false_eq_true,
    if_false] <;> rfl

theorem activate_empty (h : s.adapterWeights p a.number = none) :
    s.activate p train a o = s.rejectOverlay p slot.val (s.overlayOf p train a slot.val o).2.2 rvOverlayEmpty := by
  simp only [activate_ofShape ht hsame, h]

theorem activate_notFinite {w : List Byte} (h : s.adapterWeights p a.number = some w) (hw : badMaster w = true) :
    s.activate p train a o = s.rejectOverlay p slot.val (s.overlayOf p train a slot.val o).2.2 rvOverlayNan := by
  simp only [activate_ofShape ht hsame, h, hw, if_true]

theorem activate_binds {w : List Byte} (h : s.adapterWeights p a.number = some w) (hw : badMaster w = false) : ∃ k entry,
    s.activate p train a o =
      ((s.onBox fun b => { b with verb := some (.activateOverlay slot.val p.val) }).writeOverlay k entry).bindOverlay slot
        (some (s.overlayOf p train a slot.val o).2.2) := by
  simp only [activate_ofShape ht hsame, h, hw, Bool.false_eq_true, if_false]
  exact ⟨_, _, rfl⟩

end

/-- Arguments in range, of an adapter that the training partition's recipe declares: the activation waits for the boundary of a step in
progress, and is judged at once between two steps. -/
theorem activateVerb_inRange {s : State} {p : Fin 6} {train : Recipe} {a : Adapter} (hz : s.argsZero 1 = true) (hlt : s.arg 0 < 32768)
    (hp : s.arg 0 / 4096 % 8 = p.val) (hbound : s.parts[p].bound = true) (hr : s.recipeFor p 3 = some train)
    (ha : train.adapter (s.arg 0 % 256) = some a) :
    activateVerb s = if s.parts[p].step.isSome
      then s.onBox fun b => { b with overlayWait := some (p, s.arg 0 % 256, s.arg 0 / 256 % 16) }
      else s.activate p train a (s.arg 0 / 256 % 16) := by
  have hpart : bits (s.arg 0) 12 3 = p.val := (bits_eq _ _ _).trans hp
  have hnumber : bits (s.arg 0) 0 8 = s.arg 0 % 256 := rfl
  have hslot : bits (s.arg 0) 8 4 = s.arg 0 / 256 % 16 := bits_eq _ _ _
  have htrained : s.trained p (s.arg 0 % 256) = some (train, a) := by
    simp only [State.trained, hbound, if_true, hr, Option.bind_some, ha, Option.map_some]
  have hof : Fin.ofNat 6 p.val = p := Fin.ext (Nat.mod_eq_of_lt p.isLt)
  have hrange : ¬ (p.val ≥ 6 ∨ (some (train, a)).isNone = true) := by
    simp
  have hres : ¬ (s.arg 0 ≥ 32768 ∨ (!s.argsZero 1) = true) := by
    simp [hz, hlt]
  unfold activateVerb
  simp only [hpart, hnumber, hslot, hof, if_neg hrange, if_neg hres, State.activateNow, htrained]

/-- An activation of a declared adapter: it waits for the boundary of a step in progress; between two steps it is refused while the
adapter is empty or not finite, and otherwise put before the partitions (R253, R254). -/
theorem activateOverlay_answers {s : State} {seq : Half} {t : Nat} {p : Fin 6} {train r : Recipe} {a : Adapter} {slot : Fin 16}
    (hw : s.hostWrites = true) (hb : s.host.box.busy = false) (hz : s.argsZero 1 = true) (hlt : s.arg 0 < 32768)
    (hp : s.arg 0 / 4096 % 8 = p.val) (hbound : s.parts[p].bound = true) (hr : s.recipeFor p 3 = some train)
    (ha : train.adapter (s.arg 0 % 256) = some a) :
    (s.parts[p].step ≠ none → Answers (.activateOverlay seq t) s fun u =>
      u.host.box.overlayWait = some (p, s.arg 0 % 256, s.arg 0 / 256 % 16) ∧ u.host.box.outcome = none ∧ u.boot = s.boot)
    ∧ (s.parts[p].step = none → s.targetSlot a.target = some (slot, r) →
      (∃ q, r.adapter a.number = some q ∧ q.rank = a.rank ∧ q.n = a.n ∧ q.k = a.k ∧ q.layer = a.layer) →
      (s.adapterWeights p a.number = none → Answers (.activateOverlay seq t) s fun u =>
        u.host.box.outcome = some (rvOverlayEmpty, 0) ∧ u.boot = s.boot)
      ∧ (∀ w, s.adapterWeights p a.number = some w →
        (badMaster w = true → Answers (.activateOverlay seq t) s fun u =>
          u.host.box.outcome = some (rvOverlayNan, 0) ∧ u.boot = s.boot)
        ∧ (badMaster w = false → s.usersOf slot.val ≠ [] → s.norBusy ≠ none → Answers (.activateOverlay seq t) s fun u =>
          u.boot.recipes[slot].pending = some (some (s.overlayOf p train a slot.val (s.arg 0 / 256 % 16)).2.2)
          ∧ u.boot.recipes[slot].pendPart = (s.usersOf slot.val).map (·.val)
          ∧ u.norOps.length = s.norOps.length + 3 ∧ u.host.box.outcome = none))) := by
  have hverb := activateVerb_inRange (s := (s.at t).begun seq) hz hlt hp hbound hr ha
  refine ⟨fun hstep => answers_verb hw hb rfl ?_, fun hstep ht hsame => ?_⟩
  · rw [hverb.trans (if_pos (Option.isSome_iff_ne_none.2 hstep))]
    exact ⟨commit_box_overlayWait _ _, commit_box_outcome _ _, commit_boot _ _⟩
  · have hnone : ¬ ((s.at t).begun seq).parts[p].step.isSome = true := fun h => Option.isSome_iff_ne_none.1 h hstep
    have hjudged : activateVerb ((s.at t).begun seq) = ((s.at t).begun seq).activate p train a (s.arg 0 / 256 % 16) :=
      hverb.trans (if_neg hnone)
    refine ⟨fun hempty => answers_verb hw hb rfl ?_, fun w hweights => ⟨fun hnan => answers_verb hw hb rfl ?_,
      fun hfinite husers hnor => answers_verb hw hb rfl ?_⟩⟩
    · rw [hjudged, activate_empty (s := (s.at t).begun seq) ht hsame hempty]
      exact ⟨commit_box_outcome _ _, commit_boot _ _⟩
    · rw [hjudged, activate_notFinite (s := (s.at t).begun seq) ht hsame hweights hnan]
      exact ⟨commit_box_outcome _ _, commit_boot _ _⟩
    · obtain ⟨k, entry, hbinds⟩ := activate_binds (s := (s.at t).begun seq) (train := train) (o := s.arg 0 / 256 % 16)
        ht hsame hweights hfinite
      obtain ⟨parts, recipes, ops, hput, hpending, hpart, hlen⟩ := overlay_put (s := (s.at t).begun seq)
        (.activateOverlay slot.val p.val) k entry _ husers hnor
      rw [hjudged, hbinds, hput]
      simp only [commit_boot, commit_norOps, commit_box_outcome]
      exact ⟨hpending, hpart, hlen, rfl⟩

/-- The deactivation of an active overlay: its entry is written, and its end put before the partitions. -/
theorem deactivateVerb_active {s : State} {slot : Fin 16} {o : Overlay} {r : Recipe} (hz : s.argsZero 1 = true) (ha : s.arg 0 = slot.val)
    (ho : s.boot.recipes[slot].overlay = some o) (hr : s.boot.recipes[slot].bound = some r) : ∃ k entry, deactivateVerb s =
      ((s.onBox fun b => { b with verb := some (.deactivateOverlay slot.val) }).writeOverlay k entry).bindOverlay slot none := by
  have hslot : Fin.ofNat 16 (bits (s.arg 0) 0 4) = slot :=
    Fin.ext (by rw [ha, bits_low]; simp)
  have hres : ¬ (s.arg 0 ≥ 16 ∨ (!s.argsZero 1) = true) := by
    simp [hz, ha]
  simp only [deactivateVerb, hslot, if_neg hres, ho, hr]
  exact ⟨_, _, rfl⟩

theorem deactivateOverlay_answers {s : State} {seq : Half} {t : Nat} {slot : Fin 16} {o : Overlay} {r : Recipe}
    (hw : s.hostWrites = true) (hb : s.host.box.busy = false) (hz : s.argsZero 1 = true) (ha : s.arg 0 = slot.val)
    (ho : s.boot.recipes[slot].overlay = some o) (hr : s.boot.recipes[slot].bound = some r) (husers : s.usersOf slot.val ≠ [])
    (hnor : s.norBusy ≠ none) : Answers (.deactivateOverlay seq t) s fun u =>
      u.boot.recipes[slot].pending = some none ∧ u.boot.recipes[slot].pendPart = (s.usersOf slot.val).map (·.val)
      ∧ u.norOps.length = s.norOps.length + 3 ∧ u.host.box.outcome = none := by
  refine answers_verb hw hb rfl ?_
  obtain ⟨k, entry, hactive⟩ := deactivateVerb_active (s := (s.at t).begun seq) hz ha ho hr
  obtain ⟨parts, recipes, ops, hput, hpending, hpart, hlen⟩ := overlay_put (s := (s.at t).begun seq)
    (.deactivateOverlay slot.val) k entry none husers hnor
  rw [hactive, hput]
  simp only [commit_boot, commit_norOps, commit_box_outcome]
  exact ⟨hpending, hpart, hlen, rfl⟩

/-! ## A report attested (R440) -/

theorem notePower_arg (s : State) (i : Fin 8) : s.notePower.arg i = s.arg i := by
  obtain ⟨store, since, hp⟩ := notePower_eq s
  rw [hp]
  rfl

theorem onBox_verb_arg (s : State) (v : Option Verb) (i : Fin 8) : (s.onBox fun x => { x with verb := v }).arg i = s.arg i := rfl

/-- A report that fits its buffer is written, logged, and decided with its length. -/
theorem attestVerb_fits {s : State} {nonce : List Byte} (hz : s.argsZero 6 = true) (h5 : s.arg 5 < 2 ^ 32) (h0 : s.arg 5 ≠ 0)
    (h4 : s.arg 4 % 8 = 0) (hn : nonce = leBytes 8 (s.arg 0) ++ leBytes 8 (s.arg 1) ++ leBytes 8 (s.arg 2) ++ leBytes 8 (s.arg 3))
    (hlen : (s.notePower.bouquet nonce).length ≤ s.arg 5) :
    attestVerb s = (((s.notePower.onBox fun x => { x with verb := some .attestation }).hostWrite (s.arg 4)
      (s.notePower.bouquet nonce)).log 0x010F srcHost (nonce.take 8)).decide_ 0 (BitVec.ofNat 64 (s.notePower.bouquet nonce).length) := by
  have hlow : bits (s.arg 5) 0 32 = s.arg 5 := Nat.mod_eq_of_lt h5
  have hhigh : bits (s.arg 5) 32 32 = 0 := by rw [bits_eq, Nat.div_eq_of_lt h5]; rfl
  have hres : ¬ ((bits (s.arg 5) 32 32 != 0) = true ∨ (!s.argsZero 6) = true) := by
    simp [hhigh, hz]
  have harg := notePower_arg s
  unfold attestVerb
  generalize s.notePower = z at *
  extract_lets bytes z' nonce' b y
  have hb : bytes = s.arg 5 := hlow
  have hn' : nonce' = nonce := by
    dsimp only [nonce']
    rw [harg, harg, harg, harg, ← hn]
  have hy : y.arg 4 = s.arg 4 := (onBox_verb_arg z _ 4).trans (harg 4)
  clear_value bytes nonce'
  subst hb hn'
  rw [if_neg hres, if_neg (not_or.2 ⟨h0, fun h => h h4⟩), if_neg (Nat.not_lt.2 hlen), hy]

/-- A report says nothing of the mailbox. -/
theorem bouquet_onBox (s : State) (f : Mailbox → Mailbox) (nonce : List Byte) : (s.onBox f).bouquet nonce = s.bouquet nonce := rfl

/-- POWER_ON_S brought up to date by `secs`, up to `since`. -/
def State.powered (s : State) (secs since : Nat) : State :=
  { s with
    store := { s.store with life := bumpAt s.store.life 1 secs }
    boot := { s.boot with poweredAt := since } }

theorem notePower_powered (s : State) : s.notePower = s.powered ((s.now - s.boot.poweredAt) / second)
    (s.boot.poweredAt + (s.now - s.boot.poweredAt) / second * second) := rfl

theorem powered_onBox (s : State) (f : Mailbox → Mailbox) (secs since : Nat) :
    (s.onBox f).powered secs since = (s.powered secs since).onBox f := rfl

theorem onBox_now (s : State) (f : Mailbox → Mailbox) : (s.onBox f).now = s.now := rfl

theorem onBox_boot (s : State) (f : Mailbox → Mailbox) : (s.onBox f).boot = s.boot := rfl

/-- POWER_ON_S does not turn on the mailbox. (By `rfl` the kernel would count the seconds one by one.) -/
theorem notePower_onBox (s : State) (f : Mailbox → Mailbox) : (s.onBox f).notePower = s.notePower.onBox f := by
  rw [notePower_powered, onBox_now, onBox_boot, powered_onBox, ← notePower_powered]

/-- What a write to host memory changes: host memory. -/
theorem hostWrite_eq (s : State) (addr : Nat) (bs : List Byte) : ∃ mem, s.hostWrite addr bs = { s with host := { s.host with mem := mem } } := by
  unfold State.hostWrite
  split
  · exact ⟨_, rfl⟩
  · exact ⟨_, rfl⟩

theorem requestAttestation_answers {s : State} {seq : Half} {t : Nat} {nonce : List Byte} (hw : s.hostWrites = true)
    (hb : s.host.box.busy = false) (hz : s.argsZero 6 = true) (h5 : s.arg 5 < 2 ^ 32) (h0 : s.arg 5 ≠ 0) (h4 : s.arg 4 % 8 = 0)
    (hn : nonce = leBytes 8 (s.arg 0) ++ leBytes 8 (s.arg 1) ++ leBytes 8 (s.arg 2) ++ leBytes 8 (s.arg 3))
    (hlen : ((s.at t).notePower.bouquet nonce).length ≤ s.arg 5) : Answers (.requestAttestation seq t) s fun u =>
      u.host.box.outcome = some (0, BitVec.ofNat 64 ((s.at t).notePower.bouquet nonce).length) ∧ u.host.box.seq = seq
      ∧ u.stud = s.stud.event (max s.now t) 0x010F srcHost (nonce.take 8) := by
  refine answers_verb hw hb rfl ?_
  have hbouquet : ((s.at t).begun seq).notePower.bouquet nonce = (s.at t).notePower.bouquet nonce := by
    rw [State.begun, notePower_onBox, bouquet_onBox]
  have hfits := attestVerb_fits (s := (s.at t).begun seq) hz h5 h0 h4 hn (hbouquet.symm ▸ hlen)
  rw [hbouquet] at hfits
  obtain ⟨store, since, hpower⟩ := notePower_eq ((s.at t).begun seq)
  rw [hpower] at hfits
  generalize (s.at t).notePower.bouquet nonce = report at *
  obtain ⟨mem, hwrite⟩ := hostWrite_eq (({ (s.at t).begun seq with
    store := store, boot := { ((s.at t).begun seq).boot with poweredAt := since } } : State).onBox fun x => { x with verb := some .attestation })
    (((s.at t).begun seq).arg 4) report
  rw [hwrite] at hfits
  rw [hfits]
  simp only [State.decide_, State.log, commit_box_outcome, commit_box_seq, commit_stud]
  exact ⟨trivial, rfl, rfl⟩

/-- Settles O51: each verb begins and is judged (`answers_verb`), by one lemma per verb. -/
theorem plansRecipesAndOverlaysAreTaken : Obligations.PlansRecipesAndOverlaysAreTaken := by
  intro s seq t hw hb s1
  have hs1 : s1 = (s.at t).begun seq := startVerb_begun (s := s.at t) hw hb seq _
  rw [hs1]
  refine ⟨fun hz h8 => ?_, fun hz h1 h0 ha h2 hroom => ?_, fun p train r a slot hz => ?_,
    fun slot o r hz ha ho hr husers hnor => deactivateOverlay_answers hw hb hz ha ho hr husers hnor,
    fun hz h5 h4 hlen h0 => requestAttestation_answers hw hb hz h5 h0 h4 rfl hlen⟩
  · obtain ⟨hundeclared, hdeclared⟩ := selectPlan_answers s seq t hw hb hz h8
    refine ⟨hundeclared, fun hn hidle => ?_⟩
    obtain ⟨hforce, hother⟩ := hdeclared hn hidle
    refine ⟨hforce, fun hp hr => ?_⟩
    obtain ⟨u, hu, hstage, htarget, hverb, hout, haff⟩ := hother hp hr
    exact ⟨u, hu, hstage, htarget, hverb, hout, fun p hp _ => haff p hp⟩
  · obtain ⟨hfetch, himage⟩ := stageRecipe_answers (seq := seq) (t := t) hw hb hz h1 h0 ha h2 hroom
    refine ⟨hfetch, fun image hlen => ?_⟩
    obtain ⟨hunsigned, hsigned⟩ := himage image hlen
    exact ⟨hunsigned, hsigned _ rfl⟩
  · intro o hlt hp hbound hr ha
    exact activateOverlay_answers hw hb hz hlt hp hbound hr ha

end Sys2Proof.Machine

/-! ## The lowest free number (R270) -/

namespace Sys2Proof.Machine

/-- What the search for a free number passes over, and where it ends: at a free number, or where its fuel does. -/
theorem freeId_search (used : List Nat) (fuel i : Nat) :
    (∀ j, i ≤ j → j < freeId used fuel i → j ∈ used) ∧ (freeId used fuel i ∉ used ∨ freeId used fuel i = i + fuel) := by
  induction fuel generalizing i with
  | zero => exact ⟨fun j hj hlt => absurd hlt (Nat.not_lt.2 hj), .inr rfl⟩
  | succ fuel ih =>
    unfold freeId
    split
    · next hused =>
      obtain ⟨hbelow, hend⟩ := ih (i + 1)
      refine ⟨fun j hj hlt => ?_, hend.imp_right fun h => by omega⟩
      rcases Nat.eq_or_lt_of_le hj with rfl | hj
      · simpa using hused
      · exact hbelow j hj hlt
    · next hfree => exact ⟨fun j hj hlt => absurd hlt (Nat.not_lt.2 hj), .inl (by simpa using hfree)⟩

/-- With as many tries as there are numbers in use, the search finds the lowest that is free. -/
theorem freeId_lowest (used : List Nat) :
    freeId used used.length 0 ∉ used ∧ ∀ j, j < freeId used used.length 0 → j ∈ used := by
  obtain ⟨hbelow, hend⟩ := freeId_search used used.length 0
  refine ⟨fun hmem => ?_, fun j => hbelow j (Nat.zero_le j)⟩
  have hlen : freeId used used.length 0 = used.length := (hend.resolve_left (not_not.2 hmem)).trans (Nat.zero_add _)
  have hsub : List.range (used.length + 1) ⊆ used := fun j hj => by
    rcases Nat.lt_succ_iff_lt_or_eq.1 (List.mem_range.1 hj) with hlt | rfl
    · exact hbelow j (Nat.zero_le j) (hlen.symm ▸ hlt)
    · rwa [hlen] at hmem
  have := (List.subperm_of_subset List.nodup_range hsub).length_le
  simp at this

/-! ## A context for a waiting side (R272, R273) -/

/-- A descriptor brought into the cache changes of memory only the cache and what a write of data touches; while there is room,
nothing is written, and the descriptor stands at the front (R271). -/
theorem holdDescriptor_cache (s : State) (id : Nat) : ∃ m : Memory, s.holdDescriptor id = { s with mem := m }
    ∧ { m.bare with ctxCache := [] } = { s.mem.bare with ctxCache := [] }
    ∧ (s.mem.ctxCache.length < cacheEntries →
      m = { s.mem with ctxCache := m.ctxCache } ∧ ∃ place rest, m.ctxCache = (place, id) :: rest) := by
  unfold State.holdDescriptor
  extract_lets l put
  split
  · exact ⟨_, rfl, rfl, fun _ => ⟨rfl, _, _, rfl⟩⟩
  · split
    · exact ⟨_, rfl, rfl, fun _ => ⟨rfl, _, _, rfl⟩⟩
    · next hfull =>
      split
      · next x _ =>
        obtain ⟨m, hm, hbare, _⟩ := mainPut_eq s (s.boot.limits.ctxTableBase + 64 * x.2) (s.descriptor x.2)
        rw [hm]
        exact ⟨_, rfl, congrArg (fun m : Memory => { m with ctxCache := [] }) hbare, fun h => absurd h hfull⟩
      · exact ⟨_, rfl, rfl, fun h => absurd h hfull⟩

/-- The Spur predicts nothing for TROT and WALK (R276). -/
theorem predict_unhurried {s : State} {id : Nat} {c : Context} (hc : s.context? id = some c) (hg : 2 ≤ c.gait.val) :
    s.predict id = s := by
  unfold State.predict
  rw [hc]
  dsimp only
  split
  · exact if_pos (by simp; omega)
  · rfl

/-- The context that a waiting side takes from the shared pool, when its recipe declares no KV state for side contexts. -/
def State.sharedContext (s : State) (w : Waiting) (x : Side) : Context :=
  let id := freeId (s.contexts.map (·.id)) s.contexts.length 0
  { id := id, state := .ready, gait := w.gait, part := w.part, line := false, fromReserve := false
    fallback := x.switched, parent := id, reread := false, trunc := false
    chainPos := 0, side := w.side, sideId := x.sideId, tStart := x.tStart.getD 0, kvRoots := 0
    image := match x.images with
      | i :: _ => i.addr
      | [] => 0
    aux := match x.images.find? fun i => i.role == 3 with
      | some i => i.addr
      | none => 0
    lastUse := s.now, readySince := s.now }

theorem sharedContext_id (s : State) (w : Waiting) (x : Side) : (∀ b ∈ s.contexts, b.id ≠ (s.sharedContext w x).id)
    ∧ ∀ i, i < (s.sharedContext w x).id → ∃ b ∈ s.contexts, b.id = i := by
  obtain ⟨hfree, hbelow⟩ := freeId_lowest (s.contexts.map (·.id))
  rw [List.length_map] at hfree hbelow
  exact ⟨fun b hb heq => hfree (List.mem_map.2 ⟨b, hb, heq⟩), fun i hi => List.mem_map.1 (hbelow i hi)⟩

/-- A side that has its context. -/
def Side.active (y : Side) : Side := { y with stage := .active }

theorem takeContext_shared {s : State} {w : Waiting} {x : Side} (hx : s.side? w.side = some x) (hline : w.line = false)
    (hg : 2 ≤ w.gait.val) (hkv : s.classFor w.part w.gait.val false = none) : ∃ m : Memory,
    s.takeContext w false = ({ s with contexts := s.contexts ++ [s.sharedContext w x], mem := m }.onSide w.side Side.active).countPart
      w.part Part.sidesAdmitted 1
    ∧ { m.bare with ctxCache := [] } = { s.mem.bare with ctxCache := [] }
    ∧ (s.mem.ctxCache.length < cacheEntries →
      m = { s.mem with ctxCache := m.ctxCache } ∧ ∃ place rest, m.ctxCache = (place, (s.sharedContext w x).id) :: rest) := by
  obtain ⟨m, hm, hrest⟩ := holdDescriptor_cache { s with contexts := s.contexts ++ [s.sharedContext w x] } (s.sharedContext w x).id
  refine ⟨m, ?_, hrest⟩
  have htake : s.takeContext w false = ((({ s with contexts := s.contexts ++ [s.sharedContext w x] }.holdDescriptor
      (s.sharedContext w x).id).onSide w.side Side.active).countPart w.part Part.sidesAdmitted 1).predict (s.sharedContext w x).id := by
    unfold State.takeContext
    rw [hx]
    simp only [hline, hkv]
    rfl
  rw [htake, hm]
  refine predict_unhurried (c := s.sharedContext w x) ?_ hg
  have hnone : s.contexts.find? (fun b => b.id == (s.sharedContext w x).id) = none :=
    List.find?_eq_none.2 fun b hb => by simpa using (sharedContext_id s w x).1 b hb
  refine (List.find?_append (xs := s.contexts)).trans ?_
  rw [hnone]
  simp

/-! ## Admission of the only request (R273) -/

/-- One waiting request that its partition admits is all that a pass of admission attempts. -/
theorem admitAll_single {s : State} {w : Waiting} (hacts : s.holderActs = true) (hq : s.queue = [w]) (hmay : s.mayAdmit w = true) :
    s.admitAll = (s.admitOne w).1 := by
  have horder : admissionOrder s.queue = [w] := by rw [hq]; rfl
  unfold State.admitAll
  rw [if_pos hacts, horder]
  unfold admitLoop
  rw [if_neg (by simp), if_neg (by simp [hmay])]
  split
  · next hz => rw [hz]; rfl
  · next hz => rw [hz]; rfl

theorem mayAdmit_bound {s : State} {w : Waiting} {x : Side} (hx : s.side? w.side = some x) (hnew : x.newRecipe = false)
    (hb : s.parts[w.part].bound = true) (hr : s.parts[w.part].rebinding = false) : s.mayAdmit w = true := by
  simp only [State.mayAdmit, hx, hnew, hb, hr]
  rfl

theorem gait_ne_zero {g : Fin 4} (h : 2 ≤ g.val) : g ≠ 0 := by
  rintro rfl
  exact absurd h (by decide)

section
variable {s : State} {w : Waiting} (hline : w.line = false) (hg : 2 ≤ w.gait.val) (hkv : s.classFor w.part w.gait.val false = none)
include hline hg hkv

/-- A TROT or WALK side with room in the shared pool takes a context there (R272). -/
theorem admitOne_shared (hused : s.usedIn w.part false < s.parts[w.part].maxContexts)
    (hshared : s.sharedUsed < tableSize - s.boot.limits.gallopReserve) :
    s.admitOne w = ({ s with queue := s.queue.erase w }.takeContext w false, true) := by
  have hkind : s.allocKind w = .shared :=
    (if_neg (by simp [gait_ne_zero hg])).trans ((if_neg (Nat.not_le.2 hused)).trans (if_pos hshared))
  simp [State.admitOne, State.kvCovers, hline, hkv, hkind]

/-- One whose partition has MAX_CONTEXTS shared entries already waits (R272). -/
theorem admitOne_waits (hused : s.parts[w.part].maxContexts ≤ s.usedIn w.part false) : s.admitOne w = (s, false) := by
  have hkind : s.allocKind w = .wait := (if_neg (by simp [gait_ne_zero hg])).trans (if_pos hused)
  simp [State.admitOne, State.kvCovers, hline, hkv, hkind]

end

/-- Settles O11: a pass with one request is one attempt (`admitAll_single`), which takes a shared context (`takeContext_shared`) or
waits. -/
theorem admissionFollowsTheTable : Obligations.AdmissionFollowsTheTable := by
  intro s w x t hacts hq hline hg hx hnew hb hr hrecipe
  have hkv : (s.at t).classFor w.part w.gait.val false = none := by
    obtain ⟨r, hr, hnone⟩ := hrecipe
    have hr' : (s.at t).recipeFor w.part w.gait.val = some r := hr
    simp only [State.classFor, hr', Option.bind_some, hnone]
  have hpass := admitAll_single (s := s.at t) hacts hq (mayAdmit_bound (s := s.at t) hx hnew hb hr)
  refine ⟨fun hused hshared => ?_, fun hused => ?_⟩
  · rw [admitOne_shared (s := s.at t) hline hg hkv hused hshared] at hpass
    obtain ⟨m, htake, hbare, hroom⟩ := takeContext_shared (s := { s.at t with queue := (s.at t).queue.erase w }) hx hline hg hkv
    refine ⟨_, congrArg (done s) (hpass.trans htake), ?_⟩
    have hid := sharedContext_id (s.at t) w x
    refine ⟨?_, ⟨(s.at t).sharedContext w x, ?_, rfl, rfl, rfl, rfl, rfl, rfl, rfl, rfl, rfl, rfl, rfl, rfl, ?_, hid.1, hid.2,
      fun h => ?_⟩, ?_, ?_, kept_commit _ ?_⟩
    · rw [commit_queue]
      exact (congrArg (List.erase · w) hq).trans (by simp)
    · rw [commit_contexts]
      rfl
    · rw [commit_now]
      rfl
    · rw [commit_mem]
      exact hroom h
    · rw [commit_sides]
      exact onSide_all (f := Side.active) (fun _ => rfl) _ w.side fun _ => rfl
    · rw [commit_parts]
      exact congrArg Partition.counters (vmod_same s.parts w.part _)
    · have hsides : ((s.sides.map fun y => if y.key = w.side then y.active else y).map fun y =>
          if y.key = w.side then { y with stage := .active } else y)
          = s.sides.map fun y => if y.key = w.side then { y with stage := .active } else y := by
        rw [List.map_map]
        refine List.map_congr_left fun y _ => ?_
        by_cases hy : y.key = w.side <;> simp [hy, Side.active]
      have hparts := vmod_hides s.parts w.part (fun y => { y with counters := bumpAt y.counters Part.sidesAdmitted 1 })
        (fun y => { y with counters := Vector.replicate 16 0 }) fun _ => rfl
      have hall := congr (congrArg₂ (fun sides parts mem => ({ s.quiet with
        queue := [], contexts := [], sides := sides, parts := parts, mem := mem } : State)) hsides hparts) hbare
      exact hall
  · rw [admitOne_waits (s := s.at t) hline hg hkv hused] at hpass
    refine ⟨_, congrArg (done s) hpass, ?_, kept_commit _ rfl⟩
    rw [commit_queue]
    exact hq

end Sys2Proof.Machine

/-! ## Tags that are waited for (R284, R285, R311) -/

namespace Sys2Proof.Machine

/-- Whether a request had to wait for a tag of the pool that its engine's slot plan should have kept free for it (R311). -/
theorem starved_iff (s : State) (pool : Fin 12) (e : Fin 7) :
    (decide (5 ≤ pool.val) && decide (pool.val ≤ 10) && (s.slotRules e).isSome
        && s.engines[e].part == some (Fin.ofNat 6 (pool.val - 5))) = true
      ↔ 5 ≤ pool.val ∧ pool.val ≤ 10 ∧ s.slotRules e ≠ none ∧ s.engines[e].part = some (Fin.ofNat 6 (pool.val - 5)) := by
  simp [Option.isSome_iff_ne_none, and_assoc]

theorem faultCommand_eq {s : State} {p : Fin 6} {r : StepRun} {e : Fin 7} {i : Half} {d : List Byte} (st : Half)
    (hp : s.engines[e].part = some p) (hr : s.parts[p].step = some r)
    (hd : (s.unretired r e).find? (fun d => dIndex d == i.toNat) = some d) : s.faultCommand e i st = s.cutShort e d st := by
  simp only [State.faultCommand, hp, Option.bind_some, hr, hd]

/-- The waiting cycles of a pool, set anew, are all that changes. -/
theorem kept_tagWait (o s : State) (v : Vector DWord 12) :
    Kept (fun z => { z with mem := { z.mem with tagWait := Vector.replicate 12 0 } }) s
      (commit o { s with mem := { s.mem with tagWait := v } }) :=
  kept_commit o rfl

/-! ## Updates of one channel (R305, R316, R317) -/

/-- A channel updated is all that changes. -/
theorem kept_onChannel (o s : State) (ch : Fin 12) (f : Channel → Channel) :
    Kept (fun z => { z with mem := { z.mem with channels := vmod z.mem.channels ch fun _ => Channel.reset } }) s
      (commit o (s.onChannel ch f)) :=
  kept_commit o (congrArg (fun v => { s.quiet with mem := { s.mem with channels := v } })
    (vmod_hides s.mem.channels ch f _ fun _ => rfl))

theorem onChannel_self (s : State) (ch : Fin 12) {f : Channel → Channel} (h : f s.mem.channels[ch] = s.mem.channels[ch]) :
    s.onChannel ch f = s := by
  rw [State.onChannel, vmod_self _ _ h]

/-- A count that a channel keeps under a condition. -/
theorem onChannel_if (s : State) (ch : Fin 12) (c : Prop) [Decidable c] {f : Nat → Channel → Channel}
    (h : f 0 s.mem.channels[ch] = s.mem.channels[ch]) :
    (if c then s.onChannel ch (f 1) else s) = s.onChannel ch (f (if c then 1 else 0)) := by
  split
  · rfl
  · exact (onChannel_self s ch h).symm

theorem refreshesIn_iff (rate : BitVec 2) (w : Fin 4) : refreshesIn rate w = true ↔ w = 3 ∨ (w = 1 ∧ rate ≠ 0) ∨ rate = 2 := by
  simp [refreshesIn, or_assoc]

/-! ## The worst MR4 code (R317) -/

/-- The worst of a channel's MR4 codes. -/
def worstCode (codes : List (BitVec 3)) : Nat := (codes.map (·.toNat)).foldl max 0

theorem worstCode_le (codes : List (BitVec 3)) (k : Nat) : worstCode codes ≤ k ↔ ∀ q ∈ codes, q.toNat ≤ k := by
  have hmax (l : List Nat) (a : Nat) : l.foldl max a ≤ k ↔ a ≤ k ∧ ∀ n ∈ l, n ≤ k := by
    induction l generalizing a with
    | nil => simp
    | cons n l ih => rw [List.foldl_cons, ih, List.forall_mem_cons, Nat.max_le, and_assoc]
  simp [worstCode, hmax]

theorem worstCode_eq_seven (codes : List (BitVec 3)) : worstCode codes = 7 ↔ 7 ∈ codes := by
  have h7 : worstCode codes ≤ 7 := (worstCode_le codes 7).2 fun q _ => Nat.le_of_lt_succ q.isLt
  have h6 : worstCode codes ≤ 6 ↔ 7 ∉ codes := by
    rw [worstCode_le]
    refine ⟨fun h hq => absurd (h 7 hq) (by decide), fun h q hq => ?_⟩
    have hne : q.toNat ≠ 7 := fun hq7 => h (BitVec.eq_of_toNat_eq (y := 7) hq7 ▸ hq)
    have := q.isLt
    omega
  rw [← not_iff_not, ← h6]
  omega

/-- A channel whose worst MR4 code is known. -/
def Channel.polled (worst : Nat) (c : Channel) : Channel :=
  { c with refresh := rateOf worst, hot := c.hot || decide (worst = 7) }

/-- The rate follows the worst code (to 3: once, 4: twice, above: four times). -/
theorem polled_refresh (c : Channel) (codes : List (BitVec 3)) :
    ((∀ q ∈ codes, q.toNat ≤ 3) → (c.polled (worstCode codes)).refresh = 0)
    ∧ ((∀ q ∈ codes, q.toNat ≤ 4) → (¬ ∀ q ∈ codes, q.toNat ≤ 3) → (c.polled (worstCode codes)).refresh = 1)
    ∧ ((¬ ∀ q ∈ codes, q.toNat ≤ 4) → (c.polled (worstCode codes)).refresh = 2) := by
  simp only [← worstCode_le]
  exact ⟨fun h3 => if_pos h3, fun h4 h3 => (if_neg h3).trans (if_pos (by omega)),
    fun h4 => (if_neg (by omega)).trans (if_neg (by omega))⟩

theorem polled_hot (c : Channel) (codes : List (BitVec 3)) :
    (7 ∈ codes → (c.polled (worstCode codes)).hot = true) ∧ (7 ∉ codes → (c.polled (worstCode codes)).hot = c.hot) := by
  rw [← worstCode_eq_seven]
  exact ⟨fun h7 => by simp [Channel.polled, h7], fun h7 => by simp [Channel.polled, h7]⟩

theorem mr4Effect_untrained {s : State} {ch : Fin 12} (codes : List (BitVec 3)) (h : s.mem.channels[ch].trained = false) :
    mr4Effect ch codes s = s :=
  if_pos (.inr (by rw [h]; rfl))

theorem mr4Effect_trained {s : State} {ch : Fin 12} {codes : List (BitVec 3)} (hc : codes ≠ [])
    (h : s.mem.channels[ch].trained = true) :
    mr4Effect ch codes s = { s.onChannel ch (Channel.polled (worstCode codes)) with
      stud := if 7 ∈ codes then s.stud.event s.now 0x0501 (srcChannel ch) [] else s.stud } := by
  simp only [← worstCode_eq_seven]
  have hpoll : ¬ (codes.isEmpty = true ∨ (!s.mem.channels[ch].trained) = true) := by
    rw [h]
    simpa using hc
  refine (if_neg hpoll).trans ?_
  exact apply_ite (fun b => ({ s.onChannel ch (Channel.polled (worstCode codes)) with stud := b } : State)) (worstCode codes = 7)
    (s.stud.event s.now 0x0501 (srcChannel ch) []) s.stud |>.symm

/-- Settles O45: a tag that is waited for counts or ends its command as `cutShort_ends` says, and each row of a channel updates that
channel alone. -/
theorem channelsAreKept : Obligations.ChannelsAreKept := by
  refine ⟨fun s pool part e ix n t => ?_, fun s ch w codes t hcodes => ?_⟩
  · intro x starved ok
    have hstarved : _ ↔ starved := starved_iff (s.at t) pool e
    have hok : _ ↔ ok := show (pool.val ≠ 11 ∨ (x.bound ∧ !x.scheduled ∧ !x.gallop)) ↔ ok by
      simp only [ok, Bool.not_eq_true']
    refine ⟨fun hfree => ?_, fun p r cmd hst hp hr hd => ?_⟩
    · by_cases hcounts : ok
      · refine ⟨_, congrArg (done s) ((if_neg (mt hstarved.1 hfree)).trans (if_pos (hok.2 hcounts))), fun _ => ?_,
          fun h => absurd hcounts h, kept_tagWait s (s.at t) _⟩
        rw [commit_mem]
        rfl
      · refine ⟨_, congrArg (done s) ((if_neg (mt hstarved.1 hfree)).trans (if_neg (mt hok.1 hcounts))), fun h => absurd h hcounts,
          fun _ => ?_, kept_commit s rfl⟩
        rw [commit_mem]
        rfl
    · have hd' := (congrArg (List.find? _) (unretired_at s t r e)).trans hd
      obtain ⟨_, _, hstep, _, hrest⟩ := cutShort_ends (st := stTagExhausted) (by decide) (s.at t) cmd hp
      refine ⟨_, congrArg (done s) ((if_pos (hstarved.2 hst)).trans (faultCommand_eq (s := s.at t) stTagExhausted hp hr hd')),
        ?_, { r with
          faults := r.faults ++ [faultOf s e cmd stTagExhausted], retired := r.retired ++ [(e, dIndex cmd)] }, ?_, rfl, rfl⟩
      · rw [commit_mem]
        exact (congrArg (fun z : State => z.mem.tagWait) hrest :)
      · rw [commit_parts, hstep, State.at_parts, hr]
        rfl
  · intro c calm
    have hget (z : State) (hz : z.mem.channels[ch] = c) (f : Channel → Channel) :
        (commit s (z.onChannel ch f)).mem.channels[ch] = f c := by
      rw [commit_mem, ← hz]
      exact onChannel_channel z ch ch f |>.trans (if_pos rfl)
    refine ⟨⟨_, congrArg (done s) (onChannel_if s ch _ (f := fun n x => { x with refreshes := x.refreshes + n }) rfl),
      (hget s rfl _).trans ?_, kept_onChannel s s ch _⟩,
      ⟨_, congrArg (done s) (onChannel_if (s.at t) ch _ (f := fun n x => { x with retrains := x.retrains + n }) rfl),
        hget (s.at t) rfl _, kept_onChannel s (s.at t) ch _⟩, ?_⟩
    · simp only [Bool.and_eq_true, refreshesIn_iff]
      rfl
    · by_cases htrained : c.trained = true
      · have hrun := mr4Effect_trained (s := s.at t) hcodes htrained
        generalize hz : mr4Effect ch codes (s.at t) = z at hrun
        have hchan : (commit s z).mem.channels[ch] = c.polled (worstCode codes) := by
          rw [commit_mem, hrun]
          exact onChannel_channel (s.at t) ch ch _ |>.trans (if_pos rfl)
        have hstud : (commit s z).stud = if 7 ∈ codes then s.stud.event (max s.now t) 0x0501 (srcChannel ch) [] else s.stud := by
          rw [commit_stud, hrun]
          rfl
        refine ⟨_, congrArg (done s) hz, fun h => absurd (htrained.symm.trans h) (by decide), fun _ => ?_, ?_⟩
        · intro Below
          rw [hchan, hstud]
          obtain ⟨honce, htwice, hfour⟩ := polled_refresh c codes
          obtain ⟨hhot, hcool⟩ := polled_hot c codes
          exact ⟨rfl, honce, htwice, hfour, fun h7 => ⟨hhot h7, if_pos h7⟩, fun h7 => ⟨hcool h7, if_neg h7⟩⟩
        · rw [hrun]
          exact kept_commit s (congrArg (fun v => { s.quiet with mem := { s.mem with channels := v } })
            (vmod_hides s.mem.channels ch (Channel.polled (worstCode codes)) _ fun _ => rfl))
      · refine ⟨_, congrArg (done s) (mr4Effect_untrained (s := s.at t) codes (Bool.not_eq_true _ ▸ htrained)), fun _ => ⟨?_, ?_⟩,
          fun h => absurd h htrained, kept_commit s rfl⟩
        · rw [commit_mem]
          rfl
        · rw [commit_stud]
          rfl

end Sys2Proof.Machine

/-! ## A step of a partition whose descriptor has no engines (R261, R344) -/

namespace Sys2Proof.Machine

/-- A MANAGED partition that serves TROT with recipe slot 0, has no engine, and whose PADDOCK_DYN and ARENA_DYN are empty. -/
def enginelessDesc : PartDesc := { partDescOf [] with part := 0, gaits := 4, maxBatch := 1, recipes := [0, 0, 0, 0] }

/-- A recipe of one template, of no engine, that a side's first step runs. -/
def enginelessRecipe : Recipe := { parseRecipe [] [] 0 with layouts := [⟨[0], [], [], []⟩], templates := [⟨5000, 1, 0, 0, 0, 0, []⟩] }

/-- A ready side context of TROT in partition 0. -/
def enginelessContext : Context :=
  { id := 3, state := .ready, gait := 2, part := 0, line := false, fromReserve := false, fallback := false, parent := 3
    reread := false, trunc := false, chainPos := 0, side := 5, sideId := 0, tStart := 0, kvRoots := 0, image := 0, aux := 0
    lastUse := 0, readySince := 0 }

/-- That partition and context on a chip that runs, with Rein A holding the Bridle. -/
def enginelessS : State := { State.reset with
  boot := { Boot.reset with
    running := true, recipes := Boot.reset.recipes.set 0 { RecipeSlot.empty with bound := some enginelessRecipe } }
  bridle := { Bridle.reset with held := true, settled := true, reins := Vector.replicate 2 { Rein.reset with role := .holder } }
  parts := State.reset.parts.set 0 { Partition.reset with desc := some enginelessDesc, bound := true }
  contexts := [enginelessContext] }

/-- The step that STEP_ISSUE forms there when one context needs one unit of scratch in each paddock. -/
def enginelessStep : State := ((enginelessS.at 0).settleOverlay).formStep 0 [(1, 0)]

theorem enginelessStep_scratch : enginelessStep.parts[(0 : Fin 6)].step.map (·.scratch) = some (1, 0) := by decide +kernel

/-- Refutes O34: the scratch of a single context that fits neither PADDOCK_DYN nor ARENA_DYN goes to the work region, what a paddock
needs once for each engine of the descriptor (R261, R344; log entry 121). A descriptor with no engine asks for no room there, and the
step keeps the unit of paddock scratch that PADDOCK_DYN does not hold, where the statement leaves it none. -/
theorem not_stepIsFormedAndIssued : ¬ Obligations.StepIsFormedAndIssued := by
  intro h
  obtain ⟨_, _, hforms⟩ := h enginelessS 0 [(1, 0)] 0
  obtain ⟨_, hissues⟩ := hforms 2 enginelessContext [] enginelessDesc 0 enginelessRecipe 0 ⟨5000, 1, 0, 0, 0, 0, []⟩
    (by decide +kernel) (by decide +kernel) (by decide +kernel) (by decide +kernel) rfl (by decide +kernel) (by decide +kernel)
    (by decide +kernel) rfl (by decide +kernel) (by decide +kernel)
  obtain ⟨u, hu, batch, more, run, _, hcap, hne, _, _, _, hstep, _, _, _, _, _, _, _, _, _, _, _, _, _, _, hspills, _⟩ :=
    hissues (.inr (by decide +kernel))
  have hexec : exec (.stepIssue ⟨0, [(1, 0)]⟩ 0) enginelessS = done enginelessS enginelessStep :=
    congrArg (done enginelessS) (if_pos (by decide +kernel))
  obtain rfl : commit enginelessS enginelessStep = u := Host.Outcome.next.inj (hexec.symm.trans hu)
  have hone : batch.length = 1 := Nat.le_antisymm hcap (List.length_pos_iff.2 hne)
  rw [hone] at hspills
  obtain ⟨hscratch, _⟩ := hspills (by decide +kernel)
  rw [commit_parts] at hstep
  have hkept := enginelessStep_scratch
  rw [hstep, Option.map_some, hscratch] at hkept
  exact absurd hkept (by decide)

end Sys2Proof.Machine

/-! ## What admission and the binding of recipes leave of a rebinding and of the partitions' bindings (R280 to R282) -/

namespace Sys2Proof.Machine

/-- What binds a partition to its place in a plan, and its step. -/
def Partition.bond (x : Partition) := (x.desc, x.bound, x.step, x.rebinding, x.shadow, x.lWorst, x.plan)

/-- What a rebinding has to do with, beside the partitions: boot, the mailbox, itself, the front end's units, and the streams. -/
def State.outer (s : State) := (s.boot, s.host.box, s.rebind, s.ports, s.transports, s.streams)

/-- Both. -/
def State.bonds (s : State) := (s.outer, s.parts.map Partition.bond)

section
variable {s u : State} (h : u.bonds = s.bonds)
include h

theorem bonds_outer : u.outer = s.outer := congrArg Prod.fst h

theorem bonds_part (p : Fin 6) : u.parts[p].bond = s.parts[p].bond := by
  have k : u.bonds.2[p] = s.bonds.2[p] := by rw [h]
  simpa only [State.bonds, Fin.getElem_fin, Vector.getElem_map] using k

end

theorem onPart_bonds (s : State) (p : Fin 6) {f : Partition → Partition} (hf : ∀ x, (f x).bond = x.bond := by exact fun _ => rfl) :
    (s.onPart p f).bonds = s.bonds :=
  congrArg (Prod.mk s.outer) (vmod_map s.parts p f _ hf)

theorem countPart_bonds (s : State) (p : Fin 6) (i k : Nat) : (s.countPart p i k).bonds = s.bonds := onPart_bonds s p

theorem foldl_bonds {α : Type} {f : State → α → State} (l : List α) {s u : State} (hf : ∀ z a, (f z a).bonds = z.bonds)
    (h : s.bonds = u.bonds) : (l.foldl f s).bonds = u.bonds :=
  foldl_keeps (P := fun z : State => z.bonds = u.bonds) (fun z a k => (hf z a).trans k) h

theorem bonds_of_bytesless {s u : State} (h : u.bytesless = s.bytesless) : u.bonds = s.bonds :=
  (congrArg State.bonds h :)

theorem mainPut_bonds (s : State) (a : Nat) (bs : List Byte) : (s.mainPut a bs).bonds = s.bonds := by
  obtain ⟨m, hm, _⟩ := mainPut_eq s a bs
  rw [hm]
  rfl

theorem holdDescriptor_bonds (s : State) (id : Nat) : (s.holdDescriptor id).bonds = s.bonds := by
  obtain ⟨m, hm⟩ := holdDescriptor_eq s id
  rw [hm]
  rfl

theorem freeSide_bonds (s : State) (k : Nat) : (s.freeSide k).bonds = s.bonds := by
  have h := congrArg State.bonds (freeSide_unpooled s k)
  simp only [State.bonds, State.unpooled, Vector.map_map] at h
  exact h

theorem restartSide_bonds (s : State) (k detail : Nat) : (s.restartSide k detail).bonds = s.bonds := by
  unfold State.restartSide
  split
  · rfl
  · next x _ =>
    have hrequeue (z : State) : (z.requeue k).bonds = z.bonds := by
      unfold State.requeue
      split <;> rfl
    exact (hrequeue _).trans ((countPart_bonds _ x.part Part.sidesRestarted 1).trans (freeSide_bonds s k))

theorem buildRoots_bonds (s : State) (p : Fin 6) (k : KvRoot) (lo : Nat) : (s.buildRoots p k lo).1.bonds = s.bonds :=
  foldl_bonds _ (fun z m => (onPart_bonds _ p).trans ((mainPut_bonds _ _ _).trans (mainPut_bonds z _ _))) rfl

theorem switchSide_bonds {s u : State} {c : Context} (h : s.switchSide c = some u) : u.bonds = s.bonds := by
  unfold State.switchSide at h
  split at h
  · split at h
    · cases h
    · split at h
      · cases h
      · next q _ =>
        cases h
        exact (countPart_bonds ((s.onSide c.side _).addStatus c.side 0x0301 q.1) c.part Part.fallbackSwitches 1 :)
  · cases h

theorem settleSwitch_bonds (s : State) (id : Nat) : (s.settleSwitch id).bonds = s.bonds := by
  unfold State.settleSwitch
  split
  · rfl
  · split
    · rfl
    · split <;> rfl

theorem predict_bonds (s : State) (id : Nat) : (s.predict id).bonds = s.bonds := by
  unfold State.predict
  split
  · rfl
  · split
    · split
      · rfl
      · extract_lets rb f
        split
        · split
          · next z hz => exact (settleSwitch_bonds z id).trans (switchSide_bonds hz)
          · exact countPart_bonds s _ _ _
        · rfl
    · rfl

theorem takeContext_bonds (s : State) (w : Waiting) (reserve : Bool) : (s.takeContext w reserve).bonds = s.bonds := by
  unfold State.takeContext
  split
  · rfl
  · extract_lets +onlyGivenNames id
    have hroots : (match s.classFor w.part w.gait.val w.line with
        | some k => s.buildRoots w.part k ((s.kvPlace w.part k w.gait.val w.conforming).getD 0)
        | none => (s, 0)).1.bonds = s.bonds := by
      split
      · exact buildRoots_bonds _ _ _ _
      · rfl
    split
    next z roots hz =>
    have hz' : z.bonds = s.bonds := (congrArg (fun q : State × Nat => q.1.bonds) hz).symm.trans hroots
    extract_lets +onlyGivenNames img fused c y
    have hy : y.bonds = s.bonds := (holdDescriptor_bonds _ id).trans hz'
    split
    · exact hy
    · exact (predict_bonds _ id).trans ((countPart_bonds _ w.part Part.sidesAdmitted 1).trans hy)

theorem admitOne_bonds (s : State) (w : Waiting) : (s.admitOne w).1.bonds = s.bonds := by
  unfold State.admitOne
  split
  · rfl
  · extract_lets out
    split
    · exact takeContext_bonds _ w true
    · exact takeContext_bonds _ w false
    · exact (takeContext_bonds _ w false).trans (restartSide_bonds _ _ 0)
    · rfl
    · unfold State.countFull
      split <;> rfl

theorem admitAll_bonds (s : State) : s.admitAll.bonds = s.bonds := by
  have hloop (l : List Waiting) (blocked : List (Fin 6 × Fin 4 × Bool)) (z : State) : (admitLoop l blocked z).bonds = z.bonds := by
    induction l generalizing blocked z with
    | nil => rfl
    | cons w l ih =>
      have hw := admitOne_bonds z w
      unfold admitLoop
      split
      · exact ih _ _
      · split
        · exact ih _ _
        · split <;> next hz => exact (ih _ _).trans ((congrArg (fun q : State × Bool => q.1.bonds) hz).symm.trans hw)
  unfold State.admitAll
  split
  · exact hloop _ _ s
  · rfl

theorem placeRecipe_bonds (s : State) (p : Fin 6) (slot : Nat) (r : Recipe) : (s.placeRecipe p slot r).1.bonds = s.bonds := by
  unfold State.placeRecipe
  split
  · rfl
  · split
    · rfl
    · split
      · rfl
      · exact (onPart_bonds _ p).trans ((mainPut_bonds _ _ _).trans (mainPut_bonds s _ _))

theorem startAdapters_bonds (s : State) (p : Fin 6) (slot : Nat) (r : Recipe) (new : Nat → Bool) :
    (s.startAdapters p slot r new).bonds = s.bonds := by
  refine foldl_bonds _ (fun z t => ?_) rfl
  refine foldl_keeps (P := fun a : State × List Master => a.1.bonds = z.bonds) (fun a x h => ?_) rfl
  dsimp only
  split
  · exact h
  · split
    · split
      · exact (bonds_of_bytesless (pokeSpace_bytesless a.1 _ _ _ _)).trans h
      · exact h
    · exact h

theorem bindRecipe_bonds (s : State) (p : Fin 6) (slot : Nat) (r : Recipe) (new : Bool) :
    (s.bindRecipe p slot r new).bonds = s.bonds := by
  unfold State.bindRecipe
  extract_lets z
  have hz : z.bonds = s.bonds := placeRecipe_bonds s p slot r
  split
  · exact (startAdapters_bonds z p slot r _).trans hz
  · exact hz

theorem loadResident_bonds (s : State) (e : Fin 7) : (s.loadResident e).bonds = s.bonds :=
  foldl_bonds _ (fun z _ => bonds_of_bytesless (paddockWrite_bytesless z e _ _)) rfl

theorem fillTokens_bonds (s : State) (p : Fin 6) : (s.fillTokens p).bonds = s.bonds := by
  unfold State.fillTokens
  split <;> exact onPart_bonds s p

theorem freshTimes_bonds (s : State) (p : Fin 6) : (s.freshTimes p).bonds = s.bonds :=
  (fillTokens_bonds _ p).trans (onPart_bonds s p)

/-! ## Partitions changed one after another -/

theorem onPart_bond (s : State) (p q : Fin 6) (f : Partition → Partition) :
    (s.onPart p f).parts[q].bond = if p = q then (f s.parts[p]).bond else s.parts[q].bond :=
  (congrArg Partition.bond (vmod_get s.parts p q f)).trans (apply_ite Partition.bond _ _ _)

/-- A change of a partition that does to its bond what it does to any other of that bond. -/
theorem onPart_bonds_congr {s u : State} (p : Fin 6) {f : Partition → Partition} {f' : _ → _} (hf : ∀ x, (f x).bond = f' x.bond)
    (h : u.bonds = s.bonds) : (u.onPart p f).bonds = (s.onPart p f).bonds := by
  have hmap (z : State) : (z.onPart p f).bonds = (z.bonds.1, vmod z.bonds.2 p f') :=
    congrArg (Prod.mk z.outer) (vmod_map_comm z.parts p hf)
  rw [hmap, hmap, h]

/-- Where each step changes the bond of its own partition alone, and to what it makes of that bond, so does the whole. -/
theorem foldl_onPart_bond {f : State → Fin 6 → State} {g : Fin 6 → Partition → Partition}
    (hg : ∀ p x y, x.bond = y.bond → (g p x).bond = (g p y).bond) (hf : ∀ z p, (f z p).bonds = (z.onPart p (g p)).bonds)
    {l : List (Fin 6)} (hl : l.Nodup) (s : State) : (l.foldl f s).outer = s.outer
      ∧ ∀ q, (l.foldl f s).parts[q].bond = if q ∈ l then (g q s.parts[q]).bond else s.parts[q].bond := by
  induction l generalizing s with
  | nil => exact ⟨rfl, fun _ => rfl⟩
  | cons p l ih =>
    obtain ⟨hp, hl⟩ := List.nodup_cons.1 hl
    obtain ⟨houter, hbond⟩ := ih hl (f s p)
    have hstep (q : Fin 6) := (bonds_part (hf s p) q).trans (onPart_bond s p q (g p))
    have hself : (f s p).outer = s.outer := (congrArg Prod.fst (hf s p) :)
    refine ⟨houter.trans hself, fun q => (hbond q).trans ?_⟩
    by_cases hq : p = q
    · subst hq
      rw [if_neg hp, if_pos List.mem_cons_self, hstep, if_pos rfl]
    · have hstay : (f s p).parts[q].bond = s.parts[q].bond := (hstep q).trans (if_neg hq)
      simp only [List.mem_cons, Ne.symm hq, false_or]
      rw [hg q _ _ hstay, hstay]

/-- Where each step leaves the bond of every partition but its own, the whole leaves that of every partition that has no step. -/
theorem foldl_bond_other {f : State → Fin 6 → State}
    (hf : ∀ z p, (f z p).outer = z.outer ∧ ∀ q, q ≠ p → (f z p).parts[q].bond = z.parts[q].bond) (l : List (Fin 6)) (s : State) :
    (l.foldl f s).outer = s.outer ∧ ∀ q, q ∉ l → (l.foldl f s).parts[q].bond = s.parts[q].bond := by
  induction l generalizing s with
  | nil => exact ⟨rfl, fun _ _ => rfl⟩
  | cons p l ih =>
    obtain ⟨houter, hbond⟩ := ih (f s p)
    refine ⟨houter.trans (hf s p).1, fun q hq => ?_⟩
    rw [List.mem_cons, not_or] at hq
    exact (hbond q hq.2).trans ((hf s p).2 q hq.1)

/-! ## A rebinding drained (R280, R281) -/

theorem remounting_eq_false (s : State) :
    s.remounting = false ↔ ∀ (p : Fin 6) (r : StepRun), s.parts[p].step = some r → r.waitRemount = false := by
  simp only [State.remounting, List.any_eq_false, List.mem_finRange, true_implies]
  refine forall_congr' fun p => ?_
  cases s.parts[p].step <;> simp

/-- A partition lost ends its step, and changes no other bond. -/
theorem losePart_bonds (s : State) (p : Fin 6) : (s.losePart p).bonds = (s.onPart p fun x => { x with step := none }).bonds := by
  have hsettle (z : State) : z.spoolSettle.bonds = z.bonds := by
    unfold State.spoolSettle
    split <;> rfl
  refine (hsettle _).trans (onPart_bonds_congr p (f' := fun b => (b.1, b.2.1, none, b.2.2.2)) (fun _ => rfl)
    (foldl_bonds _ (fun z x => ?_) rfl))
  have h : (z.abandonSide x.key 0x0303 4).bonds = z.bonds := freeSide_bonds z x.key
  generalize z.abandonSide x.key 0x0303 4 = w at h ⊢
  exact h

/-- The sides and the step of a partition as it is drained: lost when it will not exist, restarted when its engines change (R280). -/
def State.drainPart (rb : Rebind) (counts : Fin 6 → Nat) (s : State) (p : Fin 6) : State :=
  if !s.parts[p].bound then s
  else if !(rb.verdicts.any fun v => v.1 == p.val) then s.losePart p
  else if counts p ≠ s.parts[p].engines then
    (((s.contextsOf p).map (·.side)).eraseDups).foldl (fun s k => s.restartSide k 1) s
  else s

theorem drainPart_other (rb : Rebind) (counts : Fin 6 → Nat) (s : State) (p : Fin 6) :
    (s.drainPart rb counts p).outer = s.outer ∧ ∀ q, q ≠ p → (s.drainPart rb counts p).parts[q].bond = s.parts[q].bond := by
  unfold State.drainPart
  split
  · exact ⟨rfl, fun _ _ => rfl⟩
  · split
    · have h := losePart_bonds s p
      have houter : (s.losePart p).outer = s.outer := (congrArg Prod.fst h :)
      exact ⟨houter, fun q hq => (bonds_part h q).trans ((onPart_bond s p q _).trans (if_neg hq.symm))⟩
    · split
      · have h := foldl_bonds (((s.contextsOf p).map (·.side)).eraseDups) (fun z k => restartSide_bonds z k 1) (rfl : s.bonds = s.bonds)
        exact ⟨bonds_outer h, fun q _ => bonds_part h q⟩
      · exact ⟨rfl, fun _ _ => rfl⟩

theorem keepEngines_bonds (s : State) (counts : Fin 6 → Nat) : (s.keepEngines counts).bonds = s.bonds :=
  foldl_bonds _ (fun z _ => foldl_bonds (u := z) _ (fun _ _ => rfl) rfl) rfl

theorem growEngines_bonds (s : State) (counts : Fin 6 → Nat) : (s.growEngines counts).bonds = s.bonds := by
  refine foldl_bonds _ (fun z p => ?_) rfl
  generalize 7 = fuel
  induction fuel generalizing z with
  | zero => rfl
  | succ fuel ih =>
    unfold State.growTo
    split
    · split
      · next e _ => exact ih (z.giveEngine e p (z.freeLogical p))
      · rfl
    · rfl

/-- ENGINES of the partitions counted: they are how many engines these have, and nothing else changes (R475). -/
theorem foldl_countEngines (l : List (Fin 6)) (s : State) : ∃ ps : Vector Partition 6,
    l.foldl (fun (s : State) p => s.onPart p fun x => { x with engines := (s.members p).length }) s = { s with parts := ps }
    ∧ ps.map Partition.bond = s.parts.map Partition.bond
    ∧ ∀ p : Fin 6, p ∈ l ∨ s.parts[p].engines = (s.members p).length → ps[p].engines = (s.members p).length := by
  induction l generalizing s with
  | nil => exact ⟨s.parts, rfl, rfl, fun p h => h.resolve_left nofun⟩
  | cons q l ih =>
    obtain ⟨ps, heq, hbonds, hcount⟩ := ih (s.onPart q fun x => { x with engines := (s.members q).length })
    refine ⟨ps, heq, hbonds.trans (vmod_map s.parts q _ _ fun _ => rfl), fun p h => hcount p ?_⟩
    have hget : (s.onPart q fun x => { x with engines := (s.members q).length }).parts[p].engines
        = if q = p then (s.members q).length else s.parts[p].engines :=
      (congrArg Partition.engines (vmod_get s.parts q p _)).trans (apply_ite Partition.engines _ _ _)
    by_cases hq : q = p
    · subst hq
      exact .inr (hget.trans (if_pos rfl))
    · exact h.imp (fun hp => (List.mem_cons.1 hp).resolve_left (Ne.symm hq)) fun hp => (hget.trans (if_neg hq)).trans hp

theorem countEngines_counts (s : State) : s.countEngines.bonds = s.bonds
    ∧ ∀ p : Fin 6, s.countEngines.parts[p].engines = (s.countEngines.members p).length := by
  obtain ⟨ps, heq, hbonds, hcount⟩ := foldl_countEngines (List.finRange 6) s
  have heq : s.countEngines = { s with parts := ps } := heq
  rw [heq]
  exact ⟨congrArg (Prod.mk s.outer) hbonds, fun p => hcount p (.inl (List.mem_finRange p))⟩

/-- The partitions that a rebinding affects. -/
def State.affected (s : State) : List (Fin 6) := (List.finRange 6).filter fun p => s.rebind.affected.contains p.val

theorem mem_affected (s : State) (p : Fin 6) : p ∈ s.affected ↔ p.val ∈ s.rebind.affected := by
  simp [State.affected]

theorem affected_nodup (s : State) : s.affected.Nodup := (List.nodup_finRange 6).filter _

theorem drainedEffect_waits {s : State} {p : Fin 6} (hp : p.val ∈ s.rebind.affected) (hstep : s.parts[p].step ≠ none) :
    drainedEffect s = s :=
  if_pos (.inr (.inl (List.any_eq_true.2 ⟨p, (mem_affected s p).2 hp, Option.isSome_iff_ne_none.2 hstep⟩)))

/-- The partitions of a rebinding drained and their engines moved (R280, R409). -/
def State.drained (s : State) : State :=
  let counts := bindCounts s.rebind.verdicts (s.planAt s.rebind.target)
  (((s.affected.foldl (State.drainPart s.rebind counts) s).keepEngines counts).growEngines counts).countEngines

theorem drained_bonds (s : State) :
    s.drained.outer = s.outer ∧ ∀ p : Fin 6, p ∉ s.affected → s.drained.parts[p].bond = s.parts[p].bond := by
  unfold State.drained
  extract_lets counts
  obtain ⟨houter, hbond⟩ := foldl_bond_other (drainPart_other s.rebind counts) s.affected s
  have h := (countEngines_counts _).1.trans ((growEngines_bonds _ counts).trans
    (keepEngines_bonds (s.affected.foldl (State.drainPart s.rebind counts) s) counts))
  exact ⟨(bonds_outer h).trans houter, fun p hp => (bonds_part h p).trans (hbond p hp)⟩

theorem drainedEffect_drains {s : State} (hstage : s.rebind.stage = .draining) (hacts : s.holderActs = true)
    (hsteps : ∀ p : Fin 6, p.val ∈ s.rebind.affected → s.parts[p].step = none) (hremount : s.remounting = false) :
    drainedEffect s = { s.drained with rebind := { s.drained.rebind with stage := .loading } } := by
  have hany : s.affected.any (fun p => s.parts[p].step.isSome) = false :=
    List.any_eq_false.2 fun p hp => by rw [hsteps p ((mem_affected s p).1 hp)]; decide
  refine if_neg ?_
  rintro (h | h | h | h)
  · exact h hstage
  · exact absurd (h.symm.trans hany) (by decide)
  · exact absurd (h.symm.trans hremount) (by decide)
  · rw [hacts] at h
    cases h

/-! ## A rebinding completed (R280 to R282) -/

/-- A partition as a rebinding leaves it: bound under its descriptor when it has a verdict, otherwise unbound. -/
def Partition.rebound (v : Option (Nat × Nat × Bool)) (d : Option PartDesc) (x : Partition) : Partition :=
  match v, d with
  | some v, some d =>
    { x with
      desc := some d, bound := true, rebinding := false, shadow := v.2.2, lWorst := BitVec.ofNat 32 v.2.1, binding := false
      waitBind := false, nextRecipes := none, images := if (x.desc.map fun e => e.workBase) = some d.workBase then x.images else [] }
  | _, d =>
    { x with
      desc := d, bound := false, rebinding := false, shadow := false, lWorst := 0, binding := false, waitBind := false
      nextRecipes := none, images := [], pools := [], step := none }

theorem rebound_congr (v : Option (Nat × Nat × Bool)) (d : Option PartDesc) {x y : Partition} (h : x.bond = y.bond) :
    (x.rebound v d).bond = (y.rebound v d).bond := by
  simp only [Partition.bond, Prod.mk.injEq] at h
  obtain ⟨-, -, hstep, -, -, -, hplan⟩ := h
  unfold Partition.rebound
  split <;> simp only [Partition.bond, hstep, hplan]

theorem bindPart_bonds (s : State) (p : Fin 6) (d : PartDesc) (lw : Nat) (shadow : Bool) :
    (s.bindPart p d lw shadow).bonds = (s.onPart p (Partition.rebound (some (0, lw, shadow)) (some d))).bonds := by
  unfold State.bindPart
  extract_lets s1 s2 there s3
  have h3 : s3.bonds = s2.bonds := foldl_bonds _ (fun z x => bindRecipe_bonds z p x.1 x.2 _) rfl
  exact (freshTimes_bonds _ p).trans ((foldl_bonds _ loadResident_bonds rfl).trans h3)

/-- A partition bound or unbound under a plan. -/
def State.rebindPart (rb : Rebind) (plan : List (Option PartDesc)) (s : State) (p : Fin 6) : State :=
  match rb.verdicts.find? (fun v => v.1 == p.val), descIn plan p with
  | some v, some d => s.bindPart p d v.2.1 v.2.2
  | _, d => s.unbindPart p d

theorem rebindPart_bonds (rb : Rebind) (plan : List (Option PartDesc)) (s : State) (p : Fin 6) : (s.rebindPart rb plan p).bonds
    = (s.onPart p (Partition.rebound (rb.verdicts.find? fun v => v.1 == p.val) (descIn plan p))).bonds := by
  unfold State.rebindPart
  split
  · next v d hv hd =>
    rw [hv, hd]
    exact bindPart_bonds s p d v.2.1 v.2.2
  · next hnot =>
    have hun : Partition.rebound (rb.verdicts.find? fun v => v.1 == p.val) (descIn plan p) = Partition.rebound none (descIn plan p) := by
      funext x
      unfold Partition.rebound
      split
      · next hv hd => exact (hnot _ _ hv hd).elim
      · rfl
    rw [hun]
    rfl

theorem askBind_bonds (s : State) (p : Fin 6) : (s.askBind p).bonds = s.bonds := by
  unfold State.askBind
  extract_lets z
  have hz : z.bonds = s.bonds := onPart_bonds s p
  split
  · exact hz
  · exact (onPart_bonds z p fun x => by split <;> rfl).trans hz

/-- A partition put under a plan; one that the rebinding does not affect waits for the recipes it has there. -/
def State.replan (target : Nat) (plan : List (Option PartDesc)) (aff : List (Fin 6)) (s : State) (p : Fin 6) : State :=
  let d := descIn plan p
  let s := s.onPart p fun x => { x with plan := target }
  if aff.contains p ∨ s.parts[p].desc = d then s
  else (s.onPart p fun x => { x with nextRecipes := d.map (·.recipes) }).askBind p

theorem replan_bonds (target : Nat) (plan : List (Option PartDesc)) (aff : List (Fin 6)) (s : State) (p : Fin 6) :
    (s.replan target plan aff p).bonds = (s.onPart p fun x => { x with plan := target }).bonds := by
  unfold State.replan
  extract_lets d z
  split
  · rfl
  · exact (askBind_bonds _ p).trans (onPart_bonds z p)

/-- Every affected partition bound or unbound, and every partition put under the plan. -/
def State.bindAll (s : State) : State :=
  (List.finRange 6).foldl (State.replan s.rebind.target (s.planAt s.rebind.target) s.affected)
    (s.affected.foldl (State.rebindPart s.rebind (s.planAt s.rebind.target)) s)

/-- What a partition is bound to once a rebinding has completed. -/
def State.boundAs (s : State) (p : Fin 6) : Partition :=
  let x := s.parts[p]
  { (if p ∈ s.affected then
      x.rebound (s.rebind.verdicts.find? fun v => v.1 == p.val) (descIn (s.planAt s.rebind.target) p) else x) with
    plan := s.rebind.target }

theorem bindAll_bonds (s : State) : s.bindAll.outer = s.outer ∧ ∀ p : Fin 6, s.bindAll.parts[p].bond = (s.boundAs p).bond := by
  have hplan (x y : Partition) (h : x.bond = y.bond) :
      ({ x with plan := s.rebind.target } : Partition).bond = ({ y with plan := s.rebind.target } : Partition).bond := by
    simp only [Partition.bond, Prod.mk.injEq] at h ⊢
    simp only [h, and_self]
  obtain ⟨houter, hbond⟩ := foldl_onPart_bond
    (g := fun p => Partition.rebound (s.rebind.verdicts.find? fun v => v.1 == p.val) (descIn (s.planAt s.rebind.target) p))
    (fun _ _ _ h => rebound_congr _ _ h) (rebindPart_bonds s.rebind (s.planAt s.rebind.target)) (affected_nodup s) s
  obtain ⟨houter', hbond'⟩ := foldl_onPart_bond (g := fun _ x => { x with plan := s.rebind.target }) (fun _ => hplan)
    (replan_bonds s.rebind.target (s.planAt s.rebind.target) s.affected) (List.nodup_finRange 6)
    (s.affected.foldl (State.rebindPart s.rebind (s.planAt s.rebind.target)) s)
  refine ⟨houter'.trans houter, fun p => (hbond' p).trans ((if_pos (List.mem_finRange p)).trans (hplan _ _ ((hbond p).trans ?_)))⟩
  exact (apply_ite Partition.bond _ _ _).symm

/-- The end of a rebinding, before waiting sides are admitted. -/
def State.endRebind (s : State) (verb : Bool) : State :=
  let s := (List.finRange 4).foldl (fun (s : State) t => s.onTransport t fun x => { x with pendBind := true }) s.settleSlotPlans
  let s := { s with rebind := ⟨.idle, 0, [], false, []⟩ }
  if verb then { s with host := { s.host with box := { s.host.box with outcome := some (0, 0) } } } else s

theorem foldl_onTransport_eq (f : Transport → Transport) (l : List (Fin 4)) (s : State) :
    l.foldl (fun (s : State) t => s.onTransport t f) s
      = { s with transports := l.foldl (fun v t => vmod v t f) s.transports } := by
  induction l generalizing s with
  | nil => rfl
  | cons t l ih => exact ih _

theorem endRebind_ends (s : State) (verb : Bool) :
    (s.endRebind verb).parts = s.parts ∧ (s.endRebind verb).rebind = ⟨.idle, 0, [], false, []⟩
    ∧ (∀ n : Fin 4, (s.endRebind verb).transports[n].pendBind = true)
    ∧ (s.endRebind verb).host.box.outcome = if verb then some (0, 0) else s.host.box.outcome := by
  have hpend (n : Fin 4) : ((List.finRange 4).foldl (fun v t => vmod v t fun x : Transport => { x with pendBind := true })
      s.transports)[n].pendBind = true :=
    congrArg Transport.pendBind ((foldl_vmod_get _ _ (List.nodup_finRange 4) s.transports n).trans (if_pos (List.mem_finRange n)))
  unfold State.endRebind
  rw [foldl_onTransport_eq]
  cases verb
  · exact ⟨rfl, rfl, hpend, rfl⟩
  · exact ⟨rfl, rfl, hpend, rfl⟩

theorem completeEffect_waits {s : State} (h : (∃ e : Fin 7, s.engines[e].part ≠ none ∧ s.power.domains.getLsbD e.val = false)
    ∨ s.power.hold ≠ none ∨ s.remounting = true) : completeEffect s = s := by
  refine if_pos ?_
  rcases h with ⟨e, hpart, hoff⟩ | hhold | hremount
  · refine .inr (.inl (List.any_eq_true.2 ⟨e, List.mem_finRange e, ?_⟩))
    rw [hoff, Option.isSome_iff_ne_none.2 hpart]
    rfl
  · exact .inr (.inr (.inr (.inl (Option.isSome_iff_ne_none.2 hhold))))
  · exact .inr (.inr (.inl hremount))

theorem completeEffect_completes {s : State} (hstage : s.rebind.stage = .loading) (hacts : s.holderActs = true)
    (hon : ∀ e : Fin 7, s.engines[e].part ≠ none → s.power.domains.getLsbD e.val = true) (hhold : s.power.hold = none)
    (hremount : s.remounting = false) : completeEffect s = (s.bindAll.endRebind s.rebind.fromVerb).admitAll := by
  have hany : ((List.finRange 7).any fun e => s.engines[e].part.isSome && !s.power.domains.getLsbD e.val) = false :=
    List.any_eq_false.2 fun e _ => by
      rw [Bool.and_eq_true, Option.isSome_iff_ne_none, Bool.not_eq_true']
      exact fun h => absurd (h.2.symm.trans (hon e h.1)) (by decide)
  refine if_neg ?_
  rintro (h | h | h | h | h)
  · exact h hstage
  · exact absurd (h.symm.trans hany) (by decide)
  · exact absurd (h.symm.trans hremount) (by decide)
  · rw [hhold] at h
    cases h
  · rw [hacts] at h
    cases h

/-- What the bond of a partition says, once a rebinding has completed. -/
theorem boundAs_bond {s : State} {p : Fin 6} {x : Partition} (h : x.bond = (s.boundAs p).bond) :
    (∀ v d, p.val ∈ s.rebind.affected → s.rebind.verdicts.find? (fun v => v.1 == p.val) = some v →
      descIn (s.planAt s.rebind.target) p = some d →
      x.bound = true ∧ x.desc = some d ∧ x.lWorst = BitVec.ofNat 32 v.2.1 ∧ x.shadow = v.2.2)
    ∧ (p.val ∈ s.rebind.affected → s.rebind.verdicts.find? (fun v => v.1 == p.val) = none → x.bound = false ∧ x.step = none)
    ∧ x.plan = s.rebind.target ∧ (p.val ∈ s.rebind.affected → x.rebinding = false) := by
  simp only [Partition.bond, Prod.mk.injEq] at h
  obtain ⟨hdesc, hbound, hstep, hrebinding, hshadow, hworst, hplan⟩ := h
  rw [hdesc, hbound, hstep, hrebinding, hshadow, hworst, hplan]
  simp only [State.boundAs, mem_affected]
  refine ⟨fun v d hp hv hd => ?_, fun hp hv => ?_, trivial, fun hp => ?_⟩
  · simp only [if_pos hp, hv, hd, Partition.rebound, and_self]
  · simp only [if_pos hp, hv, Partition.rebound, and_self]
  · rw [if_pos hp]
    unfold Partition.rebound
    split <;> rfl

theorem commit_members (o n : State) (p : Fin 6) : (commit o n).members p = n.members p := by
  simp only [State.members, commit_engines]

/-- What a drained rebinding answers (R280). -/
theorem rebindDrained_answers {s : State} (t : Nat) (hacts : s.holderActs = true) (hstage : s.rebind.stage = .draining)
    (hsteps : ∀ p : Fin 6, p.val ∈ s.rebind.affected → s.parts[p].step = none) (hremount : s.remounting = false) :
    Answers (.rebindDrained t) s fun u =>
      u.rebind = { s.rebind with stage := .loading }
      ∧ (∀ p : Fin 6, u.parts[p].engines = (u.members p).length)
      ∧ (∀ p : Fin 6, p.val ∉ s.rebind.affected → u.parts[p].step = s.parts[p].step)
      ∧ u.boot = s.boot ∧ u.ports = s.ports ∧ u.streams = s.streams := by
  obtain ⟨houter, hbond⟩ := drained_bonds (s.at t)
  have hcounts : ∀ p : Fin 6, (s.at t).drained.parts[p].engines = ((s.at t).drained.members p).length := (countEngines_counts _).2
  have hrun := drainedEffect_drains (s := s.at t) hstage hacts hsteps hremount
  generalize (s.at t).drained = z at houter hbond hcounts hrun
  simp only [State.outer, Prod.mk.injEq] at houter
  obtain ⟨hboot, -, hrebind, hports, -, hstreams⟩ := houter
  refine ⟨_, congrArg (done s) hrun, ?_⟩
  simp only [commit_rebind, commit_parts, commit_members, commit_boot, commit_ports, commit_streams]
  exact ⟨congrArg (fun r : Rebind => { r with stage := .loading }) hrebind, hcounts,
    fun p hp => congrArg (·.2.2.1) (hbond p (mt (mem_affected (s.at t) p).1 hp)), hboot, hports, hstreams⟩

/-- What a loaded rebinding answers (R280 to R282). -/
theorem rebindComplete_answers {s : State} (t : Nat) (hacts : s.holderActs = true) (hstage : s.rebind.stage = .loading)
    (hon : ∀ e : Fin 7, s.engines[e].part ≠ none → s.power.domains.getLsbD e.val = true) (hhold : s.power.hold = none)
    (hremount : s.remounting = false) :
    Answers (.rebindComplete t) s fun u =>
      u.rebind = ⟨.idle, 0, [], false, []⟩ ∧ (∀ p : Fin 6, u.parts[p].bond = (s.boundAs p).bond)
      ∧ (∀ n : Fin 4, u.transports[n].pendBind = true)
      ∧ u.host.box.outcome = if s.rebind.fromVerb then some (0, 0) else s.host.box.outcome := by
  obtain ⟨houter, hbond⟩ := bindAll_bonds (s.at t)
  have hrun := completeEffect_completes (s := s.at t) hstage hacts hon hhold hremount
  generalize (s.at t).bindAll = z at houter hbond hrun
  obtain ⟨hparts, hidle, hpend, houtcome⟩ := endRebind_ends z s.rebind.fromVerb
  have hadmit := admitAll_bonds (z.endRebind s.rebind.fromVerb)
  have hbox : z.host.box = s.host.box := congrArg (·.2.1) houter
  have hrest := bonds_outer hadmit
  simp only [State.outer, Prod.mk.injEq] at hrest
  obtain ⟨-, hbox', hrebind, -, htransports, -⟩ := hrest
  refine ⟨_, congrArg (done s) hrun, ?_⟩
  simp only [commit_rebind, commit_parts, commit_transports, commit_box_outcome, State.at_rebind]
  rw [hrebind, hbox', ← hbox]
  exact ⟨hidle, fun p => (bonds_part hadmit p).trans ((congrArg (·[p].bond) hparts).trans (hbond p)),
    fun n => (congrArg (·[n].pendBind) htransports).trans (hpend n), houtcome⟩

/-- Settles O36: what drains a partition changes no bond but its own and leaves the rebinding (`drained_bonds`); what completes it binds
each partition as `State.boundAs` says (`bindAll_bonds`), and the admission afterwards changes no bond (`admitAll_bonds`). -/
theorem rebindingDrainsThenBinds : Obligations.RebindingDrainsThenBinds := by
  intro s t hacts rb plan
  refine ⟨fun hstage => ⟨fun ⟨p, hp, hstep⟩ => ?_, fun hsteps hremount => ?_⟩,
    fun hstage => ⟨fun hwait => ?_, fun hon hhold hremount => ?_⟩⟩
  · exact ⟨_, congrArg (done s) (drainedEffect_waits (s := s.at t) hp hstep), kept_commit s rfl⟩
  · exact rebindDrained_answers t hacts hstage hsteps ((remounting_eq_false s).2 hremount)
  · have hwait : (∃ e : Fin 7, s.engines[e].part ≠ none ∧ s.power.domains.getLsbD e.val = false) ∨ s.power.hold ≠ none
        ∨ s.remounting = true := hwait.imp_right <| Or.imp_right fun ⟨p, r, hr, hw⟩ => Bool.of_not_eq_false fun hno =>
      absurd (hw.symm.trans ((remounting_eq_false s).1 hno p r hr)) (by decide)
    exact ⟨_, congrArg (done s) (completeEffect_waits (s := s.at t) hwait), kept_commit s rfl⟩
  · obtain ⟨u, hu, hidle, hbond, hpend, houtcome⟩ :=
      rebindComplete_answers t hacts hstage hon hhold ((remounting_eq_false s).2 hremount)
    have hpart (p : Fin 6) := boundAs_bond (hbond p)
    exact ⟨u, hu, hidle, fun p v d hp hv hd => (hpart p).1 v d hp hv hd, fun p hp hv => (hpart p).2.1 hp hv,
      fun p => (hpart p).2.2, hpend, houtcome⟩

end Sys2Proof.Machine
